-- ==== Sys2Proof/Word.lean ====
section
/-! DEFINITION. The machine's words and the sparse maps that hold its registers and memory. -/

namespace Sys2Proof

/-- One byte (00 R4). -/
abbrev Byte := BitVec 8
/-- A vector register word, 32 bits per lane (06 R150). -/
abbrev W32 := BitVec 32
/-- A scalar register, an address or an instruction word (02 R53, 05 R130). -/
abbrev W64 := BitVec 64

/-- Sparse data: pairs of key and value with rising keys and no entry equal to the default. -/
abbrev Sparse (α : Type) := List (Nat × α)

end Sys2Proof
end

