-- ==== Sys2Proof/Config.lean ====
section
/-! DEFINITION. What an implementation fixes and what the spec leaves free: opaque constants without a body, so that
nothing can evaluate them (DESIGN CHOICE, log 1, 2, 3, 4). -/

namespace Sys2Proof

/-- Which of the agents that may move next does move (DESIGN CHOICE, log 1), applied to `State.tick`. -/
opaque Config.choose : Nat → Nat
/-- Core cycles that pass in a step beyond the one it takes (DESIGN CHOICE, log 2). -/
opaque Config.elapsed : Nat → Nat
/-- Cycles that a core has counted in its first step beyond those of `State.clock`: counters of different cores are
unrelated (00 R8; DESIGN CHOICE, log 2). -/
opaque Config.coreSkew : Nat → Nat
/-- Cycles that a die's dispatcher counter is ahead of the package's: counters of different dies are unrelated (00 R8; DESIGN CHOICE,
log 2). -/
opaque Config.dieSkew : Nat → Nat
/-- For an uncovered read or write, whether the later value stands, per word (05 R133; DESIGN CHOICE, log 3). -/
opaque Config.freeBit : Nat → Nat → Bool
/-- The bit of the own-write filter that a line sets: the spec gives no hash (04 R96; DESIGN CHOICE, log 4). -/
opaque Config.filterHash : Nat → Nat
/-- The order in which the additions of an add.f32 collective are paired without the deterministic bit (12 R298; DESIGN CHOICE, log 6). -/
opaque Config.sumTree : Nat → Nat → Nat
/-- Seeds of the ML-DSA-87 keys that a part holds or makes: 0 the identity key, n + 1 the attestation key of its n-th start
(24 R419; DESIGN CHOICE, log 7). -/
opaque Config.secretSeed : Nat → List (BitVec 8)
/-- The seed of the maker's root key (24 R418; DESIGN CHOICE, log 7). -/
opaque Config.rootSeed : List (BitVec 8)
/-- The random bytes of a key's signatures: the spec names no variant of signing (24 R419; DESIGN CHOICE, log 7). -/
opaque Config.signBytes : Nat → List (BitVec 8)
/-- What the identity certificate says beside the identity key's public part (24 R419; DESIGN CHOICE, log 7). -/
opaque Config.certHead : List (BitVec 8)

/-- The linear block index of a handler wave's own block: the spec gives it none (07 R211; DESIGN CHOICE, log 11). -/
opaque Config.freeIndex : Nat → BitVec 32
/-- A 64-bit result that the spec leaves open (DESIGN CHOICE, log 12). -/
opaque Config.freeWord : Nat → BitVec 64

end Sys2Proof
end

