-- ==== Sys2Proof/Syntax.lean ====
section
/-! DEFINITION. The instructions and the device's steps: one constructor per row of spec/opcode_table.json, the raw
fields of the 64-bit word as 05 R130 and R140 give them, and the data a device's step names. -/

namespace Sys2Proof

/-- The control fields every instruction word carries, bits [53:36] (05 R130). -/
structure Ctl where
  stall : BitVec 4
  sig   : BitVec 4
  hold  : BitVec 2
  guard : BitVec 7
  neg   : BitVec 1
  deriving DecidableEq, Repr

/-- The three-operand form: D, A, B and modifier (05 R130). -/
structure F where
  ctl : Ctl
  d   : BitVec 10
  a   : BitVec 10
  b   : BitVec 10
  m   : BitVec 6
  deriving DecidableEq, Repr

/-- The I16 immediate form (05 R140). -/
structure F16 where
  ctl : Ctl
  d   : BitVec 10
  a   : BitVec 10
  imm : BitVec 16
  deriving DecidableEq, Repr

/-- The I32 immediate form with the 4-bit destination D4 (05 R140). -/
structure F32 where
  ctl : Ctl
  d4  : BitVec 4
  imm : BitVec 32
  deriving DecidableEq, Repr

/-- A wave by logical core, block slot and wave number within the block (01 R27, 02 R66). -/
structure WaveId where
  core : Nat
  slot : Nat
  wave : Nat
  deriving DecidableEq, Repr

/-- A request reaching a pseudo-channel: class, deadline budget, source die and port, bank and a tag (23 R403); the line that it
concerns and whether it writes it (11 R293); the bytes that go back, the phase and the deterministic bit of its packet. -/
structure ChanReq where
  cls    : Nat
  budget : Nat
  die    : Nat
  port   : Nat
  bank   : Nat
  tag    : Nat
  line   : Nat := 0
  write  : Bool := false
  back   : Nat := 0
  phase  : Bool := false
  det    : Bool := false
  deriving DecidableEq, Repr

/-- What a packet brings, beyond its header: a request for a pseudo-channel, or for memory that no channel holds; the answer to
one, with its miss bit (23 R404); or what acts by a step of its own. -/
inductive Carried where
  | other
  | request (pc : Option Nat) (r : ChanReq)
  | answer (miss : Bool)
  deriving DecidableEq, Repr

/-- A burst on a stack interface whose CRC failed `failures` times in succession (23 R406): the 8-byte unit it
carries and whether it reads. -/
structure Burst where
  failures : Nat
  addr     : Nat
  read     : Bool
  deriving DecidableEq, Repr

/-- A packet: the header of 23 R393, `tag` naming its destination's port, and what it carries. -/
structure Packet where
  dstFab  : Nat
  srcFab  : Nat
  dstDie  : Nat
  srcDie  : Nat
  srcPort : Nat
  seq     : Nat
  cls     : Nat
  phase   : Bool
  esc     : Bool
  det     : Bool
  flits   : Nat
  turns   : List Nat
  kind    : Nat
  tag     : Nat
  load    : Carried := .other
  deriving DecidableEq, Repr

/-- A flit on a link (23 R394): its trailer fields, whether its CRC is good, and the packet it completes, if any. -/
structure Flit where
  seq      : Nat
  acked    : Nat
  ackValid : Bool
  nak      : Bool
  crcOk    : Bool
  packet   : Option Packet
  deriving DecidableEq, Repr

/-- An active message on its way (07 R210, R211): `since` is when it was sent, and in a queue counts its aging, and `came` is when it arrived at its die (20 R347). -/
structure Message where
  handler  : BitVec 64
  budget   : Nat
  arg      : BitVec 16
  payload  : List (BitVec 32)
  sender   : WaveId
  launch   : Nat
  uid      : Nat
  tenant   : Nat
  asid     : Nat
  priv     : Bool
  priority : Nat
  phase    : Nat
  sig      : Nat
  level    : Nat
  since    : Nat
  came     : Nat := 0
  deriving DecidableEq, Repr

/-- A firmware image as the boot ROM reads it (24 R418). -/
structure Image where
  key  : List (BitVec 8)
  sign : List (BitVec 8)
  body : List (BitVec 8)
  deriving DecidableEq, Repr

/-- What a start meets (24 R416, R417): firmware images, fused-out physical cores (die * 528 + core), stack interfaces
and die-to-die ports (die * 16 + port - 192) that fail training, and the step of the start in which the next reset arrives. -/
structure StartInput where
  images    : List Image
  badCores  : List Nat
  badStacks : List Nat
  badLinks  : List Nat
  cut       : Option Nat := none
  deriving DecidableEq, Repr

/-- The rows of spec/opcode_table.json: instructions with a 64-bit word, then the device's steps. -/
inductive Instr where
  /-- ILLEGAL: Opcode 0x000, or any code outside the assigned classes, has no effect and raises ILLEGAL_OP. (R144) -/
  | illegal (w : BitVec 64)
  /-- VADD: Adds A and B in each participating lane, as integers (with optional saturation) or as floats rounded once. (R154) -/
  | vadd (f : F)
  /-- VSUB: Subtracts B from A in each participating lane, as integers (with optional saturation) or as floats. (R154) -/
  | vsub (f : F)
  /-- VMUL: Writes the low 32 bits of the integer product, or the rounded float product. (R154) -/
  | vmul (f : F)
  /-- VMULHI: Writes bits 63:32 of the 64-bit product of A and B. (R154) -/
  | vmulhi (f : F)
  /-- VMAD: Writes the low 32 bits of A times B plus D. (R154) -/
  | vmad (f : F)
  /-- VDIV: Divides A by B, rounding toward zero for integers or correctly for FP32; an integer zero divisor raises ARITH. (R155) -/
  | vdiv (f : F)
  /-- VREM: Writes the integer remainder of A by B, with the sign of A; a zero divisor raises ARITH. (R154) -/
  | vrem (f : F)
  /-- VMIN: Writes the smaller of A and B per lane, with floats ordered as R164 states. (R154) -/
  | vmin (f : F)
  /-- VMAX: Writes the larger of A and B per lane, with floats ordered as R164 states. (R154) -/
  | vmax (f : F)
  /-- VABS: Writes the absolute value of A. (R154) -/
  | vabs (f : F)
  /-- VNEG: Writes the negation of A. (R154) -/
  | vneg (f : F)
  /-- VFMA: Writes A times B plus D, rounded once into the float type. (R163) -/
  | vfma (f : F)
  /-- VADDI: Adds the sign-extended 16-bit immediate to A. (R154) -/
  | vaddi (f : F16)
  /-- VMULI: Multiplies A by the sign-extended 16-bit immediate. (R154) -/
  | vmuli (f : F16)
  /-- VSHLADD: Writes A times 2^s plus B, with s taken from the modifier. (R154) -/
  | vshladd (f : F)
  /-- VAND: Writes the bitwise AND of A and B. (R156) -/
  | vand (f : F)
  /-- VOR: Writes the bitwise OR of A and B. (R156) -/
  | vor (f : F)
  /-- VXOR: Writes the bitwise XOR of A and B. (R156) -/
  | vxor (f : F)
  /-- VNOT: Writes the bitwise NOT of A. (R156) -/
  | vnot (f : F)
  /-- VSHL: Shifts A left by B bits. (R156) -/
  | vshl (f : F)
  /-- VSHR: Shifts A right logically by B bits. (R156) -/
  | vshr (f : F)
  /-- VSAR: Shifts A right arithmetically by B bits. (R156) -/
  | vsar (f : F)
  /-- VROT: Rotates A left by B mod 32 bits. (R156) -/
  | vrot (f : F)
  /-- VPOPC: Counts the one bits of A. (R156) -/
  | vpopc (f : F)
  /-- VCLZ: Counts the leading zero bits of A. (R156) -/
  | vclz (f : F)
  /-- VCTZ: Counts the trailing zero bits of A. (R156) -/
  | vctz (f : F)
  /-- VBREV: Reverses the bits of A. (R156) -/
  | vbrev (f : F)
  /-- VBFX: Extracts a bit field of A, with position and width from B, and extends it. (R157) -/
  | vbfx (f : F)
  /-- VBFI: Inserts the low bits of A into a field of D. (R157) -/
  | vbfi (f : F)
  /-- VANDI: ANDs A with the zero-extended 16-bit immediate. (R156) -/
  | vandi (f : F16)
  /-- VORI: ORs A with the zero-extended 16-bit immediate. (R156) -/
  | vori (f : F16)
  /-- VCMP: Compares A with B under a type and a condition, and writes a predicate. (R158) -/
  | vcmp (f : F)
  /-- VCMPI: Compares A with a signed 13-bit immediate, and writes a predicate. (R159) -/
  | vcmpi (f : F16)
  /-- PAND: Writes the AND of two predicates. (R160) -/
  | pand (f : F)
  /-- POR: Writes the OR of two predicates. (R160) -/
  | por (f : F)
  /-- PXOR: Writes the XOR of two predicates. (R160) -/
  | pxor (f : F)
  /-- PNOT: Writes the inverse of a predicate. (R160) -/
  | pnot (f : F)
  /-- PMOV: Copies a predicate, or sets it to 0 or 1. (R160) -/
  | pmov (f : F)
  /-- VPRD: Writes 1 or 0 into a vector register from a predicate. (R160) -/
  | vprd (f : F)
  /-- VSEL: Selects A or B per lane by predicate pN. (R161) -/
  | vsel (f : F)
  /-- VMOV: Copies A to D. (R162) -/
  | vmov (f : F)
  /-- VMOVI: Writes a 32-bit immediate to v0–v15. (R162) -/
  | vmovi (f : F32)
  /-- VMOVL: Writes a 16-bit immediate into the low half of D. (R162) -/
  | vmovl (f : F16)
  /-- VMOVH: Writes a 16-bit immediate into the high half of D. (R162) -/
  | vmovh (f : F16)
  /-- VCLASS: Writes a mask that names the float class of A. (R167) -/
  | vclass (f : F)
  /-- VEXP2: Writes 2^A, correctly rounded to FP32. (R165) -/
  | vexp2 (f : F)
  /-- VLOG2: Writes log2 of A, correctly rounded to FP32. (R165) -/
  | vlog2 (f : F)
  /-- VRCP: Writes 1/A, correctly rounded to FP32. (R165) -/
  | vrcp (f : F)
  /-- VRSQ: Writes the reciprocal square root of A, correctly rounded to FP32. (R165) -/
  | vrsq (f : F)
  /-- VRND: Rounds A to an integral value in its own type. (R166) -/
  | vrnd (f : F)
  /-- VCVT: Converts an element from one format slot into another, with one rounding. (R168) -/
  | vcvt (f : F)
  /-- VCVTI: Converts between the integer and float lane types. (R169) -/
  | vcvti (f : F)
  /-- VPACK: Packs halves, bytes or nibbles of A and B into D. (R170) -/
  | vpack (f : F)
  /-- VUNPK: Unpacks packed elements of A into wider containers. (R170) -/
  | vunpk (f : F)
  /-- VSHFL: Gives each lane the A value of a source lane chosen by mode and B. (R171) -/
  | vshfl (f : F)
  /-- VBALLOT: Writes the mask of participating lanes in which a predicate is set. (R173) -/
  | vballot (f : F)
  /-- VRED: Reduces A over the participating lanes and writes the result to the lanes or to a scalar. (R174) -/
  | vred (f : F)
  /-- VMINIDX: Writes the smallest A value and the lane that holds it. (R175) -/
  | vminidx (f : F)
  /-- VMAXIDX: Writes the largest A value and the lane that holds it. (R175) -/
  | vmaxidx (f : F)
  /-- VFOLD: Starts a lane reduction whose result is stamped into the fold register 12 cycles later. (R176) -/
  | vfold (f : F)
  /-- VBCST: Broadcasts lane k's A value to every participating lane. (R172) -/
  | vbcst (f : F)
  /-- VTOPK: Forms the rank-ordered top k of the lanes' candidates. (R268) -/
  | vtopk (f : F)
  /-- VTOPKM: Merges two candidate lists into their rank-ordered top k. (R269) -/
  | vtopkm (f : F)
  /-- VSMX: Computes the softmax partial and the exponentials over the participating lanes. (R271) -/
  | vsmx (f : F)
  /-- VSMXM_LANE: Merges two softmax partials in each participating lane. (R272) -/
  | vsmxmLane (f : F)
  /-- VSMXM_WAVE: Folds the participating lanes' partials in lane order into one partial. (R272) -/
  | vsmxmWave (f : F)
  /-- SAMPLE: Draws one index from a candidate list with temperature, top-p and a uniform draw. (R274) -/
  | sample (f : F)
  /-- VRAND: Computes one counter-based random value per lane, optionally as a uniform FP32. (R275) -/
  | vrand (f : F)
  /-- NSRD: Reads NSTAT into a scalar once earlier NSTAT setters have completed. (R178) -/
  | nsrd (f : F)
  /-- NSCLR: Clears the NSTAT bits named by A. (R178) -/
  | nsclr (f : F)
  /-- SADD: Adds two scalars, wrapping. (R179) -/
  | sadd (f : F)
  /-- SSUB: Subtracts two scalars, wrapping. (R179) -/
  | ssub (f : F)
  /-- SMUL: Writes the low bits of a scalar product. (R179) -/
  | smul (f : F)
  /-- SMULHI: Writes the high half of a scalar product. (R179) -/
  | smulhi (f : F)
  /-- SDIV: Divides two scalars; a zero divisor raises ARITH. (R180) -/
  | sdiv (f : F)
  /-- SREM: Writes a scalar remainder; a zero divisor raises ARITH. (R180) -/
  | srem (f : F)
  /-- SMIN: Writes the smaller of two scalars. (R179) -/
  | smin (f : F)
  /-- SMAX: Writes the larger of two scalars. (R179) -/
  | smax (f : F)
  /-- SAND: Writes the bitwise AND of two scalars. (R179) -/
  | sand (f : F)
  /-- SOR: Writes the bitwise OR of two scalars. (R179) -/
  | sor (f : F)
  /-- SXOR: Writes the bitwise XOR of two scalars. (R179) -/
  | sxor (f : F)
  /-- SNOT: Writes the bitwise NOT of a scalar. (R179) -/
  | snot (f : F)
  /-- SSHL: Shifts a 64-bit scalar left. (R179) -/
  | sshl (f : F)
  /-- SSHR: Shifts a 64-bit scalar right logically. (R179) -/
  | sshr (f : F)
  /-- SSAR: Shifts a 64-bit scalar right arithmetically. (R179) -/
  | ssar (f : F)
  /-- SPOPC: Counts the one bits of a scalar. (R179) -/
  | spopc (f : F)
  /-- SCLZ: Counts the leading zeros of a scalar. (R179) -/
  | sclz (f : F)
  /-- SCTZ: Counts the trailing zeros of a scalar. (R179) -/
  | sctz (f : F)
  /-- SCMP: Compares two scalars and writes 1 or 0. (R179) -/
  | scmp (f : F)
  /-- SSEL: Writes A if sD is nonzero, else B. (R179) -/
  | ssel (f : F)
  /-- SMOV: Copies A into a scalar. (R179) -/
  | smov (f : F)
  /-- SMOVI: Writes a sign-extended 32-bit immediate into s0–s15. (R179) -/
  | smovi (f : F32)
  /-- SMOVL: Writes a 16-bit immediate into bits 47:32 of a scalar. (R179) -/
  | smovl (f : F16)
  /-- SMOVH: Writes a 16-bit immediate into bits 63:48 of a scalar. (R179) -/
  | smovh (f : F16)
  /-- SADDI: Adds a sign-extended 16-bit immediate to a scalar. (R179) -/
  | saddi (f : F16)
  /-- SFOLD: Waits until the fold sequence number matches, then copies the fold register into a scalar. (R177) -/
  | sfold (f : F)
  /-- LD: Loads from memory per lane, through the block's journal or home, into vector registers. (R187) -/
  | ld (f : F)
  /-- ST: Stores per lane into the block's journal. (R187) -/
  | st (f : F)
  /-- LDC: Loads from the common area or tile area. (R188) -/
  | ldc (f : F)
  /-- STC: Stores into the common area or tile area. (R188) -/
  | stc (f : F)
  /-- ATOM: Sends a returning atomic per lane to the home atomic unit. (R189) -/
  | atom (f : F)
  /-- RED: Sends a non-returning atomic reduction per lane to home or to a reduction window. (R189) -/
  | red (f : F)
  /-- ALD: Loads from home through the request engine into thread registers, with an optional barrier credit. (R193) -/
  | ald (f : F)
  /-- KICK: Starts a request-engine copy described by a common-area descriptor. (R194) -/
  | kick (f : F)
  /-- GATH: Starts an indexed gather of rows from memory into register space. (R195) -/
  | gath (f : F)
  /-- FEXP: Exports a window of the wave's registers and returns a Frond handle. (R197) -/
  | fexp (f : F)
  /-- FREV: Revokes every handle of the wave by advancing its Frond generation. (R198) -/
  | frev (f : F)
  /-- FRD: Reads one register through a Frond handle. (R199) -/
  | frd (f : F)
  /-- FWR: Writes one register through a Frond handle. (R199) -/
  | fwr (f : F)
  /-- FENCE: Writes a fence token and, at scope die or wider, forces lazy loads and seals the journal. (R200) -/
  | fence (f : F)
  /-- FWAIT: Waits until every access that the token covers has performed. (R201) -/
  | fwait (f : F)
  /-- BINIT: Initialises a barrier object with an expected count. (R203) -/
  | binit (f : F)
  /-- BARV: Arrives at a barrier object and returns its phase. (R203) -/
  | barv (f : F)
  /-- BCNT: Adds to a barrier object's byte count. (R203) -/
  | bcnt (f : F)
  /-- BWAIT: Waits until a barrier's phase differs from A. (R203) -/
  | bwait (f : F)
  /-- PHREG: Registers the wave as a member of a phaser. (R206) -/
  | phreg (f : F)
  /-- PHDROP: Drops the wave's phaser membership, signalling for phases it has not signalled. (R206) -/
  | phdrop (f : F)
  /-- PHSIG: Publishes, then signals a phaser. (R206) -/
  | phsig (f : F)
  /-- PHWAIT: Waits until a phaser's phase has passed a given value. (R206) -/
  | phwait (f : F)
  /-- PHADV: Signals a phaser, then waits for the signalled phase to advance. (R206) -/
  | phadv (f : F)
  /-- EVRD: Removes the oldest event record of the block's queue into a scalar. (R196) -/
  | evrd (f : F)
  /-- SQREG: Registers or releases a Frond ring with a stage-queue object. (R207) -/
  | sqreg (f : F)
  /-- SQPUSH_RES: Reserves the slot at the ring's push position for pushing. (R208) -/
  | sqpushRes (f : F)
  /-- SQPUSH_COM: Waits for the wave's earlier FWRs, then marks a slot filled, optionally end of stream. (R208) -/
  | sqpushCom (f : F)
  /-- SQPOP_RES: Reserves the oldest filled slot for popping. (R208) -/
  | sqpopRes (f : F)
  /-- SQPOP_COM: Frees a slot that was reserved for popping. (R208) -/
  | sqpopCom (f : F)
  /-- SQSTAT: Reads the state counts of a stage-queue object. (R209) -/
  | sqstat (f : F)
  /-- AMSEND: Sends an active message with a 128-byte payload to a core of the package. (R210) -/
  | amsend (f : F)
  /-- CSEG: Carves a swizzled segment from the block's common area and reports its offset or a failure. (R63) -/
  | cseg (f : F16)
  /-- NOP: Does nothing. (R222) -/
  | nop (f : F)
  /-- BRA: Branches every participating lane to an immediate target. (R215) -/
  | bra (f : F32)
  /-- BRANY: Branches all participating lanes if a predicate is set in any of them. (R215) -/
  | brany (f : F32)
  /-- BRALL: Branches all participating lanes if a predicate is set in all of them. (R215) -/
  | brall (f : F32)
  /-- BRS: Branches on a scalar being zero or nonzero. (R215) -/
  | brs (f : F32)
  /-- JMPI: Jumps each lane to its own register target. (R215) -/
  | jmpi (f : F)
  /-- MEET_LABEL: Sets the meeting register of each participating lane to an immediate address. (R216) -/
  | meetLabel (f : F32)
  /-- MEET_REGISTER: Sets the meeting register of each participating lane from a register pair. (R216) -/
  | meetRegister (f : F32)
  /-- MEET_NONE: Sets the meeting register of each participating lane to none. (R216) -/
  | meetNone (f : F32)
  /-- CALL: Checks the function header, writes link registers and moves lanes to the function. (R218) -/
  | call (f : F32)
  /-- CALLI: Calls per-lane targets after checking every header, serving groups lowest target first. (R219) -/
  | calli (f : F)
  /-- RET: Moves each lane to its return target, where it may be held. (R220) -/
  | ret (f : F)
  /-- EXIT: Ends every participating thread. (R221) -/
  | exit (f : F)
  /-- LAUNCH: Submits a launch record from home to the die's dispatcher and returns a handle. (R223) -/
  | launch (f : F)
  /-- LAUNCHT: Submits a tail launch to the home die, which starts once the issuing launch is complete. (R225) -/
  | launcht (f : F)
  /-- JOIN: Waits for a device launch to complete and returns its counts and status. (R226) -/
  | join (f : F)
  /-- YIELD: Acts as a yield point, or waits until the whole block yields and ends the job slice. (R229) -/
  | yield (f : F)
  /-- TRAP: Raises TRAP_INSTR with a 16-bit code. (R231) -/
  | trap (f : F16)
  /-- BREAK: Raises BREAK with a 16-bit code. (R231) -/
  | breakI (f : F16)
  /-- TCLR: Clears the TCAUSE bits named by A. (R234) -/
  | tclr (f : F)
  /-- TRET: Ends the handler: re-enters it, or restores state, re-issues logged accesses and resumes. (R235) -/
  | tret (f : F)
  /-- TDESC: Forces the tile's readers and producer, then writes its descriptor. (R242) -/
  | tdesc (f : F)
  /-- TLD: Appends a lazy node that defines a tile as a copy of memory. (R251) -/
  | tld (f : F)
  /-- TMMA: Appends a lazy matrix-multiply node, optionally accumulating. (R252) -/
  | tmma (f : F)
  /-- TEW: Appends a lazy element-wise binary node. (R253) -/
  | tew (f : F)
  /-- TMAP: Appends a lazy element-wise function node. (R254) -/
  | tmap (f : F)
  /-- TRED: Appends a lazy reduction node along rows or columns. (R255) -/
  | tred (f : F)
  /-- TCVT: Appends a lazy conversion node into the destination's format. (R256) -/
  | tcvt (f : F)
  /-- TFORCE: Forces the named subtiles of a tile and holds the wave until they are valid. (R258) -/
  | tforce (f : F)
  /-- TST: Forces the named subtiles and stores them to memory as an engine operation. (R261) -/
  | tst (f : F)
  /-- TGROW: Asks the core's allocator for more tile-area rows and reports the size or a failure. (R64) -/
  | tgrow (f : F16)
  /-- SQRY: Posts one attention query to the Sieves of a pseudo-channel, or is rejected whole. (R282) -/
  | sqry (f : F)
  /-- SAPP: Appends a key's K and V rows into a compute-capable page. (R291) -/
  | sapp (f : F)
  /-- SMRG: Merges Sieve records into one softmax triple in registers, optionally normalised. (R290) -/
  | smrg (f : F)
  /-- XRED: Reduces the participants' sources into the root's destination. (R297) -/
  | xred (f : F)
  /-- XALL: Reduces the participants' sources into every participant's destination. (R297) -/
  | xall (f : F)
  /-- XGATH: Gathers every participant's source into every participant's destination. (R297) -/
  | xgath (f : F)
  /-- XBCST: Broadcasts the root's source to every participant. (R297) -/
  | xbcst (f : F)
  /-- XBAR: Synchronises the participants, optionally with replica agreement. (R297) -/
  | xbar (f : F)
  /-- SYSRD: Reads the system register that a selector names. (R326) -/
  | sysrd (f : F)
  /-- SYSWR: Writes a system register that a selector names; registers without behaviour of their own are simply written. (R326) -/
  | syswr (f : F)
  /-- ASINV: Discards held translations and instruction lines of one or all ASIDs, completing after their accesses. (R326) -/
  | asinv (f : F)
  /-- KILLB: Terminates a named block as killed. (R334) -/
  | killb (f : F)
  /-- CTXSV: Saves a named block to a context area. (R326) -/
  | ctxsv (f : F)
  /-- CTXLD: Checks a saved context and places it on a named core. (R368) -/
  | ctxld (f : F)
  /-- REMAP: Maps a logical core to a physical core of its die. (R326) -/
  | remap (f : F)
  /-- WSTAT_WRITE: A write to WSTAT clears its sticky bits and, by clearing overrun stop, resumes a stopped wave. (R328) -/
  | wstatWrite (w : WaveId) (v : BitVec 64)
  /-- RPCMD_REGISTER: Registers a REPLICA page and adds its line terms to the tenant's digest. (R382) -/
  | rpcmdRegister (v : BitVec 64)
  /-- RPCMD_REMOVE: Removes a REPLICA page and subtracts its line terms from the tenant's digest. (R382) -/
  | rpcmdRemove (v : BitVec 64)
  /-- CLAUSE_ISSUE: An issue slot starts or resumes a clause of a ready wave whose wait mask is satisfied. (R127) -/
  | clauseIssue (core : Nat)
  /-- ICACHE_FILL: A clause fetch miss is filled from home into the core's instruction cache. (R377) -/
  | icacheFill (core asid line : Nat)
  /-- TRANSLATION_WALK: A page-table walk completes and its translation is checked under R374. (R373) -/
  | translationWalk (w : WaveId) (entry : Nat)
  /-- FIXED_LATENCY_WRITEBACK: A fixed-latency result is written and its completion flag counts down. (R128) -/
  | fixedLatencyWriteback (w : WaveId)
  /-- VFOLD_STAMP: The fold result is written with its sequence number, and a matching SFOLD takes it. (R176) -/
  | vfoldStamp (w : WaveId)
  /-- LOAD_RESPONSE: A load or atomic return lands, clearing pending bits and counting down its flag. (R185) -/
  | loadResponse (w : WaveId) (entry : Nat)
  /-- OPERAND_LOG_FAULT: A fault found after issue returns through the operand log and is raised at the holding access. (R184) -/
  | operandLogFault (w : WaveId) (entry : Nat)
  /-- ATOMIC_AT_HOME: An atomic executes at its home channel's atomic unit in the address's total order. (R104) -/
  | atomicAtHome (w : WaveId) (entry : Nat)
  /-- SEALED_LINE_APPLY: A sealed journal line is applied at its home as one masked write. (R99) -/
  | sealedLineApply (uid line : Nat)
  /-- ENGINE_RETURN_LAND: A register-space word of an engine operation lands, or is dropped by generation tag. (R70) -/
  | engineReturnLand (op : Nat)
  /-- ENGINE_COMPLETE: An engine operation completes: destination written, barrier credit, event record, flag down. (R193) -/
  | engineComplete (op : Nat)
  /-- FROND_OWNER_ACCESS: An FRD or FWR reaches the owner core, which checks and serves it. (R68) -/
  | frondOwnerAccess (w : WaveId) (entry : Nat)
  /-- FROND_RESPONSE: An FRD value returns to the accessing wave and lands. (R199) -/
  | frondResponse (w : WaveId) (entry : Nat)
  /-- TILE_SUBTILE_EVAL: The tile engine evaluates one node on one subtile and sets its valid bit. (R259) -/
  | tileSubtileEval (core slot : Nat)
  /-- SIEVE_COMMAND_ACCEPT: A pseudo-channel accepts a Sieve command into its queue and holds writes to its hulls. (R293) -/
  | sieveCommandAccept (op : Nat)
  /-- SIEVE_PARTIAL_SEND: A Sieve finishes its fold and sends its partial. (R286) -/
  | sievePartialSend (op sieve : Nat)
  /-- SIEVE_RECORD_LAND: A Sieve record lands in the common area; the last one completes the SQRY. (R288) -/
  | sieveRecordLand (op sieve : Nat)
  /-- SAPP_APPLY: The pseudo-channel applies an SAPP's K and V rows together as one write. (R292) -/
  | sappApply (op : Nat)
  /-- BANK_REFRESH: A bank's per-bank refresh falls due and takes the bank. (R294) -/
  | bankRefresh (pc bank : Nat)
  /-- REFRESH_END: A refresh's 240 channel cycles end and the bank is free again. (R294) -/
  | refreshEnd (pc bank : Nat)
  /-- CHANNEL_REQUEST_ARRIVE: A request takes an entry in its pseudo-channel's class queue and gets its deadline. (R403) -/
  | channelRequestArrive (pc : Nat) (r : ChanReq)
  /-- COLUMN_SLOT: A pseudo-channel grants a column-command slot to the chosen request. (R404) -/
  | columnSlot (pc : Nat)
  /-- STACK_CRC_ERROR: A stack burst fails its CRC and is retried, retrained or abandoned. (R406) -/
  | stackCrcError (pc : Nat) (b : Burst)
  /-- CROSSBAR_GRANT: A crossbar output grants a head packet from one of its inputs. (R387) -/
  | crossbarGrant (die port : Nat)
  /-- SWITCH_FORWARD: A Blunik switch forwards a packet up or down its plane. (R392) -/
  | switchForward (plane tier switch : Nat)
  /-- ESCAPE_MOVE: A head packet ungranted for 16,384 cycles moves into the escape channel. (R400) -/
  | escapeMove (die port cls : Nat)
  /-- PACKET_DELIVER: A destination accepts an ordered packet in sequence, or holds it in the reorder buffer. (R401) -/
  | packetDeliver (die port : Nat)
  /-- LINK_FLIT_RECEIVE: A link receiver accepts a flit in sequence with good CRC, or discards it and sends a NAK. (R394) -/
  | linkFlitReceive (link : Nat) (f : Flit)
  /-- LINK_NAK: A sender receives a NAK and resends from the named sequence. (R394) -/
  | linkNak (link seq : Nat)
  /-- WINDOW_CONTRIBUTION_APPLY: The window home translates and applies a merged contribution and acknowledges it. (R398) -/
  | windowContributionApply (group : Nat)
  /-- WINDOW_ACK_RECEIVE: An acknowledgement reaches the merging element, which returns one to each contribution. (R398) -/
  | windowAckReceive (group : Nat)
  /-- WINDOW_CLOSE: The home receives close(t); with every package closed it applies the deterministic sum. (R398) -/
  | windowClose (tenant tag package : Nat)
  /-- COLLECTIVE_MEET: The k-th instances of a collective id from every package meet and are compared. (R301) -/
  | collectiveMeet (tenant cid : Nat)
  /-- COLLECTIVE_COMPLETE: A collective's destination is applied, agreement decided, status written and flag counted down. (R302) -/
  | collectiveComplete (op : Nat)
  /-- BLOCK_RETIRE: A block whose waves have exited and engine operations have landed retires and frees its reservation. (R29) -/
  | blockRetire (core slot : Nat)
  /-- LAUNCH_COMPLETE: The last block's retirement is published and the launch completes. (R41) -/
  | launchComplete (launch : Nat)
  /-- TAIL_START: A tail launch starts once its issuing launch is complete, or completes as rejected. (R225) -/
  | tailStart (launch : Nat)
  /-- BLOCK_DISPATCH: In a dispatcher cycle the dispatcher places the first-ranked candidate on a core. (R347) -/
  | blockDispatch (die : Nat)
  /-- TICKET_STEAL: A thief die's steal splits a victim's ticket range. (R38) -/
  | ticketSteal (die group : Nat)
  /-- DISPATCH_AGING: A waiting dispatch gains one priority level after 2^15 dispatcher cycles. (R45) -/
  | dispatchAging (die launch : Nat)
  /-- BLOCK_FLUSH: At the end of the issue slot a block is discarded and becomes a candidate again. (R362) -/
  | blockFlush (core slot : Nat)
  /-- BLOCK_SAVE: At the end of the issue slot a block stops issuing and waits for its operations. (R363) -/
  | blockSave (core slot : Nat)
  /-- CONTEXT_WRITE: Once its operations have ended, the saved block's context is written and its rows freed. (R364) -/
  | contextWrite (core slot : Nat)
  /-- DRAIN_TIMEOUT: A drained victim not retired within 2^20 cycles is taken again through rows 2 to 5. (R360) -/
  | drainTimeout (core slot : Nat)
  /-- SLICE_EXPIRE: A job slice reaches its budget and BUDGET is raised in waves not waiting in YIELD. (R230) -/
  | sliceExpire (core slot : Nat)
  /-- SLICE_CONTINUE: In the dispatcher cycle after a slice ends, the block starts its next slice or is pre-empted. (R352) -/
  | sliceContinue (core slot : Nat)
  /-- DOORBELL: A doorbell write takes a new tail into QTAIL, or is ignored and sets overrun. (R341) -/
  | doorbell (q : Nat) (wide : Bool) (v : BitVec 64)
  /-- QCFG_WRITE: A write to QCFG configures a queue and, on enabling, zeroes QHEAD and QTAIL. (R340) -/
  | qcfgWrite (q : Nat) (v : BitVec 64)
  /-- QSTAT_WRITE: A write to QSTAT stores its value, and clearing fetch error resumes record reads. (R340) -/
  | qstatWrite (q : Nat) (v : BitVec 64)
  /-- QUEUE_REGISTER_WRITE: A write to QBASE or QGRP stores the value while the queue is disabled. (R340) -/
  | queueRegisterWrite (q : Nat) (grp : Bool) (v : BitVec 64)
  /-- QUEUE_AGING: A queue with pending records gains one queue priority after 2^15 dispatcher cycles unread. (R342) -/
  | queueAging (q : Nat)
  /-- QUEUE_RECORD_READ: The acceptance engine chooses a queue and reads its next record from home. (R342) -/
  | queueRecordRead
  /-- QUEUE_RECORD_ARRIVE: A record read completes and the launch is accepted or rejected, or fetch error is set. (R343) -/
  | queueRecordArrive (q : Nat) (pcieError : Bool)
  /-- LAUNCH_ARRIVE_DIE: An accepted host launch arrives at a compute die, which converts its deadline. (R345) -/
  | launchArriveDie (launch die : Nat)
  /-- PCIE_MEMORY_WRITE: A write over PCIe into stack memory changes home. (R101) -/
  | pcieMemoryWrite (addr : Nat) (bytes : List (BitVec 8))
  /-- LADLE_MOVE: A fired ring moves a pool block into a stage and posts a move record to it. (R323) -/
  | ladleMove (die : Nat)
  /-- AM_ARRIVE: An active message reaches its destination core's queue. (R354) -/
  | amArrive (core : Nat) (m : Message)
  /-- TRAP_OVERRUN: A handler's HCYC reaches 65,536; the wave stops and a record is written. (R332) -/
  | trapOverrun (w : WaveId)
  /-- ERROR_WINDOW_EXPIRE: A 2^32-cycle error-counting window ends and its counts start again at zero. (R409) -/
  | errorWindowExpire (die : Nat)
  /-- COLD_START: Power-on or a cold reset runs the full start sequence. (R416) -/
  | coldStart (i : StartInput)
  /-- WARM_RESET: A warm reset runs the warm start sequence, keeping stack contents. (R416) -/
  | warmReset (i : StartInput)
  /-- THERMAL_TRIP: A die reaches 115 °C and the part stops at once. (R417) -/
  | thermalTrip (die : Nat)
  /-- ATTESTATION_QUOTE: A quote request with a nonce returns signed measurements, health and certificate. (R419) -/
  | attestationQuote (nonce : List (BitVec 8))
  /-- LINK_RETRAIN_END: A die-to-die or Blunik link finishes retraining and either resumes the replay or, having failed, reports its last accepted sequence and is retired. (R394) -/
  | linkRetrainEnd (link : Nat) (ok : Bool)
  deriving DecidableEq, Repr

end Sys2Proof
end

