-- ==== Sys2Proof/WellFormed.lean ====
section
/-! DEFINITION. Which instructions are well formed as words: assigned control fields (05 R130, R131), and for rows that
share an opcode the bits that tell them apart (07 R208, 08 R216, 10 R272). A device's step has no word. -/

namespace Sys2Proof

/-- The opcodes that 05 R143 assigns. -/
def opcodeAssigned (op : Nat) : Bool :=
  (0x001 ≤ op && op ≤ 0x02D) ||
  (0x030 ≤ op && op ≤ 0x038) ||
  (0x040 ≤ op && op ≤ 0x046) ||
  (0x050 ≤ op && op ≤ 0x055) ||
  (0x058 ≤ op && op ≤ 0x059) ||
  (0x080 ≤ op && op ≤ 0x099) ||
  (0x100 ≤ op && op ≤ 0x108) ||
  (0x110 ≤ op && op ≤ 0x113) ||
  (0x180 ≤ op && op ≤ 0x190) ||
  (0x1BE ≤ op && op ≤ 0x1BE) ||
  (0x1C0 ≤ op && op ≤ 0x1D2) ||
  (0x200 ≤ op && op ≤ 0x208) ||
  (0x27E ≤ op && op ≤ 0x27E) ||
  (0x280 ≤ op && op ≤ 0x282) ||
  (0x2A0 ≤ op && op ≤ 0x2A4) ||
  (0x2C0 ≤ op && op ≤ 0x2C6)

/-- The control fields hold assigned values (05 R130, R131): no guard 96 to 126, no negate with guard 127, no sig 12 to 14. -/
def Ctl.wf (c : Ctl) : Bool :=
  (c.guard.toNat < 96 || (c.guard == 127#7 && c.neg == 0#1)) && (c.sig.toNat < 12 || c.sig == 15#4)

/-- The instruction is one that a word of 05 R130 or R140 can hold with assigned control fields. -/
def Instr.wf : Instr → Bool
  | .illegal w => !opcodeAssigned (w.extractLsb' 54 10).toNat
  | .vadd f => f.ctl.wf
  | .vsub f => f.ctl.wf
  | .vmul f => f.ctl.wf
  | .vmulhi f => f.ctl.wf
  | .vmad f => f.ctl.wf
  | .vdiv f => f.ctl.wf
  | .vrem f => f.ctl.wf
  | .vmin f => f.ctl.wf
  | .vmax f => f.ctl.wf
  | .vabs f => f.ctl.wf
  | .vneg f => f.ctl.wf
  | .vfma f => f.ctl.wf
  | .vaddi f => f.ctl.wf
  | .vmuli f => f.ctl.wf
  | .vshladd f => f.ctl.wf
  | .vand f => f.ctl.wf
  | .vor f => f.ctl.wf
  | .vxor f => f.ctl.wf
  | .vnot f => f.ctl.wf
  | .vshl f => f.ctl.wf
  | .vshr f => f.ctl.wf
  | .vsar f => f.ctl.wf
  | .vrot f => f.ctl.wf
  | .vpopc f => f.ctl.wf
  | .vclz f => f.ctl.wf
  | .vctz f => f.ctl.wf
  | .vbrev f => f.ctl.wf
  | .vbfx f => f.ctl.wf
  | .vbfi f => f.ctl.wf
  | .vandi f => f.ctl.wf
  | .vori f => f.ctl.wf
  | .vcmp f => f.ctl.wf
  | .vcmpi f => f.ctl.wf
  | .pand f => f.ctl.wf
  | .por f => f.ctl.wf
  | .pxor f => f.ctl.wf
  | .pnot f => f.ctl.wf
  | .pmov f => f.ctl.wf
  | .vprd f => f.ctl.wf
  | .vsel f => f.ctl.wf
  | .vmov f => f.ctl.wf
  | .vmovi f => f.ctl.wf
  | .vmovl f => f.ctl.wf
  | .vmovh f => f.ctl.wf
  | .vclass f => f.ctl.wf
  | .vexp2 f => f.ctl.wf
  | .vlog2 f => f.ctl.wf
  | .vrcp f => f.ctl.wf
  | .vrsq f => f.ctl.wf
  | .vrnd f => f.ctl.wf
  | .vcvt f => f.ctl.wf
  | .vcvti f => f.ctl.wf
  | .vpack f => f.ctl.wf
  | .vunpk f => f.ctl.wf
  | .vshfl f => f.ctl.wf
  | .vballot f => f.ctl.wf
  | .vred f => f.ctl.wf
  | .vminidx f => f.ctl.wf
  | .vmaxidx f => f.ctl.wf
  | .vfold f => f.ctl.wf
  | .vbcst f => f.ctl.wf
  | .vtopk f => f.ctl.wf
  | .vtopkm f => f.ctl.wf
  | .vsmx f => f.ctl.wf
  | .vsmxmLane f => f.ctl.wf && !f.m.getLsbD 0
  | .vsmxmWave f => f.ctl.wf && f.m.getLsbD 0
  | .sample f => f.ctl.wf
  | .vrand f => f.ctl.wf
  | .nsrd f => f.ctl.wf
  | .nsclr f => f.ctl.wf
  | .sadd f => f.ctl.wf
  | .ssub f => f.ctl.wf
  | .smul f => f.ctl.wf
  | .smulhi f => f.ctl.wf
  | .sdiv f => f.ctl.wf
  | .srem f => f.ctl.wf
  | .smin f => f.ctl.wf
  | .smax f => f.ctl.wf
  | .sand f => f.ctl.wf
  | .sor f => f.ctl.wf
  | .sxor f => f.ctl.wf
  | .snot f => f.ctl.wf
  | .sshl f => f.ctl.wf
  | .sshr f => f.ctl.wf
  | .ssar f => f.ctl.wf
  | .spopc f => f.ctl.wf
  | .sclz f => f.ctl.wf
  | .sctz f => f.ctl.wf
  | .scmp f => f.ctl.wf
  | .ssel f => f.ctl.wf
  | .smov f => f.ctl.wf
  | .smovi f => f.ctl.wf
  | .smovl f => f.ctl.wf
  | .smovh f => f.ctl.wf
  | .saddi f => f.ctl.wf
  | .sfold f => f.ctl.wf
  | .ld f => f.ctl.wf
  | .st f => f.ctl.wf
  | .ldc f => f.ctl.wf
  | .stc f => f.ctl.wf
  | .atom f => f.ctl.wf
  | .red f => f.ctl.wf
  | .ald f => f.ctl.wf
  | .kick f => f.ctl.wf
  | .gath f => f.ctl.wf
  | .fexp f => f.ctl.wf
  | .frev f => f.ctl.wf
  | .frd f => f.ctl.wf
  | .fwr f => f.ctl.wf
  | .fence f => f.ctl.wf
  | .fwait f => f.ctl.wf
  | .binit f => f.ctl.wf
  | .barv f => f.ctl.wf
  | .bcnt f => f.ctl.wf
  | .bwait f => f.ctl.wf
  | .phreg f => f.ctl.wf
  | .phdrop f => f.ctl.wf
  | .phsig f => f.ctl.wf
  | .phwait f => f.ctl.wf
  | .phadv f => f.ctl.wf
  | .evrd f => f.ctl.wf
  | .sqreg f => f.ctl.wf
  | .sqpushRes f => f.ctl.wf && !f.m.getLsbD 0
  | .sqpushCom f => f.ctl.wf && f.m.getLsbD 0
  | .sqpopRes f => f.ctl.wf && !f.m.getLsbD 0
  | .sqpopCom f => f.ctl.wf && f.m.getLsbD 0
  | .sqstat f => f.ctl.wf
  | .amsend f => f.ctl.wf
  | .cseg f => f.ctl.wf
  | .nop f => f.ctl.wf
  | .bra f => f.ctl.wf
  | .brany f => f.ctl.wf
  | .brall f => f.ctl.wf
  | .brs f => f.ctl.wf
  | .jmpi f => f.ctl.wf
  | .meetLabel f => f.ctl.wf && !f.imm.getLsbD 31
  | .meetRegister f => f.ctl.wf && f.imm.getLsbD 31 && f.d4 != 15#4
  | .meetNone f => f.ctl.wf && f.imm.getLsbD 31 && f.d4 == 15#4
  | .call f => f.ctl.wf
  | .calli f => f.ctl.wf
  | .ret f => f.ctl.wf
  | .exit f => f.ctl.wf
  | .launch f => f.ctl.wf
  | .launcht f => f.ctl.wf
  | .join f => f.ctl.wf
  | .yield f => f.ctl.wf
  | .trap f => f.ctl.wf
  | .breakI f => f.ctl.wf
  | .tclr f => f.ctl.wf
  | .tret f => f.ctl.wf
  | .tdesc f => f.ctl.wf
  | .tld f => f.ctl.wf
  | .tmma f => f.ctl.wf
  | .tew f => f.ctl.wf
  | .tmap f => f.ctl.wf
  | .tred f => f.ctl.wf
  | .tcvt f => f.ctl.wf
  | .tforce f => f.ctl.wf
  | .tst f => f.ctl.wf
  | .tgrow f => f.ctl.wf
  | .sqry f => f.ctl.wf
  | .sapp f => f.ctl.wf
  | .smrg f => f.ctl.wf
  | .xred f => f.ctl.wf
  | .xall f => f.ctl.wf
  | .xgath f => f.ctl.wf
  | .xbcst f => f.ctl.wf
  | .xbar f => f.ctl.wf
  | .sysrd f => f.ctl.wf
  | .syswr f => f.ctl.wf
  | .asinv f => f.ctl.wf
  | .killb f => f.ctl.wf
  | .ctxsv f => f.ctl.wf
  | .ctxld f => f.ctl.wf
  | .remap f => f.ctl.wf
  | .wstatWrite _ _ => false
  | .rpcmdRegister _ => false
  | .rpcmdRemove _ => false
  | .clauseIssue _ => false
  | .icacheFill _ _ _ => false
  | .translationWalk _ _ => false
  | .fixedLatencyWriteback _ => false
  | .vfoldStamp _ => false
  | .loadResponse _ _ => false
  | .operandLogFault _ _ => false
  | .atomicAtHome _ _ => false
  | .sealedLineApply _ _ => false
  | .engineReturnLand _ => false
  | .engineComplete _ => false
  | .frondOwnerAccess _ _ => false
  | .frondResponse _ _ => false
  | .tileSubtileEval _ _ => false
  | .sieveCommandAccept _ => false
  | .sievePartialSend _ _ => false
  | .sieveRecordLand _ _ => false
  | .sappApply _ => false
  | .bankRefresh _ _ => false
  | .refreshEnd _ _ => false
  | .channelRequestArrive _ _ => false
  | .columnSlot _ => false
  | .stackCrcError _ _ => false
  | .crossbarGrant _ _ => false
  | .switchForward _ _ _ => false
  | .escapeMove _ _ _ => false
  | .packetDeliver _ _ => false
  | .linkFlitReceive _ _ => false
  | .linkNak _ _ => false
  | .windowContributionApply _ => false
  | .windowAckReceive _ => false
  | .windowClose _ _ _ => false
  | .collectiveMeet _ _ => false
  | .collectiveComplete _ => false
  | .blockRetire _ _ => false
  | .launchComplete _ => false
  | .tailStart _ => false
  | .blockDispatch _ => false
  | .ticketSteal _ _ => false
  | .dispatchAging _ _ => false
  | .blockFlush _ _ => false
  | .blockSave _ _ => false
  | .contextWrite _ _ => false
  | .drainTimeout _ _ => false
  | .sliceExpire _ _ => false
  | .sliceContinue _ _ => false
  | .doorbell _ _ _ => false
  | .qcfgWrite _ _ => false
  | .qstatWrite _ _ => false
  | .queueRegisterWrite _ _ _ => false
  | .queueAging _ => false
  | .queueRecordRead => false
  | .queueRecordArrive _ _ => false
  | .launchArriveDie _ _ => false
  | .pcieMemoryWrite _ _ => false
  | .ladleMove _ => false
  | .amArrive _ _ => false
  | .trapOverrun _ => false
  | .errorWindowExpire _ => false
  | .coldStart _ => false
  | .warmReset _ => false
  | .thermalTrip _ => false
  | .attestationQuote _ => false
  | .linkRetrainEnd _ _ => false

end Sys2Proof
end

