-- ==== Sys2Proof/Decode.lean ====
section
/-! DEFINITION. Decoding of instruction words (05 R130, R140, R143, R144), total on any bytes, and the encoder written
from the same tables. -/

namespace Sys2Proof

/-- Why bytes decode to no instruction. -/
inductive DecodeError where
  | truncated  -- fewer than the 8 bytes of an instruction word (00 R4, 05 R124)
  deriving DecidableEq, Repr

/-- The control fields of a word (05 R130). -/
def ctlOf (w : W64) : Ctl :=
  { stall := w.extractLsb' 50 4, sig := w.extractLsb' 46 4, hold := w.extractLsb' 44 2,
    guard := w.extractLsb' 37 7, neg := w.extractLsb' 36 1 }

/-- The three-operand form (05 R130). -/
def fieldsR (w : W64) : F :=
  { ctl := ctlOf w, d := w.extractLsb' 26 10, a := w.extractLsb' 16 10, b := w.extractLsb' 6 10,
    m := w.extractLsb' 0 6 }

/-- The I16 form (05 R140). -/
def fieldsI16 (w : W64) : F16 :=
  { ctl := ctlOf w, d := w.extractLsb' 26 10, a := w.extractLsb' 16 10, imm := w.extractLsb' 0 16 }

/-- The I32 form (05 R140). -/
def fieldsI32 (w : W64) : F32 :=
  { ctl := ctlOf w, d4 := w.extractLsb' 32 4, imm := w.extractLsb' 0 32 }

/-- The opcode, bits [63:54] (05 R130). -/
def opcodeOf (w : W64) : BitVec 10 := w.extractLsb' 54 10

/-- The three rows of MEET (08 R216): bit 31 of the immediate, then D4 = 15. -/
def decodeMeet (f : F32) : Instr :=
  if f.imm.getLsbD 31 then (if f.d4 = 15#4 then .meetNone f else .meetRegister f) else .meetLabel f

/-- The instruction of a word: every opcode not assigned is ILLEGAL (05 R143, R144). -/
def decodeWord (w : W64) : Instr :=
  match (opcodeOf w).toNat with
  | 0x001 => .vadd (fieldsR w)
  | 0x002 => .vsub (fieldsR w)
  | 0x003 => .vmul (fieldsR w)
  | 0x004 => .vmulhi (fieldsR w)
  | 0x005 => .vmad (fieldsR w)
  | 0x006 => .vdiv (fieldsR w)
  | 0x007 => .vrem (fieldsR w)
  | 0x008 => .vmin (fieldsR w)
  | 0x009 => .vmax (fieldsR w)
  | 0x00A => .vabs (fieldsR w)
  | 0x00B => .vneg (fieldsR w)
  | 0x00C => .vfma (fieldsR w)
  | 0x00D => .vaddi (fieldsI16 w)
  | 0x00E => .vmuli (fieldsI16 w)
  | 0x00F => .vshladd (fieldsR w)
  | 0x010 => .vand (fieldsR w)
  | 0x011 => .vor (fieldsR w)
  | 0x012 => .vxor (fieldsR w)
  | 0x013 => .vnot (fieldsR w)
  | 0x014 => .vshl (fieldsR w)
  | 0x015 => .vshr (fieldsR w)
  | 0x016 => .vsar (fieldsR w)
  | 0x017 => .vrot (fieldsR w)
  | 0x018 => .vpopc (fieldsR w)
  | 0x019 => .vclz (fieldsR w)
  | 0x01A => .vctz (fieldsR w)
  | 0x01B => .vbrev (fieldsR w)
  | 0x01C => .vbfx (fieldsR w)
  | 0x01D => .vbfi (fieldsR w)
  | 0x01E => .vandi (fieldsI16 w)
  | 0x01F => .vori (fieldsI16 w)
  | 0x020 => .vcmp (fieldsR w)
  | 0x021 => .vcmpi (fieldsI16 w)
  | 0x022 => .pand (fieldsR w)
  | 0x023 => .por (fieldsR w)
  | 0x024 => .pxor (fieldsR w)
  | 0x025 => .pnot (fieldsR w)
  | 0x026 => .pmov (fieldsR w)
  | 0x027 => .vprd (fieldsR w)
  | 0x028 => .vsel (fieldsR w)
  | 0x029 => .vmov (fieldsR w)
  | 0x02A => .vmovi (fieldsI32 w)
  | 0x02B => .vmovl (fieldsI16 w)
  | 0x02C => .vmovh (fieldsI16 w)
  | 0x02D => .vclass (fieldsR w)
  | 0x030 => .vexp2 (fieldsR w)
  | 0x031 => .vlog2 (fieldsR w)
  | 0x032 => .vrcp (fieldsR w)
  | 0x033 => .vrsq (fieldsR w)
  | 0x034 => .vrnd (fieldsR w)
  | 0x035 => .vcvt (fieldsR w)
  | 0x036 => .vcvti (fieldsR w)
  | 0x037 => .vpack (fieldsR w)
  | 0x038 => .vunpk (fieldsR w)
  | 0x040 => .vshfl (fieldsR w)
  | 0x041 => .vballot (fieldsR w)
  | 0x042 => .vred (fieldsR w)
  | 0x043 => .vminidx (fieldsR w)
  | 0x044 => .vmaxidx (fieldsR w)
  | 0x045 => .vfold (fieldsR w)
  | 0x046 => .vbcst (fieldsR w)
  | 0x050 => .vtopk (fieldsR w)
  | 0x051 => .vtopkm (fieldsR w)
  | 0x052 => .vsmx (fieldsR w)
  | 0x053 => if (fieldsR w).m.getLsbD 0 then .vsmxmWave (fieldsR w) else .vsmxmLane (fieldsR w)
  | 0x054 => .sample (fieldsR w)
  | 0x055 => .vrand (fieldsR w)
  | 0x058 => .nsrd (fieldsR w)
  | 0x059 => .nsclr (fieldsR w)
  | 0x080 => .sadd (fieldsR w)
  | 0x081 => .ssub (fieldsR w)
  | 0x082 => .smul (fieldsR w)
  | 0x083 => .smulhi (fieldsR w)
  | 0x084 => .sdiv (fieldsR w)
  | 0x085 => .srem (fieldsR w)
  | 0x086 => .smin (fieldsR w)
  | 0x087 => .smax (fieldsR w)
  | 0x088 => .sand (fieldsR w)
  | 0x089 => .sor (fieldsR w)
  | 0x08A => .sxor (fieldsR w)
  | 0x08B => .snot (fieldsR w)
  | 0x08C => .sshl (fieldsR w)
  | 0x08D => .sshr (fieldsR w)
  | 0x08E => .ssar (fieldsR w)
  | 0x08F => .spopc (fieldsR w)
  | 0x090 => .sclz (fieldsR w)
  | 0x091 => .sctz (fieldsR w)
  | 0x092 => .scmp (fieldsR w)
  | 0x093 => .ssel (fieldsR w)
  | 0x094 => .smov (fieldsR w)
  | 0x095 => .smovi (fieldsI32 w)
  | 0x096 => .smovl (fieldsI16 w)
  | 0x097 => .smovh (fieldsI16 w)
  | 0x098 => .saddi (fieldsI16 w)
  | 0x099 => .sfold (fieldsR w)
  | 0x100 => .ld (fieldsR w)
  | 0x101 => .st (fieldsR w)
  | 0x102 => .ldc (fieldsR w)
  | 0x103 => .stc (fieldsR w)
  | 0x104 => .atom (fieldsR w)
  | 0x105 => .red (fieldsR w)
  | 0x106 => .ald (fieldsR w)
  | 0x107 => .kick (fieldsR w)
  | 0x108 => .gath (fieldsR w)
  | 0x110 => .fexp (fieldsR w)
  | 0x111 => .frev (fieldsR w)
  | 0x112 => .frd (fieldsR w)
  | 0x113 => .fwr (fieldsR w)
  | 0x180 => .fence (fieldsR w)
  | 0x181 => .fwait (fieldsR w)
  | 0x182 => .binit (fieldsR w)
  | 0x183 => .barv (fieldsR w)
  | 0x184 => .bcnt (fieldsR w)
  | 0x185 => .bwait (fieldsR w)
  | 0x186 => .phreg (fieldsR w)
  | 0x187 => .phdrop (fieldsR w)
  | 0x188 => .phsig (fieldsR w)
  | 0x189 => .phwait (fieldsR w)
  | 0x18A => .phadv (fieldsR w)
  | 0x18B => .evrd (fieldsR w)
  | 0x18C => .sqreg (fieldsR w)
  | 0x18D => if (fieldsR w).m.getLsbD 0 then .sqpushCom (fieldsR w) else .sqpushRes (fieldsR w)
  | 0x18E => if (fieldsR w).m.getLsbD 0 then .sqpopCom (fieldsR w) else .sqpopRes (fieldsR w)
  | 0x18F => .sqstat (fieldsR w)
  | 0x190 => .amsend (fieldsR w)
  | 0x1BE => .cseg (fieldsI16 w)
  | 0x1C0 => .nop (fieldsR w)
  | 0x1C1 => .bra (fieldsI32 w)
  | 0x1C2 => .brany (fieldsI32 w)
  | 0x1C3 => .brall (fieldsI32 w)
  | 0x1C4 => .brs (fieldsI32 w)
  | 0x1C5 => .jmpi (fieldsR w)
  | 0x1C6 => decodeMeet (fieldsI32 w)
  | 0x1C7 => .call (fieldsI32 w)
  | 0x1C8 => .calli (fieldsR w)
  | 0x1C9 => .ret (fieldsR w)
  | 0x1CA => .exit (fieldsR w)
  | 0x1CB => .launch (fieldsR w)
  | 0x1CC => .launcht (fieldsR w)
  | 0x1CD => .join (fieldsR w)
  | 0x1CE => .yield (fieldsR w)
  | 0x1CF => .trap (fieldsI16 w)
  | 0x1D0 => .breakI (fieldsI16 w)
  | 0x1D1 => .tclr (fieldsR w)
  | 0x1D2 => .tret (fieldsR w)
  | 0x200 => .tdesc (fieldsR w)
  | 0x201 => .tld (fieldsR w)
  | 0x202 => .tmma (fieldsR w)
  | 0x203 => .tew (fieldsR w)
  | 0x204 => .tmap (fieldsR w)
  | 0x205 => .tred (fieldsR w)
  | 0x206 => .tcvt (fieldsR w)
  | 0x207 => .tforce (fieldsR w)
  | 0x208 => .tst (fieldsR w)
  | 0x27E => .tgrow (fieldsI16 w)
  | 0x280 => .sqry (fieldsR w)
  | 0x281 => .sapp (fieldsR w)
  | 0x282 => .smrg (fieldsR w)
  | 0x2A0 => .xred (fieldsR w)
  | 0x2A1 => .xall (fieldsR w)
  | 0x2A2 => .xgath (fieldsR w)
  | 0x2A3 => .xbcst (fieldsR w)
  | 0x2A4 => .xbar (fieldsR w)
  | 0x2C0 => .sysrd (fieldsR w)
  | 0x2C1 => .syswr (fieldsR w)
  | 0x2C2 => .asinv (fieldsR w)
  | 0x2C3 => .killb (fieldsR w)
  | 0x2C4 => .ctxsv (fieldsR w)
  | 0x2C5 => .ctxld (fieldsR w)
  | 0x2C6 => .remap (fieldsR w)
  | _ => .illegal w

/-- Eight bytes as a word, the least significant at the lowest address (00 R4). -/
def wordOfBytes (bs : List Byte) : W64 :=
  BitVec.ofNat 64 (bs.foldr (fun b acc => b.toNat + 256 * acc) 0)

/-- `n` bytes of a value, little-endian (00 R4). -/
def bytesOfNat : Nat → Nat → List Byte
  | 0, _ => []
  | n + 1, v => BitVec.ofNat 8 v :: bytesOfNat n (v / 256)

/-- Decode the instruction word at the head of a list of bytes: the instruction and the bytes after it. -/
def decode (bs : List Byte) : Except DecodeError (Instr × List Byte) :=
  if bs.length < 8 then .error .truncated
  else .ok (decodeWord (wordOfBytes (bs.take 8)), bs.drop 8)

/-- The instruction read from a word numbered as the opcode table numbers bits: 64 bits, bit 0 least significant. -/
def decodeTableWord (nbits w : Nat) : Option Instr :=
  match decode (bytesOfNat 8 (w % 2 ^ min nbits 64)) with
  | .ok (i, _) => some i
  | .error _ => none

/-- The word of the three-operand form (05 R130). -/
def wordR (op : BitVec 10) (f : F) : W64 :=
  op ++ f.ctl.stall ++ f.ctl.sig ++ f.ctl.hold ++ f.ctl.guard ++ f.ctl.neg ++ f.d ++ f.a ++ f.b ++ f.m

/-- The word of the I16 form (05 R140). -/
def wordI16 (op : BitVec 10) (f : F16) : W64 :=
  op ++ f.ctl.stall ++ f.ctl.sig ++ f.ctl.hold ++ f.ctl.guard ++ f.ctl.neg ++ f.d ++ f.a ++ f.imm

/-- The word of the I32 form (05 R140). -/
def wordI32 (op : BitVec 10) (f : F32) : W64 :=
  op ++ f.ctl.stall ++ f.ctl.sig ++ f.ctl.hold ++ f.ctl.guard ++ f.ctl.neg ++ f.d4 ++ f.imm

/-- The word of an instruction; none for a device's step, which has no encoding. -/
def encode : Instr → Option W64
  | .illegal w => some w
  | .vadd f => some (wordR 0x001#10 f)
  | .vsub f => some (wordR 0x002#10 f)
  | .vmul f => some (wordR 0x003#10 f)
  | .vmulhi f => some (wordR 0x004#10 f)
  | .vmad f => some (wordR 0x005#10 f)
  | .vdiv f => some (wordR 0x006#10 f)
  | .vrem f => some (wordR 0x007#10 f)
  | .vmin f => some (wordR 0x008#10 f)
  | .vmax f => some (wordR 0x009#10 f)
  | .vabs f => some (wordR 0x00A#10 f)
  | .vneg f => some (wordR 0x00B#10 f)
  | .vfma f => some (wordR 0x00C#10 f)
  | .vaddi f => some (wordI16 0x00D#10 f)
  | .vmuli f => some (wordI16 0x00E#10 f)
  | .vshladd f => some (wordR 0x00F#10 f)
  | .vand f => some (wordR 0x010#10 f)
  | .vor f => some (wordR 0x011#10 f)
  | .vxor f => some (wordR 0x012#10 f)
  | .vnot f => some (wordR 0x013#10 f)
  | .vshl f => some (wordR 0x014#10 f)
  | .vshr f => some (wordR 0x015#10 f)
  | .vsar f => some (wordR 0x016#10 f)
  | .vrot f => some (wordR 0x017#10 f)
  | .vpopc f => some (wordR 0x018#10 f)
  | .vclz f => some (wordR 0x019#10 f)
  | .vctz f => some (wordR 0x01A#10 f)
  | .vbrev f => some (wordR 0x01B#10 f)
  | .vbfx f => some (wordR 0x01C#10 f)
  | .vbfi f => some (wordR 0x01D#10 f)
  | .vandi f => some (wordI16 0x01E#10 f)
  | .vori f => some (wordI16 0x01F#10 f)
  | .vcmp f => some (wordR 0x020#10 f)
  | .vcmpi f => some (wordI16 0x021#10 f)
  | .pand f => some (wordR 0x022#10 f)
  | .por f => some (wordR 0x023#10 f)
  | .pxor f => some (wordR 0x024#10 f)
  | .pnot f => some (wordR 0x025#10 f)
  | .pmov f => some (wordR 0x026#10 f)
  | .vprd f => some (wordR 0x027#10 f)
  | .vsel f => some (wordR 0x028#10 f)
  | .vmov f => some (wordR 0x029#10 f)
  | .vmovi f => some (wordI32 0x02A#10 f)
  | .vmovl f => some (wordI16 0x02B#10 f)
  | .vmovh f => some (wordI16 0x02C#10 f)
  | .vclass f => some (wordR 0x02D#10 f)
  | .vexp2 f => some (wordR 0x030#10 f)
  | .vlog2 f => some (wordR 0x031#10 f)
  | .vrcp f => some (wordR 0x032#10 f)
  | .vrsq f => some (wordR 0x033#10 f)
  | .vrnd f => some (wordR 0x034#10 f)
  | .vcvt f => some (wordR 0x035#10 f)
  | .vcvti f => some (wordR 0x036#10 f)
  | .vpack f => some (wordR 0x037#10 f)
  | .vunpk f => some (wordR 0x038#10 f)
  | .vshfl f => some (wordR 0x040#10 f)
  | .vballot f => some (wordR 0x041#10 f)
  | .vred f => some (wordR 0x042#10 f)
  | .vminidx f => some (wordR 0x043#10 f)
  | .vmaxidx f => some (wordR 0x044#10 f)
  | .vfold f => some (wordR 0x045#10 f)
  | .vbcst f => some (wordR 0x046#10 f)
  | .vtopk f => some (wordR 0x050#10 f)
  | .vtopkm f => some (wordR 0x051#10 f)
  | .vsmx f => some (wordR 0x052#10 f)
  | .vsmxmLane f => some (wordR 0x053#10 f)
  | .vsmxmWave f => some (wordR 0x053#10 f)
  | .sample f => some (wordR 0x054#10 f)
  | .vrand f => some (wordR 0x055#10 f)
  | .nsrd f => some (wordR 0x058#10 f)
  | .nsclr f => some (wordR 0x059#10 f)
  | .sadd f => some (wordR 0x080#10 f)
  | .ssub f => some (wordR 0x081#10 f)
  | .smul f => some (wordR 0x082#10 f)
  | .smulhi f => some (wordR 0x083#10 f)
  | .sdiv f => some (wordR 0x084#10 f)
  | .srem f => some (wordR 0x085#10 f)
  | .smin f => some (wordR 0x086#10 f)
  | .smax f => some (wordR 0x087#10 f)
  | .sand f => some (wordR 0x088#10 f)
  | .sor f => some (wordR 0x089#10 f)
  | .sxor f => some (wordR 0x08A#10 f)
  | .snot f => some (wordR 0x08B#10 f)
  | .sshl f => some (wordR 0x08C#10 f)
  | .sshr f => some (wordR 0x08D#10 f)
  | .ssar f => some (wordR 0x08E#10 f)
  | .spopc f => some (wordR 0x08F#10 f)
  | .sclz f => some (wordR 0x090#10 f)
  | .sctz f => some (wordR 0x091#10 f)
  | .scmp f => some (wordR 0x092#10 f)
  | .ssel f => some (wordR 0x093#10 f)
  | .smov f => some (wordR 0x094#10 f)
  | .smovi f => some (wordI32 0x095#10 f)
  | .smovl f => some (wordI16 0x096#10 f)
  | .smovh f => some (wordI16 0x097#10 f)
  | .saddi f => some (wordI16 0x098#10 f)
  | .sfold f => some (wordR 0x099#10 f)
  | .ld f => some (wordR 0x100#10 f)
  | .st f => some (wordR 0x101#10 f)
  | .ldc f => some (wordR 0x102#10 f)
  | .stc f => some (wordR 0x103#10 f)
  | .atom f => some (wordR 0x104#10 f)
  | .red f => some (wordR 0x105#10 f)
  | .ald f => some (wordR 0x106#10 f)
  | .kick f => some (wordR 0x107#10 f)
  | .gath f => some (wordR 0x108#10 f)
  | .fexp f => some (wordR 0x110#10 f)
  | .frev f => some (wordR 0x111#10 f)
  | .frd f => some (wordR 0x112#10 f)
  | .fwr f => some (wordR 0x113#10 f)
  | .fence f => some (wordR 0x180#10 f)
  | .fwait f => some (wordR 0x181#10 f)
  | .binit f => some (wordR 0x182#10 f)
  | .barv f => some (wordR 0x183#10 f)
  | .bcnt f => some (wordR 0x184#10 f)
  | .bwait f => some (wordR 0x185#10 f)
  | .phreg f => some (wordR 0x186#10 f)
  | .phdrop f => some (wordR 0x187#10 f)
  | .phsig f => some (wordR 0x188#10 f)
  | .phwait f => some (wordR 0x189#10 f)
  | .phadv f => some (wordR 0x18A#10 f)
  | .evrd f => some (wordR 0x18B#10 f)
  | .sqreg f => some (wordR 0x18C#10 f)
  | .sqpushRes f => some (wordR 0x18D#10 f)
  | .sqpushCom f => some (wordR 0x18D#10 f)
  | .sqpopRes f => some (wordR 0x18E#10 f)
  | .sqpopCom f => some (wordR 0x18E#10 f)
  | .sqstat f => some (wordR 0x18F#10 f)
  | .amsend f => some (wordR 0x190#10 f)
  | .cseg f => some (wordI16 0x1BE#10 f)
  | .nop f => some (wordR 0x1C0#10 f)
  | .bra f => some (wordI32 0x1C1#10 f)
  | .brany f => some (wordI32 0x1C2#10 f)
  | .brall f => some (wordI32 0x1C3#10 f)
  | .brs f => some (wordI32 0x1C4#10 f)
  | .jmpi f => some (wordR 0x1C5#10 f)
  | .meetLabel f => some (wordI32 0x1C6#10 f)
  | .meetRegister f => some (wordI32 0x1C6#10 f)
  | .meetNone f => some (wordI32 0x1C6#10 f)
  | .call f => some (wordI32 0x1C7#10 f)
  | .calli f => some (wordR 0x1C8#10 f)
  | .ret f => some (wordR 0x1C9#10 f)
  | .exit f => some (wordR 0x1CA#10 f)
  | .launch f => some (wordR 0x1CB#10 f)
  | .launcht f => some (wordR 0x1CC#10 f)
  | .join f => some (wordR 0x1CD#10 f)
  | .yield f => some (wordR 0x1CE#10 f)
  | .trap f => some (wordI16 0x1CF#10 f)
  | .breakI f => some (wordI16 0x1D0#10 f)
  | .tclr f => some (wordR 0x1D1#10 f)
  | .tret f => some (wordR 0x1D2#10 f)
  | .tdesc f => some (wordR 0x200#10 f)
  | .tld f => some (wordR 0x201#10 f)
  | .tmma f => some (wordR 0x202#10 f)
  | .tew f => some (wordR 0x203#10 f)
  | .tmap f => some (wordR 0x204#10 f)
  | .tred f => some (wordR 0x205#10 f)
  | .tcvt f => some (wordR 0x206#10 f)
  | .tforce f => some (wordR 0x207#10 f)
  | .tst f => some (wordR 0x208#10 f)
  | .tgrow f => some (wordI16 0x27E#10 f)
  | .sqry f => some (wordR 0x280#10 f)
  | .sapp f => some (wordR 0x281#10 f)
  | .smrg f => some (wordR 0x282#10 f)
  | .xred f => some (wordR 0x2A0#10 f)
  | .xall f => some (wordR 0x2A1#10 f)
  | .xgath f => some (wordR 0x2A2#10 f)
  | .xbcst f => some (wordR 0x2A3#10 f)
  | .xbar f => some (wordR 0x2A4#10 f)
  | .sysrd f => some (wordR 0x2C0#10 f)
  | .syswr f => some (wordR 0x2C1#10 f)
  | .asinv f => some (wordR 0x2C2#10 f)
  | .killb f => some (wordR 0x2C3#10 f)
  | .ctxsv f => some (wordR 0x2C4#10 f)
  | .ctxld f => some (wordR 0x2C5#10 f)
  | .remap f => some (wordR 0x2C6#10 f)
  | .wstatWrite _ _ => none
  | .rpcmdRegister _ => none
  | .rpcmdRemove _ => none
  | .clauseIssue _ => none
  | .icacheFill _ _ _ => none
  | .translationWalk _ _ => none
  | .fixedLatencyWriteback _ => none
  | .vfoldStamp _ => none
  | .loadResponse _ _ => none
  | .operandLogFault _ _ => none
  | .atomicAtHome _ _ => none
  | .sealedLineApply _ _ => none
  | .engineReturnLand _ => none
  | .engineComplete _ => none
  | .frondOwnerAccess _ _ => none
  | .frondResponse _ _ => none
  | .tileSubtileEval _ _ => none
  | .sieveCommandAccept _ => none
  | .sievePartialSend _ _ => none
  | .sieveRecordLand _ _ => none
  | .sappApply _ => none
  | .bankRefresh _ _ => none
  | .refreshEnd _ _ => none
  | .channelRequestArrive _ _ => none
  | .columnSlot _ => none
  | .stackCrcError _ _ => none
  | .crossbarGrant _ _ => none
  | .switchForward _ _ _ => none
  | .escapeMove _ _ _ => none
  | .packetDeliver _ _ => none
  | .linkFlitReceive _ _ => none
  | .linkNak _ _ => none
  | .windowContributionApply _ => none
  | .windowAckReceive _ => none
  | .windowClose _ _ _ => none
  | .collectiveMeet _ _ => none
  | .collectiveComplete _ => none
  | .blockRetire _ _ => none
  | .launchComplete _ => none
  | .tailStart _ => none
  | .blockDispatch _ => none
  | .ticketSteal _ _ => none
  | .dispatchAging _ _ => none
  | .blockFlush _ _ => none
  | .blockSave _ _ => none
  | .contextWrite _ _ => none
  | .drainTimeout _ _ => none
  | .sliceExpire _ _ => none
  | .sliceContinue _ _ => none
  | .doorbell _ _ _ => none
  | .qcfgWrite _ _ => none
  | .qstatWrite _ _ => none
  | .queueRegisterWrite _ _ _ => none
  | .queueAging _ => none
  | .queueRecordRead => none
  | .queueRecordArrive _ _ => none
  | .launchArriveDie _ _ => none
  | .pcieMemoryWrite _ _ => none
  | .ladleMove _ => none
  | .amArrive _ _ => none
  | .trapOverrun _ => none
  | .errorWindowExpire _ => none
  | .coldStart _ => none
  | .warmReset _ => none
  | .thermalTrip _ => none
  | .attestationQuote _ => none
  | .linkRetrainEnd _ _ => none

end Sys2Proof
end

