-- ==== Sys2Proof/Machine/State.lean ====
section
/-! DEFINITION. The machine's state as plain data: everything the spec gives one package, and `State.reset`. -/

namespace Sys2Proof.Machine

open Sys2Proof

/-- What stops a run. The spec gives every step an effect, so no meaning raises one (safe: nothing is proved from it). -/
inductive Fault where
  /-- Raised by nobody: an access to an address that does not exist is answered by a cause of TCAUSE or by poison
  (22 R374, 24 R413). Safe. -/
  | unreachable
  deriving DecidableEq, Repr

/-- What a step can refuse. -/
inductive Refusal where
  /-- An instruction without a meaning yet: raised by `exec` alone. Safe. -/
  | notModelled (mnemonic : String)
  deriving DecidableEq, Repr

/-- A register that a stall field must cover (05 R132). -/
inductive RegRef where
  | vec (n : Nat)
  | pred (n : Nat)
  | scal (n : Nat)
  deriving DecidableEq, Repr

/-- One word of a fixed-latency result in flight: its register and lane and its value before (05 R132, R133). -/
structure OldReg where
  reg  : RegRef
  lane : Nat
  old  : W64
  deriving DecidableEq, Repr

/-- A fixed-latency result in flight: its registers, the part of its latency no stall field has covered yet, the
completion flag it drives (15 none), the NSTAT bits it sets when it completes, and whether it has (05 R128, R132). -/
structure InFlight where
  regs   : List OldReg
  short  : Nat
  sig    : Nat
  flags  : W32
  landed : Bool
  deriving DecidableEq, Repr

/-- An operand-log entry (19 R338) with how far its access is: `stage` 0 before its walk, 1 before it performs, 2 on its
way back, 3 before its fault is reported; the registers it holds, all its causes, the lanes it has failed or performed
in, its destination words, the address and the data of each lane, the registers of D and B in each lane, the values on
their way, the pages it translated, the seal it waits for, its engine operation,
the generation tag and the phase it was issued in; the lanes whose line has not met the range-lock table (04 R111), whether an
atomic has met no fault and performs, and its lanes whose contributions are on their way (07 R184, 23 R398), the descriptor and the index list read at issue (07 R195), and the
number of an engine operation in issue order (04 R118). -/
structure LogEntry where
  word       : W64
  addr       : W64
  index      : Nat
  aVal       : W64
  bVal       : W64
  lanes      : BitVec 32
  state      : Nat
  cause      : Nat
  faultAddr  : W64
  seq        : Nat
  stage      : Nat
  regs       : List Nat
  causes     : W64
  faultLanes : BitVec 32
  done       : BitVec 32
  dests      : List Nat
  addrs      : Sparse W64
  data       : Sparse W64
  dRegs      : Sparse Nat
  bRegs      : Sparse Nat
  old        : Sparse W64
  pages      : List (Nat × Nat)
  sealNo     : Option Nat
  op         : Option Nat
  gen        : Nat
  phase      : Nat
  unchecked  : BitVec 32 := 0
  begun      : Bool := false
  sent       : BitVec 32 := 0
  desc       : List Byte := []
  list       : List Byte := []
  no         : Nat := 0
  deriving DecidableEq, Repr

/-- The clause a wave is in (21 R366): header 0 at a clause boundary, the clause's address and the next index. -/
structure ClauseCtx where
  header : W64
  base   : W64
  next   : Nat
  deriving DecidableEq, Repr

/-- A cause record (08 R233, 19 R335): what s121 to s125 show, and whether a held log entry raised it (19 R338). -/
structure CauseRec where
  cause  : Nat
  also   : W64
  pc     : W64
  addr   : W64
  lanes  : BitVec 32
  index  : Nat
  code   : BitVec 16
  origin : W64
  resume : Nat
  seq    : Nat
  log    : Bool := false
  deriving DecidableEq, Repr

/-- What an instruction has read at its issue (05 R133): its participating lanes, the step and the cycle count of the reading, and
the results in flight that it may not have seen. -/
structure Reading where
  part   : BitVec 32
  tick   : Nat
  cyc    : W64
  flight : List InFlight
  deriving DecidableEq, Repr

/-- Why a wave is held inside its clause (05 R127, 08 R421). The first six and `force` hold an instruction that has not issued. -/
inductive Wait where
  | flag (sig : Nat)                            -- its completion flag is full (05 R128)
  | log (regs : List Nat) (entry : Bool)        -- no operand-log entry is free, or a register is log-held (07 R184, 19 R338)
  | locks (n : Nat)                             -- too few range-lock entries are free (04 R110)
  | acquire                                     -- behind an .acq atomic (07 R191)
  | nstat                                       -- NSRD and NSCLR behind earlier setters of NSTAT (06 R178)
  | sfold (n : BitVec 16) (d sig : Nat)         -- SFOLD, its destination and flag (06 R177)
  | fwait (token : W64)                         -- FWAIT (07 R201)
  | bwait (bar : Nat) (phase : Bool)            -- BWAIT (07 R203)
  | arrive (bar : Nat)                          -- BARV before its wave's earlier accesses have performed (07 R203)
  | publish (sealNo ph : Nat)                   -- PHSIG or PHADV before its publish point (04 R99, 07 R206)
  | signal (ph : Nat)                           -- PHSIG or PHADV beyond the early signal (07 R206)
  | advance (ph : Nat) (phase : BitVec 32)      -- the wait half of PHADV (07 R206)
  | phwait (ph : Nat) (phase : BitVec 32)       -- PHWAIT (07 R206)
  | fwrs (obj slot : Nat) (eos : Bool) (seq : Nat) -- SQPUSH.com (07 R208)
  | messages (core : Nat) (m : Message)         -- AMSEND with a full destination (07 R210)
  | join (launch : Nat) (gen : Nat)             -- JOIN (08 R226)
  | yield (sig : Nat)                           -- YIELD in a sliced launch, with its flag (08 R229)
  | abandon                                     -- a wait given up by TRET with s125 = 2 (08 R421)
  | restart                                     -- a wait of a restored block of which the device has kept nothing (21 R368)
  | tiles                                       -- behind a forcing tile instruction of the block (09 R250)
  | force (demand : List (Nat × W64)) (lock : Option Nat) (pages : List (Nat × Nat)) (read : Reading) -- a forcing: tiles and
                                                -- their masks, a lock taken, the pages translated for it (09 R258, R259, 22
                                                -- R381), and what the instruction has read (05 R133)
  | asinv (held : List (Nat × Nat × Nat)) (ops : List Nat) -- ASINV until accesses that used a translation end (19 R326)
  | context (core slot uid : Nat)               -- CTXSV until the block's context is written (21 R363)
  | written (bytes : Nat)                       -- CTXSV once it is
  | slotFree (core slot uid : Nat)              -- KILLB until the slot is free (19 R334)
  deriving DecidableEq, Repr

/-- What the device saves at handler entry and TRET restores (08 R233), with the selection of its groups (01 R22, R23), the yield
point that its clause owes (08 R229), and whether a held log entry raised its cause. -/
structure Saved where
  pc      : Sparse W64
  meet    : Sparse W64
  held    : BitVec 32
  clause  : ClauseCtx
  trivSet : List (Nat × BitVec 32)
  trivet  : Sparse W32
  high    : List W64
  entry   : W64
  raiser  : W64
  index   : Nat
  cause   : Nat
  resume  : Nat
  wait    : Option Wait
  seq     : Nat
  group   : BitVec 32 := 0
  groupLen : Nat := 0
  rotated : Bool := false
  skipAt  : Option W64 := none
  yieldDue : Bool := false
  log     : Bool := false
  issues  : Nat := 0
  last    : Sparse Nat := []
  deriving DecidableEq, Repr

/-- A wave (01 R17, R18, R27); `skipAt` is the address of an instruction that TRET skips (08 R235), `past` names the accesses
that ended handlers issued, from a count to a count, with the cause that a fault of theirs ends the block with (08 R237),
`yieldDue` is a YIELD that makes its clause's end a yield point (08 R229), and `issues` and `last` count the wave's issues and hold
for each thread the count at its last clause or its release (01 R23). -/
structure Wave where
  pc        : Sparse W64 := []
  meet      : Sparse W64 := []
  exited    : BitVec 32 := 0
  held      : BitVec 32 := 0
  group     : BitVec 32 := 0
  groupLen  : Nat := 0
  rotated   : Bool := false
  v         : Sparse W32 := []
  x         : Sparse W32 := []
  p         : Sparse W32 := []
  s         : Sparse W64 := []
  k         : Sparse Nat := []
  fold      : W64 := 0
  foldSeq   : BitVec 16 := 0
  foldq     : List (W64 × Nat × Nat) := []
  nstat     : W32 := 0
  tcause    : W64 := 0
  demoted   : Bool := false
  overrun   : Bool := false
  handler   : Bool := false
  hstart    : Nat := 0
  hcyc      : Nat := 0
  hpast     : Bool := false
  tmask     : W64 := 0
  log       : Sparse LogEntry := []
  accesses  : Nat := 0
  clause    : ClauseCtx := ⟨0, 0, 0⟩
  trivet    : Sparse W32 := []
  trivSet   : List (Nat × BitVec 32) := []
  inflight  : List InFlight := []
  pend      : Sparse Bool := []
  wait      : Option Wait := none
  saved     : Option Saved := none
  record    : Option CauseRec := none
  yielding  : Bool := false
  fences    : List (Nat × Nat) := []
  reissue   : List Nat := []
  since     : Option Nat := none
  skipAt    : Option W64 := none
  past      : List (Nat × Nat × Nat) := []
  yieldDue  : Bool := false
  issues    : Nat := 0
  last      : Sparse Nat := []
  deriving DecidableEq, Repr

/-- A journal line: physical 64-byte line, the phase it was stored in, which of the journal's 16,384 places holds its
bytes and its mask in the die's pools (04 R94, R95; DESIGN CHOICE, log 14), and by wave the count of accesses at its last
store to the line (04 R122, note 6). -/
structure JLine where
  line  : Nat
  phase : Nat
  place : Nat
  after : Sparse Nat := []
  deriving DecidableEq, Repr

/-- A block's journal (04 R94): its number in its die's pool, the count of seals, its lines, and its filter bits. -/
structure Journal where
  num    : Nat
  die    : Nat
  phase  : Nat
  lines  : List JLine
  filter : List Nat
  deriving DecidableEq, Repr

/-- A barrier object (07 R202). -/
structure Barrier where
  expected : BitVec 16
  arrived  : BitVec 16
  bytes    : BitVec 32
  mask     : BitVec 32
  phase    : Bool
  deriving DecidableEq, Repr

/-- A tile control register with its valid bitmap (09 R238, R241). -/
structure Tile where
  w0       : W64
  w1       : W64
  producer : Option Nat
  readers  : W64
  valid    : W64
  deriving DecidableEq, Repr

/-- A thunk-table node (09 R245). State: 0 free, 1 pending, 2 faulted; the 8-byte units that it has read (04 R113),
and its wave's count of accesses when it was appended (04 R120). -/
structure Node where
  origin    : W64
  index     : Nat
  wave      : Nat
  op        : Nat
  modifier  : BitVec 6
  dest      : Nat
  selfRead  : Bool
  state     : Nat
  cause     : Nat
  a         : BitVec 10
  b         : BitVec 10
  prm       : W64
  memAddr   : W64
  memPitch  : W64
  seq       : Nat
  faultAddr : W64
  pages     : List (Nat × Nat)
  lock      : Option Nat
  buf       : Sparse W64 := []
  since     : Nat := 0
  deriving DecidableEq, Repr

/-- A block resident on a core or saved (01 R27, R28; 21 R363); `place` holds the pieces of the core's rows in
which its reservation of `rows` rows and then its TGROW extents lie (02 R51; DEDUCED, log 30), `extents` its tile extents by their
first row among them; `group` is the place of its placement group in its launch,
`drained` says that a drain of it has timed out (21 R360). -/
structure Block where
  uid       : Nat
  launch    : Nat
  linear    : Nat
  core      : Nat
  slot      : Nat
  place     : List (Nat × Nat)
  rows      : Nat
  waves     : Sparse Wave := []
  nwaves    : Nat
  budget    : Nat
  commonLen : Nat
  tileLen   : Nat
  nbar      : Nat
  ntiles    : Nat
  common    : Sparse Byte := []
  tile      : Sparse Byte := []
  cpend     : Sparse Bool := []
  tpend     : Sparse Bool := []
  segs      : List (Nat × Nat × Nat) := []
  extents   : List (Nat × Nat) := []
  tiles     : Sparse Tile := []
  nodes     : Sparse Node := []
  appends   : Nat := 0
  demand    : List (Nat × W64) := []
  bars      : Sparse Barrier := []
  events    : List W64 := []
  journal   : Journal
  gen       : Nat := 0
  stage     : Option Nat := none
  retired   : Nat := 0
  sliceFrom : Option Nat := none
  sliceUsed : Nat := 0
  expired   : Bool := false
  offered   : Option Nat := none
  killed    : Bool := false
  faulted   : Option Nat := none
  draining  : Option Nat := none
  stopping  : Option Bool := none
  prio      : Nat := 0
  placed    : Nat := 0
  sender    : Option (Nat × Nat) := none
  pinDie    : Option Nat := none
  pinCore   : Option Nat := none
  deadline  : Option Nat := none
  saving    : Bool := false
  saveTo    : List Nat := []
  group     : Nat := 0
  drained   : Bool := false
  deriving DecidableEq, Repr

/-- A range-lock entry of a core: owner operation or node, physical line intervals, and whether it writes (04 R110). -/
structure Lock where
  core   : Nat
  owner  : Nat
  writes : Bool
  lines  : List (Nat × Nat)
  deriving DecidableEq, Repr

/-- Kinds of engine operation (04 R110). -/
inductive OpKind where
  | kick | gath | ald | tst | sqry | sapp
  | coll (code : Nat)
  deriving DecidableEq, Repr

/-- Where bytes of an engine operation lie: home memory, common area, tile area or thread registers. -/
inductive Space where
  | memory | common | tile | regs
  deriving DecidableEq, Repr

/-- A Sieve command (11 R281, R285): the query and the rows it scans, by physical address. -/
structure Scan where
  pc       : Nat
  d        : Nat
  n        : Nat
  scale    : W32
  kSlot    : W64
  vSlot    : W64
  kBase    : Nat
  vBase    : Nat
  kVirt    : W64
  vVirt    : W64
  kStride  : Nat
  vStride  : Nat
  query    : List W32
  record   : Nat
  accepted : Bool
  sent     : List (Nat × List Byte)
  landed   : List Nat
  poison   : Option (Nat × W64)
  deriving DecidableEq, Repr

/-- An instance of a collective (12 R296, R301): what peers compare, its data, and the digest taken. -/
structure Instance where
  package  : Nat
  tenant   : Nat
  cid      : Nat
  code     : Nat
  rep      : Bool
  oper     : Nat
  elements : Nat
  root     : Nat
  first    : Nat
  count    : Nat
  det      : Bool
  op       : Option Nat
  data     : List Byte
  digest   : Nat
  status   : Nat
  src      : Nat
  dst      : Nat
  deriving DecidableEq, Repr

/-- An engine operation in flight (04 R110, 07 R193-R195): units still to read and to land or write, by index and
address, what its completion does, its wave's count of accesses at its issue (04 R120), its place in issue order, which a
re-issue keeps (04 R118), whether it has begun, so that its packets are under way (23 R399), and the service class and deadline budget
of its requests (23 R403). -/
structure EngineOp where
  id       : Nat
  kind     : OpKind
  w        : WaveId
  uid      : Nat
  gen      : Nat
  sig      : Nat
  entry    : Option Nat
  unit     : Nat
  rd       : List (Nat × Nat)
  rdSpace  : Space
  wr       : List (Nat × Nat)
  wrSpace  : Space
  buf      : Sparse W64
  barrier  : Nat
  credit   : Nat
  post     : Bool
  tag      : Nat
  scan     : Option Scan
  inst     : Option Instance
  sealNo   : Option Nat
  status   : Nat
  virt     : List (Nat × W64)
  faulted  : Bool
  phase    : Nat
  seq      : Nat := 0
  issued   : Nat := 0
  begun    : Bool := false
  service  : Nat × Nat := (1, 0)
  deriving DecidableEq, Repr

/-- A member of a phaser (07 R204, R206): the wave by launch, linear index and number, as 21 R363 names it. -/
structure Member where
  launch  : Nat
  linear  : Nat
  wave    : Nat
  signals : Bool
  waits   : Bool
  count   : Nat
  leaving : Bool
  deriving DecidableEq, Repr

/-- A phaser (07 R204). -/
structure Phaser where
  phase   : BitVec 32
  current : Nat
  early   : Nat
  members : List Member
  deriving DecidableEq, Repr

/-- State of a stage-queue slot (07 R208). -/
inductive SlotState where
  | free | pushing | filled | popping
  deriving DecidableEq, Repr

/-- A stage-queue object (07 R207-R209, 18 R322, R323): who reserved each slot is kept for 18 R324; `order` holds the slots
reserved for pushing or filled, in ring order, and `eos` the slots marked end of stream; `fired` holds the firings that wait for a
pool block, true of the high threshold, and `moves` the blocks taken whose move waits for an event entry (18 R323, 20 R353). -/
structure StageQueue where
  registered : Bool
  ring       : W64
  slots      : List (SlotState × Option (Nat × Nat))
  high       : Nat
  low        : Nat
  producer   : Nat
  consumer   : Nat
  push       : Nat
  order      : List Nat
  eos        : List Nat
  eosPopped  : Bool
  highArmed  : Bool
  lowArmed   : Bool
  tenant     : Nat
  fired      : List Bool := []
  moves      : List (Nat × Bool) := []
  deriving DecidableEq, Repr

/-- A launch record (01 R30-R32): its words. -/
structure Record where
  entry    : W64
  arg      : W64
  handler  : W64
  control  : W64
  common   : Nat
  tile     : Nat
  clauses  : Nat
  slice    : Nat
  deadline : Nat
  inner    : Nat
  target   : W64
  levels   : List W64
  slots    : List W64
  reserved : Bool
  deriving DecidableEq, Repr

/-- A placement group of a launch (01 R36, R37): pinned die, the core it is pinned to as 512 × die + index in the tenant's
partition (22 R385), and its ticket ranges: die, first index, end and deadline. -/
structure Group where
  pinDie  : Option Nat
  pinCore : Option Nat
  ranges  : List (Nat × Nat × Nat × Nat)
  deriving DecidableEq, Repr

/-- A launch (01 R30-R44, 08 R223-R226, 20 R343-R346): `aged` holds, for each group that waits on a die (`agedKey`), the
levels gained and since when; `homeDie` is its home die. -/
structure Launch where
  record    : Record
  host      : Bool
  die       : Nat
  entry     : Nat
  gen       : Nat
  tenant    : Nat
  asid      : Nat
  priv      : Bool
  prio      : Nat
  fn        : Nat
  queue     : Nat
  group     : Nat × Nat
  parent    : Option (Nat × Nat)
  parentLoc : Nat
  demoted   : Bool
  isTail    : Bool
  started   : Bool
  tail      : Option Nat
  reject    : Nat
  groups    : List Group
  total     : Nat
  completed : Nat
  faulted   : Nat
  killed    : Nat
  firstIdx  : Option Nat
  firstCause : Nat
  messages  : Nat
  ended     : List (Nat × Nat)
  arrivals  : List (Nat × Nat)
  aged      : List (Nat × Nat × Nat)
  complete  : Bool
  order     : Nat
  homeDie   : Nat := 0
  deriving DecidableEq, Repr

/-- A work queue's registers and its acceptance state (20 R340-R342). -/
structure Queue where
  cfg     : W64
  base    : W64
  head    : BitVec 32
  tail    : BitVec 32
  grp     : W64
  stat    : W64
  prio    : Nat
  since   : Nat
  reading : Bool
  deriving DecidableEq, Repr

/-- A pseudo-channel's side of a bus that it shares (23 R405): the cycle in which its pending command was chosen, and that of
its last grant. -/
structure BusSide where
  pending : Option Nat := none
  granted : Option Nat := none
  deriving DecidableEq, Repr

/-- A pseudo-channel (11 R293, R294; 23 R403-R406): accepted scans, per class the requests with arrival and deadline, the
number of its next slot, the banks under refresh with their start, the banks' last refreshes, the request chosen for the
slot, its row and column commands on their buses, whether a transfer was abandoned. -/
structure Channel where
  sieveq  : List Nat
  queues  : List (List (ChanReq × Nat × Nat))
  slot    : Nat := 0
  refresh : Sparse Nat := []
  lastRef : Sparse Nat := []
  chosen  : Option (ChanReq × Nat × Nat) := none
  row     : BusSide := {}
  col     : BusSide := {}
  failed  : Bool := false
  deriving DecidableEq, Repr

/-- A lane of a crossbar port, or a switch's queue (23 R387, R400, R401): per traffic class the normal and the escape channel,
the counter value since which each normal head waits, the classes whose heads go on into the escape channel; the
dispatcher cycle to which the lane sends or receives a packet; packets it has put out; packets ahead of their sequence. -/
structure PortQueues where
  normal  : List (List Packet)
  escape  : List (List Packet)
  since   : List Nat
  moving  : List Nat
  sending : Nat
  busy    : Nat
  output  : List Packet
  hold    : List Packet
  deriving DecidableEq, Repr

/-- One direction of a link (23 R394): the sender's next sequence and unacknowledged flits, the receiver's expected
sequence, NAKs in succession for one sequence, and whether it retrains or is retired. -/
structure Link where
  nextSeq   : Nat
  sent      : List Flit
  expectSeq : Nat
  naks      : Nat
  nakSeq    : Nat
  retrain   : Bool
  retired   : Bool
  deriving DecidableEq, Repr

/-- An ECC error that the hardware meets (24 R409), an input: class 1 to 4; for classes 1 and 2 the logical core and the
block that owns the word, for classes 3 and 4 the physical address of the 8-byte unit. -/
structure HwError where
  cls  : Nat
  core : Nat
  uid  : Option Nat
  addr : Nat
  deriving DecidableEq, Repr

/-- A contribution to a reduction window (12 R304, R305; 23 R398): its source, whether it returns a value, and whether it is
on its way (0), acknowledged at home (1) or back (2). -/
structure Contribution where
  package : Nat
  w       : WaveId
  entry   : Nat
  lane    : Nat
  value   : W64
  uid     : Nat
  phase   : Nat
  ret     : Bool
  stage   : Nat
  deriving DecidableEq, Repr

/-- A group of contributions to one address that are merged into one write, or collected for one phase tag; `pa` is what its
address has translated to at a home in this package (23 R398). -/
structure WinGroup where
  window  : Nat
  addr    : W64
  oper    : Nat
  det     : Bool
  tag     : Bool
  parts   : List Contribution
  applied : Bool
  value   : W64
  failed  : Option Nat
  pa      : Nat := 0
  deriving DecidableEq, Repr

/-- A context saved by the dispatcher (21 R367): the die whose slot holds it. -/
structure SavedSlot where
  die   : Nat
  slot  : Option Nat
  addr  : Nat
  block : Block
  level : Nat
  since : Nat
  deriving DecidableEq, Repr

/-- A held translation (22 R376). -/
structure HeldPage where
  asid : Nat
  va   : Nat
  size : Nat
  leaf : W64
  deriving DecidableEq, Repr

/-- An instruction cache line of a core (22 R377), with the tenant that its translation was checked for (22 R374, R383). -/
structure ILine where
  core : Nat
  asid : Nat
  tenant : Nat
  line : Nat
  data : List Byte
  deriving DecidableEq, Repr

/-- A registered REPLICA page (22 R382). -/
structure Replica where
  page   : Nat
  size   : Nat
  tenant : Nat
  base   : Nat
  deriving DecidableEq, Repr

/-- Where the part stands in a start (24 R416, R417). -/
inductive Power where
  | running | failed | stopped
  deriving DecidableEq, Repr

/-- The machine. -/
structure State where
  tick       : Nat := 0
  clock      : Nat := 0
  cur        : WaveId := ⟨0, 0, 0⟩
  agenda     : List Instr := []
  slots      : Sparse Nat := []
  running    : List WaveId := []
  mem        : List Host.Cell := []
  poison     : List Nat := []
  blocks     : Sparse Block := []
  saved      : List SavedSlot := []
  frondGen   : Sparse (BitVec 8) := []
  nextUid    : Nat := 0
  launches   : Sparse Launch := []
  nextLaunch : Nat := 0
  hostGen    : Sparse (BitVec 8) := []
  devGen     : Sparse (BitVec 8) := []
  ops        : Sparse EngineOp := []
  nextOp     : Nat := 0
  orphans    : Sparse Scan := []
  ladleNext  : Sparse Nat := []
  tileTurn   : Sparse Nat := []
  locks      : List Lock := []
  phasers    : Sparse Phaser := []
  stageqs    : Sparse StageQueue := []
  coreReg    : Sparse W64 := []
  dieReg     : Sparse W64 := []
  pkgReg     : Sparse W64 := []
  journals   : List (Nat × Nat) := []
  msgq       : Sparse (List Message) := []
  queues     : Sparse Queue := []
  lastQueue  : Nat := 4095
  nextRead   : Nat := 0
  channels   : Sparse Channel := []
  ports      : Sparse PortQueues := []
  lrg        : Sparse (List Nat) := []
  flows      : Sparse Nat := []
  flowsSent  : Sparse Nat := []
  switches   : Sparse PortQueues := []
  links      : Sparse Link := []
  wingroups  : Sparse WinGroup := []
  closes     : List (Nat × Nat × Nat) := []
  closesSent : List (Nat × Nat × Nat) := []
  winArrivals : List WinGroup := []
  nextGroup  : Nat := 0
  peers      : List Instance := []
  instances  : List Instance := []
  digests    : Sparse Nat := []
  replicas   : List Replica := []
  held       : List HeldPage := []
  icache     : List ILine := []
  errors     : Sparse Nat := []
  windows    : Sparse Nat := []
  hwErrors   : List HwError := []
  retiredU   : List Nat := []
  badCores   : List Nat := []
  deaf       : List Nat := []
  healthAt   : W64 := 0
  worst      : Nat := 0
  power      : Power := .running
  nextCold   : Bool := false
  starts     : Nat := 0
  measures   : List (List Byte) := List.replicate 4 (List.replicate 64 0)
  quotes     : List (List Byte) := []
  msi        : List (Nat × Nat) := []
  room       : Sparse (Nat × Nat × Nat) := []
  deriving DecidableEq, Repr

/-- The machine right after a cold start (24 R416): memory zero, no block, every register at the reset value of its
table; `RMAP`, `VFPOL` and `TPART` have their reset values through their defaults in Ops (24 R411, 19 R329, 22 R385). -/
def State.reset : State := {}

end Sys2Proof.Machine
end

