-- ==== Sys2Proof/Machine/Sparse.lean ====
section
/-! DEFINITION. Reading and writing sparse maps: rising keys, no entry equal to the default. -/

namespace Sys2Proof.Machine

open Sys2Proof

variable {α : Type}

/-- The value at a key, `d` where none is listed. -/
def spGet (d : α) : Sparse α → Nat → α
  | [], _ => d
  | (k, v) :: t, j => if k = j then v else spGet d t j

/-- The listed value at a key. -/
def spFind : Sparse α → Nat → Option α
  | [], _ => none
  | (k, v) :: t, j => if k = j then some v else spFind t j

/-- List a value at a key, in rising order of keys. -/
def spPut : Sparse α → Nat → α → Sparse α
  | [], k, v => [(k, v)]
  | (k', v') :: t, k, v =>
    if k < k' then (k, v) :: (k', v') :: t
    else if k = k' then (k, v) :: t
    else (k', v') :: spPut t k v

/-- Remove a key. -/
def spDel (m : Sparse α) (k : Nat) : Sparse α := m.filter (fun e => e.1 != k)

/-- Write a value at a key: writing the default removes the entry. -/
def spSet [DecidableEq α] (d : α) (m : Sparse α) (k : Nat) (v : α) : Sparse α :=
  if v = d then spDel m k else spPut m k v

/-- Change the listed value at a key. -/
def spMod (m : Sparse α) (k : Nat) (f : α → α) : Sparse α :=
  m.map (fun e => if e.1 = k then (e.1, f e.2) else e)

/-- Keys strictly rising. -/
def spSorted : Sparse α → Bool
  | [] => true
  | [_] => true
  | (k, _) :: (k', v') :: t => k < k' && spSorted ((k', v') :: t)

/-- The canonical form: keys strictly rising and no entry equal to the default. -/
def spWf [DecidableEq α] (d : α) (m : Sparse α) : Bool :=
  spSorted m && m.all (fun e => e.2 != d)

/-- Lanes 0 to 31, ascending (00 R2). -/
def lanes32 : List Nat :=
  [0, 1, 2, 3, 4, 5, 6, 7, 8, 9, 10, 11, 12, 13, 14, 15, 16, 17, 18, 19, 20, 21, 22, 23, 24, 25, 26, 27, 28, 29, 30, 31]

/-- The lanes of a mask, ascending. -/
def lanesOf (m : BitVec 32) : List Nat := lanes32.filter (fun l => m.getLsbD l)

/-- The mask of the lanes that satisfy a test. -/
def maskOf (p : Nat → Bool) : BitVec 32 :=
  lanes32.foldl (fun m l => if p l then m ||| (1#32 <<< l) else m) 0#32

/-- A sparse map of the 32 lanes. -/
def spOf32 [DecidableEq α] (d : α) (f : Nat → α) : Sparse α :=
  lanes32.filterMap fun l => if f l = d then none else some (l, f l)

/-- The lowest set lane of a mask, 0 for none. -/
def lowLane (m : BitVec 32) : Nat := (lanesOf m).headD 0

/-- The numbers from a to b - 1. -/
def rangeFrom (a n : Nat) : List Nat := (List.range n).map (a + ·)

/-- The first present cause of a list of checks in order (05 R138). -/
def firstSome : List (Option α) → Option α
  | [] => none
  | some a :: _ => some a
  | none :: t => firstSome t

/-- Insertion into a list kept in rising order of a rank. -/
def insertBy (rank : α → Nat) (x : α) : List α → List α
  | [] => [x]
  | y :: t => if rank x < rank y then x :: y :: t else y :: insertBy rank x t

/-- Stable sort by a rank. -/
def sortBy (rank : α → Nat) (l : List α) : List α := l.foldl (fun acc x => insertBy rank x acc) []

/-- The first element of lowest rank. -/
def minBy (rank : α → Nat) : List α → Option α
  | [] => none
  | x :: t => some (t.foldl (fun m y => if rank y < rank m then y else m) x)

end Sys2Proof.Machine
end

