-- ==== Sys2Proof/Machine/Reals.lean ====
section
/-! DEFINITION. Exact values, number formats, rounding and conversion (03 R74-R86): every result is an exact value
rounded once by a named function (00 R11). -/

namespace Sys2Proof.Machine

open Sys2Proof

/-- An exact value: a NaN, an infinity, or a rational `num / den` with a sign, zeros included. -/
inductive XReal where
  | nan
  | inf (neg : Bool)
  | fin (neg : Bool) (num den : Nat)
  deriving DecidableEq, Repr

/-- NSTAT bits (03 R74). -/
def fINVALID : W32 := 1
def fOVERFLOW : W32 := 2
def fNANLOST : W32 := 4
def fINT4RES : W32 := 8
def fINTSAT : W32 := 16
def fDIVZERO : W32 := 32

/-- A value with the NSTAT bits its computation sets. -/
structure Fl (α : Type) where
  val   : α
  flags : W32
  deriving DecidableEq, Repr

/-- A float format (03 R75, R78): exponent and mantissa bits, bias, specials policy, whether it has a sign bit. -/
structure FloatFmt where
  e        : Nat
  m        : Nat
  bias     : Int
  specials : Nat
  signed   : Bool
  deriving DecidableEq, Repr

def fp32 : FloatFmt := ⟨8, 23, 127, 2, true⟩
def bf16 : FloatFmt := ⟨8, 7, 127, 2, true⟩
def fp16 : FloatFmt := ⟨5, 10, 15, 2, true⟩

/-- `n * 2 ^ k` as a fraction. -/
def scale2 (n : Nat) (k : Int) : Nat × Nat :=
  if 0 ≤ k then (n * 2 ^ k.toNat, 1) else (n, 2 ^ (-k).toNat)

/-- A dyadic value. -/
def dyadic (neg : Bool) (n : Nat) (k : Int) : XReal :=
  let r := scale2 n k
  .fin neg r.1 r.2

def xzero : XReal := .fin false 0 1
def xone : XReal := .fin false 1 1
def xnegzero : XReal := .fin true 0 1

/-- The value of a code (03 R75, R78). -/
def decodeFloat (f : FloatFmt) (q : Nat) : XReal :=
  let mant := q % 2 ^ f.m
  let ex := q / 2 ^ f.m % 2 ^ f.e
  let neg := f.signed && q / 2 ^ (f.m + f.e) % 2 == 1
  let ones := 2 ^ f.e - 1
  if f.specials = 2 ∧ ex = ones then (if mant = 0 then .inf neg else .nan)
  else if f.specials = 1 ∧ ex = ones ∧ mant = 2 ^ f.m - 1 then .nan
  else if ex = 0 then dyadic neg mant (1 - f.bias - f.m)
  else dyadic neg (2 ^ f.m + mant) ((ex : Int) - f.bias - f.m)

/-- The largest finite exponent and mantissa fields (03 R78). -/
def maxFields (f : FloatFmt) : Nat × Nat :=
  if f.specials = 0 then (2 ^ f.e - 1, 2 ^ f.m - 1)
  else if f.specials = 1 then (if f.m = 0 then (2 ^ f.e - 2, 0) else (2 ^ f.e - 1, 2 ^ f.m - 2))
  else (2 ^ f.e - 2, 2 ^ f.m - 1)

/-- A code from its sign, exponent and mantissa. -/
def packFloat (f : FloatFmt) (neg : Bool) (ex mant : Nat) : Nat :=
  (if neg && f.signed then 2 ^ (f.m + f.e) else 0) + ex * 2 ^ f.m + mant

/-- The canonical NaN of a format that has one (03 R75, R78). -/
def canonicalNan (f : FloatFmt) : Nat :=
  if f.specials = 1 then packFloat f false (2 ^ f.e - 1) (2 ^ f.m - 1)
  else packFloat f false (2 ^ f.e - 1) (2 ^ (f.m - 1))

def infCode (f : FloatFmt) (neg : Bool) : Nat := packFloat f neg (2 ^ f.e - 1) 0
def maxCode (f : FloatFmt) (neg : Bool) : Nat := packFloat f neg (maxFields f).1 (maxFields f).2

/-- The exponent of the leading bit of a positive fraction. -/
def floorLog2 (num den : Nat) : Int :=
  let l : Int := (Nat.log2 num : Int) - (Nat.log2 den : Int)
  let ge := if 0 ≤ l then decide (den * 2 ^ l.toNat ≤ num) else decide (den ≤ num * 2 ^ (-l).toNat)
  if ge then l else l - 1

/-- Whether the magnitude between `n` and `n + 1`, with remainder `r` of `d`, goes up under a rounding mode (03 R77). A
tie goes to the even `n`; in a format without mantissa bits, where both neighbours have the same mantissa, `n` keeps its
implicit bit (DESIGN CHOICE, log 72). -/
def roundsUp (mode : Nat) (neg : Bool) (n r d : Nat) : Bool :=
  if r = 0 then false
  else match mode with
    | 0 => decide (d < 2 * r) || (decide (2 * r = d) && n % 2 == 1)
    | 1 => false
    | 2 => decide (d ≤ 2 * r)
    | _ => neg

/-- Round `num / den` to a multiple of `2 ^ q`: the multiple. -/
def roundQuantum (mode : Nat) (neg : Bool) (num den : Nat) (q : Int) : Nat :=
  let d := if 0 ≤ q then den * 2 ^ q.toNat else den
  let n := if 0 ≤ q then num else num * 2 ^ (-q).toNat
  let k := n / d
  if roundsUp mode neg k (n % d) d then k + 1 else k

/-- round to a format's precision with the exponent unbounded above (03 R77): exponent and mantissa fields. -/
def roundFields (f : FloatFmt) (mode : Nat) (neg : Bool) (num den : Nat) : Int × Nat :=
  if num = 0 then (0, 0)
  else
    let low : Int := 1 - f.bias - f.m
    let q := max (floorLog2 num den - f.m) low
    let k := roundQuantum mode neg num den q
    if k < 2 ^ f.m then (0, k)
    else if k < 2 ^ (f.m + 1) then (q + f.bias + f.m, k - 2 ^ f.m)
    else (q + 1 + f.bias + f.m, 0)

/-- Conversion of an exact value into a float format (03 R77, R85): code and NSTAT bits. A NaN made from an infinity or an
overflow is one made of no NaN, which R74 names INVALID. -/
def encodeFloat (f : FloatFmt) (mode : Nat) (sat : Bool) (x : XReal) : Fl Nat :=
  match x with
  | .nan => if f.specials = 0 then ⟨0, fNANLOST⟩ else ⟨canonicalNan f, 0⟩
  | .inf neg =>
    if neg && !f.signed then ⟨0, fOVERFLOW⟩
    else if f.specials = 0 || sat then ⟨maxCode f neg, 0⟩
    else if f.specials = 1 then ⟨canonicalNan f, fINVALID⟩
    else ⟨infCode f neg, 0⟩
  | .fin neg num den =>
    let r := roundFields f mode neg num den
    if neg && !f.signed then ⟨0, if r = (0, 0) then 0 else fOVERFLOW⟩
    else
      let mx := maxFields f
      if (mx.1 : Int) < r.1 || (decide ((mx.1 : Int) = r.1) && decide (mx.2 < r.2)) then
        if f.specials = 0 || sat then ⟨maxCode f neg, fOVERFLOW⟩
        else if f.specials = 1 then ⟨canonicalNan f, fOVERFLOW ||| fINVALID⟩
        else if mode = 1 || (mode = 3 && !neg) then ⟨maxCode f neg, fOVERFLOW⟩
        else ⟨infCode f neg, fOVERFLOW⟩
      else ⟨packFloat f neg r.1.toNat r.2, 0⟩

/-- Conversion of an exact value into an integer range (03 R79, R85). -/
def encodeInt (lo hi : Int) (mode : Nat) (x : XReal) : Fl Int :=
  match x with
  | .nan => ⟨0, fNANLOST⟩
  | .inf neg => ⟨if neg then lo else hi, fINTSAT⟩
  | .fin neg num den =>
    let k : Int := roundQuantum mode neg num den 0
    let v := if neg then -k else k
    if v < lo then ⟨lo, fINTSAT⟩ else if hi < v then ⟨hi, fINTSAT⟩ else ⟨v, 0⟩

/-- Exact sum (03 R76): a zero sum is +0 unless both addends are -0. -/
def xadd (x y : XReal) : Fl XReal :=
  match x, y with
  | .nan, _ => ⟨.nan, 0⟩
  | _, .nan => ⟨.nan, 0⟩
  | .inf a, .inf b => if a = b then ⟨.inf a, 0⟩ else ⟨.nan, fINVALID⟩
  | .inf a, .fin _ _ _ => ⟨.inf a, 0⟩
  | .fin _ _ _, .inf b => ⟨.inf b, 0⟩
  | .fin a n d, .fin b m e =>
    let s : Int := (if a then -((n * e : Nat) : Int) else (n * e : Nat)) + (if b then -((m * d : Nat) : Int) else (m * d : Nat))
    if s = 0 then ⟨.fin (a && b && n == 0 && m == 0) 0 1, 0⟩
    else ⟨.fin (decide (s < 0)) s.natAbs (d * e), 0⟩

def xneg : XReal → XReal
  | .nan => .nan
  | .inf a => .inf (!a)
  | .fin a n d => .fin (!a) n d

def xabs : XReal → XReal
  | .nan => .nan
  | .inf _ => .inf false
  | .fin _ n d => .fin false n d

/-- Exact product (03 R76). -/
def xmul (x y : XReal) : Fl XReal :=
  match x, y with
  | .nan, _ => ⟨.nan, 0⟩
  | _, .nan => ⟨.nan, 0⟩
  | .inf a, .inf b => ⟨.inf (a != b), 0⟩
  | .inf a, .fin b n _ => if n = 0 then ⟨.nan, fINVALID⟩ else ⟨.inf (a != b), 0⟩
  | .fin a n _, .inf b => if n = 0 then ⟨.nan, fINVALID⟩ else ⟨.inf (a != b), 0⟩
  | .fin a n d, .fin b m e => ⟨.fin (a != b) (n * m) (d * e), 0⟩

/-- Exact product and sum of one operation: INVALID only where no operand is a NaN (03 R74; DEDUCED for 0 times infinity
and a NaN addend, log 73). -/
def xfma (x y z : XReal) : Fl XReal :=
  if x = .nan ∨ y = .nan ∨ z = .nan then ⟨.nan, 0⟩
  else
    let p := xmul x y
    let r := xadd p.val z
    ⟨r.val, p.flags ||| r.flags⟩

/-- An exact sum of terms from a first one (03 R76, R88): a NaN among them gives a NaN, opposite infinities among them
give one with INVALID where no term is a NaN; the flags of the terms are kept. -/
def xsum (x : Fl XReal) (ps : List (Fl XReal)) : Fl XReal :=
  let fl := ps.foldl (fun f p => f ||| p.flags) x.flags
  if x.val = .nan ∨ ps.any (fun p => p.val == .nan) = true then ⟨.nan, fl⟩
  else
    let r := ps.foldl (fun (a : Fl XReal) p =>
      let q := xadd a.val p.val
      ⟨q.val, a.flags ||| q.flags⟩) ⟨x.val, 0⟩
    ⟨r.val, fl ||| r.flags⟩

/-- Exact quotient (03 R74, R76). -/
def xdiv (x y : XReal) : Fl XReal :=
  match x, y with
  | .nan, _ => ⟨.nan, 0⟩
  | _, .nan => ⟨.nan, 0⟩
  | .inf _, .inf _ => ⟨.nan, fINVALID⟩
  | .inf a, .fin b _ _ => ⟨.inf (a != b), 0⟩
  | .fin a _ _, .inf b => ⟨.fin (a != b) 0 1, 0⟩
  | .fin a n d, .fin b m e =>
    if m = 0 then (if n = 0 then ⟨.nan, fINVALID⟩ else ⟨.inf (a != b), fDIVZERO⟩)
    else ⟨.fin (a != b) (n * e) (d * m), 0⟩

/-- The float types of lane operations by type code (05 R139): 2 f32, 3 bf16, 4 f16. -/
def typeFmt (t : Nat) : FloatFmt := if t = 3 then bf16 else if t = 4 then fp16 else fp32

/-- The value of a lane word read as a float type: 16-bit types take bits [15:0] (06 R150). -/
def floatVal (t : Nat) (w : W32) : XReal :=
  decodeFloat (typeFmt t) (if t = 2 then w.toNat else w.toNat % 65536)

/-- An exact value rounded once into a float type (06 R163). -/
def roundType (t mode : Nat) (x : Fl XReal) : Fl W32 :=
  let r := encodeFloat (typeFmt t) mode false x.val
  ⟨BitVec.ofNat 32 r.val, x.flags ||| r.flags⟩

/-- FP32 operations rounded to nearest-even. -/
def f32 (w : W32) : XReal := floatVal 2 w
def rnd32 (x : Fl XReal) : Fl W32 := roundType 2 0 x
def add32 (a b : W32) : Fl W32 := rnd32 (xadd (f32 a) (f32 b))
def mul32 (a b : W32) : Fl W32 := rnd32 (xmul (f32 a) (f32 b))
def fma32 (a b c : W32) : Fl W32 := rnd32 (xfma (f32 a) (f32 b) (f32 c))

def nan32 : W32 := 0x7FC00000
def inf32 : W32 := 0x7F800000
def ninf32 : W32 := 0xFF800000
def one32 : W32 := 0x3F800000
def nzero32 : W32 := 0x80000000

/-- Whether a code of a float type is a NaN. -/
def isNan (t : Nat) (w : W32) : Bool := floatVal t w == .nan

/-- The place of a float code in the order with -0 below +0 (06 R164). -/
def floatKey (t : Nat) (w : W32) : Int :=
  let width : Nat := if t = 2 then 32 else 16
  let q : Nat := w.toNat % 2 ^ width
  if q < 2 ^ (width - 1) then (q : Int) else -((q - 2 ^ (width - 1) : Nat) : Int) - 1

/-- A lane word cut to its type's width (06 R150). -/
def cutType (t : Nat) (w : W32) : W32 := if t = 3 ∨ t = 4 then w &&& 0xFFFF else w

/-- Float minimum or maximum (06 R164). -/
def floatMinMax (t : Nat) (wantMax : Bool) (a b : W32) : W32 :=
  if isNan t a then (if isNan t b then BitVec.ofNat 32 (canonicalNan (typeFmt t)) else cutType t b)
  else if isNan t b then cutType t a
  else if wantMax then (if floatKey t a < floatKey t b then cutType t b else cutType t a)
  else (if floatKey t b < floatKey t a then cutType t b else cutType t a)

/-- Comparison of exact values that are not NaN: less. -/
def xlt (x y : XReal) : Bool :=
  match x, y with
  | .nan, _ => false
  | _, .nan => false
  | .inf a, .inf b => a && !b
  | .inf a, .fin _ _ _ => a
  | .fin _ _ _, .inf b => !b
  | .fin a n d, .fin b m e =>
    let u : Int := if a then -((n * e : Nat) : Int) else (n * e : Nat)
    let v : Int := if b then -((m * d : Nat) : Int) else (m * d : Nat)
    decide (u < v)

/-- Equality of values: -0 equals +0, no NaN equals anything. -/
def xeq (x y : XReal) : Bool :=
  match x, y with
  | .nan, _ => false
  | _, .nan => false
  | x, y => !xlt x y && !xlt y x

/-- Integer square root by bits: the largest r below `2 ^ fuel` with r * r at most n. -/
def isqrt (n : Nat) : Nat → Nat → Nat
  | 0, r => r
  | k + 1, r => if (r + 2 ^ k) * (r + 2 ^ k) ≤ n then isqrt n k (r + 2 ^ k) else isqrt n k r

/-- Working precision, in bits, of the transcendental operations: far beyond the distance of any rounding boundary of
R86 and R257 (DEDUCED, log 8). -/
def precBits : Nat := 640

/-- ln 2 times 2 ^ precBits, from the sum of 1 / (k 2 ^ k). -/
def ln2Fixed : Nat := (List.range 640).foldl (fun acc k => acc + 2 ^ precBits / ((k + 1) * 2 ^ (k + 1))) 0

/-- 2 ^ f for a fraction f times 2 ^ precBits, times 2 ^ precBits: the exponential series of f ln 2. -/
def exp2Frac (f : Nat) : Nat :=
  let y := f * ln2Fixed / 2 ^ precBits
  ((List.range 150).foldl (fun (acc : Nat × Nat) k =>
    let term := acc.1 * y / 2 ^ precBits / (k + 1)
    (term, acc.2 + term)) (2 ^ precBits, 2 ^ precBits)).2

/-- 2 ^ x (03 R86, 09 R257): exact for an integer x, else within 2 ^ -600 of the value. Beyond ±2048 any value of the
same size rounds alike in every format. -/
def xexp2 (x : XReal) : XReal :=
  match x with
  | .nan => .nan
  | .inf neg => if neg then xzero else .inf false
  | .fin neg n d =>
    if 2048 * d ≤ n then dyadic false 1 (if neg then -2048 else 2048)
    else
      let i : Int := if neg then -(((n + d - 1) / d : Nat) : Int) else ((n / d : Nat) : Int)
      let r : Nat := if neg then ((n + d - 1) / d) * d - n else n % d
      if r = 0 then dyadic false 1 i
      else dyadic false (2 * exp2Frac (r * 2 ^ precBits / d) + 1) (i - precBits - 1)

/-- The next `k` binary digits of the logarithm of r / 2 ^ precBits, 1 ≤ r / 2 ^ precBits < 2. -/
def log2Digits : Nat → Nat → Nat → Nat
  | 0, _, acc => acc
  | k + 1, r, acc =>
    let s := r * r / 2 ^ precBits
    if 2 ^ (precBits + 1) ≤ s then log2Digits k (s / 2) (2 * acc + 1) else log2Digits k s (2 * acc)

/-- log2 of a positive fraction (03 R86): exact for a power of two, else within 2 ^ -160. -/
def xlog2pos (n d : Nat) : XReal :=
  let l := floorLog2 n d
  let r := if 0 ≤ l then n * 2 ^ precBits / (d * 2 ^ l.toNat) else n * 2 ^ (-l).toNat * 2 ^ precBits / d
  if r = 2 ^ precBits then dyadic (decide (l < 0)) l.natAbs 0
  else
    let v : Int := l * 2 ^ 161 + (2 * log2Digits 160 r 0 + 1)
    dyadic (decide (v < 0)) v.natAbs (-161)

/-- VEXP2 (03 R86). -/
def opExp2 (a : W32) : Fl W32 := rnd32 ⟨xexp2 (f32 a), 0⟩

/-- VLOG2 (03 R86). -/
def opLog2 (a : W32) : Fl W32 :=
  match f32 a with
  | .nan => ⟨nan32, 0⟩
  | .inf neg => if neg then ⟨nan32, fINVALID⟩ else ⟨inf32, 0⟩
  | .fin neg n d =>
    if n = 0 then ⟨ninf32, fDIVZERO⟩
    else if neg then ⟨nan32, fINVALID⟩
    else rnd32 ⟨xlog2pos n d, 0⟩

/-- VRCP (03 R86). -/
def opRcp (a : W32) : Fl W32 := rnd32 (xdiv xone (f32 a))

/-- VRSQ (03 R86): the root is exact or lies strictly between two multiples of 2 ^ -200. -/
def opRsq (a : W32) : Fl W32 :=
  match f32 a with
  | .nan => ⟨nan32, 0⟩
  | .inf neg => if neg then ⟨nan32, fINVALID⟩ else ⟨0, 0⟩
  | .fin neg n d =>
    if n = 0 then ⟨if neg then ninf32 else inf32, fDIVZERO⟩
    else if neg then ⟨nan32, fINVALID⟩
    else
      let q := d * 2 ^ 400 / n
      let t := isqrt q 300 0
      if t * t = q ∧ d * 2 ^ 400 % n = 0 then rnd32 ⟨dyadic false t (-200), 0⟩
      else rnd32 ⟨dyadic false (2 * t + 1) (-201), 0⟩

/-- Rounding to an integral value in the type (06 R166). -/
def opRnd (t mode : Nat) (a : W32) : W32 :=
  match floatVal t a with
  | .nan => BitVec.ofNat 32 (canonicalNan (typeFmt t))
  | .inf _ => cutType t a
  | .fin neg n d =>
    if n = 0 then cutType t a
    else
      let k := roundQuantum mode neg n d 0
      BitVec.ofNat 32 (encodeFloat (typeFmt t) 0 false (.fin neg k 1)).val

/-- A format slot's fields (03 R82). -/
structure Slot where
  kind     : Nat
  width    : Nat
  e        : Nat
  m        : Nat
  sign     : Bool
  bias     : Int
  specials : Nat
  sat      : Bool
  mode     : Nat
  smode    : Nat
  scale    : W32
  deriving DecidableEq, Repr

/-- Read a slot word (03 R82). -/
def slotOf (w : W64) : Slot :=
  { kind := (w.extractLsb' 0 4).toNat, width := (w.extractLsb' 4 4).toNat + 1, e := (w.extractLsb' 8 3).toNat,
    m := (w.extractLsb' 11 3).toNat, sign := w.getLsbD 14, bias := (w.extractLsb' 15 8).toInt,
    specials := (w.extractLsb' 23 2).toNat, sat := w.getLsbD 25, mode := (w.extractLsb' 26 2).toNat,
    smode := (w.extractLsb' 28 2).toNat, scale := w.extractLsb' 32 32 }

/-- The conditions of 03 R83 at a use; `vector` for a vector conversion, which takes no scale vector. -/
def slotOk (w : W64) (vector : Bool) : Bool :=
  let s := slotOf w
  let zero (lo n : Nat) : Bool := (w.toNat / 2 ^ lo) % 2 ^ n == 0
  (match s.kind with
   | 3 => 2 ≤ s.width && s.width ≤ 8 && s.width == s.e + s.m + (if s.sign then 1 else 0) && s.e != 0 &&
          s.specials != 3 && !(s.specials == 2 && s.m == 0)
   | 4 | 5 => (s.width == 1 || s.width == 8 || s.width == 16) && zero 23 2 && zero 8 15
   | 0 | 1 | 2 | 6 => zero 23 2 && zero 4 19
   | _ => false) && !(vector && 2 ≤ s.smode)

/-- Width in bits of an element's code (03 R82, 06 R168). -/
def slotBits (s : Slot) : Nat :=
  match s.kind with
  | 0 => 32
  | 1 | 2 => 16
  | 3 => s.width
  | 4 | 5 => if s.width = 1 then 32 else s.width
  | _ => 4

/-- Width in bits of an element's container (03 R81, 09 R239). -/
def containerBits (s : Slot) : Nat :=
  let w := slotBits s
  if w ≤ 2 then 2 else if w ≤ 4 then 4 else if w ≤ 8 then 8 else if w ≤ 16 then 16 else 32

/-- The float format of a slot of kind 0 to 3. -/
def slotFmt (s : Slot) : FloatFmt :=
  match s.kind with
  | 0 => fp32
  | 1 => bf16
  | 2 => fp16
  | _ => ⟨s.e, s.m, s.bias, s.specials, s.sign⟩

/-- An integer as an exact value. -/
def ofInt (i : Int) : XReal := .fin (decide (i < 0)) i.natAbs 1

/-- The value of a code through its slot, without the scale (03 R78-R80). -/
def slotValue (s : Slot) (q : Nat) : Fl XReal :=
  if s.kind ≤ 3 then ⟨decodeFloat (slotFmt s) q, 0⟩
  else
    let w := slotBits s
    if s.kind = 5 then ⟨ofInt q, 0⟩
    else if s.kind = 6 ∧ q = 8 then ⟨xzero, fINT4RES⟩
    else ⟨ofInt (if q < 2 ^ (w - 1) then q else (q : Int) - 2 ^ w), 0⟩

/-- A decoded and scaled element: the exact product with its scale (03 R84). -/
def slotDecode (s : Slot) (scale : Option W32) (q : Nat) : Fl XReal :=
  let v := slotValue s q
  match scale with
  | none => v
  | some c =>
    let p := xmul v.val (f32 c)
    ⟨p.val, v.flags ||| p.flags⟩

/-- Encoding of an exact value through a slot: divided exactly by the scale, rounded once, treated under R85. -/
def slotEncode (s : Slot) (scale : Option W32) (x : XReal) : Fl Nat :=
  let y := match scale with
    | none => (⟨x, 0⟩ : Fl XReal)
    | some c => xdiv x (f32 c)
  if s.kind ≤ 3 then
    let r := encodeFloat (slotFmt s) s.mode s.sat y.val
    ⟨r.val, y.flags ||| r.flags⟩
  else
    let w := slotBits s
    let r := if s.kind = 4 then encodeInt (-(2 ^ (w - 1))) (2 ^ (w - 1) - 1) s.mode y.val
      else if s.kind = 5 then encodeInt 0 (2 ^ w - 1) s.mode y.val
      else encodeInt (-7) 7 s.mode y.val
    ⟨(r.val % 2 ^ w).toNat, y.flags ||| r.flags⟩

/-- The per-tensor scale of a slot: none under mode 0 (03 R82). -/
def tensorScale (s : Slot) : Option W32 := if s.smode = 1 then some s.scale else none

/-- A run of a TMMA sum: an accumulator and exact products, rounded once to FP32 (03 R88). -/
def runSum (acc : W32) (ps : List (Fl XReal)) : Fl W32 :=
  rnd32 (xsum ⟨f32 acc, 0⟩ ps)

/-- Runs of eight in increasing order; `fuel` bounds their number (03 R88). -/
def runs8 : Nat → Fl W32 → List (Fl XReal) → Fl W32
  | 0, acc, _ => acc
  | k + 1, acc, ps =>
    if ps.isEmpty then acc
    else
      let r := runSum acc.val (ps.take 8)
      runs8 k ⟨r.val, acc.flags ||| r.flags⟩ (ps.drop 8)

/-- The fixed pairwise tree over 32 values (03 R87). -/
def pairUp (f : α → α → α) : List α → List α
  | a :: b :: t => f a b :: pairUp f t
  | l => l

def tree32 (f : α → α → α) (l : List α) : List α :=
  pairUp f (pairUp f (pairUp f (pairUp f (pairUp f l))))

/-- A softmax partial (03 R91). -/
structure Partial where
  mu    : W32
  lam   : W32
  alpha : List W32
  deriving DecidableEq, Repr

/-- The maximum of two partials' maxima: a NaN propagates (03 R91; DEDUCED, log 74). -/
def muMax (a b : W32) : W32 := if isNan 2 a || isNan 2 b then nan32 else floatMinMax 2 true a b

/-- What the identity of a merge holds in a place: zero, but a NaN in that place of either partial propagates (03 R91;
DEDUCED, log 74). -/
def zeroOrNan (a b : W32) : W32 := if isNan 2 a || isNan 2 b then nan32 else 0

/-- Merging two partials (03 R91); flags are gathered for the instructions that report them. A sum or a weighted value of −0 merged with
the identity follows the pseudocode, whose last addition gives +0 (DEDUCED, log 74). -/
def mergeP (p q : Partial) : Fl Partial :=
  let mu := muMax p.mu q.mu
  if mu = ninf32 then ⟨⟨ninf32, zeroOrNan p.lam q.lam, List.zipWith zeroOrNan p.alpha q.alpha⟩, 0⟩
  else
    let fac (m : W32) : Fl W32 :=
      if xeq (f32 m) (f32 mu) then ⟨one32, 0⟩
      else
        let d := add32 m (mu ^^^ 0x80000000)
        let e := opExp2 d.val
        ⟨e.val, d.flags ||| e.flags⟩
    let c1 := fac p.mu
    let c2 := fac q.mu
    let one (a b : W32) : Fl W32 :=
      let x := mul32 a c1.val
      let y := fma32 b c2.val x.val
      ⟨y.val, x.flags ||| y.flags⟩
    let l := one p.lam q.lam
    let al := List.zipWith one p.alpha q.alpha
    ⟨⟨mu, l.val, al.map Fl.val⟩, al.foldl (fun f x => f ||| x.flags) (c1.flags ||| c2.flags ||| l.flags)⟩

end Sys2Proof.Machine
end

