-- ==== Sys2Proof/Machine/Sha3.lean ====
section
/-! DEFINITION. SHA3-512 (FIPS 202), which replica digests, context checks and measurements use (12 R306, 21 R365,
24 R418). -/

namespace Sys2Proof.Machine

open Sys2Proof

/-- The 24 round constants of Keccak-f[1600]. -/
def keccakRC : List W64 :=
  [0x0000000000000001, 0x0000000000008082, 0x800000000000808A, 0x8000000080008000, 0x000000000000808B,
   0x0000000080000001, 0x8000000080008081, 0x8000000000008009, 0x000000000000008A, 0x0000000000000088,
   0x0000000080008009, 0x000000008000000A] ++
  [0x000000008000808B, 0x800000000000008B, 0x8000000000008089, 0x8000000000008003, 0x8000000000008002,
   0x8000000000000080, 0x000000000000800A, 0x800000008000000A, 0x8000000080008081, 0x8000000000008080,
   0x0000000080000001, 0x8000000080008008]

/-- Rotation offsets by lane x + 5 y. -/
def keccakRot : List Nat :=
  [0, 1, 62, 28, 27, 36, 44, 6, 55, 20, 3, 10, 43, 25, 39, 41, 45, 15, 21, 8, 18, 2, 61, 56, 14]

/-- One round: theta, rho, pi, chi, iota. -/
def keccakRound (a : List W64) (rc : W64) : List W64 :=
  let at' (l : List W64) (i : Nat) : W64 := l.getD i 0
  let c := (List.range 5).map fun x => at' a x ^^^ at' a (x + 5) ^^^ at' a (x + 10) ^^^ at' a (x + 15) ^^^ at' a (x + 20)
  let d := (List.range 5).map fun x => at' c ((x + 4) % 5) ^^^ (at' c ((x + 1) % 5)).rotateLeft 1
  let e := (List.range 25).map fun i => at' a i ^^^ at' d (i % 5)
  let b := (List.range 25).map fun i =>
    let x := i % 5
    let y := i / 5
    let src := (x + 3 * y) % 5 + 5 * x
    (at' e src).rotateLeft (keccakRot.getD src 0)
  let f := (List.range 25).map fun i =>
    let y := i / 5 * 5
    at' b i ^^^ (~~~(at' b (y + (i + 1) % 5)) &&& at' b (y + (i + 2) % 5))
  match f with
  | [] => []
  | h :: t => (h ^^^ rc) :: t

/-- Keccak-f[1600]. -/
def keccakF (a : List W64) : List W64 := keccakRC.foldl keccakRound a

/-- A little-endian value of bytes (00 R4). -/
def natOfBytes (bs : List Byte) : Nat := bs.foldr (fun b acc => b.toNat + 256 * acc) 0

/-- Absorb one block of 72 bytes. -/
def absorb (a : List W64) (blk : List Byte) : List W64 :=
  let words := (List.range 25).map fun i => if i < 9 then wordOfBytes ((blk.drop (8 * i)).take 8) else 0#64
  keccakF (List.zipWith (· ^^^ ·) a words)

/-- Blocks of 72 bytes; `fuel` bounds their number. -/
def blocks72 : Nat → List Byte → List (List Byte)
  | 0, _ => []
  | n + 1, m => if m.isEmpty then [] else m.take 72 :: blocks72 n (m.drop 72)

/-- Padding: domain bits 01, then 10*1, to a multiple of 72 bytes. -/
def sha3Pad (m : List Byte) : List Byte :=
  let r := m.length % 72
  if r = 71 then m ++ [0x86#8]
  else m ++ (0x06#8 :: List.replicate (70 - r) 0#8) ++ [0x80#8]

/-- SHA3-512 of a message, 64 bytes. -/
def sha3_512 (m : List Byte) : List Byte :=
  let p := sha3Pad m
  let st := (blocks72 (p.length / 72 + 1) p).foldl absorb (List.replicate 25 0#64)
  ((st.take 8).map fun w => bytesOfNat 8 w.toNat).flatten

end Sys2Proof.Machine
end

