-- ==== Sys2Proof/Machine/Ops.lean ====
section
/-! DEFINITION. The named operations over the state: records by number, registers, memory at its home, translation,
system registers, interrupt records. -/

namespace Sys2Proof.Machine

open Sys2Proof

/-! ### Causes (19 R335) -/

def cILLEGAL_OP : Nat := 0
def cILLEGAL_CLAUSE : Nat := 1
def cSTALL_SHORT : Nat := 2
def cREG_BOUND : Nat := 3
def cREG_PENDING : Nat := 4
def cTILE_SUSPENDED : Nat := 5
def cALIAS_SUSPENDED : Nat := 6
def cILLEGAL_CONVERGENCE : Nat := 7
def cPROT_FROND : Nat := 8
def cSTALE_HANDLE : Nat := 9
def cRANGE_LOCKED : Nat := 10
def cJOURNAL_FULL : Nat := 11
def cPAGE_FAULT : Nat := 12
def cPROT_PAGE : Nat := 13
def cALIGN : Nat := 14
def cLATE_TILE : Nat := 15
def cMEM_POISON : Nat := 16
def cSIEVE_ECC : Nat := 17
def cSIEVE_REJECT : Nat := 18
def cBUDGET : Nat := 19
def cREG_BUDGET : Nat := 20
def cDIVERGED : Nat := 21
def cNO_QUORUM : Nat := 22
def cSCOPE_DEMOTED : Nat := 23
def cARITH : Nat := 24
def cCHILD_FAULT : Nat := 25
def cTRAP_INSTR : Nat := 26
def cBREAK : Nat := 27
def cTRAP_OVERRUN : Nat := 28
def cKILLED : Nat := 29

/-- The TCAUSE bit of a cause. -/
def causeBit (c : Nat) : W64 := 1#64 <<< c

/-- The lowest set bit of a bitmap, 0xFF for none (01 R41). -/
def lowBit (w : W64) : Nat := ((List.range 64).find? fun i => w.getLsbD i).getD 0xFF

/-- A failure code in a scalar destination: bit 63 and a status (02 R63, 07 R206). -/
def failCode (n : Nat) : W64 := (1#64 <<< 63) ||| BitVec.ofNat 64 n

/-- The value none of a meeting register (01 R17). -/
def meetNone : W64 := 0xFFFFFFFFFFFFFFFF

/-! ### Records by number -/

def dieOf (core : Nat) : Nat := core / 512
def blockKey (core slot : Nat) : Nat := core * 16 + slot
def wkey (w : WaveId) : Nat := blockKey w.core w.slot
def wfull (w : WaveId) : Nat := wkey w * 32 + w.wave

def State.block? (s : State) (w : WaveId) : Option Block := spFind s.blocks (wkey w)

def State.wave? (s : State) (w : WaveId) : Option Wave :=
  match s.block? w with
  | none => none
  | some b => spFind b.waves w.wave

/-- The wave of an id; the state of a wave at its start where there is none. -/
def State.wave (s : State) (w : WaveId) : Wave := (s.wave? w).getD {}

def State.launch? (s : State) (n : Nat) : Option Launch := spFind s.launches n

def State.modBlock (s : State) (w : WaveId) (f : Block → Block) : State :=
  { s with blocks := spMod s.blocks (wkey w) f }

def State.modWave (s : State) (w : WaveId) (f : Wave → Wave) : State :=
  s.modBlock w fun b => { b with waves := spMod b.waves w.wave f }

def State.modLaunch (s : State) (n : Nat) (f : Launch → Launch) : State :=
  { s with launches := spMod s.launches n f }

def State.modOp (s : State) (n : Nat) (f : EngineOp → EngineOp) : State :=
  { s with ops := spMod s.ops n f }

/-- Put a step on the agenda. -/
def State.push (s : State) (i : Instr) : State := { s with agenda := s.agenda ++ [i] }

/-- Put a step on the agenda unless it stands there. -/
def State.pushOnce (s : State) (i : Instr) : State := if i ∈ s.agenda then s else s.push i

/-- The launch of a block. -/
def State.launchOf (s : State) (b : Block) : Option Launch := s.launch? b.launch

/-- The block with a unique number, resident. -/
def State.blockOfUid (s : State) (uid : Nat) : Option Block :=
  (s.blocks.find? fun e => e.2.uid == uid).map Prod.snd

def Block.id (b : Block) (wave : Nat) : WaveId := ⟨b.core, b.slot, wave⟩

def State.modUid (s : State) (uid : Nat) (f : Block → Block) : State :=
  { s with blocks := s.blocks.map fun e => if e.2.uid = uid then (e.1, f e.2) else e }

/-! ### Registers of a wave (02 R52, R53) -/

def Wave.vget (w : Wave) (n l : Nat) : W32 := spGet 0 w.v (n * 32 + l)
def Wave.vset (w : Wave) (n l : Nat) (x : W32) : Wave := { w with v := spSet 0 w.v (n * 32 + l) x }
def Wave.xget (w : Wave) (n l : Nat) : W32 := spGet 0 w.x (n * 32 + l)
def Wave.pmask (w : Wave) (n : Nat) : BitVec 32 := spGet 0 w.p n
def Wave.pget (w : Wave) (n l : Nat) : Bool := (w.pmask n).getLsbD l
def Wave.sget (w : Wave) (n : Nat) : W64 := spGet 0 w.s n
def Wave.sset (w : Wave) (n : Nat) (x : W64) : Wave := { w with s := spSet 0 w.s n x }
def Wave.kget (w : Wave) (n : Nat) : Nat := spGet 0 w.k n
def Wave.pcAt (w : Wave) (l : Nat) : W64 := spGet 0 w.pc l
def Wave.meetAt (w : Wave) (l : Nat) : W64 := spGet meetNone w.meet l
def Wave.setPc (w : Wave) (l : Nat) (a : W64) : Wave := { w with pc := spSet 0 w.pc l a }
def Wave.setMeet (w : Wave) (l : Nat) (a : W64) : Wave := { w with meet := spSet meetNone w.meet l a }

/-- Write a predicate in the lanes of a mask. -/
def Wave.pset (w : Wave) (n : Nat) (lanes bits : BitVec 32) : Wave :=
  { w with p := spSet 0 w.p n ((w.pmask n &&& ~~~lanes) ||| (bits &&& lanes)) }

/-- Write a vector register in the lanes of a mask. -/
def Wave.vsetLanes (w : Wave) (n : Nat) (lanes : BitVec 32) (f : Nat → W32) : Wave :=
  (lanesOf lanes).foldl (fun w l => w.vset n l (f l)) w

/-- A completion flag counts up (05 R128). -/
def Wave.flagUp (w : Wave) (sig : Nat) : Wave :=
  if sig < 12 then { w with k := spSet 0 w.k sig (w.kget sig + 1) } else w

/-- A completion flag counts down (05 R128). -/
def Wave.flagDown (w : Wave) (sig : Nat) : Wave :=
  if sig < 12 then { w with k := spSet 0 w.k sig (w.kget sig - 1) } else w

def Wave.live (w : Wave) : BitVec 32 := ~~~w.exited

/-! ### System registers (19 R327, 22 R372, 23 R407, 24 R411) -/

def coreDefault (_ : Nat) : W64 := 0
def dieDefault (n : Nat) : W64 :=
  if 0x800 ≤ n ∧ n < 0xA00 then 0x8000 ||| BitVec.ofNat 64 (n - 0x800) else 0
def pkgDefault (n : Nat) : W64 :=
  if n = 0x400 then 6 else if 0x400 < n ∧ n < 0x440 then 4 else if n = 0x490 then 0x2000000 else 0

def State.coreR (s : State) (core n : Nat) : W64 := spGet (coreDefault n) s.coreReg (core * 4096 + n)
def State.setCoreR (s : State) (core n : Nat) (v : W64) : State :=
  { s with coreReg := spSet (coreDefault n) s.coreReg (core * 4096 + n) v }
def State.dieR (s : State) (die n : Nat) : W64 := spGet (dieDefault n) s.dieReg (die * 4096 + n)
def State.setDieR (s : State) (die n : Nat) (v : W64) : State :=
  { s with dieReg := spSet (dieDefault n) s.dieReg (die * 4096 + n) v }
def State.pkgR (s : State) (n : Nat) : W64 := spGet (pkgDefault n) s.pkgReg n
def State.setPkgR (s : State) (n : Nat) (v : W64) : State :=
  { s with pkgReg := spSet (pkgDefault n) s.pkgReg n v }

/-- Saturating sum of a counter. -/
def satAdd (v : W64) (n : Nat) : W64 := if v.toNat + n < 2 ^ 64 then BitVec.ofNat 64 (v.toNat + n) else BitVec.allOnes 64

def State.countCore (s : State) (core n by_ : Nat) : State := s.setCoreR core n (satAdd (s.coreR core n) by_)
def State.countDie (s : State) (die n by_ : Nat) : State := s.setDieR die n (satAdd (s.dieR die n) by_)

/-- Saturating sum of a 16-bit field at bit `lo` of a register (23 R408). -/
def satField (v : W64) (lo : Nat) : W64 :=
  if (v.extractLsb' lo 16) = BitVec.allOnes 16 then v else v + (1#64 <<< lo)

/-- The core cycle counter (00 R8, 01 R48): the core's cycles from reset, 0 there; it counts with the package's core
clock and is ahead of it by a free amount of the core's own (DESIGN CHOICE, log 2). -/
def State.cycles (s : State) (core : Nat) : W64 :=
  if s.clock = 0 then 0 else BitVec.ofNat 64 (s.clock + Config.coreSkew core)

/-! ### Units and their retirement (24 R410, R411) -/

/-- A unit by kind, die and number, as 24 R411 numbers them. -/
def unitCode (kind die number : Nat) : Nat := kind * 65536 + die * 4096 + number

def State.isRetired (s : State) (kind die number : Nat) : Bool := decide (unitCode kind die number ∈ s.retiredU)

/-- A compute die that works. -/
def State.dieWorks (s : State) (die : Nat) : Bool := decide (die < 8) && !s.isRetired 5 die 0

def State.workingDies (s : State) : List Nat := (List.range 8).filter s.dieWorks

/-- A logical core that works: mapped and present, on a working die (24 R410, R411). -/
def State.coreWorks (s : State) (core : Nat) : Bool :=
  decide (core < 4096) && s.dieWorks (dieOf core) && (s.dieR (dieOf core) (0x800 + core % 512)).getLsbD 15

/-- A core that takes new blocks: working, its physical core not retired. -/
def State.coreTakes (s : State) (core : Nat) : Bool :=
  s.coreWorks core && !s.isRetired 1 (dieOf core) ((s.dieR (dieOf core) (0x800 + core % 512)).extractLsb' 0 10).toNat

/-! ### Physical memory (22 R370-R372) -/

/-- Interleave scheme of a frame (22 R372). -/
def State.frameScheme (s : State) (f : Nat) : Nat := ((s.pkgR (0x460 + f / 16)).extractLsb' (4 * (f % 16)) 3).toNat

/-- Pseudo-channels per group and unit bytes of a scheme (22 R371). -/
def schemeShape (sc : Nat) : Nat × Nat :=
  match sc with
  | 0 => (1024, 256)
  | 1 => (1024, 4096)
  | 2 => (128, 256)
  | 3 => (128, 4096)
  | 4 => (64, 256)
  | 5 => (64, 4096)
  | 6 => (64, 65536)
  | _ => (1, 2097152)

/-- Pseudo-channel and local offset of a stack address (22 R371). -/
def State.location (s : State) (pa : Nat) : Nat × Nat :=
  let f := pa / 2147483648
  let fo := pa % 2147483648
  let k := fo / 2097152
  let w := fo % 2097152
  let sh := schemeShape (s.frameScheme f)
  let g := 1024 / sh.1
  let j := (w / sh.2) % sh.1
  (sh.1 * (k % g) + j,
   2097152 * f + (k / g) * (2097152 / sh.1) + ((w / sh.2) / sh.1) * sh.2 + w % sh.2)

def stackBytes : Nat := 824633720832
def hostBit : Nat := 2251799813685248

/-- The place of a byte in `State.mem`: stack bytes by pseudo-channel and local offset, so that a changed scheme moves
no byte (22 R372); host memory at its own addresses. -/
def State.memKey (s : State) (pa : Nat) : Nat :=
  if pa < stackBytes then
    let l := s.location pa
    l.1 * 805306368 + l.2
  else pa

/-- A populated physical address (22 R370). -/
def populated (pa : Nat) : Bool := decide (pa < stackBytes) || (decide (hostBit ≤ pa) && decide (pa < 2 * hostBit))

/-- The pseudo-channel of an address. -/
def State.pcOf (s : State) (pa : Nat) : Nat := (s.location pa).1

/-- The bank of its pseudo-channel that holds a stack address: bits 20 to 16 of its place there, as 11 R278 has it under scheme 7
(DEDUCED for the other schemes, log 42). -/
def State.bankOf (s : State) (pa : Nat) : Nat := (s.location pa).2 / 65536 % 32

/-- Memory that no working path reaches: of a retired die, of a stack that failed training, of a pseudo-channel whose interface no
longer answers, which is an input (24 R413; DESIGN CHOICE, log 45). -/
def State.unreachable (s : State) (pa : Nat) : Bool :=
  decide (pa < stackBytes) &&
    (let pc := s.pcOf pa
     s.isRetired 5 (pc / 128) 0 || s.isRetired 6 (pc / 128) (pc / 64) || decide (pc ∈ s.deaf))

/-- The byte at a physical address. What an unlisted address reads as: zero, as a cold start leaves the stacks
(24 R416); host memory likewise (DESIGN CHOICE, log 9). -/
def State.readByte (s : State) (pa : Nat) : Byte := spGet 0 s.mem (s.memKey pa)

/-- Whether the 8-byte unit of an address gives poison (04 R420, 24 R413). -/
def State.poisoned (s : State) (pa : Nat) : Bool := decide (s.memKey pa / 8 ∈ s.poison) || s.unreachable pa

def State.readBytes (s : State) (pa n : Nat) : List Byte := (List.range n).map fun i => s.readByte (pa + i)

def State.readNat (s : State) (pa n : Nat) : Nat := natOfBytes (s.readBytes pa n)

/-- Whether any of n bytes lies in a poisoned unit: the lowest such unit. -/
def State.poisonIn (s : State) (pa n : Nat) : Option Nat :=
  ((List.range ((pa % 8 + n + 7) / 8)).map fun i => (pa / 8 + i) * 8).find? fun u => s.poisoned u

/-! ### Replica digests (12 R306) -/

/-- The registered page that holds a physical address (22 R382). -/
def State.replicaAt (s : State) (pa : Nat) : Option Replica :=
  s.replicas.find? fun r => decide (r.page ≤ pa) && decide (pa < r.page + r.size)

/-- The digest key of a tenant, 16 bytes. -/
def State.digestKey (s : State) (t : Nat) : List Byte :=
  bytesOfNat 8 (s.pkgR (0x440 + 2 * t)).toNat ++ bytesOfNat 8 (s.pkgR (0x441 + 2 * t)).toNat

/-- L(o, data): the first 16 bytes of SHA3-512(key, o, data) (12 R306). -/
def lineTerm (key : List Byte) (o : Nat) (data : List Byte) : Nat :=
  natOfBytes ((sha3_512 (key ++ bytesOfNat 8 o ++ data)).take 16)

/-- The term of the line that holds a physical address, for its registration. -/
def State.termAt (s : State) (r : Replica) (pa : Nat) : Nat :=
  let line := pa / 64 * 64
  lineTerm (s.digestKey r.tenant) (r.base + (line - r.page)) (s.readBytes line 64)

/-- Change memory by `f`, adding to a tenant's digest the difference of the line's terms (04 R118, 12 R306). -/
def State.withDigest (s : State) (pa : Nat) (f : State → State) : State :=
  match s.replicaAt pa with
  | none => f s
  | some r =>
    let old := s.termAt r pa
    let t := f s
    let d := (spGet 0 s.digests r.tenant + t.termAt r pa + (2 ^ 128 - old % 2 ^ 128)) % 2 ^ 128
    { t with digests := spSet 0 t.digests r.tenant d }

/-! ### Home writes (04 R101, R420) -/

/-- Store bytes of one 8-byte unit, present ones only. -/
def State.storeUnit (s : State) (u : Nat) (bs : List (Option Byte)) : State :=
  { s with mem := ((List.range 8).zip bs).foldl (fun m e =>
      match e.2 with
      | none => m
      | some b => spSet 0 m (s.memKey (u + e.1)) b) s.mem }

/-- One write applied at home to an aligned 8-byte unit (04 R420, 24 R413): to unreachable memory it is discarded; a
poisoned unit takes only a write of all its bytes, which clears the poison. -/
def State.writeUnit (s : State) (u : Nat) (bs : List (Option Byte)) : State :=
  if s.unreachable u then s
  else if s.memKey u / 8 ∈ s.poison then
    if bs.all Option.isSome then
      (s.withDigest u fun s => s.storeUnit u bs) |> fun t => { t with poison := t.poison.filter (· != s.memKey u / 8) }
    else s
  else s.withDigest u fun s => s.storeUnit u bs

/-- Write a run of bytes, present ones only, at home: unit by unit. -/
def State.writeRun (s : State) (pa : Nat) (bs : List (Option Byte)) : State :=
  let lead := pa % 8
  let all := List.replicate lead none ++ bs
  (List.range ((all.length + 7) / 8)).foldl (fun s i =>
    let part := (all.drop (8 * i)).take 8
    s.writeUnit (pa - lead + 8 * i) (part ++ List.replicate (8 - part.length) none)) s

/-- Write bytes at home. -/
def State.writeBytes (s : State) (pa : Nat) (bs : List Byte) : State := s.writeRun pa (bs.map some)

/-- Mark a unit poisoned. -/
def State.addPoison (s : State) (pa : Nat) : State :=
  let u := s.memKey pa / 8
  if u ∈ s.poison then s else { s with poison := insertBy id u s.poison }

/-! ### Translation (22 R373-R376) -/

/-- The rights an access may need: the leaf's bit (22 R373). -/
def rREAD : Nat := 2
def rWRITE : Nat := 3
def rEXEC : Nat := 4

/-- A leaf found by a walk: the entry and the page size. -/
structure Leaf where
  entry : W64
  size  : Nat
  deriving DecidableEq, Repr

def leafAddr (e : W64) : Nat := (e.extractLsb' 12 40).toNat * 4096

/-- Whether a leaf entry of a page size is malformed (22 R373, R380, R382). -/
def State.leafMalformed (s : State) (e : W64) (size : Nat) : Bool :=
  let pa := leafAddr e
  let compute := e.getLsbD 8
  let replica := e.getLsbD 9
  let reg := s.replicas.any fun r => decide (r.page < pa + size) && decide (pa < r.page + r.size)
  (e.extractLsb' 56 8 != 0) || pa % size != 0 || !populated pa || !populated (pa + size - 1) ||
  (compute && !(size == 2097152 && (e.extractLsb' 5 3).toNat == 7 && e.getLsbD 10 && !replica && !e.getLsbD 11)) ||
  (replica && (e.getLsbD 11 || decide (hostBit ≤ pa))) || (replica != reg)

/-- Whether a table entry is malformed: it uses only [51:12], [1] and [0] (22 R373). -/
def tableMalformed (e : W64) : Bool :=
  (e.extractLsb' 52 12 != 0) || (e.extractLsb' 2 10 != 0) || !populated (leafAddr e)

/-- A walk from a table at a level, by the levels' shifts and whether a leaf is allowed there (22 R373). -/
def State.walk (s : State) (va : Nat) : List (Nat × Bool × Bool) → Nat → Except Nat Leaf
  | [], _ => .error cPROT_PAGE
  | (sh, leafOk, last) :: rest, table =>
    let idx := va / 2 ^ sh % (if last then 32 else 512)
    let pa := table + 8 * idx
    if s.poisoned pa then .error cMEM_POISON
    else
      let e : W64 := BitVec.ofNat 64 (s.readNat pa 8)
      if !e.getLsbD 0 then .error cPAGE_FAULT
      else if e.getLsbD 1 then
        (if !leafOk || s.leafMalformed e (2 ^ sh) then .error cPROT_PAGE else .ok ⟨e, 2 ^ sh⟩)
      else if last || tableMalformed e then .error cPROT_PAGE
      else s.walk va rest (leafAddr e)

/-- The five levels (22 R373): index shift, leaf allowed, last level. -/
def walkLevels : List (Nat × Bool × Bool) :=
  [(48, false, false), (39, false, false), (30, true, false), (21, true, false), (16, true, true)]

/-- The leaf and root that translate an address now: a held leaf may be used until ASINV (22 R376; free choice, DESIGN
CHOICE, log 10); the root is the register as it stands (22 R372). -/
def State.leafOf (s : State) (asid va : Nat) : Except Nat (Leaf × W64) :=
  let root := s.pkgR (0x500 + asid)
  let fresh : Except Nat (Leaf × W64) :=
    if !root.getLsbD 0 then .error cPAGE_FAULT
    else match s.walk va walkLevels (leafAddr root) with
      | .error c => .error c
      | .ok l => .ok (l, root)
  match s.held.find? fun h => h.asid == asid && decide (h.va ≤ va) && decide (va < h.va + h.size) with
  | none => fresh
  | some h => if root.getLsbD 0 && Config.freeBit s.tick va then .ok (⟨h.leaf, h.size⟩, root) else fresh

/-- Checks 3 to 6 of 22 R374 on a leaf for a tenant and rights. -/
def State.leafCheck (s : State) (l : Leaf) (root : W64) (tenant : Nat) (rights : List Nat) : Bool :=
  (root.extractLsb' 8 4).toNat == tenant &&
  (l.entry.getLsbD 11 || (l.entry.extractLsb' 52 4).toNat == tenant) &&
  (l.entry.extractLsb' 5 3).toNat ==
    (if leafAddr l.entry < stackBytes then s.frameScheme (leafAddr l.entry / 2147483648) else 0) &&
  rights.all fun r => l.entry.getLsbD r

/-- The physical address of a virtual one, or the first failing cause of 22 R374. -/
def State.translate (s : State) (asid tenant : Nat) (va : Nat) (rights : List Nat) : Except Nat Nat :=
  if 2 ^ 57 ≤ va then .error cPROT_PAGE
  else match s.leafOf asid va with
    | .error c => .error c
    | .ok (l, root) =>
      if s.leafCheck l root tenant rights then .ok (leafAddr l.entry + va % l.size) else .error cPROT_PAGE

/-- Hold the translation that an access has made with success (22 R376). -/
def State.hold (s : State) (asid tenant va : Nat) (rights : List Nat) : State :=
  match s.leafOf asid va with
  | .error _ => s
  | .ok (l, root) =>
    let h : HeldPage := ⟨asid, va / l.size * l.size, l.size, l.entry⟩
    if h ∈ s.held || !s.leafCheck l root tenant rights then s else { s with held := h :: s.held }

/-- A failed access's translation is not held: its re-issue walks again (22 R376, R379). -/
def State.unhold (s : State) (asid va : Nat) : State :=
  { s with held := s.held.filter fun h => !(h.asid == asid && decide (h.va ≤ va) && decide (va < h.va + h.size)) }

/-- The 64 KiB pages that n bytes from a virtual address touch, each by its lowest touched address. -/
def pagesOf (va n : Nat) : List Nat :=
  if n = 0 then []
  else (List.range ((va + n - 1) / 65536 - va / 65536 + 1)).map fun i => max va ((va / 65536 + i) * 65536)

/-- Translate every page that n bytes touch, in ascending order: page and physical page, or the first failure with the
address it concerns. -/
def State.translateRange (s : State) (asid tenant va n : Nat) (rights : List Nat) :
    Except (Nat × Nat) (List (Nat × Nat)) :=
  (pagesOf va n).foldl (fun acc a =>
    match acc with
    | .error e => .error e
    | .ok l =>
      match s.translate asid tenant a rights with
      | .error c => .error (c, a)
      | .ok pa => .ok (l ++ [(a / 65536, pa / 65536)])) (.ok [])

/-- The physical address of a virtual one by pages already translated. -/
def physOf (pages : List (Nat × Nat)) (va : Nat) : Nat :=
  match pages.find? fun p => p.1 == va / 65536 with
  | none => 2 * hostBit
  | some p => p.2 * 65536 + va % 65536

/-- The physical line intervals of a virtual range, one per page (04 R110). -/
def lineIvals (pages : List (Nat × Nat)) (va n : Nat) : List (Nat × Nat) :=
  if n = 0 then []
  else (pagesOf va n).map fun a =>
    let hi := min (va + n - 1) (a / 65536 * 65536 + 65535)
    (physOf pages a / 64, physOf pages hi / 64)

def ivalsMeet (a b : List (Nat × Nat)) : Bool :=
  a.any fun x => b.any fun y => decide (x.1 ≤ y.2) && decide (y.1 ≤ x.2)

/-! ### Sieve scans that hold writes (11 R293) -/

/-- Bytes of one row of a scan's region (11 R279). -/
def Scan.rowBytes (k : Scan) (slot : W64) : Nat := k.d * containerBits (slotOf slot) / 8

/-- Bytes from a region's base to the end of the hull of its first n slots, each `stride` bytes (11 R279, R285). -/
def hullBytes (n stride : Nat) : Nat :=
  ((List.range (min n 32)).map fun b => b * 65536 + (n - 1 - b) / 32 * stride + stride).foldl max 0

/-- Physical line intervals of the K hull and the V hull. -/
def Scan.hulls (k : Scan) : List (Nat × Nat) :=
  if k.n = 0 then []
  else [(k.kBase / 64, (k.kBase + hullBytes k.n k.kStride - 1) / 64),
        (k.vBase / 64, (k.vBase + hullBytes k.n k.vStride - 1) / 64)]

/-- A scan stands at its channel from its acceptance to its last partial (11 R288, R293). -/
def Scan.running (k : Scan) : Bool := k.accepted && decide (k.sent.length < 16)

/-- A write to a physical line is held from a scan's acceptance to its end, also where its block has ended (11 R288, R293). -/
def State.sieveHeld (s : State) (line : Nat) : Bool :=
  let holds := fun (k : Scan) => k.running && k.hulls.any fun h => decide (h.1 ≤ line) && decide (line ≤ h.2)
  (s.ops.any fun o => o.2.scan.any holds) || s.orphans.any fun k => holds k.2

/-- A scan holds a line of some line intervals. -/
def State.scanMeets (s : State) (rs : List (Nat × Nat)) : Bool :=
  let holds := fun (k : Scan) => k.running && ivalsMeet k.hulls rs
  (s.ops.any fun o => o.2.scan.any holds) || s.orphans.any fun k => holds k.2

/-- A scan holds a line that some bytes lie in. -/
def State.heldIn (s : State) (pa n : Nat) : Bool := (List.range ((pa % 64 + n + 63) / 64)).any fun i => s.sieveHeld (pa / 64 + i)

/-- A write of the device itself at home: behind a scan of one of its lines it waits, as a write over PCIe does (11 R293). -/
def State.writeHome (s : State) (pa : Nat) (bs : List Byte) : State :=
  if s.heldIn pa bs.length then s.push (.pcieMemoryWrite pa bs) else s.writeBytes pa bs

/-! ### Interrupts (19 R331) -/

/-- Write a system interrupt record on a die, or drop and count it (19 R331). -/
def State.interrupt (s : State) (die kind tenant loc wave : Nat) (detail : W64) : State :=
  let base := s.dieR die 0x220
  let head := (s.dieR die 0x221).toNat
  if !base.getLsbD 0 || (head + 1) % 256 == (s.dieR die 0x222).toNat then s.countDie die 0x223 1
  else
    let bytes := bytesOfNat 1 kind ++ bytesOfNat 1 tenant ++ bytesOfNat 2 loc ++ bytesOfNat 1 wave ++
      bytesOfNat 3 0 ++ bytesOfNat 8 detail.toNat
    let t := s.writeHome ((base.extractLsb' 12 40).toNat * 4096 + 16 * head) bytes
    let t := t.setDieR die 0x221 (BitVec.ofNat 64 ((head + 1) % 256))
    { t with msi := t.msi ++ [(0, 0)] }

/-- The location field of a record: logical core and block slot (19 R331). -/
def locOf (core slot : Nat) : Nat := core % 4096 + slot * 4096

/-! ### Clause headers (05 R125, R129) -/

def headerClass (h : W64) : Nat := (h.extractLsb' 60 4).toNat
def headerCount (h : W64) : Nat := (h.extractLsb' 56 4).toNat + 1
def headerMask (h : W64) : BitVec 12 := h.extractLsb' 44 12
def headerOrder (h : W64) : Bool := h.getLsbD 41
def headerYield (h : W64) : Bool := h.getLsbD 40

/-- A header that raises ILLEGAL_CLAUSE (05 R129). -/
def headerIllegal (h : W64) (priv : Bool) : Bool :=
  h == 0 || headerClass h == 0 || decide (9 ≤ headerClass h) || h.extractLsb' 42 2 != 0 || h.extractLsb' 0 40 != 0 ||
  (headerClass h == 8 && !priv)

/-- The engine class whose range holds an opcode, 0 for none (05 R126). -/
def opcodeClass (op : Nat) : Nat :=
  if op = 0 then 0
  else if op < 0x100 then 1
  else if op < 0x180 then 2
  else if op < 0x1C0 then 3
  else if op < 0x200 then 4
  else if op < 0x280 then 5
  else if op < 0x2A0 then 6
  else if op < 0x2C0 then 7
  else if op < 0x300 then 8
  else 0

/-- The wave is inside a clause. -/
def Wave.inClause (w : Wave) : Bool := w.clause.header != 0

/-- Threads neither exited nor held (01 R19). -/
def Wave.runnable (w : Wave) : BitVec 32 := ~~~w.exited &&& ~~~w.held

/-- The address of the next instruction word of the clause (05 R124). -/
def Wave.wordAddr (w : Wave) : W64 := w.clause.base + 8 + 8 * BitVec.ofNat 64 w.clause.next

/-! ### Selection, holding and release (01 R19-R22) -/

/-- Runnable threads at an address. -/
def Wave.atPc (w : Wave) (a : W64) : BitVec 32 := maskOf fun l => w.runnable.getLsbD l && w.pcAt l == a

/-- The active lanes of the clause's next instruction (01 R19). -/
def Wave.active (w : Wave) : BitVec 32 := w.atPc w.wordAddr

/-- The lowest program counter of some threads. -/
def Wave.lowestPc (w : Wave) (m : BitVec 32) : W64 :=
  match minBy (fun l => (w.pcAt l).toNat) (lanesOf m) with
  | none => 0
  | some l => w.pcAt l

/-- What selection picks: the group, whether it holds the selection by rotation, and its count of issues (01 R22). -/
structure Pick where
  lanes   : BitVec 32
  rotated : Bool
  count   : Nat
  deriving DecidableEq, Repr

/-- Issues of the wave that a thread may wait before its group goes next: the bound of R23 less the clause under way and one clause
for each of the other 31 threads. -/
def overdueAfter : Nat := 33248 - 32 * 16

/-- The runnable thread that has waited longest, where one has waited so long that the bound of 01 R23 asks for it. -/
def Wave.overdue (w : Wave) : Option Nat :=
  minBy (fun l => spGet 0 w.last l) ((lanesOf w.runnable).filter fun l => decide (overdueAfter ≤ w.issues - spGet 0 w.last l))

/-- Selection at a clause boundary (01 R19, R22). Handing over to the lowest waiting address alone could pass a third group by for
ever: a thread that the bound of R23 asks for goes first (DEDUCED, log 18). -/
def Wave.select (w : Wave) : Option Pick :=
  let run := w.runnable
  if run = 0 then none
  else match w.overdue with
  | some l => some ⟨w.atPc (w.pcAt l), true, 0⟩
  | none =>
    let others := run &&& ~~~w.group
    if 1024 ≤ w.groupLen ∧ others ≠ 0 then
      some ⟨w.atPc (w.lowestPc others), true, 0⟩
    else if w.rotated && w.group != 0 && w.atPc (w.pcAt (lowLane w.group)) == w.group then
      some ⟨w.group, true, w.groupLen⟩
    else
      let g := w.atPc (w.lowestPc run)
      some ⟨g, false, if g = w.group then w.groupLen else 0⟩

/-- A value M is released when every thread whose meeting register holds M is held at M or has exited (01 R21). -/
def Wave.release (w : Wave) : Wave :=
  let freed := maskOf fun l => w.held.getLsbD l &&
    lanes32.all fun k => w.meetAt k != w.meetAt l || w.held.getLsbD k || w.exited.getLsbD k
  { w with
    held := w.held &&& ~~~freed
    last := (lanesOf freed).foldl (fun m l => spSet 0 m l w.issues) w.last }

def Wave.setPcs (w : Wave) (f : Nat → W64) : Wave := { w with pc := spOf32 0 f }

/-- An instruction completes in the active lanes: a lane that transfers goes to its target, any other to the next word
(05 R124, 08 R212); then the test of 01 R20, the count of R22 and the release of R21. -/
def Wave.complete (w : Wave) (go : Nat → Option W64) : Wave :=
  let act := w.active
  let w1 := w.setPcs fun l => if act.getLsbD l then (go l).getD (w.pcAt l + 8) else w.pcAt l
  let newHeld := maskOf fun l => act.getLsbD l && w1.meetAt l != meetNone && w1.pcAt l == w1.meetAt l
  Wave.release { w1 with
    held := w1.held ||| newHeld
    groupLen := if w.runnable &&& ~~~act = 0 then 0 else w.groupLen + 1
    rotated := w.rotated && newHeld == 0
    issues := w.issues + 1
    clause := { w.clause with next := w.clause.next + 1 } }

/-- Threads exit (08 R221). -/
def Wave.exitLanes (w : Wave) (m : BitVec 32) : Wave :=
  Wave.release { w with exited := w.exited ||| m, held := w.held &&& ~~~m, rotated := w.rotated && (m &&& w.group) == 0 }

/-! ### The issue slot (20 R355) -/

/-- The wave leaves the issue slot. -/
def State.leave (s : State) (id : WaveId) : State := { s with running := s.running.filter (· != id) }

/-- A clause ends without a trap: the count of 21 R359, the Trivet of 02 R57, the yield point of 05 R127. -/
def State.endClause (s : State) (id : WaveId) : State :=
  let s := s.modBlock id fun b => { b with retired := min (b.retired + 1) 0xFFFFFFFF }
  let s := s.modWave id fun w =>
    { w with clause := ⟨0, 0, 0⟩, trivet := [], trivSet := [], yieldDue := false
             yielding := w.yielding || w.yieldDue || headerYield w.clause.header }
  s.leave id

/-- An instruction of the current clause is done: lanes advance, and the clause ends after its last instruction. -/
def State.finish (s : State) (id : WaveId) (go : Nat → Option W64) : State :=
  let w := s.wave id
  let s := s.modWave id fun w => w.complete go
  if headerCount w.clause.header ≤ w.clause.next + 1 || (s.wave id).active == 0 then s.endClause id else s

/-- The instruction goes on in the next word in every lane. -/
def State.advance (s : State) (id : WaveId) : State := s.finish id fun _ => none

/-- The wave is held inside its clause (05 R127). -/
def State.hang (s : State) (id : WaveId) (wt : Wait) : State :=
  (s.modWave id fun w => { w with wait := some wt }).leave id

/-- An instruction waits in its issue slot: for an operand-log entry, a register that the log holds, an .acq atomic or range
locks, none of which ends the slot (05 R127, 20 R355). -/
def State.linger (s : State) (id : WaveId) (wt : Wait) : State := s.modWave id fun w => { w with wait := some wt }

/-! ### Locks (04 R110, R111) -/

def State.lockFree (s : State) (core : Nat) : Nat := 256 - (s.locks.filter fun k => k.core == core).length

/-- Whether a thread access to a physical line meets a lock of its core (04 R111): a load only a written range. -/
def State.lineLocked (s : State) (core line : Nat) (write : Bool) : Bool :=
  s.locks.any fun k => k.core == core && (k.writes || write) && k.lines.any fun r => decide (r.1 ≤ line) && decide (line ≤ r.2)

def State.unlock (s : State) (owner : Nat) : State := { s with locks := s.locks.filter fun k => k.owner != owner }

/-- Whether an earlier lock of the core, of an owner that satisfies a test, conflicts with an owner's locks: it goes first
(04 R111). Owners are numbered in issue order. -/
def State.lockBlocked (s : State) (owner : Nat) (test : Nat → Bool) : Bool :=
  s.locks.any fun mine => mine.owner == owner && s.locks.any fun o => o.core == mine.core && decide (o.owner < owner) && test o.owner &&
    (o.writes || mine.writes) && o.lines.any fun x => mine.lines.any fun y => decide (x.1 ≤ y.2) && decide (y.1 ≤ x.2)

/-- The row of a core in which row n of a block lies (02 R51). -/
def rowAt : List (Nat × Nat) → Nat → Nat
  | [], n => n
  | (r, k) :: t, n => if n < k then r + n else rowAt t (n - k)

/-! ### Packages and reduction windows (23 R396, R407) -/

/-- Packages of a tenant's group, at least one, and the own package's index among them (23 R407). -/
def State.groupSize (s : State) (t : Nat) : Nat := max 1 ((s.pkgR (0x4E1 + 2 * t)).extractLsb' 0 16).toNat

def State.ownPackage (s : State) (t : Nat) : Nat :=
  let table := ((s.pkgR (0x4E0 + 2 * t)).extractLsb' 6 46).toNat * 64
  if (s.pkgR (0x4E1 + 2 * t)).extractLsb' 0 16 = 0 then 0
  else ((List.range (s.groupSize t)).find? fun i => s.readNat (table + 2 * i) 2 == ((s.pkgR 0x4B2).extractLsb' 0 16).toNat).getD 0

/-- The reduction window of a tenant that holds an address (23 R396). -/
def State.windowOf (s : State) (tenant : Nat) (va : W64) : Option Nat :=
  (List.range 16).find? fun w =>
    let base := s.pkgR (0x4C0 + 2 * w)
    let lo := (base.extractLsb' 16 41).toNat * 65536
    base.getLsbD 63 && ((s.pkgR (0x4C1 + 2 * w)).extractLsb' 24 4).toNat == tenant && decide (lo ≤ va.toNat) &&
      decide (va.toNat < lo + 2 ^ (base.extractLsb' 0 6).toNat)

/-- A window's home package (23 R396). -/
def State.homeOf (s : State) (win : Nat) : Nat := ((s.pkgR (0x4C1 + 2 * win)).extractLsb' 0 16).toNat

/-- Whether this package is a window's home. -/
def State.homeHere (s : State) (win : Nat) : Bool :=
  s.homeOf win == s.ownPackage ((s.pkgR (0x4C1 + 2 * win)).extractLsb' 24 4).toNat

/-! ### Barrier objects (07 R202, R203) -/

def noBarrier : Barrier := ⟨0, 0, 0, 0, false⟩
def Block.bar (b : Block) (n : Nat) : Barrier := spGet noBarrier b.bars n
def Block.setBar (b : Block) (n : Nat) (x : Barrier) : Block := { b with bars := spSet noBarrier b.bars n x }

/-- The phase completes when arrivals equal a nonzero expected count and the byte count is zero (07 R203). -/
def Barrier.settle (x : Barrier) : Barrier :=
  if x.expected ≠ 0 ∧ x.arrived = x.expected ∧ x.bytes = 0 then { x with arrived := 0, mask := 0, phase := !x.phase } else x

/-- The byte credit of an engine operation (07 R193): code 0 names no object. -/
def Block.credit (b : Block) (code n : Nat) : Block :=
  if code = 0 then b
  else
    let x := b.bar (code - 1)
    b.setBar (code - 1) (Barrier.settle { x with bytes := x.bytes - BitVec.ofNat 32 n })

/-! ### Tiles and nodes (09) -/

def noTile : Tile := ⟨0, 0, none, 0, BitVec.allOnes 64⟩
def Block.tileAt (b : Block) (n : Nat) : Tile := spGet noTile b.tiles n
def Block.modTile (b : Block) (n : Nat) (f : Tile → Tile) : Block := { b with tiles := spSet noTile b.tiles n (f (b.tileAt n)) }

/-- Whether every demanded subtile is valid. -/
def Block.demandMet (b : Block) (d : List (Nat × W64)) : Bool := d.all fun e => e.2 &&& ~~~(b.tileAt e.1).valid == 0

/-! ### Journals (04 R94-R99) -/

/-- Where a journal's place keeps its 64 data bytes and its mask (04 R94, 19 R327). -/
def State.jdata (s : State) (j : Journal) (place : Nat) : Nat := (s.dieR j.die 0x200).toNat + j.num * 1048576 + 64 * place
def State.jmask (s : State) (j : Journal) (place : Nat) : Nat := (s.dieR j.die 0x202).toNat + j.num * 131072 + 8 * place

/-- Whether a journal line's mask says that it holds a byte of its line (19 R327). -/
def State.jholds (s : State) (j : Journal) (l : JLine) (i : Nat) : Bool := (s.readByte (s.jmask j l.place + i / 8)).getLsbD (i % 8)

/-- A byte of a journal line lies in a poisoned unit of the pools, or its mask does (04 R420). -/
def State.jpoisoned (s : State) (j : Journal) (l : JLine) (i : Nat) : Bool :=
  s.poisoned (s.jmask j l.place) || (s.jholds j l i && s.poisoned (s.jdata j l.place + i))

/-- Whether a journal line holds a byte of its line, and the byte, as the pools' memory has them (19 R327); no data is taken
from a poisoned unit (04 R420; what a line then carries home, DESIGN CHOICE, log 89). -/
def State.jbyte (s : State) (j : Journal) (l : JLine) (i : Nat) : Option Byte :=
  if s.jholds j l i && !s.jpoisoned j l i then some (s.readByte (s.jdata j l.place + i)) else none

/-- The newest journal byte at a physical address (04 R96). -/
def State.journalByte (s : State) (j : Journal) (pa : Nat) : Option Byte :=
  ((j.lines.filter fun l => l.line == pa / 64).foldl (fun (acc : Option (Nat × Byte)) l =>
    match s.jbyte j l (pa % 64), acc with
    | none, _ => acc
    | some x, none => some (l.phase, x)
    | some x, some p => if p.1 ≤ l.phase then some (l.phase, x) else acc) none).map Prod.snd

/-- The first of the journal's places that no line has. -/
def Journal.freePlace (j : Journal) : Nat :=
  ((List.range (j.lines.length + 1)).find? fun p => j.lines.all fun l => l.place != p).getD 0

/-- The line of a phase, made where the journal lacks it, and the journal with it and with its filter bit (04 R95, R96), by a
store of a wave at a count of accesses. A filter bit is never cleared while the block lives (DESIGN CHOICE, log 4). -/
def Journal.enter (j : Journal) (phase line wave seq : Nat) : Journal × JLine × Bool :=
  let h := Config.filterHash line % 16384
  let j := { j with filter := if h ∈ j.filter then j.filter else insertBy id h j.filter }
  let mark := fun (l : JLine) => { l with after := spPut l.after wave (max seq ((spFind l.after wave).getD 0)) }
  match j.lines.find? fun l => l.line == line && l.phase == phase with
  | some l => ({ j with lines := j.lines.map fun x => if x = l then mark x else x }, mark l, false)
  | none =>
    let l := mark ⟨line, phase, j.freePlace, []⟩
    ({ j with lines := j.lines ++ [l] }, l, true)

/-- Enter one byte into the line of a phase: the byte and its mask bit are written to the pools (04 R94, R95, R101). -/
def State.journalPut (s : State) (j : Journal) (phase wave seq pa : Nat) (x : Byte) : State × Journal :=
  let (j, l, fresh) := j.enter phase (pa / 64) wave seq
  let s := if fresh then s.writeBytes (s.jmask j l.place) (List.replicate 8 0) else s
  let m := s.jmask j l.place + pa % 64 / 8
  let s := s.writeBytes m [s.readByte m ||| (1#8 <<< (pa % 64 % 8))]
  (s.writeBytes (s.jdata j l.place + pa % 64) [x], j)

/-- How many lines of a list the journal's phase lacks (04 R97). -/
def Journal.missing (j : Journal) (phase : Nat) (lines : List Nat) : Nat :=
  (lines.eraseDups.filter fun n => !j.lines.any fun l => l.line == n && l.phase == phase).length

/-- A store that found the journal full, while its wave's handler runs (04 R97). -/
def Wave.setAside (w : Wave) (e : LogEntry) : Bool := w.handler && e.state == 2 && e.cause == cJOURNAL_FULL

/-- A store that has not entered the journal when a wave seals it belongs to the next phase: one of another wave, and of the
wave itself one that is set aside (04 R97, R99). -/
def Block.sealBy (b : Block) (wave : Nat) : Block :=
  { b with
    journal := { b.journal with phase := b.journal.phase + 1 }
    waves := b.waves.map fun e => (e.1, { e.2 with log := e.2.log.map fun x =>
      if (e.1 ≠ wave ∨ e.2.setAside x.2 = true) ∧ (opcodeOf x.2.word).toNat = 0x101 ∧ x.2.phase = b.journal.phase then
        (x.1, { x.2 with phase := b.journal.phase + 1 }) else x }) }

/-- Seal the journal's lines: the seal's number is the phase that ends (04 R99, R117). -/
def Block.sealJournal (b : Block) : Block := { b with journal := { b.journal with phase := b.journal.phase + 1 } }

/-! ### The operand log (07 R184, 19 R338) -/

/-- The entry that an access takes: the lowest free one; 07 R184 and R185 say only one entry (DESIGN CHOICE, log 99). -/
def Wave.logFree (w : Wave) : Option Nat := (List.range 16).find? fun i => (spFind w.log i).isNone

/-- A vector register that an access still holds against later writers (19 R338): lifted for faulted entries while the
handler runs. -/
def Wave.logHolds (w : Wave) (n : Nat) : Bool :=
  w.log.any fun e => n ∈ e.2.regs && !(w.handler && e.2.state == 2)

def LogEntry.opcode (e : LogEntry) : Nat := (opcodeOf e.word).toNat

/-- An entry of a load, store, atomic or Frond access, not of an engine operation (07 R201). -/
def LogEntry.isAccess (e : LogEntry) : Bool :=
  e.opcode != 0x106 && e.opcode != 0x107 && e.opcode != 0x108 && decide (e.opcode < 0x280)

def LogEntry.isAtomic (e : LogEntry) : Bool := e.opcode == 0x104 || e.opcode == 0x105

/-- The address of a lane. -/
def LogEntry.addrAt (e : LogEntry) (l : Nat) : W64 := (spFind e.addrs l).getD 0

/-- An .acq or .ar atomic that has not performed (07 R191), a faulted one among them; the handler's own accesses are not
held by a faulted one, as 19 R338 lifts holding for it. -/
def Wave.acquiring (w : Wave) : Bool :=
  w.log.any fun e => e.2.opcode == 0x104 && e.2.word.getLsbD 0 &&
    (if e.2.state = 1 then e.2.stage != 2 else !w.handler)

/-- An access of the handler itself. -/
def Wave.ofHandler (w : Wave) (seq : Nat) : Bool :=
  match w.saved with
  | some v => w.handler && decide (v.seq ≤ seq)
  | none => false

/-! ### The bytes that an access touches (07 R187, R189, R193) -/

/-- The fields of the held word. -/
def LogEntry.fields (e : LogEntry) : F := fieldsR e.word

/-- Bytes of a width code of LD and ST. -/
def accessBytes (m : BitVec 6) : Nat :=
  match m.toNat % 8 with
  | 0 => 1
  | 1 => 1
  | 2 => 2
  | 3 => 2
  | 4 => 4
  | 5 => 8
  | _ => 16

def atomWide (m : BitVec 6) : Bool := m.toNat / 4 == 1 || decide (14 ≤ m.toNat / 4)

/-- Bytes of each lane's access. -/
def LogEntry.bytes (e : LogEntry) : Nat :=
  let m := e.fields.m
  if e.opcode = 0x100 ∨ e.opcode = 0x101 then accessBytes m
  else if e.opcode = 0x106 then 4 * 2 ^ (m.toNat % 4)
  else if atomWide m then 8 else 4

/-- The physical address of a lane, by its pages or as it translates now. -/
def State.lanePhys (s : State) (l : Launch) (e : LogEntry) (ln : Nat) : Option Nat :=
  let a := (e.addrAt ln).toNat
  match e.pages.find? fun p => p.1 == a / 65536 with
  | some p => some (p.2 * 65536 + a % 65536)
  | none => match s.translate l.asid l.tenant a [] with
    | .error _ => none
    | .ok pa => some pa

/-- Two accesses touch a common byte, by virtual or by physical address. -/
def State.meets (s : State) (l : Launch) (a b : LogEntry) : Bool :=
  let near := fun (p q : Nat) => decide (p < q + b.bytes) && decide (q < p + a.bytes)
  a.addrs.any fun x => b.addrs.any fun y => near x.2.toNat y.2.toNat ||
    (match s.lanePhys l a x.1, s.lanePhys l b y.1 with
    | some p, some q => near p q
    | _, _ => false)

/-- An access waits for an older one of its wave to its bytes which has faulted and satisfies a test (04 R120): it has not been
sent, and its wave's return re-issues the older one first (19 R338). -/
def State.waitsFault (s : State) (b : Block) (w : Wave) (e : LogEntry) (test : LogEntry → Bool) : Bool :=
  e.state == 1 && decide (e.stage < 2) && !w.ofHandler e.seq && (match s.launchOf b with
  | none => false
  | some l => w.log.any fun x => x.2.state == 2 && decide (x.2.seq < e.seq) && test x.2 && s.meets l x.2 e)

/-- A store that found the journal full, with what waits for it, awaits its re-issue while the handler runs: the handler's
fence and publish do not wait for them (04 R97; DEDUCED, log 81). -/
def State.setAside (s : State) (b : Block) (w : Wave) (e : LogEntry) : Bool :=
  w.setAside e || (w.handler && s.waitsFault b w e fun x => x.cause == cJOURNAL_FULL)

/-- No access of the wave issued before a count remains to perform. -/
def State.performed (s : State) (b : Block) (w : Wave) (seq : Nat) : Bool :=
  w.log.all fun e => !(e.2.isAccess && decide (e.2.seq < seq)) || s.setAside b w e.2

/-! ### Traffic and quiet (04 R117, 23 R399) -/

/-- Messages on their way or waiting at their core. -/
def State.messages (s : State) : List Message :=
  (s.agenda.filterMap fun i => match i with
    | .amArrive _ m => some m
    | _ => none) ++ s.msgq.flatMap fun e => e.2

/-- A load, an atomic or a Frond access that has been sent and whose response has not landed. -/
def LogEntry.traffic (e : LogEntry) : Bool :=
  (e.opcode == 0x100 || e.isAtomic || e.opcode == 0x112 || e.opcode == 0x113) && e.state == 1 && (e.stage == 1 || e.stage == 2)

/-- The phases of a block's unacknowledged packets, but for its journal lines, each from its sending on: loads, atomics and Frond
accesses until their response lands, engine commands until they complete, messages until they are spawned, window contributions until
they are acknowledged (23 R399). -/
def State.unacked (s : State) (b : Block) : List Nat :=
  (b.waves.flatMap fun w => (w.2.log.filter fun x => x.2.traffic).map fun x => x.2.phase) ++
  ((s.ops.filter fun o => o.2.uid == b.uid && o.2.begun && !o.2.faulted && o.2.status != 3).map fun o => o.2.phase) ++
  ((s.messages.filter fun m => m.uid == b.uid).map Message.phase) ++
  (s.wingroups.flatMap fun g => (g.2.parts.filter fun p => p.uid == b.uid && decide (p.stage < 2)).map Contribution.phase)

/-- The phases of a block's sealed lines that have not been applied. -/
def Block.sealedPhases (b : Block) : List Nat := (b.journal.lines.map JLine.phase).filter fun n => decide (n < b.journal.phase)

/-- A block's count of unacknowledged packets with a tag (23 R399). -/
def State.tagCount (s : State) (b : Block) (tag : Nat) : Nat :=
  ((s.unacked b ++ b.sealedPhases).filter fun n => n % 2 == tag).length

/-- A block is quiet for a tag everywhere (23 R399). -/
def State.quiet (s : State) (b : Block) (tag : Nat) : Bool := s.tagCount b tag == 0

/-- A packet of a phase may be sent: its tag is quiet, or all that stands under it is of the phase itself, so that no node
holds two phases of a block under one tag (04 R117). -/
def State.tagFree (s : State) (b : Block) (phase : Nat) : Bool :=
  s.quiet b (phase % 2) || (s.unacked b).all fun n => n % 2 != phase % 2 || n == phase

/-- The narrowest scope whose FWAIT waits for a home (04 R108): 3 for the package's memory, 6 for the host's. -/
def homeScope (pa : Nat) : Nat := if hostBit ≤ pa then 6 else 3

/-- The narrowest scope whose FWAIT waits for a lane of an access: every one before its walk and for a Frond access; for a
window of another package 5 (04 R108). -/
def State.laneScope (s : State) (tenant : Nat) (e : LogEntry) (l : Nat) : Nat :=
  let a := e.addrAt l
  match (if e.isAtomic then s.windowOf tenant a else none) with
  | some w => if s.homeHere w then 3 else 5
  | none => if e.pages.isEmpty || (spFind e.addrs l).isNone then 0 else homeScope (physOf e.pages a.toNat)

/-- No access of the wave issued before a count remains that a scope waits for: at block scope and below every one, above
those homed within it (04 R108, R123 note 7). -/
def State.performedAt (s : State) (b : Block) (w : Wave) (seq scope : Nat) : Bool :=
  let tenant := ((s.launchOf b).map Launch.tenant).getD 0
  w.log.all fun e => !(e.2.isAccess && decide (e.2.seq < seq)) || s.setAside b w e.2 ||
    (decide (3 ≤ scope) && (lanesOf (e.2.lanes &&& ~~~e.2.done)).all fun l => decide (scope < s.laneScope tenant e.2 l))

/-- Stores that belong to a seal or an earlier one have entered the journal (04 R99). -/
def Block.entered (b : Block) (n : Nat) : Bool :=
  b.waves.all fun e => e.2.log.all fun x => x.2.opcode != 0x101 || decide (n < x.2.phase) || e.2.setAside x.2

/-- The publish point of a seal is reached at a scope (04 R99, R108, R117): its lines and those of earlier seals are home,
but lines of host memory only where the scope is system; the wave's earlier accesses have performed, and no traffic of an
earlier phase stands, that of the phase before the previous one among it. -/
def State.sealReachedAt (s : State) (b : Block) (w : Wave) (n seq scope : Nat) : Bool :=
  (b.journal.lines.all fun l => decide (n < l.phase) || decide (scope < homeScope (l.line * 64))) && b.entered n &&
  s.performedAt b w seq scope && (s.unacked b).all fun p => decide (n ≤ p)

/-- The publish point of a phaser signal, at package scope (07 R206). -/
def State.sealReached (s : State) (b : Block) (w : Wave) (n seq : Nat) : Bool := s.sealReachedAt b w n seq 4

/-- The scope of the publish point that a .rel atomic waits for: package where its homes lie in the package, else tenant
(07 R191). -/
def State.releaseScope (s : State) (b : Block) (e : LogEntry) : Nat :=
  let tenant := ((s.launchOf b).map Launch.tenant).getD 0
  if (lanesOf e.lanes).all fun l => decide (s.laneScope tenant e l ≤ 3) then 4 else 5

/-- The publish point of a .rel atomic is reached. -/
def State.released (s : State) (b : Block) (w : Wave) (e : LogEntry) : Bool :=
  match e.sealNo with
  | none => true
  | some n => s.sealReachedAt b w n e.seq (s.releaseScope b e)

/-- A .rep collective's entry. -/
def LogEntry.isRep (e : LogEntry) : Bool := decide (0x2A0 ≤ e.opcode) && e.fields.m.getLsbD 0

/-- An access that is a publish point has not come to it: a .rel atomic or RED that has not performed, a .rep collective whose
publish point is not reached (04 R98, R119). -/
def State.unpublished (s : State) (b : Block) (w : Wave) (e : LogEntry) : Bool :=
  (e.isAtomic && e.sealNo.isSome && (e.state == 2 || e.stage != 2)) ||
  (e.isRep && e.sealNo.any fun n => !s.sealReachedAt b w n e.seq 6)

/-- A publish point that waits for the return of the handler: it or an older access of the wave is issued again only then. -/
def Wave.awaitsReturn (w : Wave) (x : LogEntry) : Bool :=
  x.state == 2 || w.log.any fun y => y.2.state == 2 && decide (y.2.seq < x.seq)

/-- An older access that has not performed, one that awaits its re-issue among them; an access of the handler does not wait
for what its return re-issues (19 R338; DEDUCED, log 54). -/
def Wave.before (w : Wave) (x : LogEntry) (seq : Nat) : Bool :=
  x.isAccess && decide (x.seq < seq) &&
  (if w.ofHandler seq then x.state == 1 && decide (x.stage < 2)
  else (x.state == 1 && x.stage != 2) || x.state == 2)

/-- Later accesses of the wave come after an earlier publish point of it (04 R119, R120); those of the handler not after one that
waits for its return (DEDUCED, log 54). -/
def State.publishHeld (s : State) (b : Block) (w : Wave) (seq : Nat) : Bool :=
  w.log.any fun x => decide (x.2.seq < seq) && s.unpublished b w x.2 && !(w.ofHandler seq && w.awaitsReturn x.2)

/-- What holds an engine's accesses behind those that its wave issued before them: a publish point, or a load or an atomic of
a line that the engine has locked (04 R111, R120). -/
def State.engineHeld (s : State) (b : Block) (w : Wave) (owner seq : Nat) : Bool :=
  s.publishHeld b w seq || (match s.launchOf b with
  | none => false
  | some l => s.locks.any fun k => k.owner == owner && w.log.any fun x =>
      w.before x.2 seq && (x.2.opcode == 0x100 || x.2.isAtomic) && (lanesOf (x.2.lanes &&& ~~~x.2.done)).any fun ln =>
        match s.lanePhys l x.2 ln with
        | none => true
        | some pa => k.lines.any fun r => decide (r.1 ≤ pa / 64) && decide (pa / 64 ≤ r.2))

/-! ### Phasers (07 R204, R205) -/

def noPhaser : Phaser := ⟨0, 0, 0, []⟩
def State.phaser (s : State) (k : Nat) : Phaser := spGet noPhaser s.phasers k

/-- Phase P has passed: (phase - P) mod 2^32 lies in [1, 2^31) (07 R206). -/
def phasePassed (phase p : BitVec 32) : Bool := 1 ≤ (phase - p).toNat && (phase - p).toNat < 2147483648

/-- Whether a member is a wave. -/
def Member.is (m : Member) (b : Block) (wave : Nat) : Bool := m.launch == b.launch && m.linear == b.linear && m.wave == wave

/-- The wave is held by a forcing. -/
def Wave.forcing (w : Wave) : Bool :=
  match w.wait with
  | some (.force _ _ _ _) => true
  | _ => false

/-! ### When a wait is over -/

/-- FWAIT on a token (04 R108, 07 R201): a token of scope die or wider also waits for its seals. -/
def State.fwaitDone (s : State) (b : Block) (w : Wave) (token : W64) : Bool :=
  let seq := (token.extractLsb' 0 48).toNat
  let scope := (token.extractLsb' 48 3).toNat
  s.performedAt b w seq scope &&
    (decide (scope < 3) || w.fences.all fun f => decide (seq < f.1) || s.sealReachedAt b w f.2 f.1 scope)

/-- The engine operations, accesses, results in flight and messages of a block that a save waits for are over, an AMSEND that waits at
a full destination among them (21 R363). -/
def State.opsEnded (s : State) (b : Block) : Bool :=
  (b.waves.all fun e => e.2.foldq.isEmpty && e.2.inflight.all InFlight.landed) &&
  (s.ops.all fun o => o.2.uid != b.uid || o.2.faulted || o.2.status == 3) && (b.waves.all fun e => e.2.log.all fun x => x.2.state == 2) &&
  (s.messages.all fun m => m.uid != b.uid) && b.waves.all fun e => (match e.2.wait with
    | some (.messages _ _) => false
    | _ => true)

/-- The wait of a wave is over: its instruction may issue, or complete. -/
def State.waitDone (s : State) (id : WaveId) (b : Block) (w : Wave) : Wait → Bool
  | .flag sig => decide (w.kget sig < 63)
  | .log regs entry => (!entry || w.logFree.isSome) && regs.all fun n => !w.logHolds n
  | .locks n => decide (n ≤ s.lockFree id.core)
  | .acquire => !w.acquiring
  | .nstat => w.inflight.all InFlight.landed && w.foldq.isEmpty
  | .sfold n _ _ => w.foldSeq == n || w.foldq.isEmpty
  | .fwait token => s.fwaitDone b w token
  | .bwait bar phase => (b.bar bar).phase != phase
  | .arrive _ => s.performed b w w.accesses
  | .publish n _ => s.sealReached b w n w.accesses
  | .signal ph =>
    let p := s.phaser ph
    p.members.all fun m => !m.is b id.wave || decide ((BitVec.ofNat 32 (m.count + 1) - p.phase).toNat ≤ 2)
  | .advance ph p => phasePassed (s.phaser ph).phase p
  | .phwait ph p => phasePassed (s.phaser ph).phase p
  | .fwrs _ _ _ seq => w.log.all fun e => e.2.opcode != 0x113 || decide (seq ≤ e.2.seq)
  | .messages core m => decide ((spGet [] s.msgq core).length < 64) && s.tagFree b m.phase
  | .join l gen => match s.launch? l with
    | none => true
    | some x => x.complete || x.gen != gen
  | .yield _ => false
  | .abandon => true
  | .restart => true
  | .tiles => b.waves.all fun e => e.1 == id.wave || !e.2.forcing
  | .force d _ _ _ => b.demandMet d
  | .asinv held ops =>
    (held.all fun h => (s.blocks.all fun e => e.2.waves.all fun v => v.2.log.all fun x =>
      !(wfull ⟨e.2.core, e.2.slot, v.1⟩ == h.1 && x.1 == h.2.1 && x.2.seq == h.2.2 && x.2.state == 1))) &&
    ops.all fun n => match spFind s.ops n with
      | some o => o.faulted || o.status == 3
      | none => s.locks.all fun k => k.owner != n
  | .context core slot uid => match s.block? ⟨core, slot, 0⟩ with
    | none => true
    | some x => x.uid != uid
  | .written _ => true
  | .slotFree core slot uid => match s.block? ⟨core, slot, 0⟩ with
    | none => true
    | some x => x.uid != uid

/-- Waits that keep the issue slot: none of them is in the lists of 05 R127 and 20 R355. -/
def Wait.keepsSlot : Wait → Bool
  | .log _ _ => true
  | .locks _ => true
  | .acquire => true
  | .nstat => true
  | _ => false

/-- Waits of an instruction that has issued and of which only the wait is resumed (08 R421). -/
def Wait.issued : Wait → Bool
  | .flag _ => false
  | .log _ _ => false
  | .locks _ => false
  | .acquire => false
  | .nstat => false
  | .tiles => false
  | .force _ _ _ _ => false
  | _ => true

/-- The reading that a forcing keeps. -/
def Wait.kept : Wait → Option Reading
  | .force _ _ _ r => some r
  | _ => none

/-! ### Taking an exception (08 R232-R237, 19 R335-R337) -/

/-- Release the lock that a forcing has taken. -/
def State.dropForce (s : State) (w : Wave) : State :=
  match w.wait with
  | some (.force _ (some k) _ _) => s.unlock k
  | _ => s

/-! ### Job slices (08 R228-R230) -/

/-- The slice count stops. -/
def Block.pauseSlice (b : Block) (clock : Nat) : Block :=
  match b.sliceFrom with
  | none => b
  | some t => { b with sliceUsed := b.sliceUsed + (clock - t), sliceFrom := none }

/-- A wave of the block runs its handler or is stopped (19 R333). -/
def Block.inHandler (b : Block) : Bool := b.waves.any fun e => e.2.handler || e.2.overrun

/-- The slice count runs on, unless a handler runs or the block stands between slices. -/
def Block.resumeSlice (b : Block) (clock : Nat) : Block :=
  if b.inHandler || b.offered.isSome || b.sliceFrom.isSome then b else { b with sliceFrom := some clock }

/-- Cycles of the slice so far. -/
def Block.sliceCount (b : Block) (clock : Nat) : Nat :=
  b.sliceUsed + (match b.sliceFrom with
    | none => 0
    | some t => clock - t)

/-- Cycles of a slice, 0 for none. -/
def State.sliceOf (s : State) (b : Block) : Nat := ((s.launchOf b).map fun l => l.record.slice).getD 0

/-- The slice counts and has not expired: a slice that has expired goes on after its handlers without expiring again, until it ends (08
R230; DESIGN CHOICE, log 109). -/
def State.sliceRuns (s : State) (b : Block) : Bool := s.sliceOf b != 0 && b.sliceFrom.isSome && !b.expired && b.offered.isNone

/-- The slice reaches its budget: it expires in this cycle, unless it ends first (08 R228, R230). -/
def State.sliceDue (s : State) (b : Block) : Bool := s.sliceRuns b && decide (s.sliceOf b ≤ b.sliceCount s.clock)

/-- The cycle in which the slice expires has passed: nothing of the block issues before BUDGET is raised (08 R228, R230). -/
def State.sliceOver (s : State) (b : Block) : Bool := s.sliceRuns b && decide (s.sliceOf b < b.sliceCount s.clock)

/-- The lowest of a block's causes so far and a further one (01 R41). -/
def lowerCause (old : Option Nat) (k : Nat) : Option Nat :=
  match old with
  | none => some k
  | some j => some (min j k)

/-- The block terminates as faulted (01 R43): its waves end, accesses and operations that wait for a re-issue are given
up, and the block retires like any other. -/
def State.faultBlock (s : State) (id : WaveId) (cause : Nat) : State :=
  match s.block? id with
  | none => s
  | some b =>
    let s := b.waves.foldl (fun s e => s.dropForce e.2) s
    let s := s.modBlock id fun b => { b.sealJournal with
      faulted := lowerCause b.faulted cause
      waves := b.waves.map fun e => (e.1, { e.2 with
        exited := BitVec.allOnes 32, clause := ⟨0, 0, 0⟩, trivet := [], trivSet := [], wait := none, handler := false,
        saved := none, record := none, reissue := [], overrun := false
        log := e.2.log.filter fun x => x.2.state == 1 && x.2.stage != 3 }) }
    { s with
      running := s.running.filter fun r => wkey r != wkey id
      ops := s.ops.filter fun o => !(o.2.uid == b.uid && o.2.faulted) }

/-- Registers s120 to s125 and the threads at handler entry (08 R233); a yield point that the wave has passed stands (05 R127). -/
def Wave.handlerStart (w : Wave) (entry : W64) (r : CauseRec) : Wave :=
  let w := { w with
    held := 0, meet := [], group := w.live, groupLen := 0, rotated := false,
    clause := ⟨0, 0, 0⟩, trivet := [], trivSet := [], wait := none, yieldDue := false, skipAt := none, issues := 0, last := [] }
  let w := w.setPcs fun l => if w.exited.getLsbD l then w.pcAt l else entry
  let w := w.sset 120 w.tcause
  let w := w.sset 121 r.pc
  let w := w.sset 122 (r.lanes.zeroExtend 64 ||| (BitVec.ofNat 64 (r.index % 16) <<< 32) ||| (r.code.zeroExtend 64 <<< 48))
  let w := w.sset 123 r.addr
  let w := w.sset 124 r.origin
  w.sset 125 (BitVec.ofNat 64 r.resume)

/-- What handler entry saves (08 R233, R421). -/
def Wave.save (w : Wave) (r : CauseRec) : Saved :=
  { pc := w.pc, meet := w.meet, held := w.held, clause := w.clause, trivSet := w.trivSet, trivet := w.trivet,
    group := w.group, groupLen := w.groupLen, rotated := w.rotated, skipAt := w.skipAt
    yieldDue := w.yieldDue, high := (List.range 8).map fun i => w.sget (120 + i), entry := w.tcause, raiser := r.pc, index := r.index,
    cause := r.cause, resume := r.resume, seq := w.accesses, log := r.log, issues := w.issues, last := w.last,
    wait := match w.wait with
      | some wt => if wt.issued then some wt else none
      | none => none }

/-- Enter the handler of the wave's launch (08 R233): the state that TRET restores is saved, and the count of HCYC
starts. -/
def State.enterHandler (s : State) (id : WaveId) (entry : W64) (r : CauseRec) : State :=
  let s := s.dropForce (s.wave id)
  let s := s.modBlock id fun b => b.pauseSlice s.clock
  let s := s.modWave id fun w =>
    { (w.handlerStart entry r) with saved := some (w.save r), handler := true, hstart := s.clock, hcyc := 0, hpast := false, record := none }
  (s.countCore id.core 0x103 1).leave id

/-- A cause is delivered: to the handler, or by terminating the block with its lowest TCAUSE bit (08 R232, 01 R43). -/
def State.deliver (s : State) (id : WaveId) (r : CauseRec) : State :=
  match s.block? id with
  | none => s
  | some b =>
    let entry := (match s.launchOf b with
      | some l => l.record.handler
      | none => 0)
    if entry = 0 then s.faultBlock id (lowBit (s.wave id).tcause) else s.enterHandler id entry r

def State.setCauses (s : State) (id : WaveId) (bits : W64) : State :=
  s.modWave id fun w => { w with tcause := w.tcause ||| bits }

/-- HCYC (19 R332): core cycles since handler entry; it stands still while the wave is stopped. -/
def Wave.hcycles (w : Wave) (clock : Nat) : Nat := w.hcyc + (if w.handler && !w.overrun then clock - w.hstart else 0)

/-- HCYC has reached 65,536 and the wave has not been stopped for it (19 R332). -/
def Wave.overrunDue (w : Wave) (clock : Nat) : Bool :=
  w.handler && !w.overrun && !w.hpast && decide (65536 ≤ w.hcycles clock)

/-- An exception of the wave's own instruction (08 R232, R237): its bits are set and it is delivered at once; raised by
an instruction of the handler it terminates the block with the lowest bit of s120 at entry. -/
def State.raise (s : State) (id : WaveId) (r : CauseRec) : State :=
  let s := s.setCauses id (causeBit r.cause ||| r.also)
  match (s.wave id).saved with
  | some v => s.faultBlock id (lowBit v.entry)
  | none => s.deliver id r

/-- Address, clause index and lanes of the instruction that a wave would issue next (19 R335). -/
def Wave.nextIssue (w : Wave) : W64 × Nat × BitVec 32 :=
  if w.inClause then (w.wordAddr, w.clause.next, w.active)
  else match w.select with
    | none => (0, 0, 0)
    | some p => (w.pcAt (lowLane p.lanes) + 8, 0, p.lanes)

/-- A record is delivered; to a wave held in the wait of an instruction that has issued as R421 says. -/
def State.deliverIn (s : State) (id : WaveId) (r : CauseRec) : State :=
  let w := s.wave id
  match w.wait with
  | some wt => if wt.issued then s.deliver id { r with pc := w.wordAddr, index := w.clause.next, resume := 0 } else s.deliver id r
  | none => s.deliver id r

/-- The block is being stopped or saved and the wave has left its slot: a cause waits for the wave's next issue (21 R361, R363). -/
def State.stands (s : State) (id : WaveId) : Bool :=
  ((s.block? id).any fun b => b.stopping.isSome || b.saving) && !decide (id ∈ s.running)

/-- A cause from outside the wave's next instruction (08 R237, R421, 19 R337): while the handler or re-issues run, or the
block is being stopped and the wave has left its slot (21 R361), its record waits; the oldest is kept, of two of one
instruction that of the lowest bit (19 R337). Of a wave that has exited the block counts as faulted (16 R317). -/
def State.raiseLater (s : State) (id : WaveId) (r : CauseRec) : State :=
  match s.block? id with
  | none => s
  | some _ =>
    let s := s.setCauses id (causeBit r.cause ||| r.also)
    let w := s.wave id
    if w.live = 0 then
      s.modBlock id fun b => { b with faulted := lowerCause b.faulted (lowBit (causeBit r.cause ||| r.also)) }
    else if w.handler || !w.reissue.isEmpty || s.stands id then
      s.modWave id fun w => { w with record := match w.record with
        | some q => if q.seq < r.seq ∨ (q.seq = r.seq ∧ q.cause ≤ r.cause) then some q else some r
        | none => some r }
    else s.deliverIn id r

/-- What a fault of an access of a handler that has returned ends the block with. -/
def Wave.pastCause (w : Wave) (seq : Nat) : Option Nat :=
  (w.past.find? fun p => decide (p.1 ≤ seq) && decide (seq < p.2.1)).map fun p => p.2.2

/-- What a fault of an access that a handler issued ends its block with: the lowest bit of s120 at the handler's entry, also
once the handler has returned (08 R237). -/
def Wave.handlerCause (w : Wave) (seq : Nat) : Option Nat :=
  match w.saved with
  | some v => if v.seq ≤ seq then some (lowBit v.entry) else w.pastCause seq
  | none => w.pastCause seq

/-- A cause of an access or operation that the wave issued at a count of accesses, found after its issue: of one that a handler
issued it ends the block; any other waits its turn (08 R237). -/
def State.raiseFrom (s : State) (id : WaveId) (by_ : Nat) (r : CauseRec) : State :=
  match (s.wave id).handlerCause by_ with
  | some k => (s.setCauses id (causeBit r.cause ||| r.also)).faultBlock id k
  | none => s.raiseLater id r

/-- A record of a cause raised at the instruction that a wave would issue next; while the handler runs, at that of the program
that it interrupts (08 R237, 19 R337). -/
def Wave.nextRec (w : Wave) (cause : Nat) (addr : W64) : CauseRec :=
  let n := w.nextIssue
  { cause := cause, also := 0, pc := n.1, addr := addr, lanes := n.2.2, index := n.2.1, code := 0, origin := 0, resume := 0,
    seq := match w.saved with
      | some v => v.seq
      | none => w.accesses }

/-! ### Return from an exception (08 R235, 19 R338) -/

/-- Every faulted entry of the log, in ascending sequence. -/
def Wave.faultedEntries (w : Wave) : List Nat :=
  (sortBy (fun e => e.2.seq) (w.log.filter fun e => e.2.state == 2)).map Prod.fst

/-- Issue a logged access again (08 R236): its destination words are pending until it lands (07 R185). Its request belongs to
the phase that runs; a store keeps the phase of its seal (04 R99, R117). -/
def State.reissue (s : State) (id : WaveId) (e : Nat) : State :=
  let now := ((s.block? id).map fun b => b.journal.phase).getD 0
  s.modWave id fun w =>
    let dests := ((spFind w.log e).map LogEntry.dests).getD []
    { w with
      log := spMod w.log e fun x => { x with
        state := 1, stage := 0, cause := 0xFF, causes := 0, faultAddr := 0, faultLanes := 0
        phase := if x.opcode = 0x101 then x.phase else now }
      pend := dests.foldl (fun p d => spSet false p d true) w.pend }

/-- The waves of the block that have not exited. -/
def Block.liveWaves (b : Block) : Sparse Wave := b.waves.filter fun e => e.2.live != 0

/-- The flag of a waiting YIELD. -/
def Wave.yieldSig (w : Wave) : Option Nat :=
  match w.wait with
  | some (.yield sig) => some sig
  | _ => none

/-- YIELD completes in a wave: its flag counts down, its lanes go on (08 R229). -/
def State.endYield (s : State) (id : WaveId) : State :=
  (s.modWave id fun w => { (w.flagDown (w.yieldSig.getD 15)) with wait := none }).advance id

/-- The slice ends when every unexited wave of the block waits in YIELD (08 R229; DEDUCED, log 24). -/
def State.settleSlice (s : State) (id : WaveId) : State :=
  match s.block? id with
  | none => s
  | some b =>
    let live := b.liveWaves
    if live.isEmpty || !(live.all fun e => e.2.yieldSig.isSome && e.2.reissue.isEmpty) then s
    else
      let s := live.foldl (fun s e => s.endYield ⟨id.core, id.slot, e.1⟩) s
      s.modBlock id fun b => { (b.pauseSlice s.clock) with offered := some s.clock }

/-- The re-issues of a wave go on: each runs alone; when they have ended, a record that waits is delivered, or a wait
goes on (08 R236, R421, 19 R338). In a block that is being stopped or saved the record waits on (21 R363, R368). -/
def State.nextReissue (s : State) (id : WaveId) : State :=
  match (s.wave id).reissue with
  | [] => s
  | _ :: rest =>
    let s := s.modWave id fun w => { w with reissue := rest }
    match rest with
    | e :: _ => s.reissue id e
    | [] => match (s.wave id).record with
      | none => s.settleSlice id
      | some r => if s.stands id then s else (s.modWave id fun w => { w with record := none }).deliverIn id r

/-- Restore what handler entry saved (08 R235): threads that exited in the handler stay exited, and may so release those
held at their meeting address (01 R21); the selection goes on where it stood (01 R22; DEDUCED, log 18). -/
def Wave.restoreSaved (w : Wave) (v : Saved) : Wave :=
  let w := { w with
    pc := v.pc, meet := v.meet, held := v.held &&& ~~~w.exited, clause := v.clause, trivSet := v.trivSet, trivet := v.trivet,
    wait := v.wait, saved := none, handler := false, record := none
    group := v.group &&& ~~~w.exited, groupLen := v.groupLen, rotated := v.rotated && (v.group &&& w.exited) == 0
    skipAt := v.skipAt, yieldDue := v.yieldDue, issues := v.issues, last := v.last }
  (((List.range 8).zip v.high).foldl (fun w e => w.sset (120 + e.1) e.2) w).release

/-! ### Termination by KILLED (19 R334) -/

/-- 32-bit register-space words that an operation has still to land (02 R73): a faulted one lands none. -/
def EngineOp.wordsLeft (o : EngineOp) : Nat :=
  if o.faulted then 0 else match o.wrSpace with
  | .memory => 0
  | .regs => o.wr.length
  | _ => 2 * o.wr.length

/-- Words that a log entry's return would have written (02 R73): those of an engine operation count with it, and an access that
has failed returns none. -/
def LogEntry.wordsLeft (e : LogEntry) : Nat := if e.state = 1 ∧ e.stage ≠ 3 ∧ e.op = none then e.dests.length else 0

/-! ### Handles (02 R66, R67) -/

def hGen (h : W64) : BitVec 8 := h.extractLsb' 56 8
def hCore (h : W64) : Nat := (h.extractLsb' 44 12).toNat
def hSlot (h : W64) : Nat := (h.extractLsb' 40 4).toNat
def hWave (h : W64) : Nat := (h.extractLsb' 35 5).toNat
def hTenant (h : W64) : Nat := (h.extractLsb' 31 4).toNat
def hScope (h : W64) : Nat := (h.extractLsb' 28 3).toNat
def hAll (h : W64) : Bool := h.getLsbD 27
def hLane (h : W64) : Nat := (h.extractLsb' 20 5).toNat
def hLen (h : W64) : Nat := (h.extractLsb' 11 9).toNat + 1
def hBase (h : W64) : Nat := (h.extractLsb' 2 9).toNat

def hOwner (h : W64) : WaveId := ⟨hCore h, hSlot h, hWave h⟩

/-- The owner lane and register of an index (02 R67). -/
def hTarget (h : W64) (i : Nat) : Nat × Nat :=
  if hAll h then (i % 32, hBase h + i / 32) else (hLane h, hBase h + i)

def LogEntry.handleAt (e : LogEntry) (l : Nat) : W64 := (spFind e.data (4 * l)).getD 0
def LogEntry.frondIdx (e : LogEntry) (l : Nat) : Nat := ((spFind e.data (4 * l + 1)).getD 0).toNat
/-- The owner word of a lane's access: wave, register and lane. -/
def LogEntry.ownerWord (e : LogEntry) (l : Nat) : WaveId × Nat × Nat :=
  let t := hTarget (e.handleAt l) (e.frondIdx l)
  (hOwner (e.handleAt l), t.2, t.1)

/-- Set the pending bits of destination words (07 R185). -/
def Wave.setPend (w : Wave) (dests : List Nat) (v : Bool) : Wave :=
  { w with pend := dests.foldl (fun p d => spSet false p d v) w.pend }

/-- A lane of an accepted Frond write lands in the owner's register, or is dropped by its tag and counted (02 R69, R73);
the allocations of a block that ends have another tag. -/
def State.landFwrBut (s : State) (e : LogEntry) (dead : Option Nat) (l : Nat) : State :=
  let o := e.ownerWord l
  let same := match s.block? o.1 with
    | none => false
    | some b => some b.uid != dead && BitVec.ofNat 64 b.uid == (spFind e.data (4 * l + 3)).getD 0 &&
        BitVec.ofNat 64 b.gen == (spFind e.old l).getD 0
  if same then s.modWave o.1 fun w =>
    (w.vset o.2.1 o.2.2 (((spFind e.data (4 * l + 2)).getD 0).extractLsb' 0 32)).setPend [o.2.1 * 32 + o.2.2] false
  else s.countCore o.1.core 0x101 1

/-- The Frond writes of a block that owners have accepted land when the block ends (02 R69). -/
def State.landAccepted (s : State) (b : Block) : State :=
  (b.waves.flatMap fun e => e.2.log.map Prod.snd).foldl (fun s e =>
    if e.opcode = 0x113 ∧ e.state = 1 ∧ e.stage = 1 then (lanesOf e.lanes).foldl (fun s l => s.landFwrBut e (some b.uid) l) s else s) s

/-- Drop the operations, locks and nodes of a block by generation tag (02 R73, 04 R110, 09 R264); a scan that a channel has
accepted runs to its end there, its records dropped (11 R288). -/
def State.dropBlockOps (s : State) (b : Block) : State :=
  let s := s.landAccepted b
  let mine := s.ops.filter fun o => o.2.uid == b.uid
  let words := mine.foldl (fun n o => n + o.2.wordsLeft) 0 +
    b.waves.foldl (fun n e => e.2.log.foldl (fun n x => n + x.2.wordsLeft) n) 0
  let gone := mine.map (fun o => o.1) ++ (b.nodes.filterMap fun e => e.2.lock)
  let s := { s with
    ops := s.ops.filter fun o => o.2.uid != b.uid
    orphans := mine.foldl (fun (m : Sparse Scan) (o : Nat × EngineOp) => match o.2.scan with
      | some k => if k.running then spPut m o.1 k else m
      | none => m) s.orphans
    locks := s.locks.filter fun k => !(k.owner ∈ gone) }
  s.countCore b.core 0x101 words

/-- KILLED (19 R334): no wave issues again, returns are dropped, locks and nodes are released, the journal is discarded;
the block then retires as killed. -/
def State.killBlock (s : State) (core slot : Nat) : State :=
  match s.block? ⟨core, slot, 0⟩ with
  | none => s
  | some b =>
    let s := b.waves.foldl (fun s e => s.dropForce e.2) s
    let s := s.dropBlockOps b
    let s := s.modBlock ⟨core, slot, 0⟩ fun b => { b with
      killed := true, gen := b.gen + 1, nodes := [], demand := [], stopping := none, draining := none, saving := false, saveTo := []
      journal := { b.journal with lines := [] }
      waves := b.waves.map fun e => (e.1, { e.2 with
        tcause := e.2.tcause ||| causeBit cKILLED, exited := BitVec.allOnes 32, clause := ⟨0, 0, 0⟩, trivet := [], trivSet := [],
        wait := none, handler := false, saved := none, record := none, reissue := [], overrun := false, log := [],
        inflight := [], foldq := [] }) }
    { s with running := s.running.filter fun r => wkey r != blockKey core slot }

/-! ### Fetching an instruction's bytes (08 R214, 22 R377) -/

/-- What a fetch of an 8-byte word finds: the word, a line to fill first, or a cause. -/
inductive Fetch where
  | word (w : W64)
  | fill
  | fault (cause : Nat)
  deriving DecidableEq, Repr

/-- The 8-byte word at an offset of a line. -/
def lineWord (data : List Byte) (off : Nat) : W64 := BitVec.ofNat 64 (natOfBytes ((data.drop off).take 8))

/-- The held line of an address that was checked for a tenant (22 R374, R377, R383). -/
def State.heldLine (s : State) (core asid tenant line : Nat) : Option ILine :=
  s.icache.find? fun i => i.core == core && i.asid == asid && i.tenant == tenant && i.line == line

/-- Fetch through the core's instruction cache (22 R377): a held line is used as it stands; else the page must allow
execution, the word must not be poisoned, and a line free of poison is filled first. -/
def State.fetch (s : State) (core asid tenant : Nat) (va : W64) : Fetch :=
  match s.heldLine core asid tenant (va.toNat / 64) with
  | some i => .word (lineWord i.data (va.toNat % 64))
  | none =>
    match s.translate asid tenant va.toNat [rEXEC] with
    | .error c => .fault c
    | .ok pa =>
      if s.poisoned (pa / 8 * 8) then .fault cMEM_POISON
      else if (s.poisonIn (pa / 64 * 64) 64).isSome then .word (BitVec.ofNat 64 (s.readNat pa 8))
      else .fill

/-- The set of a line among 256 (PRESUMED, log 39). -/
def iset (line : Nat) : Nat := line % 256

/-- A used line becomes the most recent of the cache. -/
def State.touchLine (s : State) (core asid tenant line : Nat) : State :=
  match s.heldLine core asid tenant line with
  | none => s
  | some i => { s with icache := i :: s.icache.filter (· != i) }

/-- A filled line takes its set's least recently used place among four. -/
def State.insertLine (s : State) (i : ILine) : State :=
  let mates := s.icache.filter fun x => x.core == i.core && iset x.line == iset i.line
  { s with icache := i :: s.icache.filter fun x => !decide (x ∈ mates.drop 3) }

/-- A fetch has failed: its translation is not held, so that the next one walks anew (22 R379). -/
def State.fetchFailed (s : State) (asid : Nat) (va : W64) : State := s.unhold asid va.toNat

/-- A word is read as code: a held line is used, else the line is filled where it may be (01 R26, 22 R377). -/
def State.readCode (s : State) (core asid tenant : Nat) (va : W64) : State :=
  match s.fetch core asid tenant va with
  | .word _ => s.touchLine core asid tenant (va.toNat / 64)
  | .fault _ => s.fetchFailed asid va
  | .fill => match s.translate asid tenant va.toNat [rEXEC] with
    | .error _ => s
    | .ok pa => (s.hold asid tenant va.toNat [rEXEC]).insertLine ⟨core, asid, tenant, va.toNat / 64, s.readBytes (pa / 64 * 64) 64⟩

/-- Fetch for a wave. -/
def State.fetchFor (s : State) (id : WaveId) (va : W64) : Fetch :=
  match s.block? id with
  | none => .fault cPAGE_FAULT
  | some b => match s.launchOf b with
    | none => .fault cPAGE_FAULT
    | some l => s.fetch id.core l.asid l.tenant va

end Sys2Proof.Machine
end

