-- ==== Sys2Proof/Machine/Operands.lean ====
section
/-! DEFINITION. Operand forms and special values (05 R135, R136), reading registers with the in-flight results of R133, the
checks of R138 steps 1 to 4, and issue. -/

namespace Sys2Proof.Machine

open Sys2Proof

/-! ### Operand forms (05 R135) -/

/-- An operand field read by its form. -/
inductive Operand where
  | vec (n : Nat)
  | ind (i off : Nat)
  | scal (n : Nat)
  | triv (e : Nat)
  | spec (code : Nat)
  | bad
  deriving DecidableEq, Repr

/-- Codes of the special-value table (05 R136). -/
def specialAssigned (c : Nat) : Bool :=
  decide (c ≤ 0x0C) || (decide (0x10 ≤ c) && decide (c ≤ 0x21)) || (decide (0x30 ≤ c) && decide (c ≤ 0x37))

/-- The form of a 10-bit operand field (05 R135). -/
def operandOf (f : BitVec 10) : Operand :=
  let n := f.toNat
  if n < 0x200 then .vec n
  else if n < 0x280 then .ind (n / 16 % 8) (n % 16)
  else if n < 0x300 then .scal (n - 0x280)
  else if n < 0x380 then (if n < 0x303 then .triv (n - 0x300) else .bad)
  else if specialAssigned (n - 0x380) then .spec (n - 0x380) else .bad

def isVec (f : BitVec 10) : Bool := match operandOf f with | .vec _ => true | _ => false
def isScal (f : BitVec 10) : Bool := match operandOf f with | .scal _ => true | _ => false
def isSpec (f : BitVec 10) : Bool := match operandOf f with | .spec _ => true | _ => false
/-- Any assigned form. -/
def anyForm (f : BitVec 10) : Bool := operandOf f != .bad
/-- Direct or indirect: a vector destination (05 R137). -/
def vecForm (f : BitVec 10) : Bool := match operandOf f with | .vec _ => true | .ind _ _ => true | _ => false
/-- Scalar or special: a source of a scalar-class instruction (06 R152). -/
def scalForm (f : BitVec 10) : Bool := isScal f || isSpec f
/-- A predicate field (05 R137). -/
def predForm (f : BitVec 10) : Bool := decide (f.toNat < 96)

def vecNo (f : BitVec 10) : Nat := f.toNat % 512
def scalNo (f : BitVec 10) : Nat := f.toNat % 128

/-! ### The context of an instruction -/

/-- What an instruction sees: its wave (with this instruction's stall counted), block, launch, active and participating
lanes, clause index and address. -/
structure Ctx where
  id     : WaveId
  w      : Wave
  b      : Block
  l      : Launch
  active : BitVec 32
  part   : BitVec 32
  idx    : Nat
  addr   : W64
  tick   : Nat
  clock  : Nat
  cyc    : W64
  seen   : List InFlight
  deriving DecidableEq, Repr

/-- The thread register budget (01 R31). -/
def Ctx.budget (c : Ctx) : Nat := c.b.budget

def Ctx.ordered (c : Ctx) : Bool := headerOrder c.w.clause.header

/-- The value of a register word that an earlier result in flight may not have reached (05 R133): at each uncovered result,
newest first, the later value stands or it does not. -/
def Ctx.uncovered (c : Ctx) (r : RegRef) (lane key : Nat) (cur : W64) : W64 :=
  if c.ordered then cur
  else
    ((c.seen.reverse.foldl (fun (acc : Bool × W64) p =>
      if acc.1 || p.landed || p.short == 0 then acc
      else match p.regs.find? fun o => o.reg == r && o.lane == lane with
        | none => acc
        | some o => if Config.freeBit c.tick (key + 100000 * p.short) then (true, acc.2) else (false, o.old)) (false, cur))).2

/-- What the instruction reads, for a forcing to keep. -/
def Ctx.reading (c : Ctx) : Reading := ⟨c.part, c.tick, c.cyc, c.seen⟩

/-- Vector register n of a lane, directly named. -/
def Ctx.vreg (c : Ctx) (n l : Nat) : W32 :=
  (c.uncovered (.vec n) l (n * 32 + l) ((c.w.vget n l).zeroExtend 64)).extractLsb' 0 32

/-- Predicate n of a lane. -/
def Ctx.preg (c : Ctx) (n l : Nat) : Bool :=
  c.uncovered (.pred n) l (20000 + n * 32 + l) (if c.w.pget n l then 1 else 0) != 0

/-- Scalar register n: each half is one word. -/
def Ctx.sreg (c : Ctx) (n : Nat) : W64 :=
  let cur := c.w.sget n
  let lo := c.uncovered (.scal n) 0 (30000 + n) cur
  let hi := c.uncovered (.scal n) 0 (31000 + n) cur
  (hi.extractLsb' 32 32) ++ (lo.extractLsb' 0 32)

/-- Effective register number of a vector operand in a lane (02 R55). -/
def Wave.eff (w : Wave) (f : BitVec 10) (l : Nat) : Option Nat :=
  match operandOf f with
  | .vec n => some n
  | .ind i off => some ((w.xget i l).toNat + off)
  | _ => none

def Ctx.eff (c : Ctx) (f : BitVec 10) (l : Nat) : Option Nat := c.w.eff f l

/-! ### Levels and special values (01 R32, R35, 05 R136) -/

def levelDomain (e : W64) : Nat := (e.extractLsb' 32 4).toNat
def levelExtent (e : W64) : Nat := (e.extractLsb' 0 32).toNat
def levelScope (e : W64) : Nat := (e.extractLsb' 36 4).toNat
def levelMode (e : W64) : Nat := (e.extractLsb' 40 2).toNat

def Record.levelCount (r : Record) : Nat := (r.control.extractLsb' 56 8).toNat
def Record.active (r : Record) : List W64 := r.levels.take r.levelCount
def Record.split (r : Record) : Bool := r.control.getLsbD 11

/-- The digit of level n of a mixed-radix number over some levels, the first most significant (01 R35). -/
def digitAt (levels : List W64) (n x : Nat) : Nat :=
  x / ((levels.drop (n + 1)).foldl (fun p e => p * levelExtent e) 1) % levelExtent (levels.getD n 1)

/-- A thread's index at a level (01 R35). -/
def threadIndex (r : Record) (linear wave lane n : Nat) : Nat :=
  let ls := r.active
  if ls.length ≤ n then 0
  else
    let outer := ls.filter fun e => 2 ≤ levelDomain e
    let waves := ls.filter fun e => levelDomain e == 1
    let threads := ls.filter fun e => levelDomain e == 0
    if n < outer.length then digitAt outer n linear
    else if n < outer.length + waves.length then digitAt waves (n - outer.length) wave
    else digitAt threads (n - outer.length - waves.length) lane

/-- First iteration and length of a block's share (20 R351): I iterations over N blocks. -/
def shareOf (i n b : Nat) : Nat × Nat :=
  let q := i / n
  let m := i % n
  (b * q + min b m, q + if b < m then 1 else 0)

/-- Extent of the block level. -/
def Record.blockExtent (r : Record) : Nat :=
  match r.active.find? fun e => levelDomain e == 2 with
  | none => 1
  | some e => levelExtent e

/-- The linear block index a block's waves read (01 R35): of a handler wave's block the spec gives none (DESIGN CHOICE, log 11). -/
def Block.linearValue (b : Block) : Nat := if b.sender.isSome then (Config.freeIndex b.uid).toNat else b.linear

/-- 1.0, -1.0, 0.5, 2.0 and the infinities as codes of a float type, FP32 where there is none (05 R136). -/
def floatConst (t code : Nat) : W64 :=
  match t, code with
  | 3, 0x32 => 0x3F80
  | 3, 0x33 => 0xBF80
  | 3, 0x34 => 0x3F00
  | 3, 0x35 => 0x4000
  | 3, 0x36 => 0x7F80
  | 3, _ => 0xFF80
  | 4, 0x32 => 0x3C00
  | 4, 0x33 => 0xBC00
  | 4, 0x34 => 0x3800
  | 4, 0x35 => 0x4000
  | 4, 0x36 => 0x7C00
  | 4, _ => 0xFC00
  | _, 0x32 => 0x3F800000
  | _, 0x33 => 0xBF800000
  | _, 0x34 => 0x3F000000
  | _, 0x35 => 0x40000000
  | _, 0x36 => 0x7F800000
  | _, _ => 0xFF800000

/-- A special value in a lane (05 R136): `t` is the instruction's float type, 0 for none; `wide` for a scalar-class
operation. -/
def Ctx.special (c : Ctx) (code l t : Nat) (wide : Bool) : W64 :=
  let gid := (c.b.linearValue * c.b.nwaves + c.id.wave) * 32 + l
  let share := if c.l.record.split then
      shareOf c.l.record.inner c.l.record.blockExtent (c.b.linearValue % c.l.record.blockExtent) else (0, 0)
  if code = 0x00 then 0
  else if code = 0x01 then BitVec.ofNat 64 l
  else if code = 0x02 then BitVec.ofNat 64 c.id.wave
  else if code = 0x03 then BitVec.ofNat 64 c.b.nwaves
  else if code = 0x04 then BitVec.ofNat 64 c.b.linearValue
  else if code = 0x05 then BitVec.ofNat 64 c.id.slot
  else if code = 0x06 then BitVec.ofNat 64 c.id.core
  else if code = 0x07 then BitVec.ofNat 64 (dieOf c.id.core)
  else if code = 0x08 then BitVec.ofNat 64 c.l.tenant
  else if code = 0x09 then BitVec.ofNat 64 (gid % 4294967296)
  else if code = 0x0A then BitVec.ofNat 64 (gid / 4294967296 % 4294967296)
  else if code = 0x0B then (if wide then c.cyc else c.cyc &&& 0xFFFFFFFF)
  else if code = 0x0C then c.cyc >>> 32
  else if code < 0x18 then BitVec.ofNat 64 (threadIndex c.l.record c.b.linearValue c.id.wave l (code - 0x10))
  else if code < 0x20 then
    BitVec.ofNat 64 (if code - 0x18 < c.l.record.levelCount then levelExtent (c.l.record.levels.getD (code - 0x18) 0) else 0)
  else if code = 0x20 then BitVec.ofNat 64 share.1
  else if code = 0x21 then BitVec.ofNat 64 share.2
  else if code = 0x30 then 1
  else if code = 0x31 then (if wide then BitVec.allOnes 64 else 0xFFFFFFFF)
  else floatConst t code

/-! ### Reading operands -/

/-- The Trivet entry of a lane. -/
def Wave.trivetAt (w : Wave) (e l : Nat) : W32 := spGet 0 w.trivet (e * 32 + l)

/-- Whether a Trivet entry is valid in a lane at a clause index (02 R57): the latest write to it, one or two indices ago. -/
def Wave.trivetOk (w : Wave) (e l idx : Nat) : Bool :=
  w.trivSet.any fun t => t.1 % 3 == e && decide (t.1 < idx) && decide (idx ≤ t.1 + 2) && t.2.getLsbD l

/-- The 32-bit value of a source field in a lane. -/
def Ctx.lane (c : Ctx) (f : BitVec 10) (l t : Nat) : W32 :=
  match operandOf f with
  | .vec n => c.vreg n l
  | .ind i off => c.w.vget ((c.w.xget i l).toNat + off) l
  | .scal n => (c.sreg n).extractLsb' 0 32
  | .triv e => c.w.trivetAt e l
  | .spec code => (c.special code l t false).extractLsb' 0 32
  | .bad => 0

/-- The k-th register behind a vector field in a lane. -/
def Ctx.laneReg (c : Ctx) (f : BitVec 10) (k l : Nat) : W32 :=
  match operandOf f with
  | .vec n => c.vreg (n + k) l
  | .ind i off => c.w.vget ((c.w.xget i l).toNat + off + k) l
  | _ => 0

/-- The 64-bit value of a scalar or special source field; a special value that differs by lane is lane 0's (06 R152 names
no lane; DESIGN CHOICE, log 75). -/
def Ctx.scalar (c : Ctx) (f : BitVec 10) : W64 :=
  match operandOf f with
  | .scal n => c.sreg n
  | .spec code => c.special code 0 0 true
  | _ => 0

/-! ### What a word names -/

/-- What the shared checks need of an instruction: its class and control fields, whether its encoding is defined, whether
it transfers control, whether its hold field is allowed, the vector fields it reads and writes with their register
counts, those it reads of other lanes, further scalars and predicates, its fixed latency, its float type (05 R136), whether it takes an operand-log entry, whether an .acq
atomic holds it, the area bytes it reaches: base, offset, width and whether in the tile area, and whether an effect that is not
repeated goes before its wait. -/
structure Spec where
  cls    : Nat
  ctl    : Ctl
  enc    : Bool
  xfer   : Bool := false
  holdA  : Option (BitVec 10) := none
  holdB  : Option (BitVec 10) := none
  holdD  : Option (BitVec 10) := none
  srcs   : List (BitVec 10 × Nat) := []
  dsts   : List (BitVec 10 × Nat) := []
  xsrcs  : List (BitVec 10 × Nat) := []
  preds  : List Nat := []
  wpreds : List Nat := []
  scals  : List Nat := []
  wscals : List Nat := []
  lat    : Nat := 0
  fty    : Nat := 0
  logs   : Bool := false
  acq    : Bool := false
  area   : Option (BitVec 10 × BitVec 10 × Nat × Bool) := none
  bar    : Nat := 0
  half   : Bool := false
  deriving DecidableEq, Repr

/-- The named source that a hold field keeps, if the encoding has it (02 R57, R58). -/
def Spec.held (sp : Spec) : Option (BitVec 10) :=
  match sp.ctl.hold.toNat with
  | 1 => sp.holdA
  | 2 => sp.holdB
  | 3 => sp.holdD
  | _ => none

def Spec.holdOk (sp : Spec) : Bool :=
  sp.ctl.hold == 0 || (match sp.held with
    | none => false
    | some f => sp.ctl.hold != 3#2 || vecForm f)

/-- The registers a word names directly, guard included, for R132 and R134. -/
def Spec.refs (sp : Spec) : List RegRef :=
  ((sp.srcs ++ sp.dsts ++ sp.xsrcs).flatMap fun u => match operandOf u.1 with
    | .vec n => (List.range u.2).map fun k => RegRef.vec (n + k)
    | .scal n => [RegRef.scal n]
    | _ => []) ++
  (sp.preds ++ sp.wpreds).map RegRef.pred ++ (sp.scals ++ sp.wscals).map RegRef.scal ++
  (if sp.ctl.guard.toNat < 96 then [RegRef.pred sp.ctl.guard.toNat] else []) ++
  (if sp.ctl.hold = 3#2 then (match sp.holdD with
    | some f => if isVec f then [RegRef.vec (vecNo f)] else []
    | none => []) else [])

/-! ### Failures of lanes (05 R138, 19 R337) -/

/-- A lane's failure: its cause and the address, offset or handle of s123. -/
structure Fail where
  lane  : Nat
  cause : Nat
  addr  : W64
  deriving DecidableEq, Repr

/-- A cause with every lane of a mask. -/
def failAll (m : BitVec 32) (cause : Nat) (addr : W64) : List Fail := (lanesOf m).map fun l => ⟨l, cause, addr⟩

/-- Causes whose s123 is the lowest of the addresses they concern (19 R335). -/
def lowestNamed (cause : Nat) : Bool :=
  cause == cREG_PENDING || cause == cTILE_SUSPENDED || cause == cALIAS_SUSPENDED || cause == cRANGE_LOCKED

/-- Each lane's first failure, at the lowest of its addresses where the cause names that. -/
def firstFails (fs : List Fail) : List Fail :=
  lanes32.filterMap fun l => match fs.find? fun f => f.lane == l with
    | none => none
    | some f => if lowestNamed f.cause then minBy (fun (x : Fail) => x.addr.toNat) (fs.filter fun x => x.lane == l && x.cause == f.cause)
        else some f

/-- All causes of the lanes, and the record kept: that of the lowest bit, its lanes, and its address: that of the lowest
lane, or the lowest address for the causes that name one (19 R335, R337). -/
def settleFails (fs : List Fail) : Option (W64 × Nat × BitVec 32 × W64) :=
  let g := firstFails fs
  match minBy Fail.cause g with
  | none => none
  | some f =>
    let same := g.filter fun x => x.cause == f.cause
    some (g.foldl (fun b x => b ||| causeBit x.cause) 0, f.cause, maskOf fun l => same.any fun x => x.lane == l,
      if lowestNamed f.cause then ((minBy (fun x : Fail => x.addr.toNat) same).map Fail.addr).getD 0 else ((same.head?).map Fail.addr).getD 0)

/-- The record of a cause at an instruction (19 R335). -/
def Ctx.causeRec (c : Ctx) (cause : Nat) (lanes : BitVec 32) (addr : W64) (resume : Nat) : CauseRec :=
  { cause := cause, also := 0, pc := c.addr, addr := addr, lanes := lanes, index := c.idx, code := 0, origin := 0,
    resume := resume, seq := c.w.accesses }

/-- Raise what the lanes fail with. -/
def State.raiseFails (s : State) (c : Ctx) (fs : List Fail) : State :=
  match settleFails fs with
  | none => s
  | some (bits, cause, lanes, addr) => s.raise c.id { c.causeRec cause lanes addr 0 with also := bits }

/-- Register-space address of vN of a lane (02 R50, R52): from the block's first row. -/
def Ctx.regAddr (c : Ctx) (n l : Nat) : W64 :=
  BitVec.ofNat 64 (512 * rowAt c.b.place (16 + c.id.wave * (8 + (c.b.budget + 3) / 4) + 8 + n / 4) + 8 * (4 * (l / 2) + n % 4) + 4 * (l % 2))

/-- The area offset of a lane (07 R188). -/
def Ctx.areaOff (c : Ctx) (a b : BitVec 10) (l : Nat) : Nat := (c.lane a l 0 + c.lane b l 0).toNat

/-- REG_BOUND of the area bytes (02 R59, R62). -/
def Ctx.areaBound (c : Ctx) (sp : Spec) : List Fail :=
  match sp.area with
  | none => []
  | some (a, b, n, tile) => (lanesOf c.part).filterMap fun l =>
      if (if tile then c.b.tileLen else c.b.commonLen) < c.areaOff a b l + n then
        some ⟨l, cREG_BOUND, BitVec.ofNat 64 (c.areaOff a b l)⟩ else none

/-- REG_BOUND of a barrier code in the word, and of the register operands in every active lane (02 R55, 05 R137, R138). -/
def Ctx.boundFails (c : Ctx) (sp : Spec) : List Fail :=
  (if c.b.nbar < sp.bar then failAll c.part cREG_BOUND 0 else []) ++
  (sp.srcs ++ sp.dsts ++ sp.xsrcs ++ (if sp.ctl.hold = 3#2 then (match sp.holdD with | some f => [(f, 1)] | none => []) else [])).flatMap fun u =>
    (lanesOf c.active).filterMap fun l => match c.eff u.1 l with
      | none => none
      | some n => if c.budget < n + u.2 then some ⟨l, cREG_BOUND, 0⟩ else none

/-- Whether a word of a thread register is pending (02 R70). -/
def Wave.pending (w : Wave) (n l : Nat) : Bool := spGet false w.pend (n * 32 + l)

/-- REG_PENDING of the register operands, in every participating lane (02 R71). -/
def Ctx.pendFails (c : Ctx) (sp : Spec) : List Fail :=
  (sp.srcs ++ sp.dsts ++ (if sp.ctl.hold = 3#2 then (match sp.holdD with | some f => [(f, 1)] | none => []) else [])).flatMap fun u =>
    (lanesOf c.part).filterMap fun l => match c.eff u.1 l with
      | none => none
      | some n => match (List.range u.2).find? fun k => c.w.pending (n + k) l with
        | none => none
        | some k => some ⟨l, cREG_PENDING, c.regAddr (n + k) l⟩

/-- A Trivet operand that is not valid in an active lane (02 R58). -/
def Ctx.trivetBad (c : Ctx) (sp : Spec) : Bool :=
  sp.srcs.any fun u => match operandOf u.1 with
    | .triv e => !(lanesOf c.active).all fun l => c.w.trivetOk e l c.idx
    | _ => false

/-- The cause of an encoding (05 R129, R131, R137, R138 step 1): ILLEGAL_CLAUSE, then ILLEGAL_OP. -/
def Ctx.encodingCause (c : Ctx) (sp : Spec) : Option Nat :=
  if sp.cls != headerClass c.w.clause.header || (sp.xfer && c.idx + 1 != headerCount c.w.clause.header) then some cILLEGAL_CLAUSE
  else if !sp.ctl.wf || !sp.enc || !sp.holdOk || c.trivetBad sp then some cILLEGAL_OP
  else none

/-- An uncovered dependence under the checking scoreboard (05 R134). -/
def Ctx.stallShort (c : Ctx) (sp : Spec) : Bool :=
  c.l.record.control.getLsbD 9 && !c.ordered &&
  c.w.inflight.any fun p => p.short != 0 && p.regs.any fun o => o.reg ∈ sp.refs

/-- An uncovered dependence on vector registers that a word implies through a value read at issue (05 R134). -/
def Ctx.shortRegs (c : Ctx) (regs : List Nat) : Bool :=
  c.l.record.control.getLsbD 9 && !c.ordered && c.w.inflight.any fun p => p.short != 0 && p.regs.any fun o => match o.reg with
    | .vec n => decide (n ∈ regs)
    | _ => false

/-- Vector registers that a word would write, for the hold of 19 R338. -/
def Ctx.written (c : Ctx) (sp : Spec) : List Nat :=
  (sp.dsts.flatMap fun u => (lanesOf c.active).flatMap fun l => match c.eff u.1 l with
    | none => []
    | some n => (List.range u.2).map fun k => n + k).eraseDups

/-! ### The context at issue -/

/-- The wave that issues, its instruction's stall counted off the results in flight (05 R132), and its lanes: a lane
participates when its guard holds (05 R131, 06 R151). A wave whose handler has run too long issues nothing (19 R332), nor does
one whose slice has passed its budget (08 R228). What was read before a forcing or a wait is not read again: the guard of an instruction
that has issued holds, and a forcing keeps its whole reading (05 R133). -/
def State.ctx (s : State) (ctl : Ctl) : Option Ctx :=
  match s.block? s.cur, s.wave? s.cur with
  | some b, some w => match s.launchOf b with
    | none => none
    | some l =>
      if !w.inClause || w.overrunDue s.clock || s.sliceOver b then none
      else
        let w := { w with inflight := w.inflight.map fun p => { p with short := p.short - ctl.stall.toNat } }
        let c : Ctx := {
          id := s.cur, w := w, b := b, l := l, active := w.active, part := w.active, idx := w.clause.next,
          addr := w.wordAddr, tick := s.tick, clock := s.clock, cyc := s.cycles s.cur.core, seen := w.inflight }
        some (match w.wait.bind Wait.kept with
          | some r => { c with part := r.part, tick := r.tick, cyc := r.cyc, seen := r.flight }
          | none =>
            if ctl.guard.toNat < 96 ∧ (w.wait.any fun wt => wt.issued && wt != .restart) = false then
              { c with part := maskOf fun ln => c.active.getLsbD ln && (c.preg ctl.guard.toNat ln != (ctl.neg == 1#1)) }
            else c)
  | _, _ => none

/-- Whether an instruction must wait before it issues (05 R128, 07 R184, R191, 19 R338). -/
def Ctx.holdUp (c : Ctx) (sp : Spec) : Option Wait :=
  let entry := sp.logs && c.part != 0
  if sp.ctl.sig.toNat < 12 && decide (63 ≤ c.w.kget sp.ctl.sig.toNat) then some (.flag sp.ctl.sig.toNat)
  else if (entry && c.w.logFree.isNone) || (c.written sp).any c.w.logHolds then some (.log ((c.written sp).filter c.w.logHolds) entry)
  else if sp.acq && c.part != 0 && c.w.acquiring then some .acquire
  else none

/-- Issue: the shared steps of every instruction. A guard that is false in every lane suppresses neither an encoding error
nor STALL_SHORT nor REG_BOUND of the registers, which 05 R134, R137 and 19 R335 give to every active lane (DEDUCED, log 15). A wait that has issued is resumed; a hold at issue leaves the slot; then
the checks of 05 R138 in order, `own` those of the instruction's definition; then its body. A tile instruction makes its checks before its
forcing and not again after it (09 R242, R246, R261). Nothing happens where no wave
stands at an instruction. A wait that starts anew does so from its instruction's operands, or where what goes before the wait has
taken effect (`half`) from what that has left (21 R366, R368; DESIGN CHOICE, log 38). -/
def run (sp : Spec) (own : Ctx → List Fail) (resume : Ctx → Wait → State → State) (body : Ctx → State → State) (s : State) :
    State :=
  match s.ctx sp.ctl with
  | none => s
  | some c =>
    match c.w.wait with
    | some wt =>
      if wt.issued && !s.waitDone c.id c.b c.w wt then s.leave c.id
      else if wt = .abandon then
        (s.modWave c.id fun w => { (w.flagDown sp.ctl.sig.toNat) with wait := none }).advance c.id
      else if wt = .restart ∧ sp.half = false then go c (s.modWave c.id fun w => { w with wait := none })
      else if wt.issued then resume c wt (s.modWave c.id fun w => { w with wait := none })
      else if sp.cls = 5 ∧ wt.kept.isSome = true then body c s
      else go c s
    | none => go c s
where
  go (c : Ctx) (s : State) : State :=
    match c.holdUp sp with
    | some wt =>
      if (c.encodingCause sp).isNone then (if wt.keepsSlot then s.linger c.id wt else s.hang c.id wt) else check c s
    | none => check c s
  check (c : Ctx) (s : State) : State :=
    match c.encodingCause sp with
    | some cause => s.raise c.id (c.causeRec cause c.active (if cause = cILLEGAL_CLAUSE then c.w.clause.base else 0) 0)
    | none =>
      if c.stallShort sp then s.raise c.id (c.causeRec cSTALL_SHORT c.active 0 0)
      else
        let fs := c.boundFails sp ++ c.areaBound sp ++ c.pendFails sp ++ own c
        if fs.isEmpty then body c s else s.raiseFails c fs

/-! ### Effects of issue -/

/-- Issue takes effect: stalls are counted, and the named source goes to the Trivet in each active lane, as the
instruction reads it (02 R57, 05 R136); of an exchange it is the lane's own A (DESIGN CHOICE, log 88). -/
def State.issue (s : State) (c : Ctx) (sp : Spec) : State :=
  s.modWave c.id fun w =>
    let w := { w with inflight := (c.w.inflight.filter fun p => !(p.landed && p.short == 0)), wait := none }
    match sp.held with
    | none => w
    | some f => { w with
        trivet := (lanesOf c.active).foldl (fun t l => spSet 0 t (c.idx % 3 * 32 + l) (c.lane f l sp.fty)) w.trivet
        trivSet := (w.trivSet.filter fun t => t.1 % 3 != c.idx % 3) ++ [(c.idx, c.active)] }

/-- An indirect destination: the device orders its writes (02 R56, 05 R132). -/
def Spec.indirect (sp : Spec) : Bool := sp.dsts.any fun u => !isVec u.1

/-- The context in which the device orders writes, as in a clause with indirect order (05 R127). -/
def Ctx.inOrder (c : Ctx) : Ctx :=
  { c with w := { c.w with clause := { c.w.clause with header := c.w.clause.header ||| (1#64 <<< 41) } } }

/-- Whether an uncovered earlier result leaves its own value in a word that a later one writes (05 R133). -/
def Ctx.keeps (c : Ctx) (r : RegRef) (lane key : Nat) : Bool :=
  !c.ordered && (c.w.inflight.any fun p => !p.landed && p.short != 0 && p.regs.any fun o => o.reg == r && o.lane == lane) &&
  Config.freeBit c.tick key

/-- A word to write: register, lane and value. -/
structure RegWrite where
  reg  : RegRef
  lane : Nat
  val  : W64
  deriving DecidableEq, Repr

def RegRef.key (r : RegRef) (lane : Nat) : Nat :=
  match r with
  | .vec n => 50000 + n * 32 + lane
  | .pred n => 70000 + n * 32 + lane
  | .scal n => 80000 + n

/-- The value of a register word. -/
def Wave.regGet (w : Wave) (r : RegRef) (lane : Nat) : W64 :=
  match r with
  | .vec n => (w.vget n lane).zeroExtend 64
  | .pred n => if w.pget n lane then 1 else 0
  | .scal n => w.sget n

/-- Write a register word. -/
def Wave.regSet (w : Wave) (r : RegRef) (lane : Nat) (x : W64) : Wave :=
  match r with
  | .vec n => w.vset n lane (x.extractLsb' 0 32)
  | .pred n => w.pset n (1#32 <<< lane) (if x = 0 then 0 else BitVec.allOnes 32)
  | .scal n => w.sset n x

/-- The context in which an instruction's destinations are written. -/
def Ctx.writer (c : Ctx) (sp : Spec) : Ctx := if sp.indirect then c.inOrder else c

/-- Write register words: a word whose earlier uncovered result stands keeps it. -/
def Ctx.writeRegs (c : Ctx) (ws : List RegWrite) (w : Wave) : Wave :=
  ws.foldl (fun w x => if c.keeps x.reg x.lane (x.reg.key x.lane) then w else w.regSet x.reg x.lane x.val) w

/-- A fixed-latency instruction issues (05 R128, R132): its words are written, the result stands in flight with its latency
and the NSTAT bits it will set, and its flag counts up. -/
def State.fixed (s : State) (c : Ctx) (sp : Spec) (ws : List RegWrite) (flags : W32) : State :=
  let s := s.issue c sp
  s.modWave c.id fun w =>
    let olds := ws.map fun x => (⟨x.reg, x.lane, w.regGet x.reg x.lane⟩ : OldReg)
    let w := (c.writer sp).writeRegs ws w
    { (w.flagUp sp.ctl.sig.toNat) with inflight := w.inflight ++ [⟨olds, sp.lat, sp.ctl.sig.toNat, flags, false⟩] }

/-- One value per participating lane into a vector destination. -/
def Ctx.laneWrites (c : Ctx) (f : BitVec 10) (v : Nat → W32) : List RegWrite :=
  (lanesOf c.part).filterMap fun l => match c.eff f l with
    | none => none
    | some n => some ⟨.vec n, l, (v l).zeroExtend 64⟩

/-- k values per participating lane into consecutive registers of a vector destination. -/
def Ctx.laneWritesN (c : Ctx) (f : BitVec 10) (k : Nat) (v : Nat → Nat → W32) : List RegWrite :=
  (lanesOf c.part).flatMap fun l => match c.eff f l with
    | none => []
    | some n => (List.range k).map fun i => ⟨.vec (n + i), l, (v l i).zeroExtend 64⟩

/-- One bit per participating lane into a predicate. -/
def Ctx.predWrites (c : Ctx) (f : BitVec 10) (v : Nat → Bool) : List RegWrite :=
  (lanesOf c.part).map fun l => ⟨.pred f.toNat, l, if v l then 1 else 0⟩

/-- An instruction whose own access has failed to translate holds no translation of it: the next one walks anew (22 R376, R379). -/
def State.unholdFail (s t : State) (ctl : Ctl) (failed : Ctx → Option Nat) : State :=
  match s.ctx ctl with
  | none => t
  | some c => match failed c with
    | none => t
    | some va => t.unhold c.l.asid va

/-- No failures of its own. -/
def noFails (_ : Ctx) : List Fail := []

/-- No wait to resume. -/
def noResume (_ : Ctx) (_ : Wait) (s : State) : State := s

/-- Any instruction that completes in its issue cycle: its flag counts up and down there. -/
def State.quick (s : State) (c : Ctx) (sp : Spec) (f : State → State) : State := (f (s.issue c sp)).advance c.id

/-- An instruction issues and is held in a wait of its own (07 R186): its flag counts up. -/
def State.await (s : State) (c : Ctx) (sp : Spec) (wt : Wait) : State :=
  ((s.issue c sp).modWave c.id fun w => w.flagUp sp.ctl.sig.toNat).hang c.id wt

/-- The wait is over: the instruction has its effect and completes, its flag counts down. -/
def State.awaited (s : State) (c : Ctx) (sp : Spec) (f : State → State) : State :=
  ((f s).modWave c.id fun w => w.flagDown sp.ctl.sig.toNat).advance c.id

/-- An instruction with a wait that may be over at once. -/
def State.awaitOr (s : State) (c : Ctx) (sp : Spec) (wt : Wait) (f : State → State) : State :=
  if s.waitDone c.id c.b c.w wt then s.quick c sp f else s.await c sp wt

/-- A scalar register takes a result of variable latency: an earlier fixed-latency result that no stall field covers may
still stand (05 R133). -/
def Wave.giveS (w : Wave) (tick n : Nat) (x : W64) : Wave :=
  let same := fun (o : OldReg) => o.reg == .scal n
  if !headerOrder w.clause.header && (w.inflight.any fun p => !p.landed && p.short != 0 && p.regs.any same) &&
      Config.freeBit tick (80000 + n) then w
  else { (w.sset n x) with inflight := w.inflight.map fun p => { p with regs := p.regs.filter fun o => !same o } }

/-- Write a scalar result of the wave. -/
def State.setS (s : State) (id : WaveId) (n : Nat) (x : W64) : State := s.modWave id fun w => w.giveS s.tick n x

/-- ILLEGAL_CONVERGENCE of a full-wave instruction (01 R24). -/
def Ctx.convergence (c : Ctx) : List Fail :=
  if c.active = BitVec.allOnes 32 ∧ (c.part = 0 ∨ c.part = BitVec.allOnes 32) then []
  else failAll c.active cILLEGAL_CONVERGENCE 0

/-- A scalar field of an instruction's D as a destination number, through the scalar form. -/
def sdst (f : BitVec 10) : Nat := scalNo f

/-- Scalar-class instructions with a scalar destination (06 R152). -/
def scalarSpec (cls : Nat) (ctl : Ctl) (enc : Bool) (srcs : List (BitVec 10)) (d : Option (BitVec 10)) (lat : Nat) : Spec :=
  { cls := cls, ctl := ctl
    enc := enc && ctl.hold == 0 && (srcs.all scalForm) && (match d with | none => true | some f => isScal f)
    srcs := srcs.map fun f => (f, 1)
    wscals := match d with | none => [] | some f => [scalNo f]
    lat := lat }

end Sys2Proof.Machine
end

