-- ==== Sys2Proof/Machine/Flags.lean ====
section
/-! DEFINITION. Conditions, integer types with wrapping and saturation, and the NSTAT bits of lane arithmetic (03 R74,
05 R139, 06 R154-R163, R179). -/

namespace Sys2Proof.Machine

open Sys2Proof

/-- An integer type read: unsigned for even-signed codes 0 and 5, two's complement for 1 and 6 (05 R139). -/
def intVal (t w : Nat) (x : BitVec w) : Int := if t = 1 ∨ t = 6 then x.toInt else x.toNat

/-- Conditions 0 to 5 on exact values (06 R158). -/
def condInt (cond : Nat) (a b : Int) : Bool :=
  match cond with
  | 0 => a == b
  | 1 => a != b
  | 2 => decide (a < b)
  | 3 => decide (a ≤ b)
  | 4 => decide (b < a)
  | _ => decide (b ≤ a)

/-- Conditions on float values (06 R158): false for a NaN, but for .ne and .uo. -/
def condFloat (cond : Nat) (a b : XReal) : Bool :=
  let un := a == .nan || b == .nan
  match cond with
  | 0 => xeq a b
  | 1 => un || !xeq a b
  | 2 => xlt a b
  | 3 => !un && !xlt b a
  | 4 => xlt b a
  | 5 => !un && !xlt a b
  | 6 => un
  | _ => !un

/-- Wrap an exact integer to a word. -/
def wrapInt (w : Nat) (i : Int) : BitVec w := BitVec.ofInt w i

/-- Clamp an exact integer to a 32-bit type (06 R154). -/
def clampInt (t : Nat) (i : Int) : W32 :=
  let lo : Int := if t = 1 then -2147483648 else 0
  let hi : Int := if t = 1 then 2147483647 else 4294967295
  if i < lo then BitVec.ofInt 32 lo else if hi < i then BitVec.ofInt 32 hi else BitVec.ofInt 32 i

/-- Quotient rounded toward zero and remainder with the sign of the dividend (06 R154, R180). -/
def quotInt (a b : Int) : Int := Int.tdiv a b
def remInt (a b : Int) : Int := Int.tmod a b

/-- The float type codes of lane operations (05 R139). -/
def isFloatType (t : Nat) : Bool := t == 2 || t == 3 || t == 4
/-- The integer type codes of lane operations. -/
def isIntType (t : Nat) : Bool := t == 0 || t == 1
/-- The integer type codes of scalar operations. -/
def isScalarType (t : Nat) : Bool := t == 0 || t == 1 || t == 5 || t == 6

/-- Type and options of a modifier (05 R139). -/
def modType (m : BitVec 6) : Nat := m.toNat % 8
def modHigh (m : BitVec 6) : Nat := m.toNat / 8

/-- NSTAT bits of some lanes together (03 R74). -/
def gatherFlags (lanes : BitVec 32) (f : Nat → W32) : W32 := (lanesOf lanes).foldl (fun a l => a ||| f l) 0

end Sys2Proof.Machine
end

