-- ==== Sys2Proof/Machine/Vector.lean ====
section
/-! DEFINITION. Lane arithmetic, bit operations, compares, predicates, select and moves: opcodes 0x001 to 0x02D
(06 R150-R167). -/

namespace Sys2Proof.Machine

open Sys2Proof

/-! ### Shapes -/

/-- The float type that selects special constants: 0 for an integer type. -/
def constType (t : Nat) : Nat := if isFloatType t then t else 0

/-- vD, A, B (05 R137), with the type of bits [2:0]. -/
def vec3 (f : F) (enc : Bool) (lat : Nat) : Spec :=
  { cls := 1, ctl := f.ctl, enc := enc && vecForm f.d && anyForm f.a && anyForm f.b
    holdA := some f.a, holdB := some f.b, holdD := some f.d
    srcs := [(f.a, 1), (f.b, 1)], dsts := [(f.d, 1)], lat := lat, fty := constType (modType f.m) }

/-- vD, A, B with D read as a source. -/
def vec3d (f : F) (enc : Bool) (lat : Nat) : Spec :=
  { vec3 f enc lat with srcs := [(f.a, 1), (f.b, 1), (f.d, 1)] }

/-- vD, A; B must be zero. -/
def vec2 (f : F) (enc : Bool) (lat : Nat) : Spec :=
  { cls := 1, ctl := f.ctl, enc := enc && vecForm f.d && anyForm f.a && f.b == 0
    holdA := some f.a, holdD := some f.d, srcs := [(f.a, 1)], dsts := [(f.d, 1)], lat := lat, fty := constType (modType f.m) }

/-- vD, A, imm16. -/
def vec16 (f : F16) (enc : Bool) (lat : Nat) : Spec :=
  { cls := 1, ctl := f.ctl, enc := enc && vecForm f.d && anyForm f.a
    holdA := some f.a, holdD := some f.d, srcs := [(f.a, 1)], dsts := [(f.d, 1)], lat := lat }

/-- vD, imm16 with A zero and D read as a source (06 R162). -/
def vecImm (f : F16) (lat : Nat) : Spec :=
  { cls := 1, ctl := f.ctl, enc := vecForm f.d && f.a == 0, holdD := some f.d, srcs := [(f.d, 1)], dsts := [(f.d, 1)],
    lat := lat }

/-- One result per participating lane, with its NSTAT bits (06 R151). -/
def laneOp (sp : Spec) (d : BitVec 10) (own : Ctx → List Fail) (val : Ctx → Nat → Fl W32) : State → State :=
  run sp own noResume fun c s =>
    let rs := (lanesOf c.part).map fun l => (l, val c l)
    let ws := rs.filterMap fun r => match c.eff d r.1 with
      | none => none
      | some n => some (⟨.vec n, r.1, r.2.val.zeroExtend 64⟩ : RegWrite)
    (s.fixed c sp ws (rs.foldl (fun a r => a ||| r.2.flags) 0)).advance c.id

/-- One bit per participating lane into a predicate. -/
def predOp (sp : Spec) (d : BitVec 10) (val : Ctx → Nat → Bool) : State → State :=
  run sp noFails noResume fun c s => (s.fixed c sp (c.predWrites d (val c)) 0).advance c.id

/-- A value without NSTAT bits. -/
def pureLane (val : Ctx → Nat → W32) (c : Ctx) (l : Nat) : Fl W32 := ⟨val c l, 0⟩

/-- Rounding mode in modifier [4:3] with bit [5] zero (06 R163). -/
def roundMode (m : BitVec 6) : Nat := m.toNat / 8 % 4
def modeOk (m : BitVec 6) : Bool := decide (m.toNat < 32)

/-! ### Integer and float arithmetic (06 R154, R155, R163) -/

/-- VADD and VSUB: integer with optional saturation, or float rounded once. -/
def addSubEnc (m : BitVec 6) : Bool :=
  (isIntType (modType m) && decide (modHigh m < 2)) || (isFloatType (modType m) && modeOk m)

def addSubVal (f : F) (sub : Bool) (c : Ctx) (l : Nat) : Fl W32 :=
  let t := modType f.m
  let a := c.lane f.a l (constType t)
  let b := c.lane f.b l (constType t)
  if isFloatType t then
    roundType t (roundMode f.m) (xadd (floatVal t a) (if sub then xneg (floatVal t b) else floatVal t b))
  else
    let r := if sub then intVal t 32 a - intVal t 32 b else intVal t 32 a + intVal t 32 b
    ⟨if modHigh f.m = 1 then clampInt t r else wrapInt 32 r, 0⟩

def execVadd (f : F) (s : State) : Host.Outcome State Fault Refusal :=
  .next (laneOp (vec3 f (addSubEnc f.m) (if isFloatType (modType f.m) then 6 else 4)) f.d noFails (addSubVal f false) s)

def execVsub (f : F) (s : State) : Host.Outcome State Fault Refusal :=
  .next (laneOp (vec3 f (addSubEnc f.m) (if isFloatType (modType f.m) then 6 else 4)) f.d noFails (addSubVal f true) s)

def mulEnc (m : BitVec 6) : Bool :=
  (isIntType (modType m) && modHigh m == 0) || (isFloatType (modType m) && modeOk m)

def vmulVal (f : F) (c : Ctx) (l : Nat) : Fl W32 :=
  let t := modType f.m
  let a := c.lane f.a l (constType t)
  let b := c.lane f.b l (constType t)
  if isFloatType t then roundType t (roundMode f.m) (xmul (floatVal t a) (floatVal t b)) else ⟨a * b, 0⟩

def execVmul (f : F) (s : State) : Host.Outcome State Fault Refusal :=
  .next (laneOp (vec3 f (mulEnc f.m) 6) f.d noFails (vmulVal f) s)

def intEnc (m : BitVec 6) : Bool := isIntType (modType m) && modHigh m == 0

def vmulhiVal (f : F) (c : Ctx) (l : Nat) : W32 :=
  let t := modType f.m
  (wrapInt 64 (intVal t 32 (c.lane f.a l 0) * intVal t 32 (c.lane f.b l 0))).extractLsb' 32 32

def execVmulhi (f : F) (s : State) : Host.Outcome State Fault Refusal :=
  .next (laneOp (vec3 f (intEnc f.m) 6) f.d noFails (pureLane (vmulhiVal f)) s)

def vmadVal (f : F) (c : Ctx) (l : Nat) : W32 := c.lane f.a l 0 * c.lane f.b l 0 + c.lane f.d l 0

def execVmad (f : F) (s : State) : Host.Outcome State Fault Refusal :=
  .next (laneOp (vec3d f (intEnc f.m) 6) f.d noFails (pureLane (vmadVal f)) s)

/-- ARITH in the participating lanes with B = 0 (06 R155). -/
def divFails (f : F) (c : Ctx) : List Fail :=
  if isFloatType (modType f.m) then []
  else (lanesOf c.part).filterMap fun l => if c.lane f.b l 0 = 0 then some ⟨l, cARITH, 0⟩ else none

def vdivVal (f : F) (c : Ctx) (l : Nat) : Fl W32 :=
  let t := modType f.m
  let a := c.lane f.a l (constType t)
  let b := c.lane f.b l (constType t)
  if t = 2 then roundType t (roundMode f.m) (xdiv (floatVal t a) (floatVal t b))
  else ⟨wrapInt 32 (quotInt (intVal t 32 a) (intVal t 32 b)), 0⟩

def execVdiv (f : F) (s : State) : Host.Outcome State Fault Refusal :=
  .next (laneOp (vec3 f (intEnc f.m || (modType f.m == 2 && modeOk f.m)) (if modType f.m = 2 then 24 else 40)) f.d
    (divFails f) (vdivVal f) s)

def vremVal (f : F) (c : Ctx) (l : Nat) : W32 :=
  let t := modType f.m
  wrapInt 32 (remInt (intVal t 32 (c.lane f.a l 0)) (intVal t 32 (c.lane f.b l 0)))

def execVrem (f : F) (s : State) : Host.Outcome State Fault Refusal :=
  .next (laneOp (vec3 f (intEnc f.m) 40) f.d (divFails f) (pureLane (vremVal f)) s)

/-- VMIN and VMAX (06 R154, R164). -/
def minMaxOf (t : Nat) (wantMax : Bool) (a b : W32) : W32 :=
  if isFloatType t then floatMinMax t wantMax a b
  else if wantMax then (if intVal t 32 a < intVal t 32 b then b else a)
  else (if intVal t 32 b < intVal t 32 a then b else a)

def minMaxEnc (m : BitVec 6) : Bool := (isIntType (modType m) || isFloatType (modType m)) && modHigh m == 0

def minMaxVal (f : F) (wantMax : Bool) (c : Ctx) (l : Nat) : W32 :=
  let t := modType f.m
  minMaxOf t wantMax (c.lane f.a l (constType t)) (c.lane f.b l (constType t))

def execVmin (f : F) (s : State) : Host.Outcome State Fault Refusal :=
  .next (laneOp (vec3 f (minMaxEnc f.m) (if isFloatType (modType f.m) then 6 else 4)) f.d noFails
    (pureLane (minMaxVal f false)) s)

def execVmax (f : F) (s : State) : Host.Outcome State Fault Refusal :=
  .next (laneOp (vec3 f (minMaxEnc f.m) (if isFloatType (modType f.m) then 6 else 4)) f.d noFails
    (pureLane (minMaxVal f true)) s)

/-- The sign bit of a float type. -/
def signBit (t : Nat) : W32 := if t = 2 then 0x80000000 else 0x8000

def vabsVal (f : F) (c : Ctx) (l : Nat) : W32 :=
  let t := modType f.m
  let a := c.lane f.a l (constType t)
  if isFloatType t then
    (if isNan t a then BitVec.ofNat 32 (canonicalNan (typeFmt t)) else cutType t a &&& ~~~signBit t)
  else wrapInt 32 (a.toInt.natAbs : Int)

def execVabs (f : F) (s : State) : Host.Outcome State Fault Refusal :=
  .next (laneOp (vec2 f ((modType f.m == 1 || isFloatType (modType f.m)) && modHigh f.m == 0)
    (if isFloatType (modType f.m) then 6 else 4)) f.d noFails (pureLane (vabsVal f)) s)

def vnegVal (f : F) (c : Ctx) (l : Nat) : W32 :=
  let t := modType f.m
  let a := c.lane f.a l (constType t)
  if isFloatType t then
    (if isNan t a then BitVec.ofNat 32 (canonicalNan (typeFmt t)) else cutType t a ^^^ signBit t)
  else 0 - a

def execVneg (f : F) (s : State) : Host.Outcome State Fault Refusal :=
  .next (laneOp (vec2 f (minMaxEnc f.m) (if isFloatType (modType f.m) then 6 else 4)) f.d noFails (pureLane (vnegVal f)) s)

/-- VFMA (06 R163); 0 times infinity with a NaN addend sets no INVALID, as R74 defines that bit (DEDUCED, log 73). -/
def vfmaVal (f : F) (c : Ctx) (l : Nat) : Fl W32 :=
  let t := modType f.m
  roundType t (roundMode f.m) (xfma (floatVal t (c.lane f.a l t)) (floatVal t (c.lane f.b l t)) (floatVal t (c.lane f.d l t)))

def execVfma (f : F) (s : State) : Host.Outcome State Fault Refusal :=
  .next (laneOp (vec3d f (isFloatType (modType f.m) && modeOk f.m) 6) f.d noFails (vfmaVal f) s)

def vaddiVal (f : F16) (c : Ctx) (l : Nat) : W32 := c.lane f.a l 0 + f.imm.signExtend 32

def execVaddi (f : F16) (s : State) : Host.Outcome State Fault Refusal :=
  .next (laneOp (vec16 f true 4) f.d noFails (pureLane (vaddiVal f)) s)

def vmuliVal (f : F16) (c : Ctx) (l : Nat) : W32 := c.lane f.a l 0 * f.imm.signExtend 32

def execVmuli (f : F16) (s : State) : Host.Outcome State Fault Refusal :=
  .next (laneOp (vec16 f true 6) f.d noFails (pureLane (vmuliVal f)) s)

def vshladdVal (f : F) (c : Ctx) (l : Nat) : W32 := (c.lane f.a l 0 <<< modHigh f.m) + c.lane f.b l 0

def execVshladd (f : F) (s : State) : Host.Outcome State Fault Refusal :=
  .next (laneOp (vec3 f (modType f.m == 0) 4) f.d noFails (pureLane (vshladdVal f)) s)

/-! ### Bit operations (06 R156, R157) -/

def vandVal (f : F) (c : Ctx) (l : Nat) : W32 := c.lane f.a l 0 &&& c.lane f.b l 0

def execVand (f : F) (s : State) : Host.Outcome State Fault Refusal :=
  .next (laneOp (vec3 f (f.m == 0) 4) f.d noFails (pureLane (vandVal f)) s)

def vorVal (f : F) (c : Ctx) (l : Nat) : W32 := c.lane f.a l 0 ||| c.lane f.b l 0

def execVor (f : F) (s : State) : Host.Outcome State Fault Refusal :=
  .next (laneOp (vec3 f (f.m == 0) 4) f.d noFails (pureLane (vorVal f)) s)

def vxorVal (f : F) (c : Ctx) (l : Nat) : W32 := c.lane f.a l 0 ^^^ c.lane f.b l 0

def execVxor (f : F) (s : State) : Host.Outcome State Fault Refusal :=
  .next (laneOp (vec3 f (f.m == 0) 4) f.d noFails (pureLane (vxorVal f)) s)

def vnotVal (f : F) (c : Ctx) (l : Nat) : W32 := ~~~c.lane f.a l 0

def execVnot (f : F) (s : State) : Host.Outcome State Fault Refusal :=
  .next (laneOp (vec2 f (f.m == 0) 4) f.d noFails (pureLane (vnotVal f)) s)

/-- Shifts of a word by an unsigned count: past the width, zero or copies of the sign (06 R156, R179). -/
def shlWord {w : Nat} (a : BitVec w) (n : Nat) : BitVec w := if w ≤ n then 0 else a <<< n
def shrWord {w : Nat} (a : BitVec w) (n : Nat) : BitVec w := if w ≤ n then 0 else a >>> n
def sarWord {w : Nat} (a : BitVec w) (n : Nat) : BitVec w := a.sshiftRight (min n w)

def vshlVal (f : F) (c : Ctx) (l : Nat) : W32 := shlWord (c.lane f.a l 0) (c.lane f.b l 0).toNat

def execVshl (f : F) (s : State) : Host.Outcome State Fault Refusal :=
  .next (laneOp (vec3 f (f.m == 0) 4) f.d noFails (pureLane (vshlVal f)) s)

def vshrVal (f : F) (c : Ctx) (l : Nat) : W32 := shrWord (c.lane f.a l 0) (c.lane f.b l 0).toNat

def execVshr (f : F) (s : State) : Host.Outcome State Fault Refusal :=
  .next (laneOp (vec3 f (f.m == 0) 4) f.d noFails (pureLane (vshrVal f)) s)

def vsarVal (f : F) (c : Ctx) (l : Nat) : W32 := sarWord (c.lane f.a l 0) (c.lane f.b l 0).toNat

def execVsar (f : F) (s : State) : Host.Outcome State Fault Refusal :=
  .next (laneOp (vec3 f (f.m == 0) 4) f.d noFails (pureLane (vsarVal f)) s)

def vrotVal (f : F) (c : Ctx) (l : Nat) : W32 := (c.lane f.a l 0).rotateLeft ((c.lane f.b l 0).toNat % 32)

def execVrot (f : F) (s : State) : Host.Outcome State Fault Refusal :=
  .next (laneOp (vec3 f (f.m == 0) 4) f.d noFails (pureLane (vrotVal f)) s)

/-- Counts of one bits, of leading and of trailing zeros; the width for zero (06 R156, R179). -/
def onesOf {w : Nat} (a : BitVec w) : Nat := (List.range w).foldl (fun n i => if a.getLsbD i then n + 1 else n) 0
def leadZeros {w : Nat} (a : BitVec w) : Nat := if a.toNat = 0 then w else w - 1 - Nat.log2 a.toNat
def trailZeros {w : Nat} (a : BitVec w) : Nat := ((List.range w).find? fun i => a.getLsbD i).getD w

def vpopcVal (f : F) (c : Ctx) (l : Nat) : W32 := BitVec.ofNat 32 (onesOf (c.lane f.a l 0))

def execVpopc (f : F) (s : State) : Host.Outcome State Fault Refusal :=
  .next (laneOp (vec2 f (f.m == 0) 4) f.d noFails (pureLane (vpopcVal f)) s)

def vclzVal (f : F) (c : Ctx) (l : Nat) : W32 := BitVec.ofNat 32 (leadZeros (c.lane f.a l 0))

def execVclz (f : F) (s : State) : Host.Outcome State Fault Refusal :=
  .next (laneOp (vec2 f (f.m == 0) 4) f.d noFails (pureLane (vclzVal f)) s)

def vctzVal (f : F) (c : Ctx) (l : Nat) : W32 := BitVec.ofNat 32 (trailZeros (c.lane f.a l 0))

def execVctz (f : F) (s : State) : Host.Outcome State Fault Refusal :=
  .next (laneOp (vec2 f (f.m == 0) 4) f.d noFails (pureLane (vctzVal f)) s)

def vbrevVal (f : F) (c : Ctx) (l : Nat) : W32 := (c.lane f.a l 0).reverse

def execVbrev (f : F) (s : State) : Host.Outcome State Fault Refusal :=
  .next (laneOp (vec2 f (f.m == 0) 4) f.d noFails (pureLane (vbrevVal f)) s)

/-- Position and width of a bit field (06 R157). -/
def fieldPos (b : W32) : Nat := b.toNat % 32
def fieldWidth (b : W32) : Nat := min (b.toNat / 256 % 32 + 1) (32 - fieldPos b)

/-- The extracted field, extended by type. -/
def extractField (t : Nat) (a b : W32) : W32 :=
  let w := fieldWidth b
  let q := a.toNat / 2 ^ fieldPos b % 2 ^ w
  if t = 1 ∧ 2 ^ (w - 1) ≤ q then BitVec.ofInt 32 ((q : Int) - 2 ^ w) else BitVec.ofNat 32 q

/-- D with a field replaced by the low bits of A. -/
def insertField (d a b : W32) : W32 :=
  let mask : W32 := BitVec.ofNat 32 ((2 ^ fieldWidth b - 1) * 2 ^ fieldPos b)
  (d &&& ~~~mask) ||| ((a <<< fieldPos b) &&& mask)

def vbfxVal (f : F) (c : Ctx) (l : Nat) : W32 := extractField (modType f.m) (c.lane f.a l 0) (c.lane f.b l 0)

def execVbfx (f : F) (s : State) : Host.Outcome State Fault Refusal :=
  .next (laneOp (vec3 f (intEnc f.m) 4) f.d noFails (pureLane (vbfxVal f)) s)

def vbfiVal (f : F) (c : Ctx) (l : Nat) : W32 := insertField (c.lane f.d l 0) (c.lane f.a l 0) (c.lane f.b l 0)

def execVbfi (f : F) (s : State) : Host.Outcome State Fault Refusal :=
  .next (laneOp (vec3d f (f.m == 0) 4) f.d noFails (pureLane (vbfiVal f)) s)

def vandiVal (f : F16) (c : Ctx) (l : Nat) : W32 := c.lane f.a l 0 &&& f.imm.zeroExtend 32

def execVandi (f : F16) (s : State) : Host.Outcome State Fault Refusal :=
  .next (laneOp (vec16 f true 4) f.d noFails (pureLane (vandiVal f)) s)

def voriVal (f : F16) (c : Ctx) (l : Nat) : W32 := c.lane f.a l 0 ||| f.imm.zeroExtend 32

def execVori (f : F16) (s : State) : Host.Outcome State Fault Refusal :=
  .next (laneOp (vec16 f true 4) f.d noFails (pureLane (voriVal f)) s)

/-! ### Compares, predicates, select (06 R158-R161) -/

def vcmpSpec (f : F) : Spec :=
  let t := modType f.m
  { cls := 1, ctl := f.ctl
    enc := predForm f.d && anyForm f.a && anyForm f.b && (isFloatType t || (isIntType t && decide (modHigh f.m < 6)))
    holdA := some f.a, holdB := some f.b, srcs := [(f.a, 1), (f.b, 1)], wpreds := [f.d.toNat], lat := 4, fty := constType t }

def vcmpVal (f : F) (c : Ctx) (l : Nat) : Bool :=
  let t := modType f.m
  let a := c.lane f.a l (constType t)
  let b := c.lane f.b l (constType t)
  if isFloatType t then condFloat (modHigh f.m) (floatVal t a) (floatVal t b)
  else condInt (modHigh f.m) (intVal t 32 a) (intVal t 32 b)

def execVcmp (f : F) (s : State) : Host.Outcome State Fault Refusal := .next (predOp (vcmpSpec f) f.d (vcmpVal f) s)

def vcmpiSpec (f : F16) : Spec :=
  { cls := 1, ctl := f.ctl, enc := predForm f.d && anyForm f.a, holdA := some f.a, srcs := [(f.a, 1)],
    wpreds := [f.d.toNat], lat := 4 }

def vcmpiVal (f : F16) (c : Ctx) (l : Nat) : Bool :=
  let a := c.lane f.a l 0
  let b : W32 := (f.imm.extractLsb' 0 13).signExtend 32
  let cond := (f.imm.extractLsb' 13 3).toNat
  if cond = 6 then decide (a.toNat < b.toNat)
  else if cond = 7 then decide (b.toNat ≤ a.toNat)
  else condInt cond a.toInt b.toInt

def execVcmpi (f : F16) (s : State) : Host.Outcome State Fault Refusal := .next (predOp (vcmpiSpec f) f.d (vcmpiVal f) s)

/-- pD, pA, pB. -/
def pred3 (f : F) : Spec :=
  { cls := 1, ctl := f.ctl, enc := predForm f.d && predForm f.a && predForm f.b && f.m == 0,
    preds := [f.a.toNat, f.b.toNat], wpreds := [f.d.toNat], lat := 4 }

def pandVal (f : F) (c : Ctx) (l : Nat) : Bool := c.preg f.a.toNat l && c.preg f.b.toNat l

def execPand (f : F) (s : State) : Host.Outcome State Fault Refusal := .next (predOp (pred3 f) f.d (pandVal f) s)

def porVal (f : F) (c : Ctx) (l : Nat) : Bool := c.preg f.a.toNat l || c.preg f.b.toNat l

def execPor (f : F) (s : State) : Host.Outcome State Fault Refusal := .next (predOp (pred3 f) f.d (porVal f) s)

def pxorVal (f : F) (c : Ctx) (l : Nat) : Bool := c.preg f.a.toNat l != c.preg f.b.toNat l

def execPxor (f : F) (s : State) : Host.Outcome State Fault Refusal := .next (predOp (pred3 f) f.d (pxorVal f) s)

def pnotSpec (f : F) : Spec :=
  { cls := 1, ctl := f.ctl, enc := predForm f.d && predForm f.a && f.b == 0 && f.m == 0,
    preds := [f.a.toNat], wpreds := [f.d.toNat], lat := 4 }

def pnotVal (f : F) (c : Ctx) (l : Nat) : Bool := !c.preg f.a.toNat l

def execPnot (f : F) (s : State) : Host.Outcome State Fault Refusal := .next (predOp (pnotSpec f) f.d (pnotVal f) s)

def pmovSpec (f : F) : Spec :=
  { cls := 1, ctl := f.ctl
    enc := predForm f.d && (predForm f.a || operandOf f.a == .spec 0x00 || operandOf f.a == .spec 0x30) && f.b == 0 && f.m == 0
    preds := if predForm f.a then [f.a.toNat] else [], wpreds := [f.d.toNat], lat := 4 }

def pmovVal (f : F) (c : Ctx) (l : Nat) : Bool :=
  if predForm f.a then c.preg f.a.toNat l else operandOf f.a == .spec 0x30

def execPmov (f : F) (s : State) : Host.Outcome State Fault Refusal := .next (predOp (pmovSpec f) f.d (pmovVal f) s)

def vprdSpec (f : F) : Spec :=
  { cls := 1, ctl := f.ctl, enc := vecForm f.d && predForm f.a && f.b == 0 && f.m == 0, holdD := some f.d,
    dsts := [(f.d, 1)], preds := [f.a.toNat], lat := 4 }

def vprdVal (f : F) (c : Ctx) (l : Nat) : W32 := if c.preg f.a.toNat l then 1 else 0

def execVprd (f : F) (s : State) : Host.Outcome State Fault Refusal :=
  .next (laneOp (vprdSpec f) f.d noFails (pureLane (vprdVal f)) s)

def vselVal (f : F) (c : Ctx) (l : Nat) : W32 := if c.preg f.m.toNat l then c.lane f.a l 0 else c.lane f.b l 0

def execVsel (f : F) (s : State) : Host.Outcome State Fault Refusal :=
  .next (laneOp { vec3 f true 4 with preds := [f.m.toNat], fty := 0 } f.d noFails (pureLane (vselVal f)) s)

/-! ### Moves (06 R162), classes (06 R167) -/

def vmovVal (f : F) (c : Ctx) (l : Nat) : W32 := c.lane f.a l 0

def execVmov (f : F) (s : State) : Host.Outcome State Fault Refusal :=
  .next (laneOp (vec2 f (f.m == 0) 4) f.d noFails (pureLane (vmovVal f)) s)

/-- v0 to v15 by D4 (05 R140). -/
def vmoviSpec (f : F32) : Spec :=
  { cls := 1, ctl := f.ctl, enc := true, holdD := some (f.d4.zeroExtend 10), dsts := [(f.d4.zeroExtend 10, 1)], lat := 4 }

def execVmovi (f : F32) (s : State) : Host.Outcome State Fault Refusal :=
  .next (laneOp (vmoviSpec f) (f.d4.zeroExtend 10) noFails (pureLane fun _ _ => f.imm) s)

def vmovlVal (f : F16) (c : Ctx) (l : Nat) : W32 := (c.lane f.d l 0).extractLsb' 16 16 ++ f.imm

def execVmovl (f : F16) (s : State) : Host.Outcome State Fault Refusal :=
  .next (laneOp (vecImm f 4) f.d noFails (pureLane (vmovlVal f)) s)

def vmovhVal (f : F16) (c : Ctx) (l : Nat) : W32 := f.imm ++ (c.lane f.d l 0).extractLsb' 0 16

def execVmovh (f : F16) (s : State) : Host.Outcome State Fault Refusal :=
  .next (laneOp (vecImm f 4) f.d noFails (pureLane (vmovhVal f)) s)

/-- The class mask of a float code (06 R167). -/
def classMask (t : Nat) (a : W32) : W32 :=
  let fm := typeFmt t
  let q := (cutType t a).toNat
  match decodeFloat fm q with
  | .nan => 0x100
  | .inf neg => if neg then 0x001 else 0x080
  | .fin neg n _ =>
    let sub := q / 2 ^ fm.m % 2 ^ fm.e == 0
    if n = 0 then (if neg then 0x008 else 0x010)
    else if sub then (if neg then 0x004 else 0x020)
    else (if neg then 0x002 else 0x040)

def vclassVal (f : F) (c : Ctx) (l : Nat) : W32 := classMask (modType f.m) (c.lane f.a l (modType f.m))

def execVclass (f : F) (s : State) : Host.Outcome State Fault Refusal :=
  .next (laneOp (vec2 f (isFloatType (modType f.m) && modHigh f.m == 0) 4) f.d noFails (pureLane (vclassVal f)) s)

/-! ### Transcendental operations (06 R165, R166) -/

def floatFnSpec (f : F) : Spec := vec2 f (f.m == 2) 18

def execVexp2 (f : F) (s : State) : Host.Outcome State Fault Refusal :=
  .next (laneOp (floatFnSpec f) f.d noFails (fun c l => opExp2 (c.lane f.a l 2)) s)

def execVlog2 (f : F) (s : State) : Host.Outcome State Fault Refusal :=
  .next (laneOp (floatFnSpec f) f.d noFails (fun c l => opLog2 (c.lane f.a l 2)) s)

def execVrcp (f : F) (s : State) : Host.Outcome State Fault Refusal :=
  .next (laneOp (floatFnSpec f) f.d noFails (fun c l => opRcp (c.lane f.a l 2)) s)

def execVrsq (f : F) (s : State) : Host.Outcome State Fault Refusal :=
  .next (laneOp (floatFnSpec f) f.d noFails (fun c l => opRsq (c.lane f.a l 2)) s)

def vrndVal (f : F) (c : Ctx) (l : Nat) : W32 := opRnd (modType f.m) (roundMode f.m) (c.lane f.a l (modType f.m))

def execVrnd (f : F) (s : State) : Host.Outcome State Fault Refusal :=
  .next (laneOp (vec2 f (isFloatType (modType f.m) && modeOk f.m) 6) f.d noFails (pureLane (vrndVal f)) s)

/-! ### Conversions (06 R168-R170) -/

/-- A format slot of the launch (03 R82). -/
def Ctx.slot (c : Ctx) (n : Nat) : W64 := c.l.record.slots.getD n 0

/-- A slot that fails R83 at its use raises ILLEGAL_OP as a cause of the instruction's own (05 R138). -/
def vcvtFails (f : F) (c : Ctx) : List Fail :=
  if slotOk (c.slot (modType f.m)) true && slotOk (c.slot (modHigh f.m)) true then [] else failAll c.part cILLEGAL_OP 0

/-- A code widened to 32 bits: sign-extended for a signed integer slot (06 R168). -/
def widenCode (s : Slot) (q : Nat) : W32 :=
  let w := slotBits s
  if (s.kind = 4 ∨ s.kind = 6) ∧ 2 ^ (w - 1) ≤ q then BitVec.ofInt 32 ((q : Int) - 2 ^ w) else BitVec.ofNat 32 q

def vcvtVal (f : F) (c : Ctx) (l : Nat) : Fl W32 :=
  let sd := slotOf (c.slot (modType f.m))
  let ss := slotOf (c.slot (modHigh f.m))
  let x := slotDecode ss (tensorScale ss) ((c.lane f.a l 0).toNat % 2 ^ slotBits ss)
  let r := slotEncode sd (tensorScale sd) x.val
  ⟨widenCode sd r.val, x.flags ||| r.flags⟩

def execVcvt (f : F) (s : State) : Host.Outcome State Fault Refusal :=
  .next (laneOp { vec2 f true 6 with fty := 0 } f.d (vcvtFails f) (vcvtVal f) s)

/-- Conversion between lane types (06 R169). -/
def convertType (td ts : Nat) (a : W32) : Fl W32 :=
  if td = ts then ⟨cutType ts a, 0⟩
  else
    let x := if isFloatType ts then floatVal ts a else ofInt (intVal ts 32 a)
    if isFloatType td then
      let r := encodeFloat (typeFmt td) 0 false x
      ⟨BitVec.ofNat 32 r.val, r.flags⟩
    else
      let r := if td = 1 then encodeInt (-2147483648) 2147483647 1 x else encodeInt 0 4294967295 1 x
      ⟨BitVec.ofInt 32 r.val, r.flags⟩

/-- VCVTI of a lane. A float special constant has the source type, or is FP32 where the source is an integer: 05 R136 says 'the
instruction's float type', and VCVTI names two types (DESIGN CHOICE, log 100). -/
def vcvtiVal (f : F) (c : Ctx) (l : Nat) : Fl W32 :=
  convertType (modType f.m) (modHigh f.m) (c.lane f.a l (constType (modHigh f.m)))

/-- VCVTI (06 R169); which of its two types gives a float special constant: log 100 (DESIGN CHOICE). -/
def execVcvti (f : F) (s : State) : Host.Outcome State Fault Refusal :=
  .next (laneOp { vec2 f (decide (modType f.m < 5) && decide (modHigh f.m < 5)) 6 with fty := constType (modHigh f.m) } f.d noFails (vcvtiVal f) s)

/-- Element number i of width w. -/
def elem (x : W32) (w i : Nat) : Nat := x.toNat / 2 ^ (w * i) % 2 ^ w

/-- VPACK (06 R170): element width w bits taken from containers of twice the width. -/
def packWords (w : Nat) (a b : W32) : W32 :=
  let n := 16 / w
  BitVec.ofNat 32 ((List.range n).foldl (fun acc i =>
    acc + elem a (2 * w) i % 2 ^ w * 2 ^ (w * i) + elem b (2 * w) i % 2 ^ w * 2 ^ (16 + w * i)) 0)

/-- VUNPK (06 R170): the half h of A, each element extended to twice its width. -/
def unpackWord (w h : Nat) (signed : Bool) (a : W32) : W32 :=
  let half := a.toNat / 2 ^ (16 * h) % 65536
  BitVec.ofNat 32 ((List.range (16 / w)).foldl (fun acc i =>
    let q := half / 2 ^ (w * i) % 2 ^ w
    acc + (if signed && decide (2 ^ (w - 1) ≤ q) then q + (2 ^ (2 * w) - 2 ^ w) else q) * 2 ^ (2 * w * i)) 0)

def packWidth (m : BitVec 6) : Nat := match m.toNat % 4 with | 0 => 16 | 1 => 8 | _ => 4

def vpackVal (f : F) (c : Ctx) (l : Nat) : W32 := packWords (packWidth f.m) (c.lane f.a l 0) (c.lane f.b l 0)

def execVpack (f : F) (s : State) : Host.Outcome State Fault Refusal :=
  .next (laneOp (vec3 f (decide (f.m.toNat < 3)) 6) f.d noFails (pureLane (vpackVal f)) s)

def vunpkVal (f : F) (c : Ctx) (l : Nat) : W32 :=
  unpackWord (packWidth f.m) (f.m.toNat / 4 % 2) (f.m.getLsbD 3) (c.lane f.a l 0)

def execVunpk (f : F) (s : State) : Host.Outcome State Fault Refusal :=
  .next (laneOp { vec2 f (f.m.toNat % 4 != 3 && decide (f.m.toNat < 16)) 6 with fty := 0 } f.d noFails (pureLane (vunpkVal f)) s)

end Sys2Proof.Machine
end

