-- ==== Sys2Proof/Machine/Lanes.lean ====
section
/-! DEFINITION. Cross-lane operations, the fold register's VFOLD, and the token-generation instructions: opcodes 0x040 to
0x055 (06 R171-R176, 10 R267-R276). -/

namespace Sys2Proof.Machine

open Sys2Proof

/-! ### Exchange (06 R171-R173) -/

/-- The A value of a source lane: a special operand has the value of that lane (06 R171). -/
def Ctx.laneOf (c : Ctx) (f : BitVec 10) (src : Nat) : W32 := c.lane f src 0

/-- REG_PENDING of words read from other lanes: named by the reading lanes (06 R151). -/
def Ctx.crossPend (c : Ctx) (f : BitVec 10) (src : Nat → Nat) : List Fail :=
  match operandOf f with
  | .vec n => (lanesOf c.part).filterMap fun l =>
      if c.w.pending n (src l) then some ⟨l, cREG_PENDING, c.regAddr n (src l)⟩ else none
  | _ => []

/-- Source lane of a shuffle (06 R171). -/
def shflSrc (mode : Nat) (l : Nat) (n : W32) : Nat :=
  let q := n.toNat
  let src : Int := match mode with
    | 0 => (q % 32 : Nat)
    | 1 => (l : Int) - (q : Int)
    | 2 => (l : Int) + (q : Int)
    | _ => ((BitVec.ofNat 5 l ^^^ BitVec.ofNat 5 q).toNat : Int)
  if 0 ≤ src ∧ src ≤ 31 then src.toNat else l

def vshflSpec (f : F) : Spec :=
  { cls := 1, ctl := f.ctl
    enc := vecForm f.d && (isVec f.a || isScal f.a || isSpec f.a) && anyForm f.b && f.m.toNat % 8 == 0 && decide (f.m.toNat < 32)
    holdA := some f.a, holdB := some f.b, holdD := some f.d
    srcs := [(f.b, 1)], dsts := [(f.d, 1)], xsrcs := [(f.a, 1)], lat := 8 }

def vshflVal (f : F) (c : Ctx) (l : Nat) : W32 := c.laneOf f.a (shflSrc (modHigh f.m) l (c.lane f.b l 0))

def execVshfl (f : F) (s : State) : Host.Outcome State Fault Refusal :=
  .next (laneOp (vshflSpec f) f.d (fun c => c.crossPend f.a fun l => shflSrc (modHigh f.m) l (c.lane f.b l 0))
    (pureLane (vshflVal f)) s)

def vbcstSpec (f : F) : Spec :=
  { cls := 1, ctl := f.ctl, enc := vecForm f.d && (isVec f.a || isSpec f.a) && f.b == 0 && decide (f.m.toNat < 32)
    holdA := some f.a, holdD := some f.d, dsts := [(f.d, 1)], xsrcs := [(f.a, 1)], lat := 8 }

def execVbcst (f : F) (s : State) : Host.Outcome State Fault Refusal :=
  .next (laneOp (vbcstSpec f) f.d (fun c => c.crossPend f.a fun _ => f.m.toNat)
    (pureLane fun c _ => c.laneOf f.a f.m.toNat) s)

/-- A destination that takes a vector form, written in every participating lane, or the scalar form, written once when a
lane participates (06 R173, R174). -/
def Ctx.eitherWrites (c : Ctx) (d : BitVec 10) (x : W32) : List RegWrite :=
  if isScal d then (if c.part = 0 then [] else [⟨.scal (scalNo d), 0, x.zeroExtend 64⟩]) else c.laneWrites d fun _ => x

def eitherSpec (sp : Spec) (d : BitVec 10) : Spec :=
  if isScal d then { sp with wscals := [scalNo d] } else { sp with holdD := some d, dsts := [(d, 1)] }

def vballotSpec (f : F) : Spec :=
  eitherSpec { cls := 1, ctl := f.ctl, enc := (vecForm f.d || isScal f.d) && predForm f.a && f.b == 0 && f.m == 0,
               preds := [f.a.toNat], lat := 8 } f.d

def ballotOf (f : F) (c : Ctx) : W32 := maskOf fun l => c.part.getLsbD l && c.preg f.a.toNat l

def execVballot (f : F) (s : State) : Host.Outcome State Fault Refusal :=
  .next (run (vballotSpec f) noFails noResume
    (fun c s => (s.fixed c (vballotSpec f) (c.eitherWrites f.d (ballotOf f c)) 0).advance c.id) s)

/-! ### Reductions (06 R174-R176, 03 R87) -/

/-- Identity of an operation in a type (06 R174). -/
def redIdentity (op t : Nat) : W32 :=
  match op with
  | 0 => if isFloatType t then signBit t else 0
  | 1 => if t = 0 then 0xFFFFFFFF else if t = 1 then 0x7FFFFFFF else BitVec.ofNat 32 (infCode (typeFmt t) false)
  | 2 => if t = 0 then 0 else if t = 1 then 0x80000000 else BitVec.ofNat 32 (infCode (typeFmt t) true)
  | 3 => 0xFFFFFFFF
  | _ => 0

/-- The sum of lane values by the fixed tree in FP32, with its NSTAT bits (03 R87): one that contains a NaN sets no
INVALID (06 R174). -/
def treeSum32 (xs : List W32) : Fl W32 :=
  let r := (tree32 (fun a b => let r := add32 a.val b.val; ⟨r.val, a.flags ||| b.flags ||| r.flags⟩)
    (xs.map fun x => (⟨x, 0⟩ : Fl W32))).headD ⟨0, 0⟩
  if xs.any (isNan 2) then ⟨r.val, r.flags &&& ~~~fINVALID⟩ else r

/-- A 16-bit float widened exactly to FP32 (03 R87). -/
def widen32 (t : Nat) (x : W32) : W32 := BitVec.ofNat 32 (encodeFloat fp32 0 false (floatVal t x)).val

/-- A reduction of 32 lane values (06 R174, 03 R87). -/
def reduce (op t : Nat) (xs : List W32) : Fl W32 :=
  if op = 0 then
    (if isFloatType t then
      let r := treeSum32 (xs.map (widen32 t))
      if t = 2 then r else roundType t 0 ⟨f32 r.val, r.flags⟩
     else ⟨(tree32 (· + ·) xs).headD 0, 0⟩)
  else
    let g : W32 → W32 → W32 := match op with
      | 1 => minMaxOf t false
      | 2 => minMaxOf t true
      | 3 => (· &&& ·)
      | 4 => (· ||| ·)
      | _ => (· ^^^ ·)
    ⟨(tree32 g xs).headD 0, 0⟩

/-- The lanes' values with the identity for lanes that do not participate. -/
def Ctx.redInputs (c : Ctx) (f : BitVec 10) (op t : Nat) : List W32 :=
  lanes32.map fun l => if c.part.getLsbD l then c.lane f l (constType t) else redIdentity op t

def redEnc (m : BitVec 6) : Bool :=
  let t := modType m
  let op := modHigh m
  (isIntType t && decide (op < 6)) || (isFloatType t && decide (op < 3))

def vredSpec (f : F) : Spec :=
  eitherSpec { cls := 1, ctl := f.ctl, enc := (vecForm f.d || isScal f.d) && anyForm f.a && f.b == 0 && redEnc f.m,
               holdA := some f.a, srcs := [(f.a, 1)], lat := 14, fty := constType (modType f.m) } f.d

def vredVal (f : F) (c : Ctx) : Fl W32 := reduce (modHigh f.m) (modType f.m) (c.redInputs f.a (modHigh f.m) (modType f.m))

def execVred (f : F) (s : State) : Host.Outcome State Fault Refusal :=
  .next (run (vredSpec f) noFails noResume (fun c s =>
    let r := vredVal f c
    (s.fixed c (vredSpec f) (c.eitherWrites f.d r.val) (if c.part = 0 then 0 else r.flags)).advance c.id) s)

/-- Whether a value is strictly better (06 R175). -/
def strictlyBetter (t : Nat) (wantMax : Bool) (a b : W32) : Bool :=
  if isFloatType t then
    (if isNan t a then false
     else if isNan t b then true
     else if wantMax then decide (floatKey t b < floatKey t a) else decide (floatKey t a < floatKey t b))
  else if wantMax then decide (intVal t 32 b < intVal t 32 a) else decide (intVal t 32 a < intVal t 32 b)

/-- The lane that holds the best value (06 R175). -/
def bestLane (t : Nat) (wantMax : Bool) (part : BitVec 32) (a : Nat → W32) : Nat :=
  ((lanesOf part).foldl (fun (best : Option Nat) l =>
    match best with
    | none => some l
    | some b => if strictlyBetter t wantMax (a l) (a b) then some l else some b) none).getD 0

def minIdxSpec (f : F) : Spec :=
  { cls := 1, ctl := f.ctl, enc := isVec f.d && anyForm f.a && f.b == 0 && minMaxEnc f.m,
    holdA := some f.a, holdD := some f.d, srcs := [(f.a, 1)], dsts := [(f.d, 2)], lat := 14, fty := constType (modType f.m) }

def minIdxVal (f : F) (wantMax : Bool) (c : Ctx) (k : Nat) : W32 :=
  let t := modType f.m
  let a := fun l => c.lane f.a l (constType t)
  let b := bestLane t wantMax c.part a
  if k = 1 then BitVec.ofNat 32 b
  else if isFloatType t then (if isNan t (a b) then BitVec.ofNat 32 (canonicalNan (typeFmt t)) else cutType t (a b)) else a b

def minIdxRun (f : F) (wantMax : Bool) : State → State :=
  run (minIdxSpec f) noFails noResume fun c s =>
    let x := minIdxVal f wantMax c 0
    let y := minIdxVal f wantMax c 1
    (s.fixed c (minIdxSpec f) (c.laneWritesN f.d 2 fun _ k => if k = 0 then x else y) 0).advance c.id

def execVminidx (f : F) (s : State) : Host.Outcome State Fault Refusal := .next (minIdxRun f false s)

def execVmaxidx (f : F) (s : State) : Host.Outcome State Fault Refusal := .next (minIdxRun f true s)

def vfoldSpec (f : F) : Spec :=
  { cls := 1, ctl := f.ctl, enc := f.d == 0 && f.b == 0 && anyForm f.a && redEnc f.m && f.ctl.hold == 0,
    srcs := [(f.a, 1)] }

/-- VFOLD (06 R176): the reduction waits in the fold tree for its stamp. -/
def execVfold (f : F) (s : State) : Host.Outcome State Fault Refusal :=
  .next (run (vfoldSpec f) noFails noResume (fun c s =>
    let r := vredVal f c
    let s := s.issue c (vfoldSpec f)
    (s.modWave c.id fun w =>
      { (w.flagUp f.ctl.sig.toNat) with
        foldq := w.foldq ++ [(r.val.zeroExtend 64, (if c.part = 0 then 0 else r.flags.toNat), f.ctl.sig.toNat)] }).advance c.id) s)

/-! ### Candidate lists (10 R267-R270) -/

/-- An entry of a candidate list: value and index. -/
abbrev Cand := W32 × W32

def emptyCand : Cand := (ninf32, 0xFFFFFFFF)

/-- The class of an entry: numbers, NaN, empty (10 R267). -/
def candClass (x : Cand) : Nat := if x.2 = 0xFFFFFFFF then 2 else if isNan 2 x.1 then 1 else 0

/-- Whether an entry ranks strictly above another (10 R267). -/
def candAbove (x y : Cand) : Bool :=
  let a := candClass x
  let b := candClass y
  if a ≠ b then decide (a < b)
  else if a = 0 ∧ floatKey 2 x.1 ≠ floatKey 2 y.1 then decide (floatKey 2 y.1 < floatKey 2 x.1)
  else decide (x.2.toNat < y.2.toNat)

def candInsert (x : Cand) : List Cand → List Cand
  | [] => [x]
  | y :: t => if candAbove x y then x :: y :: t else y :: candInsert x t

/-- The rank-ordered top k, with empty entries behind (10 R268). -/
def topK (k : Nat) (xs : List Cand) : List Cand :=
  let sorted := xs.foldl (fun acc x => candInsert (if x.2 = 0xFFFFFFFF then emptyCand else x) acc) []
  let top := sorted.take k
  top ++ List.replicate (32 - top.length) emptyCand

def Ctx.candWrites (c : Ctx) (d : BitVec 10) (r : List Cand) : List RegWrite :=
  c.laneWritesN d 2 fun l k => let e := r.getD l emptyCand; if k = 0 then e.1 else e.2

def vtopkSpec (f : F) : Spec :=
  { cls := 1, ctl := f.ctl, enc := isVec f.d && anyForm f.a && anyForm f.b && decide (f.m.toNat < 32),
    holdA := some f.a, holdB := some f.b, srcs := [(f.a, 1), (f.b, 1)], dsts := [(f.d, 2)], lat := 16 }

def vtopkList (f : F) (c : Ctx) : List Cand :=
  topK (f.m.toNat + 1) ((lanesOf c.part).map fun l => (c.lane f.a l 2, c.lane f.b l 0))

def execVtopk (f : F) (s : State) : Host.Outcome State Fault Refusal :=
  .next (run (vtopkSpec f) noFails noResume (fun c s =>
    let r := vtopkList f c
    (s.fixed c (vtopkSpec f) (c.candWrites f.d r) 0).advance c.id) s)

/-- REG_PENDING of registers read in every lane of the wave, named by the participating lanes (06 R151). -/
def Ctx.wholePend (c : Ctx) (n k : Nat) (lanes : List Nat) : List Fail :=
  match (List.range k).flatMap fun i => lanes.filterMap fun l => if c.w.pending (n + i) l then some (c.regAddr (n + i) l) else none with
  | [] => []
  | as => failAll c.part cREG_PENDING (((minBy (fun (a : W64) => a.toNat) as)).getD 0)

def vtopkmSpec (f : F) : Spec :=
  { cls := 1, ctl := f.ctl, enc := isVec f.d && isVec f.a && f.b == 0 && decide (f.m.toNat < 32) && f.ctl.hold == 0,
    dsts := [(f.d, 2)], xsrcs := [(f.d, 2), (f.a, 2)], lat := 16 }

def Ctx.listAt (c : Ctx) (n : Nat) : List Cand := lanes32.map fun l => (c.vreg n l, c.vreg (n + 1) l)

def execVtopkm (f : F) (s : State) : Host.Outcome State Fault Refusal :=
  .next (run (vtopkmSpec f) (fun c => c.wholePend (vecNo f.d) 2 lanes32 ++ c.wholePend (vecNo f.a) 2 lanes32) noResume
    (fun c s =>
      let r := topK (f.m.toNat + 1) (c.listAt (vecNo f.d) ++ c.listAt (vecNo f.a))
      (s.fixed c (vtopkmSpec f) (c.candWrites f.d r) 0).advance c.id) s)

/-! ### Softmax partials (10 R271, R272) -/

def vsmxSpec (f : F) : Spec :=
  { cls := 1, ctl := f.ctl, enc := isVec f.d && anyForm f.a && anyForm f.b && f.m == 0,
    holdA := some f.a, holdB := some f.b, srcs := [(f.a, 1), (f.b, 1)], dsts := [(f.d, 3)], lat := 20 }

/-- mu, lam, the exponentials by lane, and the NSTAT bits (10 R271). -/
def softmaxOf (part : BitVec 32) (x : Nat → Fl W32) : W32 × W32 × List (Nat × W32) × W32 :=
  let xs := (lanesOf part).map fun l => (l, x l)
  let mu := xs.foldl (fun m e => floatMinMax 2 true m e.2.val) ninf32
  let mu := if xs.all fun e => isNan 2 e.2.val then (if xs.isEmpty then ninf32 else nan32) else mu
  let es := xs.map fun e =>
    if mu = ninf32 then (e.1, (⟨0, e.2.flags⟩ : Fl W32))
    else if e.2.val = mu ∧ mu = inf32 then (e.1, ⟨one32, e.2.flags⟩)
    else
      let d := add32 e.2.val (mu ^^^ 0x80000000)
      let r := opExp2 d.val
      (e.1, ⟨r.val, e.2.flags ||| d.flags ||| r.flags⟩)
  let sum := treeSum32 (lanes32.map fun l => match es.find? fun e => e.1 == l with
    | some e => e.2.val
    | none => nzero32)
  (mu, sum.val, es.map fun e => (e.1, e.2.val), es.foldl (fun a e => a ||| e.2.flags) sum.flags)

def execVsmx (f : F) (s : State) : Host.Outcome State Fault Refusal :=
  .next (run (vsmxSpec f) noFails noResume (fun c s =>
    let r := softmaxOf c.part fun l => mul32 (c.lane f.a l 2) (c.lane f.b l 2)
    let ws := c.laneWritesN f.d 3 fun l k =>
      if k = 0 then r.1 else if k = 1 then r.2.1 else ((r.2.2.1.find? fun e => e.1 == l).map Prod.snd).getD 0
    (s.fixed c (vsmxSpec f) ws (if c.part = 0 then 0 else r.2.2.2)).advance c.id) s)

def vsmxmSpec (f : F) : Spec :=
  { cls := 1, ctl := f.ctl, enc := isVec f.d && isVec f.a && f.b == 0 && decide (f.m.toNat < 2) && f.ctl.hold == 0,
    srcs := [(f.a, 2), (f.d, 2)], dsts := [(f.d, 2)], lat := 24 }

def Ctx.partialAt (c : Ctx) (n l : Nat) : Partial := ⟨c.vreg n l, c.vreg (n + 1) l, []⟩

def execVsmxmLane (f : F) (s : State) : Host.Outcome State Fault Refusal :=
  .next (run (vsmxmSpec f) noFails noResume (fun c s =>
    let rs := (lanesOf c.part).map fun l => (l, mergeP (c.partialAt (vecNo f.d) l) (c.partialAt (vecNo f.a) l))
    let ws := rs.flatMap fun r => [⟨.vec (vecNo f.d), r.1, r.2.val.mu.zeroExtend 64⟩,
      (⟨.vec (vecNo f.d + 1), r.1, r.2.val.lam.zeroExtend 64⟩ : RegWrite)]
    (s.fixed c (vsmxmSpec f) ws (rs.foldl (fun a r => a ||| r.2.flags) 0)).advance c.id) s)

def vsmxmWaveSpec (f : F) : Spec := { vsmxmSpec f with srcs := [(f.a, 2)] }

/-- The empty partial (03 R91). -/
def zeroPartial : Partial := ⟨ninf32, 0, []⟩

def execVsmxmWave (f : F) (s : State) : Host.Outcome State Fault Refusal :=
  .next (run (vsmxmWaveSpec f) noFails noResume (fun c s =>
    let r := (lanesOf c.part).foldl (fun (p : Fl Partial) l =>
      let q := mergeP p.val (c.partialAt (vecNo f.a) l)
      ⟨q.val, p.flags ||| q.flags⟩) ⟨zeroPartial, 0⟩
    (s.fixed c (vsmxmWaveSpec f) (c.laneWritesN f.d 2 fun _ k => if k = 0 then r.val.mu else r.val.lam) r.flags).advance c.id) s)

/-! ### Sampling and random numbers (10 R273-R275) -/

def sampleSpec (f : F) : Spec :=
  { cls := 1, ctl := f.ctl, enc := isScal f.d && isVec f.a && isScal f.b && decide (f.m.toNat < 32) && f.ctl.hold == 0,
    srcs := [(f.b, 1)], xsrcs := [(f.a, 3)], wscals := [scalNo f.d], lat := 24 }

/-- ILLEGAL_OP of a temperature, threshold or draw out of range (10 R273). -/
def sampleBad (beta p u : W32) : Bool :=
  (isNan 2 beta || !xlt xzero (f32 beta)) || (isNan 2 p || !xlt xzero (f32 p) || xlt xone (f32 p)) ||
  (isNan 2 u || xlt (f32 u) xzero || !xlt (f32 u) xone)

/-- The draw (10 R274): entries with their lane numbers. -/
def sampleDraw (beta p u : W32) (es : List (Nat × Cand)) : W64 :=
  let cs := es.filter fun e => e.2.2 != 0xFFFFFFFF && !isNan 2 e.2.1
  let out (e : Nat × Cand) : W64 := (BitVec.ofNat 64 (e.1 % 32) <<< 32) ||| e.2.2.zeroExtend 64
  match cs with
  | [] => (1#64 <<< 63) ||| 0xFFFFFFFF
  | first :: rest =>
    if beta = inf32 then out (rest.foldl (fun b e => if candAbove e.2 b.2 then e else b) first)
    else
      let zs := cs.map fun e => (e, (mul32 e.2.1 beta).val)
      let mu := zs.foldl (fun m z => floatMinMax 2 true m z.2) nan32
      let ws := zs.map fun z => (z.1, if xeq (f32 z.2) (f32 mu) then one32 else (opExp2 (add32 z.2 (mu ^^^ 0x80000000)).val).val)
      let sums := (ws.foldl (fun (acc : List ((Nat × Cand) × W32) × Option W32) w =>
        let c := match acc.2 with
          | none => w.2
          | some q => (add32 q w.2).val
        (acc.1 ++ [(w.1, c)], some c)) ([], none)).1
      let last := (sums.getLast?.map Prod.snd).getD 0
      let t := (mul32 p last).val
      let cut := match sums.findIdx? fun x => !xlt (f32 x.2) (f32 t) with
        | none => sums
        | some i => sums.take (i + 1)
      let target := (mul32 u ((cut.getLast?.map Prod.snd).getD 0)).val
      match cut.find? fun x => xlt (f32 target) (f32 x.2) with
      | some x => out x.1
      | none => out ((cut.getLast?.map Prod.fst).getD first)

/-- Checks of SAMPLE, which executes once for the wave: the first that fails (05 R138, 10 R273). -/
def sampleFails (f : F) (c : Ctx) : List Fail :=
  if c.part = 0 then []
  else
    let n := vecNo f.a
    let pend := c.wholePend n 2 (List.range (f.m.toNat + 1)) ++ c.wholePend (n + 2) 1 [0]
    let b := c.scalar f.b
    if !pend.isEmpty then pend
    else if sampleBad (b.extractLsb' 0 32) (b.extractLsb' 32 32) (c.vreg (n + 2) 0) then failAll c.active cILLEGAL_OP 0 else []

def execSample (f : F) (s : State) : Host.Outcome State Fault Refusal :=
  .next (run (sampleSpec f) (sampleFails f) noResume (fun c s =>
    let n := vecNo f.a
    let b := c.scalar f.b
    let r := sampleDraw (b.extractLsb' 0 32) (b.extractLsb' 32 32) (c.vreg (n + 2) 0)
      ((List.range (f.m.toNat + 1)).map fun l => (l, (c.vreg n l, c.vreg (n + 1) l)))
    (s.fixed c (sampleSpec f) (if c.part = 0 then [] else [⟨.scal (scalNo f.d), 0, r⟩]) 0).advance c.id) s)

def vrandSpec (f : F) : Spec :=
  { cls := 1, ctl := f.ctl, enc := vecForm f.d && anyForm f.a && isScal f.b && decide (f.m.toNat < 2),
    holdA := some f.a, holdB := some f.b, srcs := [(f.a, 1), (f.b, 1)], dsts := [(f.d, 1)], lat := 10 }

/-- One quarter-round of RFC 8439 (10 R275). -/
def quarterRound (x : W32 × W32 × W32 × W32) : W32 × W32 × W32 × W32 :=
  let (a, b, c, d) := x
  let a := a + b
  let d := (d ^^^ a).rotateLeft 16
  let c := c + d
  let b := (b ^^^ c).rotateLeft 12
  let a := a + b
  let d := (d ^^^ a).rotateLeft 8
  let c := c + d
  let b := (b ^^^ c).rotateLeft 7
  (a, b, c, d)

/-- The counter-based value of a user counter, a thread index and a key (10 R275). -/
def randOf (counter gid : W32) (key : W64) : W32 :=
  let r := quarterRound (quarterRound (quarterRound (quarterRound (quarterRound (quarterRound
    (counter, gid, key.extractLsb' 0 32, key.extractLsb' 32 32))))))
  r.1 ^^^ r.2.2.1

def vrandVal (f : F) (c : Ctx) (l : Nat) : W32 :=
  let x := randOf (c.lane f.a l 0) ((c.special 0x09 l 0 false).extractLsb' 0 32) (c.scalar f.b)
  if f.m = 1 then (rnd32 ⟨dyadic false (x.toNat / 256) (-24), 0⟩).val else x

def execVrand (f : F) (s : State) : Host.Outcome State Fault Refusal :=
  .next (laneOp (vrandSpec f) f.d noFails (pureLane (vrandVal f)) s)

end Sys2Proof.Machine
end

