-- ==== Sys2Proof/Machine/Scalar.lean ====
section
/-! DEFINITION. Scalar-class instructions of the VEC class: NSRD, NSCLR and opcodes 0x080 to 0x099 (06 R152, R177-R181). -/

namespace Sys2Proof.Machine

open Sys2Proof

/-- sD, A, B with a fixed latency. -/
def sc3 (f : F) (enc : Bool) (lat : Nat) : Spec := scalarSpec 1 f.ctl enc [f.a, f.b] (some f.d) lat
/-- sD, A; B must be zero. -/
def sc2 (f : F) (enc : Bool) (lat : Nat) : Spec := scalarSpec 1 f.ctl (enc && f.b == 0) [f.a] (some f.d) lat

/-- One result for the wave when a lane participates (06 R152). -/
def scalarOp (sp : Spec) (d : Nat) (own : Ctx → List Fail) (val : Ctx → W64) : State → State :=
  run sp own noResume fun c s =>
    (s.fixed c sp (if c.part = 0 then [] else [⟨.scal d, 0, val c⟩]) 0).advance c.id

/-! ### Types (06 R179) -/

def is32 (t : Nat) : Bool := t == 0 || t == 1

/-- An operand as an exact integer of its type. -/
def scVal (t : Nat) (x : W64) : Int := if is32 t then intVal t 32 (x.extractLsb' 0 32) else intVal t 64 x

/-- An exact result wrapped to the type and extended to 64 bits. -/
def scWrap (t : Nat) (i : Int) : W64 :=
  if t = 0 then (BitVec.ofInt 32 i).zeroExtend 64 else if t = 1 then (BitVec.ofInt 32 i).signExtend 64 else BitVec.ofInt 64 i

def scEnc (m : BitVec 6) : Bool := isScalarType (modType m) && modHigh m == 0

/-- A typed operation of two scalars. -/
def scBin (f : F) (g : Int → Int → Int) (c : Ctx) : W64 :=
  let t := modType f.m
  scWrap t (g (scVal t (c.scalar f.a)) (scVal t (c.scalar f.b)))

def execSadd (f : F) (s : State) : Host.Outcome State Fault Refusal :=
  .next (scalarOp (sc3 f (scEnc f.m) 3) (scalNo f.d) noFails (scBin f (· + ·)) s)

def execSsub (f : F) (s : State) : Host.Outcome State Fault Refusal :=
  .next (scalarOp (sc3 f (scEnc f.m) 3) (scalNo f.d) noFails (scBin f (· - ·)) s)

def execSmul (f : F) (s : State) : Host.Outcome State Fault Refusal :=
  .next (scalarOp (sc3 f (scEnc f.m) 5) (scalNo f.d) noFails (scBin f (· * ·)) s)

/-- The high half of the exact double-width product (06 R179). -/
def highHalf (t : Nat) (a b : Int) : Int := (a * b) / (if is32 t then 2 ^ 32 else 2 ^ 64)

def execSmulhi (f : F) (s : State) : Host.Outcome State Fault Refusal :=
  .next (scalarOp (sc3 f (scEnc f.m) 5) (scalNo f.d) noFails (scBin f (highHalf (modType f.m))) s)

/-- ARITH of a zero divisor (06 R180): the one scalar divisor is that of every participating lane, and s122 names them all (19 R335;
DEDUCED, log 108). -/
def scDivFails (f : F) (c : Ctx) : List Fail :=
  if c.part != 0 && scVal (modType f.m) (c.scalar f.b) == 0 then failAll c.part cARITH 0 else []

def execSdiv (f : F) (s : State) : Host.Outcome State Fault Refusal :=
  .next (scalarOp (sc3 f (scEnc f.m) 40) (scalNo f.d) (scDivFails f) (scBin f quotInt) s)

def execSrem (f : F) (s : State) : Host.Outcome State Fault Refusal :=
  .next (scalarOp (sc3 f (scEnc f.m) 40) (scalNo f.d) (scDivFails f) (scBin f remInt) s)

def execSmin (f : F) (s : State) : Host.Outcome State Fault Refusal :=
  .next (scalarOp (sc3 f (scEnc f.m) 3) (scalNo f.d) noFails (scBin f min) s)

def execSmax (f : F) (s : State) : Host.Outcome State Fault Refusal :=
  .next (scalarOp (sc3 f (scEnc f.m) 3) (scalNo f.d) noFails (scBin f max) s)

def execSand (f : F) (s : State) : Host.Outcome State Fault Refusal :=
  .next (scalarOp (sc3 f (f.m == 0) 3) (scalNo f.d) noFails (fun c => c.scalar f.a &&& c.scalar f.b) s)

def execSor (f : F) (s : State) : Host.Outcome State Fault Refusal :=
  .next (scalarOp (sc3 f (f.m == 0) 3) (scalNo f.d) noFails (fun c => c.scalar f.a ||| c.scalar f.b) s)

def execSxor (f : F) (s : State) : Host.Outcome State Fault Refusal :=
  .next (scalarOp (sc3 f (f.m == 0) 3) (scalNo f.d) noFails (fun c => c.scalar f.a ^^^ c.scalar f.b) s)

def execSnot (f : F) (s : State) : Host.Outcome State Fault Refusal :=
  .next (scalarOp (sc2 f (f.m == 0) 3) (scalNo f.d) noFails (fun c => ~~~c.scalar f.a) s)

def execSshl (f : F) (s : State) : Host.Outcome State Fault Refusal :=
  .next (scalarOp (sc3 f (f.m == 0) 3) (scalNo f.d) noFails (fun c => shlWord (c.scalar f.a) (c.scalar f.b).toNat) s)

def execSshr (f : F) (s : State) : Host.Outcome State Fault Refusal :=
  .next (scalarOp (sc3 f (f.m == 0) 3) (scalNo f.d) noFails (fun c => shrWord (c.scalar f.a) (c.scalar f.b).toNat) s)

def execSsar (f : F) (s : State) : Host.Outcome State Fault Refusal :=
  .next (scalarOp (sc3 f (f.m == 0) 3) (scalNo f.d) noFails (fun c => sarWord (c.scalar f.a) (c.scalar f.b).toNat) s)

def execSpopc (f : F) (s : State) : Host.Outcome State Fault Refusal :=
  .next (scalarOp (sc2 f (f.m == 0) 3) (scalNo f.d) noFails (fun c => BitVec.ofNat 64 (onesOf (c.scalar f.a))) s)

def execSclz (f : F) (s : State) : Host.Outcome State Fault Refusal :=
  .next (scalarOp (sc2 f (f.m == 0) 3) (scalNo f.d) noFails (fun c => BitVec.ofNat 64 (leadZeros (c.scalar f.a))) s)

def execSctz (f : F) (s : State) : Host.Outcome State Fault Refusal :=
  .next (scalarOp (sc2 f (f.m == 0) 3) (scalNo f.d) noFails (fun c => BitVec.ofNat 64 (trailZeros (c.scalar f.a))) s)

def execScmp (f : F) (s : State) : Host.Outcome State Fault Refusal :=
  .next (scalarOp (sc3 f (isScalarType (modType f.m) && decide (modHigh f.m < 6)) 3) (scalNo f.d) noFails (fun c =>
    if condInt (modHigh f.m) (scVal (modType f.m) (c.scalar f.a)) (scVal (modType f.m) (c.scalar f.b)) then 1 else 0) s)

/-- SSEL reads sD first (06 R179). -/
def sselSpec (f : F) : Spec := { sc3 f (f.m == 0) 3 with scals := [scalNo f.d] }

def execSsel (f : F) (s : State) : Host.Outcome State Fault Refusal :=
  .next (scalarOp (sselSpec f) (scalNo f.d) noFails (fun c =>
    if c.sreg (scalNo f.d) ≠ 0 then c.scalar f.a else c.scalar f.b) s)

def execSmov (f : F) (s : State) : Host.Outcome State Fault Refusal :=
  .next (scalarOp (sc2 f (f.m == 0) 3) (scalNo f.d) noFails (fun c => c.scalar f.a) s)

def smoviSpec (f : F32) : Spec :=
  { cls := 1, ctl := f.ctl, enc := f.ctl.hold == 0, wscals := [f.d4.toNat], lat := 3 }

def execSmovi (f : F32) (s : State) : Host.Outcome State Fault Refusal :=
  .next (scalarOp (smoviSpec f) f.d4.toNat noFails (fun _ => f.imm.signExtend 64) s)

/-- sD, imm16 with A zero; the other bits of sD are kept. -/
def scImm (f : F16) : Spec :=
  { scalarSpec 1 f.ctl (f.a == 0) [] (some f.d) 3 with scals := [scalNo f.d] }

def smovlVal (f : F16) (c : Ctx) : W64 :=
  let x := c.sreg (scalNo f.d)
  (x &&& 0xFFFF0000FFFFFFFF) ||| (f.imm.zeroExtend 64 <<< 32)

def execSmovl (f : F16) (s : State) : Host.Outcome State Fault Refusal :=
  .next (scalarOp (scImm f) (scalNo f.d) noFails (smovlVal f) s)

def smovhVal (f : F16) (c : Ctx) : W64 :=
  let x := c.sreg (scalNo f.d)
  (x &&& 0x0000FFFFFFFFFFFF) ||| (f.imm.zeroExtend 64 <<< 48)

def execSmovh (f : F16) (s : State) : Host.Outcome State Fault Refusal :=
  .next (scalarOp (scImm f) (scalNo f.d) noFails (smovhVal f) s)

def execSaddi (f : F16) (s : State) : Host.Outcome State Fault Refusal :=
  .next (scalarOp (scalarSpec 1 f.ctl true [f.a] (some f.d) 3) (scalNo f.d) noFails (fun c =>
    c.scalar f.a + f.imm.signExtend 64) s)

/-! ### The fold register's reader (06 R177) -/

def sfoldSpec (f : F) : Spec := sc2 f (f.m == 0) 0

/-- SFOLD completes: the fold register goes to sD. -/
def sfoldTake (f : F) (c : Ctx) (s : State) : State := s.setS c.id (scalNo f.d) (s.wave c.id).fold

/-- SFOLD at the end of its wait: the stamp matches, or none in flight can supply its number, as where that number has passed while the
wave's handler ran (08 R421 does not say; DESIGN CHOICE, log 103). -/
def sfoldResume (f : F) (c : Ctx) (wt : Wait) (s : State) : State :=
  match wt with
  | .sfold n _ _ =>
    if c.w.foldSeq = n then s.awaited c (sfoldSpec f) (sfoldTake f c)
    else (s.modWave c.id fun w => w.flagDown f.ctl.sig.toNat).raise c.id (c.causeRec cILLEGAL_OP c.active 0 0)
  | _ => s

def sfoldFails (f : F) (c : Ctx) : List Fail :=
  if c.part != 0 && c.w.foldSeq != (c.scalar f.a).extractLsb' 0 16 && c.w.foldq.isEmpty then failAll c.active cILLEGAL_OP 0 else []

def execSfold (f : F) (s : State) : Host.Outcome State Fault Refusal :=
  .next (run (sfoldSpec f) (sfoldFails f) (sfoldResume f) (fun c s =>
    if c.part = 0 then s.quick c (sfoldSpec f) id
    else s.awaitOr c (sfoldSpec f) (.sfold ((c.scalar f.a).extractLsb' 0 16) (scalNo f.d) f.ctl.sig.toNat) (sfoldTake f c)) s)

/-! ### Number status (06 R178) -/

def nsrdSpec (f : F) : Spec := scalarSpec 1 f.ctl (f.a == 0 && f.b == 0 && f.m == 0) [] (some f.d) 3

/-- NSRD after every earlier setter has completed. -/
def execNsrd (f : F) (s : State) : Host.Outcome State Fault Refusal :=
  .next (run (nsrdSpec f) noFails noResume (fun c s =>
    if s.waitDone c.id c.b c.w .nstat then
      (s.fixed c (nsrdSpec f) (if c.part = 0 then [] else [⟨.scal (scalNo f.d), 0, c.w.nstat.zeroExtend 64⟩]) 0).advance c.id
    else s.linger c.id .nstat) s)

def nsclrSpec (f : F) : Spec := scalarSpec 1 f.ctl (f.d == 0 && f.b == 0 && f.m == 0) [f.a] none 0

def execNsclr (f : F) (s : State) : Host.Outcome State Fault Refusal :=
  .next (run (nsclrSpec f) noFails noResume (fun c s =>
    if s.waitDone c.id c.b c.w .nstat then
      s.quick c (nsclrSpec f) fun s => if c.part = 0 then s else
        s.modWave c.id fun w => { w with nstat := w.nstat &&& ~~~((c.scalar f.a).extractLsb' 0 6).zeroExtend 32 }
    else s.linger c.id .nstat) s)

end Sys2Proof.Machine
end

