-- ==== Sys2Proof/Machine/Control.lean ====
section
/-! DEFINITION. CTRL-class instructions but for LAUNCH, LAUNCHT and JOIN: transfers, meeting registers, calls, EXIT, YIELD,
traps and the return from a handler (08 R212-R237). -/

namespace Sys2Proof.Machine

open Sys2Proof

/-! ### Targets (08 R213, R214) -/

/-- An instruction that may move program counters completes. -/
def State.transfer (s : State) (c : Ctx) (sp : Spec) (f : State → State) (go : Nat → Option W64) : State :=
  (f (s.issue c sp)).finish c.id go

/-- The target of an immediate word offset. The sum keeps its 64 bits: a program counter beyond 57 bits, which 01 R17 says
cannot be and for which no rule gives a check here, is met at its fetch with PROT_PAGE (DESIGN CHOICE, log 76). -/
def Ctx.label (c : Ctx) (off : W64) : W64 := c.addr + 8 * off

/-- A register target: a scalar, or a register pair, low half first. -/
def Ctx.target (c : Ctx) (f : BitVec 10) (l : Nat) : W64 :=
  match operandOf f with
  | .scal n => c.sreg n
  | .vec n => c.vreg (n + 1) l ++ c.vreg n l
  | _ => 0

def targetForm (f : BitVec 10) : Bool := isScal f || isVec f

/-- The cause of a target that no program counter may hold (08 R214). -/
def targetCause (t : W64) : Option Nat :=
  if t &&& 7 ≠ 0 then some cALIGN else if t >>> 57 ≠ 0 then some cPROT_PAGE else none

def Ctx.targetFails (c : Ctx) (f : BitVec 10) : List Fail :=
  (lanesOf c.part).filterMap fun l => (targetCause (c.target f l)).map fun k => ⟨l, k, c.target f l⟩

/-- Lanes of a mask go to one target. -/
def goTo (lanes : BitVec 32) (t : W64) (l : Nat) : Option W64 := if lanes.getLsbD l then some t else none

/-! ### Branches (08 R215) -/

def branchSpec (f : F32) : Spec := { cls := 4, ctl := f.ctl, enc := f.ctl.hold == 0 && f.d4 == 0, xfer := true }

def execBra (f : F32) (s : State) : Host.Outcome State Fault Refusal :=
  .next (run (branchSpec f) noFails noResume (fun c s =>
    s.transfer c (branchSpec f) id (goTo c.part (c.label (f.imm.signExtend 64)))) s)

/-- The predicate and the offset of BRANY and BRALL. -/
def voteNo (f : F32) : Nat := (f.imm.extractLsb' 25 7).toNat
def voteOff (f : F32) : W64 := (f.imm.extractLsb' 0 25).signExtend 64

def voteSpec (f : F32) : Spec :=
  { branchSpec f with enc := f.ctl.hold == 0 && f.d4 == 0 && decide (voteNo f < 96), preds := [voteNo f] }

def execBrany (f : F32) (s : State) : Host.Outcome State Fault Refusal :=
  .next (run (voteSpec f) noFails noResume (fun c s =>
    let taken := (lanesOf c.part).any fun l => c.preg (voteNo f) l
    s.transfer c (voteSpec f) id (goTo (if taken then c.part else 0) (c.label (voteOff f)))) s)

def execBrall (f : F32) (s : State) : Host.Outcome State Fault Refusal :=
  .next (run (voteSpec f) noFails noResume (fun c s =>
    let taken := (lanesOf c.part).all fun l => c.preg (voteNo f) l
    s.transfer c (voteSpec f) id (goTo (if taken then c.part else 0) (c.label (voteOff f)))) s)

def brsSpec (f : F32) : Spec :=
  { cls := 4, ctl := f.ctl, enc := f.ctl.hold == 0, xfer := true, scals := [f.d4.toNat] }

def execBrs (f : F32) (s : State) : Host.Outcome State Fault Refusal :=
  .next (run (brsSpec f) noFails noResume (fun c s =>
    let taken := (c.sreg f.d4.toNat == 0) == f.imm.getLsbD 31
    s.transfer c (brsSpec f) id
      (goTo (if taken then c.part else 0) (c.label ((f.imm.extractLsb' 0 31).signExtend 64)))) s)

/-- A register target in A; D, B and the modifier as `rest` says. -/
def regTargetSpec (f : F) (rest : Bool) : Spec :=
  { cls := 4, ctl := f.ctl, enc := targetForm f.a && rest, xfer := true, holdA := some f.a, srcs := [(f.a, if isVec f.a then 2 else 1)] }

def jumpSpec (f : F) : Spec := regTargetSpec f (f.d == 0 && f.b == 0 && f.m == 0)

def execJmpi (f : F) (s : State) : Host.Outcome State Fault Refusal :=
  .next (run (jumpSpec f) (fun c => c.targetFails f.a) noResume (fun c s =>
    s.transfer c (jumpSpec f) id fun l => if c.part.getLsbD l then some (c.target f.a l) else none) s)

/-! ### MEET (08 R216) -/

/-- Write the meeting registers of the participating lanes; the test of 01 R20 sees the new value. -/
def State.meet (s : State) (c : Ctx) (sp : Spec) (v : Nat → W64) : State :=
  s.quick c sp fun s => s.modWave c.id fun w => (lanesOf c.part).foldl (fun w l => w.setMeet l (v l)) w

def meetLabelSpec (f : F32) : Spec := { cls := 4, ctl := f.ctl, enc := f.ctl.hold == 0 && f.d4 == 0 }

def execMeetLabel (f : F32) (s : State) : Host.Outcome State Fault Refusal :=
  .next (run (meetLabelSpec f) noFails noResume (fun c s =>
    let off := f.imm.extractLsb' 0 31
    s.meet c (meetLabelSpec f) fun _ => if off = 0 then meetNone else c.label (off.signExtend 64)) s)

def meetRegSpec (f : F32) : Spec :=
  { cls := 4, ctl := f.ctl, enc := f.imm.extractLsb' 0 31 == 0, holdD := some (f.d4.zeroExtend 10), srcs := [(f.d4.zeroExtend 10, 2)] }

def meetRegFails (f : F32) (c : Ctx) : List Fail :=
  (c.targetFails (f.d4.zeroExtend 10)).filter fun x => x.addr != meetNone

def execMeetRegister (f : F32) (s : State) : Host.Outcome State Fault Refusal :=
  .next (run (meetRegSpec f) (meetRegFails f) noResume (fun c s =>
    s.meet c (meetRegSpec f) (c.target (f.d4.zeroExtend 10))) s)

def meetNoneSpec (f : F32) : Spec := { cls := 4, ctl := f.ctl, enc := f.ctl.hold == 0 && f.imm.extractLsb' 0 31 == 0 }

def execMeetNone (f : F32) (s : State) : Host.Outcome State Fault Refusal :=
  .next (run (meetNoneSpec f) noFails noResume (fun c s => s.meet c (meetNoneSpec f) fun _ => meetNone) s)

/-! ### Calls and returns (08 R217-R220) -/

/-- A word read as code: through the instruction cache, else from home (01 R26, 22 R377). -/
def State.peek (s : State) (core asid tenant : Nat) (va : W64) : Except Nat W64 :=
  match s.fetch core asid tenant va with
  | .word w => .ok w
  | .fault k => .error k
  | .fill => match s.translate asid tenant va.toNat [rEXEC] with
    | .error k => .error k
    | .ok pa => .ok (BitVec.ofNat 64 (s.readNat pa 8))

/-- A function header whose every field holds its value (08 R217). -/
def headerValid (h : W64) : Bool :=
  h.extractLsb' 60 4 == 0 && h.extractLsb' 44 16 == 0x6A3D#16 && h.extractLsb' 26 18 == 0 && h.extractLsb' 0 16 == 0 &&
  decide (1 ≤ (h.extractLsb' 16 10).toNat) && decide ((h.extractLsb' 16 10).toNat ≤ 512)

def headerBudget (h : W64) : Nat := (h.extractLsb' 16 10).toNat

/-- The cause of a header's read, validity and budget, in that order (01 R26, 08 R218). -/
def headerCause (r : Except Nat W64) (budget : Nat) : Option Nat :=
  match r with
  | .error k => some k
  | .ok h => if !headerValid h then some cILLEGAL_OP else if budget < headerBudget h then some cREG_BUDGET else none

def State.headerFails (s : State) (c : Ctx) (t : Nat → W64) : List Fail :=
  (lanesOf c.part).filterMap fun l =>
    (headerCause (s.peek c.id.core c.l.asid c.l.tenant (t l)) c.budget).map fun k => ⟨l, k, t l⟩

/-- The first header whose fetch fails. -/
def State.headerLost (s : State) (c : Ctx) (t : Nat → W64) : Option Nat :=
  ((lanesOf c.part).find? fun l => match s.fetch c.id.core c.l.asid c.l.tenant (t l) with
    | .fault _ => true
    | _ => false).map fun l => (t l).toNat

/-- The call in the participating lanes: link registers, meeting register and program counter (08 R218). -/
def State.enterFn (s : State) (c : Ctx) (sp : Spec) (d : BitVec 10) (t : Nat → W64) : State :=
  let ret := c.addr + 8
  let link (l k : Nat) : W32 :=
    match k with
    | 0 => ret.extractLsb' 0 32
    | 1 => ret.extractLsb' 32 32
    | 2 => (c.w.meetAt l).extractLsb' 0 32
    | _ => (c.w.meetAt l).extractLsb' 32 32
  let s := s.fixed c sp (c.laneWritesN d 4 link) 0
  let s := s.modWave c.id fun w => (lanesOf c.part).foldl (fun w l => w.setMeet l ret) w
  s.finish c.id fun l => if c.part.getLsbD l then some (t l + 8) else none

/-- The headers of the distinct targets are read through the instruction cache, which they fill (01 R26, 22 R377), where the
instruction comes to that check. -/
def State.readHeaders (s : State) (sp : Spec) (own : Ctx → List Fail) (t : Ctx → Nat → W64) : State :=
  match s.ctx sp.ctl with
  | none => s
  | some c =>
    if c.w.wait.any (fun wt => wt.issued) || (c.holdUp sp).isSome || (c.encodingCause sp).isSome || c.stallShort sp ||
        !(c.boundFails sp ++ c.areaBound sp ++ c.pendFails sp ++ own c).isEmpty then s
    else ((lanesOf c.part).map (t c)).eraseDups.foldl (fun s a => s.readCode c.id.core c.l.asid c.l.tenant a) s

def callSpec (f : F32) : Spec :=
  { cls := 4, ctl := f.ctl, enc := decide (f.d4.toNat ≤ 12), xfer := true, holdD := some (f.d4.zeroExtend 10),
    dsts := [(f.d4.zeroExtend 10, 4)], lat := 4 }

/-- The header address of a CALL. -/
def callTarget (f : F32) (c : Ctx) (_ : Nat) : W64 := c.label (f.imm.signExtend 64)

def execCall (f : F32) (s : State) : Host.Outcome State Fault Refusal :=
  .next (run (callSpec f) (fun c => s.headerFails c (callTarget f c)) noResume (fun c s =>
    s.enterFn c (callSpec f) (f.d4.zeroExtend 10) (callTarget f c)) (s.readHeaders (callSpec f) noFails (callTarget f)))

def calliSpec (f : F) : Spec :=
  { regTargetSpec f (isVec f.d && f.b == 0 && f.m == 0) with holdD := some f.d, dsts := [(f.d, 4)], lat := 4 }

def execCalli (f : F) (s : State) : Host.Outcome State Fault Refusal :=
  .next (run (calliSpec f) (fun c => c.targetFails f.a ++ s.headerFails c (c.target f.a)) noResume (fun c s =>
    s.enterFn c (calliSpec f) f.d (c.target f.a))
    (s.readHeaders (calliSpec f) (fun c => c.targetFails f.a) fun c => c.target f.a))

def execRet (f : F) (s : State) : Host.Outcome State Fault Refusal :=
  .next (run (jumpSpec f) (fun c => c.targetFails f.a) noResume (fun c s =>
    s.transfer c (jumpSpec f) id fun l => if c.part.getLsbD l then some (c.target f.a l) else none) s)

/-! ### EXIT and NOP (08 R221, R222) -/

/-- Every field but opcode, stall, sig, guard and negate is zero. -/
def bareSpec (f : F) (xfer : Bool) : Spec :=
  { cls := 4, ctl := f.ctl, enc := f.ctl.hold == 0 && f.d == 0 && f.a == 0 && f.b == 0 && f.m == 0, xfer := xfer }

/-- After threads have exited: the last exit of the block seals its journal (04 R99); a slice may end. -/
def State.afterExit (s : State) (id : WaveId) : State :=
  match s.block? id with
  | none => s
  | some b => if b.liveWaves.isEmpty then s.modBlock id Block.sealJournal else s.settleSlice id

def execNop (f : F) (s : State) : Host.Outcome State Fault Refusal :=
  .next (run (bareSpec f false) noFails noResume (fun c s => s.quick c (bareSpec f false) id) s)

/-- EXIT ends the participating threads; of all threads inside a handler it terminates the block (08 R221, R237). -/
def execExit (f : F) (s : State) : Host.Outcome State Fault Refusal :=
  .next (run (bareSpec f true) noFails noResume (fun c s =>
    let s := s.transfer c (bareSpec f true) id fun _ => none
    if c.part = 0 then s
    else
      let s := s.modWave c.id fun w => w.exitLanes c.part
      if (s.wave c.id).live ≠ 0 then s
      else match (s.wave c.id).saved with
        | some v => s.faultBlock c.id (lowBit v.entry)
        | none => (s.leave c.id).afterExit c.id) s)

/-! ### YIELD (08 R229) -/

def Ctx.noHandler (c : Ctx) : List Fail := if c.w.handler && c.part != 0 then failAll c.active cILLEGAL_OP 0 else []

def execYield (f : F) (s : State) : Host.Outcome State Fault Refusal :=
  .next (run (bareSpec f false) Ctx.noHandler noResume (fun c s =>
    if c.part = 0 then s.quick c (bareSpec f false) id
    else if c.l.record.slice = 0 then
      s.quick c (bareSpec f false) fun s => s.modWave c.id fun w => { w with yieldDue := true }
    else (s.await c (bareSpec f false) (.yield f.ctl.sig.toNat)).settleSlice c.id) s)

/-! ### Traps (08 R231, R234, R235) -/

def trapSpec (f : F16) : Spec := { cls := 4, ctl := f.ctl, enc := f.ctl.hold == 0 && f.d == 0 && f.a == 0 }

/-- Raise a cause with a code when a lane participates; the instruction has issued, and its stall counts (05 R132). -/
def trapOp (f : F16) (cause : Nat) : State → State :=
  run (trapSpec f) noFails noResume fun c s =>
    if c.part = 0 then s.quick c (trapSpec f) id
    else (s.issue c (trapSpec f)).raise c.id { c.causeRec cause c.active 0 2 with code := f.imm }

def execTrap (f : F16) (s : State) : Host.Outcome State Fault Refusal := .next (trapOp f cTRAP_INSTR s)

def execBreakI (f : F16) (s : State) : Host.Outcome State Fault Refusal := .next (trapOp f cBREAK s)

def tclrSpec (f : F) : Spec := scalarSpec 4 f.ctl (f.d == 0 && f.b == 0 && f.m == 0) [f.a] none 0

def execTclr (f : F) (s : State) : Host.Outcome State Fault Refusal :=
  .next (run (tclrSpec f) noFails noResume (fun c s => s.quick c (tclrSpec f) fun s =>
    if c.part = 0 then s else s.modWave c.id fun w => { w with tcause := w.tcause &&& ~~~c.scalar f.a }) s)

/-- The handler is entered again (08 R235): with the record of a faulted log entry that waits, else with zeros. -/
def State.reenter (s : State) (id : WaveId) : State :=
  match s.block? id with
  | none => s
  | some b =>
    let entry := (match s.launchOf b with
      | some l => l.record.handler
      | none => 0)
    let zero : CauseRec :=
      { cause := 0, also := 0, pc := 0, addr := 0, lanes := 0, index := 0, code := 0, origin := 0, resume := 0, seq := 0 }
    let s := s.modWave id fun w =>
      let r := (match w.record with
        | some r => if r.log then r else zero
        | none => zero)
      { (w.handlerStart entry r) with
        saved := w.saved.map fun v => { v with entry := w.tcause }
        record := none }
    s.countCore id.core 0x103 1

/-- The accesses that an ended handler issued are remembered while one of them, or an operation, has not ended (08 R237). -/
def State.remember (s : State) (id : WaveId) (v : Saved) : State :=
  let w := s.wave id
  let open_ := (w.log.any fun e => decide (v.seq ≤ e.2.seq)) || s.ops.any fun o => o.2.w == id && decide (v.seq ≤ o.2.seq)
  if open_ then s.modWave id fun w => { w with past := w.past ++ [(v.seq, w.accesses, lowBit v.entry)] }
  else if w.log.isEmpty && s.ops.all fun o => o.2.w != id then s.modWave id fun w => { w with past := [] }
  else s

/-- The wave resumes as s125 states (08 R235, R421): the saved state comes back, faulted accesses are issued again, the delivered one
among them (19 R338), and with 2 the raising instruction or its wait is skipped, that of a cause met between clauses when its clause starts (DEDUCED,
log 23). A wait in YIELD may so be the last of its slice (08 R229). -/
def State.resume (s : State) (id : WaveId) (v : Saved) (skip : Bool) : State :=
  let s := (s.remember id v).modWave id fun w => { (w.restoreSaved v) with hstart := 0, hcyc := 0, hpast := false, reissue := w.faultedEntries }
  let s := s.modBlock id fun b => b.resumeSlice s.clock
  let s := (match (s.wave id).reissue with
    | e :: _ => s.reissue id e
    | [] => s)
  if !skip then s.settleSlice id
  else match v.wait with
    | some _ => s.modWave id fun w => { w with wait := some .abandon }
    | none =>
      if v.log then s
      else if v.clause.header ≠ 0 then s.advance id
      else s.modWave id fun w => { w with skipAt := some v.raiser }

/-- TRET reads s125 (08 R235). -/
def tretSpec (f : F) : Spec := { bareSpec f true with scals := [125] }

def tretFails (c : Ctx) : List Fail :=
  if c.part ≠ 0 ∧ (c.w.saved = none ∨ 2 < (c.sreg 125).toNat) then failAll c.active cILLEGAL_OP 0 else []

def execTret (f : F) (s : State) : Host.Outcome State Fault Refusal :=
  .next (run (tretSpec f) tretFails noResume (fun c s =>
    match c.w.saved with
    | none => s.transfer c (tretSpec f) id fun _ => none
    | some v =>
      if c.part = 0 then s.transfer c (tretSpec f) id fun _ => none
      else
        let s := (s.issue c (tretSpec f)).endClause c.id
        if c.w.tcause ≠ 0 then s.reenter c.id else s.resume c.id v (c.sreg 125 == 2)) s)

end Sys2Proof.Machine
end

