-- ==== Sys2Proof/Machine/Launch.lean ====
section
/-! DEFINITION. Launch records and launches: validity, acceptance, completion, and LAUNCH, LAUNCHT, JOIN with the two
events that end and start launches (01 R30-R44, 08 R223-R227, 20 R343-R351, 17 R318). -/

namespace Sys2Proof.Machine

open Sys2Proof

/-! ### The record (01 R30-R32) -/

/-- A launch record from its 32 words. -/
def recordOf (ws : List W64) : Record :=
  let w (i : Nat) : W64 := ws.getD i 0
  let lo (x : W64) : Nat := (x.extractLsb' 0 32).toNat
  let hi (x : W64) : Nat := (x.extractLsb' 32 32).toNat
  { entry := w 0, arg := w 1, handler := w 2, control := w 3
    common := lo (w 4), tile := hi (w 4), clauses := lo (w 5), slice := hi (w 5), deadline := lo (w 6), inner := hi (w 6)
    target := w 7, levels := (ws.drop 8).take 8, slots := (ws.drop 16).take 8, reserved := (ws.drop 24).any (· != 0) }

/-- 8-byte words of bytes. -/
def wordsOf (n : Nat) (bs : List Byte) : List W64 :=
  (List.range n).map fun i => BitVec.ofNat 64 (natOfBytes ((bs.drop (8 * i)).take 8))

def Record.tiles (r : Record) : Nat := (r.control.extractLsb' 48 8).toNat
def Record.barriers (r : Record) : Nat := (r.control.extractLsb' 40 8).toNat
def Record.waves (r : Record) : Nat := (r.control.extractLsb' 32 8).toNat
def Record.budget (r : Record) : Nat := (r.control.extractLsb' 16 16).toNat
def Record.priority (r : Record) : Nat := (r.control.extractLsb' 0 8).toNat
def Record.idempotent (r : Record) : Bool := r.control.getLsbD 8
def Record.detReduce (r : Record) : Bool := r.control.getLsbD 10

def prodOf (l : List Nat) : Nat := l.foldl (· * ·) 1

def Record.outer (r : Record) : List W64 := r.active.takeWhile fun e => levelDomain e != 2
def Record.inner' (r : Record) : List W64 := (r.active.dropWhile fun e => levelDomain e != 2).drop 1

/-- Blocks of the launch over all packages (01 R34). -/
def Record.totalBlocks (r : Record) : Nat := prodOf ((r.outer.map levelExtent) ++ [r.blockExtent])

/-- The dispatch mode of the block level; the persistent-split bit uses mode 2 (20 R351). -/
def Record.mode (r : Record) : Nat :=
  if r.split then 2
  else match r.active.find? fun e => levelDomain e == 2 with
    | none => 0
    | some e => levelMode e

/-- Rows of a reservation (02 R51). -/
def rowsFor (waves budget common tile : Nat) : Nat := 16 + waves * (8 + (budget + 3) / 4) + common / 512 + tile / 512

def Record.rows (r : Record) : Nat := rowsFor r.waves r.budget r.common r.tile

/-! ### Partitions (22 R385) -/

def State.partFirst (s : State) (t : Nat) : Nat := ((s.pkgR (0x490 + t)).extractLsb' 0 9).toNat
def State.partCount (s : State) (t : Nat) : Nat := ((s.pkgR (0x490 + t)).extractLsb' 16 10).toNat

/-- A logical core of a tenant's partition. -/
def State.inPartition (s : State) (t core : Nat) : Bool :=
  decide (s.partFirst t ≤ core % 512) && decide (core % 512 < s.partFirst t + s.partCount t)

/-- Working cores of a tenant's partition. -/
def State.partCores (s : State) (t : Nat) : List Nat :=
  s.workingDies.flatMap fun d =>
    ((List.range (s.partCount t)).map fun i => d * 512 + s.partFirst t + i).filter fun c => decide (c % 512 < 512) && dieOf c == d && s.coreWorks c

/-- Blocks of a record that one empty core can hold (01 R27, R28, 02 R51). -/
def Record.perCore (r : Record) : Nat :=
  min 16 (min (2016 / max r.rows 1) (48 / max r.waves 1))

/-- The package's residence for a record (01 R34). -/
def State.residence (s : State) (r : Record) (t : Nat) : Nat := (s.partCores t).length * r.perCore

/-! ### Persistent split (20 R351) -/

/-- What block b's fix-up entry holds: I iterations, P per tile, N blocks. -/
structure Fixup where
  fixUp  : Bool
  last   : Bool
  first  : Bool
  slice  : Nat
  tiles  : Nat
  tile0  : Nat
  deriving DecidableEq, Repr

def fixupOf (i p n b : Nat) : Option Fixup :=
  let sh := shareOf i n b
  if sh.2 = 0 then none
  else
    let f := sh.1
    let e := sh.1 + sh.2
    let t0 := f / p
    let t1 := (e - 1) / p
    let firstStr := decide (t0 * p < f)
    let slice := ((List.range b).filter fun k => let q := shareOf i n k; decide (0 < q.2) && decide (t0 * p < q.1 + q.2)).length
    some {
      fixUp := firstStr && decide (min ((t0 + 1) * p) i ≤ e)
      last := decide (e < min ((t1 + 1) * p) i)
      first := firstStr
      slice := slice
      tiles := t1 - t0 + 1
      tile0 := t0 }

/-- The fix-up entry as its word (20 R351). -/
def fixupWord (x : Option Fixup) : W64 :=
  match x with
  | none => 0
  | some f => BitVec.ofNat 64 (f.tile0 % 2 ^ 32 + (f.tiles % 65536) * 2 ^ 32 + (f.slice % 16) * 2 ^ 48 +
      (if f.first then 2 ^ 52 else 0) + (if f.last then 2 ^ 53 else 0) + (if f.fixUp then 2 ^ 54 else 0))

/-- The pages of the argument block's fix-up table, with both rights, and P; none rejects with reason 8, as a page that does not translate
or a poisoned first word does (20 R351 names neither; DEDUCED, log 25). -/
def State.splitTable (s : State) (r : Record) (asid t : Nat) : Option (List (Nat × Nat) × Nat) :=
  let n := r.blockExtent
  match s.translateRange asid t r.arg.toNat (8 + 8 * n) [rREAD, rWRITE] with
  | .error _ => none
  | .ok pages =>
    let pa := physOf pages r.arg.toNat
    let bs := (List.range 8).map fun i => s.readByte (physOf pages (r.arg.toNat + i))
    let w : W64 := BitVec.ofNat 64 (natOfBytes bs)
    let p := (w.extractLsb' 0 32).toNat
    if (s.poisonIn pa 8).isSome || w.extractLsb' 32 32 != 0 || p = 0 then none
    else if (List.range n).any fun b => match fixupOf r.inner p n b with
      | none => false
      | some f => decide (15 < f.slice) then none
    else some (pages, p)

/-- Write an 8-byte word by pages already translated: where it lies in one page in one write (20 R351). -/
def State.writeWord (s : State) (pages : List (Nat × Nat)) (a : Nat) (v : W64) : State :=
  let k := min 8 (65536 - a % 65536)
  let s := s.writeHome (physOf pages a) ((bytesOfNat 8 v.toNat).take k)
  if k = 8 then s else s.writeHome (physOf pages (a + k)) ((bytesOfNat 8 v.toNat).drop k)

/-- Write the fix-up entries at home (20 R351). -/
def State.writeFixups (s : State) (r : Record) (asid t : Nat) : State :=
  if !r.split then s
  else match s.splitTable r asid t with
    | none => s
    | some (pages, p) =>
      (List.range r.blockExtent).foldl (fun s b =>
        s.writeWord pages (r.arg.toNat + 8 + 8 * b) (fixupWord (fixupOf r.inner p r.blockExtent b))) s

/-! ### Validity (01 R34, R41) -/

/-- The narrowest scope of a domain (01 R33). -/
def domainScope (d : Nat) : Nat :=
  match d with
  | 0 => 0
  | 1 => 1
  | 2 => 2
  | 3 => 3
  | 4 => 3
  | 5 => 4
  | _ => 6

/-- Domains in non-increasing order. -/
def fallingDomains : List Nat → Bool
  | [] => true
  | [_] => true
  | a :: b :: t => decide (b ≤ a) && fallingDomains (b :: t)

/-- The conditions of 01 R34 that a record breaks, by their reject reason (01 R41). A level extent of 0 has reason 9; reserved
values have the reason of their field: domain 4, scope 7, dispatch mode 8 (DESIGN CHOICE, log 77). -/
def State.breaks (s : State) (r : Record) (asid t size : Nat) (reason : Nat) : Bool :=
  let n := r.levelCount
  let doms := r.outer.map levelDomain
  let ins := r.inner'.map levelDomain
  match reason with
  | 1 => r.control.extractLsb' 12 4 != 0 || (r.levels.drop n).any (· != 0) || r.levels.any (fun e => e.extractLsb' 42 22 != 0) ||
      r.slots.any (fun e => e.extractLsb' 30 2 != 0) || r.reserved
  | 2 => n == 0 || decide (8 < n)
  | 3 => (r.active.filter fun e => levelDomain e == 2).length != 1
  | 4 => !(doms.all (fun d => decide (3 ≤ d) && decide (d ≤ 6)) && fallingDomains doms && ins.all (· ≤ 1) && fallingDomains ins)
  | 5 => prodOf ((r.inner'.filter fun e => levelDomain e == 1).map levelExtent) != r.waves ||
      prodOf ((r.inner'.filter fun e => levelDomain e == 0).map levelExtent) != 32
  | 6 => (r.active.any fun e => levelDomain e == 4 && decide (s.workingDies.length < levelExtent e)) ||
      (r.active.any fun e => levelDomain e == 3 && decide (s.partCount t < levelExtent e)) ||
      s.partCount t == 0 || decide (512 < s.partFirst t + s.partCount t) ||
      decide (1 < (r.active.filter fun e => levelDomain e == 6).length) ||
      (r.active.any fun e => levelDomain e == 6 && (levelExtent e != size || size == 0))
  | 7 => r.active.any fun e => decide (6 < levelScope e) || decide (levelScope e < domainScope (levelDomain e))
  | 8 => (r.active.any fun e => if levelDomain e = 2 then levelMode e == 3 || (levelMode e == 2 && !r.split) else levelMode e != 0) ||
      (r.split && (s.splitTable r asid t).isNone)
  | 9 => r.totalBlocks == 0 || decide (0xFFFFFFFF < r.totalBlocks) || r.active.any fun e => levelExtent e == 0
  | 10 => decide (2016 < r.rows) || decide (16 < r.tiles) || decide (16 < r.barriers) || r.waves == 0 || decide (32 < r.waves) ||
      r.budget == 0 || decide (512 < r.budget) || r.common % 512 != 0 || r.tile % 512 != 0 ||
      (r.mode == 2 && decide (s.residence r t < r.blockExtent))
  | 11 => decide (125 < r.priority) || r.entry &&& 7 != 0 || r.target &&& 31 != 0
  | _ => false

/-- The lowest reject reason that applies, 0 for a valid record. -/
def State.rejectReason (s : State) (r : Record) (asid t size : Nat) : Nat :=
  ((List.range 12).find? fun k => s.breaks r asid t size k).getD 0

/-! ### Placement groups (01 R36, R37) -/

/-- Add a range to the group of its pins. -/
def addRange (g : List Group) (die core : Option Nat) (rg : Nat × Nat × Nat × Nat) : List Group :=
  if g.any fun x => x.pinDie == die && x.pinCore == core then
    g.map fun x => if x.pinDie = die ∧ x.pinCore = core then { x with ranges := x.ranges ++ [rg] } else x
  else g ++ [⟨die, core, [rg]⟩]

/-- Change the group of a position. -/
def modPlacement (gs : List Group) (i : Nat) (f : Group → Group) : List Group :=
  match gs, i with
  | [], _ => []
  | g :: t, 0 => f g :: t
  | g :: t, n + 1 => g :: modPlacement t n f

/-- The pins of an index over the pinned levels: the innermost die and core level count (DEDUCED, log 26). A core is named by
its index in the tenant's partition, which a placement resolves (22 R385). -/
def State.pinsOf (s : State) (lv : List W64) (idx : Nat) : Option Nat × Option Nat :=
  let die := (List.range lv.length).foldl (fun (d : Option Nat) k =>
    if levelDomain (lv.getD k 0) = 4 then some (s.workingDies.getD (digitAt lv k idx) 0) else d) none
  let core := (List.range lv.length).foldl (fun (c : Option Nat) k =>
    if levelDomain (lv.getD k 0) = 3 then some (die.getD 0 * 512 + digitAt lv k idx) else c) none
  (if core.isSome then some (die.getD 0) else die, core)

/-- The placement groups of a launch on this package, with the ranges of their ticket counters that are not empty: a working die
without one has an empty counter of an unpinned group, which the launch reaches by a steal (01 R37, R38, 20 R345; DEDUCED,
log 78). -/
def State.groupsOf (s : State) (r : Record) (group : Nat × Nat) (dl : Nat) : List Group :=
  let dom := r.outer.any fun e => levelDomain e == 6
  let lv := r.outer.filter fun e => levelDomain e != 6
  let total := prodOf (lv.map levelExtent) * r.blockExtent
  let base := if dom then group.1 * total else 0
  if lv.any fun e => levelDomain e == 3 || levelDomain e == 4 then
    let cut := (lv.reverse.dropWhile fun e => levelDomain e != 3 && levelDomain e != 4).reverse
    let k := prodOf (cut.map levelExtent)
    let per := total / max k 1
    (List.range k).foldl (fun g i =>
      let pins := s.pinsOf cut i
      addRange g pins.1 pins.2 (pins.1.getD 0, base + i * per, base + (i + 1) * per, dl)) []
  else
    let dies := s.workingDies
    let n := max dies.length 1
    [⟨none, none, ((List.range dies.length).map fun d =>
      (dies.getD d 0, base + d * total / n, base + (d + 1) * total / n, dl)).filter fun x => x.2.1 != x.2.2.1⟩]

/-- Blocks of a launch that this package runs. -/
def groupsTotal (g : List Group) : Nat :=
  g.foldl (fun n x => x.ranges.foldl (fun n q => n + (q.2.2.1 - q.2.1)) n) 0

/-- Dies on which a launch has blocks. -/
def Launch.dies (l : Launch) : List Nat := (l.groups.flatMap fun g => g.ranges.map fun q => q.1).eraseDups

/-- The home die of a launch (08 R225), which also completes it (19 R331; DEDUCED, log 79). -/
def Launch.home (l : Launch) : Nat := if l.host then l.homeDie else l.die

/-- The core that a pinned group's blocks run on now (22 R385). -/
def State.pinnedCore (s : State) (t core : Nat) : Nat := core / 512 * 512 + s.partFirst t + core % 512

/-- The entry of `aged` for a group, by its place, on a die. -/
def agedKey (i die : Nat) : Nat := 16 * i + die

/-- A launch's groups that wait on a die which it has reached: those whose counter there holds an index (20 R345, R346). -/
def Launch.waits (l : Launch) : List (Nat × Nat) :=
  ((List.range l.groups.length).zip l.groups).flatMap fun g =>
    (((g.2.ranges.filter fun q => decide (q.2.1 < q.2.2.1) && l.arrivals.any fun a => a.1 == q.1).map Prod.fst).eraseDups).map
      fun d => (g.1, d)

/-- Aging of a group on a die starts when it begins to wait there, and ends with its wait (01 R45). -/
def Launch.reage (l : Launch) (clock : Nat) : Launch :=
  { l with aged := l.waits.map fun w =>
      (l.aged.find? fun a => a.1 == agedKey w.1 w.2).getD (agedKey w.1 w.2, 0, clock) }

/-! ### Time of the dispatchers (DESIGN CHOICE, log 2) -/

/-- The dispatchers' cycles: one for two core cycles. A die's counter is ahead of it by an amount of its own, which shows only in its
windows (24 R409): deadlines and waits are differences on one die, and none crosses (00 R8). -/
def State.dclk (s : State) : Nat := s.clock / 2

/-- The dispatcher counter of a die, 0 at reset (00 R8). -/
def State.dieClock (s : State) (die : Nat) : Nat := if s.clock = 0 then 0 else s.dclk + Config.dieSkew die

/-- No deadline: later than every deadline. -/
def noDeadline : Nat := 2 ^ 64

def State.deadlineOf (s : State) (budget : Nat) : Nat := if budget = 0 then noDeadline else s.dclk + budget

/-! ### Acceptance (08 R223, 20 R343, R345) -/

/-- The widest scope of a function's policy (19 R329). -/
def State.policyScope (s : State) (fn : Nat) : Nat := if fn = 0 then 6 else ((s.pkgR (0x400 + fn)).extractLsb' 0 3).toNat
def State.policyTrap (s : State) (fn : Nat) : Bool := fn != 0 && (s.pkgR (0x400 + fn)).getLsbD 4

/-- Add one to a function's demotion count. -/
def State.countDemotion (s : State) (fn : Nat) : State :=
  let v := s.pkgR (0x400 + fn)
  if v.extractLsb' 32 32 = BitVec.allOnes 32 then s else s.setPkgR (0x400 + fn) (v + (1#64 <<< 32))

/-- The scope of a level after demotion (01 R33). -/
def State.levelScopeOf (s : State) (fn : Nat) (e : W64) : Nat := min (levelScope e) (s.policyScope fn)

/-- What an acceptance takes from the queue or the issuing launch. -/
structure Source where
  host   : Bool
  die    : Nat
  entry  : Nat
  gen    : Nat
  tenant : Nat
  asid   : Nat
  priv   : Bool
  cap    : Nat
  fn     : Nat
  queue  : Nat
  group  : Nat × Nat
  parent : Option (Nat × Nat)
  loc    : Nat
  tail   : Bool
  deriving DecidableEq, Repr

/-- Accept a launch: its entry is taken, its groups get their tickets, its levels are demoted, its fix-ups written; the deadline of a device
launch counts from here (01 R49). -/
def State.acceptLaunch (s : State) (r : Record) (q : Source) : State :=
  let reason := s.rejectReason r q.asid q.tenant q.group.2
  let dl := if q.host then noDeadline else s.deadlineOf r.deadline
  let groups := if reason = 0 then s.groupsOf r q.group dl else []
  let demoted := reason == 0 && r.active.any fun e => decide (s.policyScope q.fn < levelScope e)
  let l : Launch := {
    record := r, host := q.host, die := q.die, entry := q.entry, gen := q.gen, tenant := q.tenant, asid := q.asid,
    priv := q.priv, prio := min r.priority q.cap, fn := q.fn, queue := q.queue, group := q.group, parent := q.parent,
    parentLoc := q.loc, demoted := demoted, isTail := q.tail, started := !q.tail, tail := none, reject := reason,
    groups := groups, total := groupsTotal groups, completed := 0, faulted := 0, killed := 0, firstIdx := none,
    firstCause := 0xFF, messages := 0, ended := [], arrivals := [], aged := [], complete := false, order := s.nextLaunch
    homeDie := (minBy id (groups.flatMap fun g => g.ranges.map Prod.fst)).getD q.die }
  let s := { s with launches := spPut s.launches s.nextLaunch l, nextLaunch := s.nextLaunch + 1 }
  let s := if demoted then s.countDemotion q.fn else s
  if reason = 0 then s.writeFixups r q.asid q.tenant else s

/-- The launch reaches a die: aging starts, and the die converts the deadline budget of a host launch, or what is left of that of a device
launch, into its own counter (00 R8, 01 R49, 20 R345). -/
def State.arriveAtDie (s : State) (n die : Nat) : State :=
  match s.launch? n with
  | none => s
  | some l =>
    if l.arrivals.any (fun a => a.1 == die) || !(die ∈ l.dies) then s
    else
      let dl := fun (left : Nat) => if l.host then s.deadlineOf l.record.deadline else if left = noDeadline then left else s.dclk + left
      s.modLaunch n fun l => ({ l with
        arrivals := l.arrivals ++ [(die, s.clock)]
        groups := l.groups.map fun g =>
          { g with ranges := g.ranges.map fun q => if q.1 = die then (q.1, q.2.1, q.2.2.1, dl q.2.2.2) else q } } : Launch).reage s.clock

/-- What is left of a deadline travels as a relative count: no counter value crosses between dies (01 R49). -/
def Launch.travel (l : Launch) (now : Nat) : Launch :=
  { l with groups := l.groups.map fun g => { g with ranges := g.ranges.map fun q =>
      (q.1, q.2.1, q.2.2.1, if q.2.2.2 = noDeadline then noDeadline else q.2.2.2 - now) } }

/-- A fix-up entry of a launch waits for a scan of its line (11 R293): no block of the launch starts before it is written (20 R351). -/
def State.fixupsHeld (s : State) (l : Launch) : Bool :=
  l.record.split && (match s.translateRange l.asid l.tenant l.record.arg.toNat (8 + 8 * l.record.blockExtent) [] with
  | .error _ => false
  | .ok pages => s.agenda.any fun i => match i with
    | .pcieMemoryWrite pa _ => (List.range (8 * l.record.blockExtent)).any fun j => physOf pages (l.record.arg.toNat + 8 + j) == pa
    | _ => false)

/-- A launch that has started goes to its dies: at once to the die that accepted it, else by an arrival (DEDUCED, log 27). -/
def State.sendToDies (s : State) (n : Nat) : State :=
  match s.launch? n with
  | none => s
  | some l =>
    l.dies.foldl (fun s d => if !l.host && d == l.die && !s.fixupsHeld l then s.arriveAtDie n d else s.push (.launchArriveDie n d))
      (s.modLaunch n fun l => l.travel s.dclk)

/-! ### Completion (01 R41, R42) -/

/-- The 32 bytes of the completion record. -/
def Launch.recordBytes (l : Launch) : List Byte :=
  bytesOfNat 4 l.completed ++ bytesOfNat 4 l.faulted ++ bytesOfNat 4 l.killed ++
  bytesOfNat 4 (if l.reject = 0 then 0 else 1 + l.reject * 256) ++
  bytesOfNat 8 (match l.firstIdx with | none => 2 ^ 64 - 1 | some i => i) ++ bytesOfNat 1 l.firstCause ++ bytesOfNat 7 0

/-- The completion record could not be written: QSTAT bit 40 and a record of kind 5 (01 R42). -/
def State.loseRecord (s : State) (l : Launch) : State :=
  let s := { s with queues := spMod s.queues l.queue fun q => { q with stat := q.stat ||| (1#64 <<< 40) } }
  s.interrupt l.home 5 l.tenant (if l.host then 0 else l.parentLoc) 0xFF l.record.target

/-- Write the completion record, or report it lost. -/
def State.writeCompletion (s : State) (l : Launch) : State :=
  if l.record.target = 0 then s
  else if l.record.target &&& 31 ≠ 0 then s.loseRecord l
  else match s.translate l.asid l.tenant l.record.target.toNat [rWRITE] with
    | .error _ => s.loseRecord l
    | .ok pa => s.writeBytes pa l.recordBytes

/-- The completion record's line is in a hull of a Sieve's scan, which holds every engine write (11 R293). -/
def State.recordHeld (s : State) (l : Launch) : Bool :=
  l.record.target != 0 && l.record.target &&& 31 == 0 && (match s.translate l.asid l.tenant l.record.target.toNat [rWRITE] with
    | .error _ => false
    | .ok pa => s.sieveHeld (pa / 64))

/-- The table key of a device launch's entry. -/
def devKey (die entry : Nat) : Nat := die * 4096 + entry

/-- Free the entry of a device launch: its generation advances (08 R224). -/
def State.freeDevEntry (s : State) (die entry : Nat) : State :=
  if entry < 4096 then { s with devGen := spSet 0 s.devGen (devKey die entry) (spGet 0 s.devGen (devKey die entry) + 1) } else s

/-- Whether the block that issued a launch is gone: neither resident nor saved. -/
def State.parentGone (s : State) (l : Launch) : Bool :=
  match l.parent with
  | none => true
  | some (pl, lin) =>
    !(s.blocks.any fun e => e.2.launch == pl && e.2.linear == lin) && !(s.saved.any fun c => c.block.launch == pl && c.block.linear == lin)

/-- Remove a launch whose entry is freed. -/
def State.dropLaunch (s : State) (n : Nat) : State :=
  match s.launch? n with
  | none => s
  | some l =>
    let s := { s with launches := spDel s.launches n }
    if l.host then { s with hostGen := spSet 0 s.hostGen l.entry (spGet 0 s.hostGen l.entry + 1) } else s.freeDevEntry l.die l.entry

/-- The launch is complete (01 R41, 20 R343, R344): its record is written, a host launch's interrupt signalled and entry
freed; a tail, or the launch of a block that is gone, is freed. While a Sieve holds the record's line nothing happens yet
(11 R293). -/
def State.completeLaunch (s : State) (n : Nat) : State :=
  match s.launch? n with
  | none => s
  | some l =>
    if s.recordHeld l then s else
    let s := s.writeCompletion l
    let s := s.modLaunch n fun l => { l with complete := true }
    if l.host then
      let s := if l.reject = 0 then s else { s with queues := spMod s.queues l.queue fun q =>
        { q with stat := (q.stat &&& 0xFFFFFF00FFFFFFFF) ||| (BitVec.ofNat 64 l.reject <<< 32) } }
      let s := (match spFind s.queues l.queue with
        | none => s
        | some q => if q.cfg.getLsbD 24 then
            { s with msi := s.msi ++ [((q.cfg.extractLsb' 0 6).toNat, (q.cfg.extractLsb' 25 11).toNat)] } else s)
      s.dropLaunch n
    else if l.isTail || s.parentGone l then s.dropLaunch n else s

/-- Whether a launch has nothing more to run. -/
def Launch.done (l : Launch) : Bool :=
  l.started && !l.complete && (l.reject != 0 || (l.completed + l.faulted + l.killed == l.total && l.messages == 0))

/-- LAUNCH_COMPLETE: the last block has retired and its retirement is published. -/
def execLaunchComplete (n : Nat) (s : State) : Host.Outcome State Fault Refusal :=
  .next (match s.launch? n with
    | none => s
    | some l => if l.done then s.completeLaunch n else s)

/-- TAIL_START (08 R225, 17 R318): its issuing launch is complete; the entry is freed, and a rejected tail completes. -/
def State.startTail (s : State) (n : Nat) : State :=
  match s.launch? n with
  | none => s
  | some l =>
    if !l.isTail || l.started || (match l.parent with
        | none => false
        | some (p, _) => match s.launch? p with
          | none => false
          | some x => !x.complete) then s
    else
      let s := s.freeDevEntry l.die l.entry
      let s := s.modLaunch n fun l => { l with started := true, entry := 4096 }
      if l.reject ≠ 0 then s.completeLaunch n else s.sendToDies n

def execTailStart (n : Nat) (s : State) : Host.Outcome State Fault Refusal := .next (s.startTail n)

/-! ### LAUNCH and LAUNCHT (08 R223-R225) -/

/-- A free entry of a die's table of device launches. -/
def State.freeEntry (s : State) (die : Nat) : Option Nat :=
  (List.range 4096).find? fun e => !s.launches.any fun l => !l.2.host && l.2.die == die && l.2.entry == e

/-- The record at a virtual address, read from home: its words, or the cause and the address it concerns. -/
def State.readRecord (s : State) (asid t : Nat) (va : W64) : Except (Nat × Nat) Record :=
  match s.translateRange asid t va.toNat 256 [rREAD] with
  | .error e => .error e
  | .ok pages =>
    match (List.range 32).find? fun i => s.poisoned (physOf pages (va.toNat + 8 * i)) with
    | some i => .error (cMEM_POISON, va.toNat + 8 * i)
    | none => .ok (recordOf ((List.range 32).map fun i => BitVec.ofNat 64 (s.readNat (physOf pages (va.toNat + 8 * i)) 8)))

def launchSpec (f : F) : Spec := scalarSpec 4 f.ctl (f.b == 0 && f.m == 0) [f.a] (some f.d) 0

def launchFails (f : F) (s : State) (c : Ctx) : List Fail :=
  let va := c.scalar f.a
  if c.part = 0 then []
  else if va &&& 63 ≠ 0 then failAll c.active cALIGN va
  else match s.readRecord c.l.asid c.l.tenant va with
    | .error (k, a) => failAll c.active k (BitVec.ofNat 64 a)
    | .ok _ => []

/-- The address at which the read of the record fails. -/
def launchLost (f : F) (s : State) (c : Ctx) : Option Nat :=
  match s.readRecord c.l.asid c.l.tenant (c.scalar f.a) with
  | .error x => some x.2
  | .ok _ => none

/-- The launch handle (08 R224). -/
def launchHandle (slot core gen die entry : Nat) : W64 :=
  BitVec.ofNat 64 (slot * 2 ^ 35 + core * 2 ^ 23 + gen * 2 ^ 15 + die * 2 ^ 12 + entry)

def Ctx.source (c : Ctx) (s : State) (die entry : Nat) (tail : Bool) : Source :=
  { host := false, die := die, entry := entry, gen := (spGet 0 s.devGen (devKey die entry)).toNat, tenant := c.l.tenant,
    asid := c.l.asid, priv := c.l.priv, cap := c.l.prio, fn := c.l.fn, queue := c.l.queue, group := (0, 1),
    parent := some (c.b.launch, c.b.linear), loc := locOf c.id.core c.id.slot, tail := tail }

/-- LAUNCH submits a record to the dispatcher of its die. -/
def State.submit (s : State) (c : Ctx) (f : F) : State :=
  let die := dieOf c.id.core
  match s.readRecord c.l.asid c.l.tenant (c.scalar f.a) with
  | .error _ => s
  | .ok r => match s.freeEntry die with
    | none => s.setS c.id (scalNo f.d) (failCode 1)
    | some e =>
      let n := s.nextLaunch
      let q := c.source s die e false
      let s := s.acceptLaunch r q
      let s := (match s.launch? n with
        | none => s
        | some l => if l.reject = 0 then s.sendToDies n else s.completeLaunch n)
      s.setS c.id (scalNo f.d) (launchHandle c.id.slot c.id.core q.gen die e)

def execLaunch (f : F) (s : State) : Host.Outcome State Fault Refusal :=
  .next (s.unholdFail (run (launchSpec f) (launchFails f s) noResume (fun c s =>
    s.quick c (launchSpec f) fun s => if c.part = 0 then s else s.submit c f) s) f.ctl (launchLost f s))

/-- LAUNCHT submits a tail to the home die of its launch: one tail only, then room in the table (08 R225). -/
def State.submitTail (s : State) (c : Ctx) (f : F) : State :=
  let die := c.l.home
  match s.readRecord c.l.asid c.l.tenant (c.scalar f.a) with
  | .error _ => s
  | .ok r =>
    if c.l.tail.isSome then s.setS c.id (scalNo f.d) (failCode 2)
    else match s.freeEntry die with
      | none => s.setS c.id (scalNo f.d) (failCode 1)
      | some e =>
        let n := s.nextLaunch
        let s := s.acceptLaunch r (c.source s die e true)
        let s := s.modLaunch c.b.launch fun l => { l with tail := some n }
        s.setS c.id (scalNo f.d) 0

def execLauncht (f : F) (s : State) : Host.Outcome State Fault Refusal :=
  .next (s.unholdFail (run (launchSpec f) (launchFails f s) noResume (fun c s =>
    s.quick c (launchSpec f) fun s => if c.part = 0 then s else s.submitTail c f) s) f.ctl (launchLost f s))

/-! ### JOIN (08 R226) -/

def joinSpec (f : F) : Spec :=
  { scalarSpec 4 f.ctl (f.b == 0 && decide (f.m.toNat < 2) && scalNo f.d != 127) [f.a] (some f.d) 0 with
    wscals := [scalNo f.d, scalNo f.d + 1] }

/-- The launch that a handle names for a block, if it is live (08 R224, R226). -/
def State.joinTarget (s : State) (c : Ctx) (h : W64) : Option (Nat × Launch) :=
  s.launches.find? fun e => !e.2.host && !e.2.isTail && e.2.die == (h.extractLsb' 12 3).toNat &&
    e.2.entry == (h.extractLsb' 0 12).toNat && e.2.gen == (h.extractLsb' 15 8).toNat && e.2.parent == some (c.b.launch, c.b.linear)

def joinFails (f : F) (s : State) (c : Ctx) : List Fail :=
  let h := c.scalar f.a
  if c.part = 0 then []
  else if h.extractLsb' 39 25 ≠ 0 then failAll c.active cILLEGAL_OP 0
  else if (s.joinTarget c h).isNone then failAll c.active cSTALE_HANDLE h else []

/-- The status word of a launch (08 R226). -/
def Launch.statusWord (l : Launch) : W64 :=
  BitVec.ofNat 64 (l.reject * 2 ^ 56 + min l.killed 65535 * 2 ^ 40 + l.firstCause * 2 ^ 32 +
    (match l.firstIdx with | none => 0xFFFFFFFF | some i => i % 2 ^ 32))

/-- JOIN returns: both registers are written, the entry is freed, and CHILD_FAULT follows unless masked. -/
def State.joinDone (s : State) (c : Ctx) (f : F) (n : Nat) (flag : Bool) : State :=
  match s.launch? n with
  | none => s.advance c.id
  | some l =>
    let d := scalNo f.d
    let s := s.setS c.id d (BitVec.ofNat 64 (l.faulted * 2 ^ 32 + l.completed))
    let s := s.setS c.id (d + 1) l.statusWord
    let s := if flag then s.modWave c.id fun w => w.flagDown f.ctl.sig.toNat else s
    let s := s.dropLaunch n
    if l.faulted ≠ 0 ∧ f.m.getLsbD 0 = false ∧ c.w.tmask.getLsbD 25 = false then
      s.raise c.id (c.causeRec cCHILD_FAULT c.active (c.scalar f.a) 2)
    else s.advance c.id

/-- The wait of JOIN is over; of an entry that another JOIN has freed the spec gives no counts (DESIGN CHOICE, log 12). -/
def joinResume (f : F) (c : Ctx) (wt : Wait) (s : State) : State :=
  match wt with
  | .join n gen => if (s.launches.any fun e => e.1 == n && e.2.gen == gen) then s.joinDone c f n true
    else s.awaited c (joinSpec f) fun s =>
      (s.setS c.id (scalNo f.d) (Config.freeWord (2 * s.tick))).setS c.id (scalNo f.d + 1) (Config.freeWord (2 * s.tick + 1))
  | _ => s

def execJoin (f : F) (s : State) : Host.Outcome State Fault Refusal :=
  .next (run (joinSpec f) (joinFails f s) (joinResume f) (fun c s =>
    if c.part = 0 then s.quick c (joinSpec f) id
    else match s.joinTarget c (c.scalar f.a) with
      | none => s.advance c.id
      | some (n, l) =>
        if l.complete then (s.issue c (joinSpec f)).joinDone c f n false else s.await c (joinSpec f) (.join n l.gen)) s)

end Sys2Proof.Machine
end

