-- ==== Sys2Proof/Machine/Tiles.lean ====
section
/-! DEFINITION. The tile engine: geometry, ownership of tile-area bytes, demand, evaluation of nodes on subtiles, and the
forcing that publish points share (09, 03 R87-R93, 02 R71). -/

namespace Sys2Proof.Machine

open Sys2Proof

/-! ### Register-space addresses of the areas (02 R51, R62) -/

def Block.waveRows (b : Block) : Nat := 8 + (b.budget + 3) / 4
/-- The first row of the common area among the block's rows. -/
def Block.commonRow (b : Block) : Nat := 16 + b.nwaves * b.waveRows

/-- The bank of a common-area offset: its segment's swizzle (02 R60). -/
def bankOf (segs : List (Nat × Nat × Nat)) (off : Nat) : Nat :=
  let word := off / 8 % 64
  match segs.find? fun g => decide (g.1 ≤ off) && decide (off < g.1 + g.2.1) with
  | some g => if g.2.2 = 0 then word else Nat.xor word ((off - g.1) / 2 ^ (g.2.2 + 3) % 64)
  | none => word

/-- Where an offset lies among the bytes of the common area's rows: in its row, at its bank (02 R50, R60). -/
def bankedAt (segs : List (Nat × Nat × Nat)) (off : Nat) : Nat := off / 512 * 512 + 8 * bankOf segs off + off % 8

/-- The offset that lies at a byte of the common area's rows. -/
def unbanked (segs : List (Nat × Nat × Nat)) (at_ : Nat) : Nat :=
  ((((List.range 64).map fun w => at_ / 512 * 512 + 8 * w).find? fun o => bankOf segs o == at_ / 8 % 64).getD 0) + at_ % 8

/-- Register-space address of a common-area offset. -/
def Block.commonAddr (b : Block) (off : Nat) : Nat :=
  let k := bankedAt b.segs off
  512 * rowAt b.place (b.commonRow + k / 512) + k % 512

/-- The row, among a block's rows, and the byte in it of a tile-area offset: the launch-time extent first, then each TGROW
extent. -/
def tileAddrIn : List (Nat × Nat) → Nat → Nat × Nat
  | [], off => (off / 512, off % 512)
  | (row, rows) :: t, off => if off < rows * 512 then (row + off / 512, off % 512) else tileAddrIn t (off - rows * 512)

/-- Register-space address of a tile-area offset. -/
def Block.tileAddr (b : Block) (off : Nat) : Nat :=
  let k := tileAddrIn b.extents off
  512 * rowAt b.place k.1 + k.2

/-- The lowest offset of a range whose 32-bit word is pending (02 R70, R71). -/
def pendingIn (p : Sparse Bool) (off n : Nat) : Option Nat :=
  ((List.range ((off % 4 + n + 3) / 4)).map fun i => off / 4 + i).find? fun k => spGet false p k

/-- Set or clear the pending bits of the words of a range. -/
def setPending (p : Sparse Bool) (off n : Nat) (v : Bool) : Sparse Bool :=
  if n = 0 then p
  else ((List.range ((off % 4 + n + 3) / 4)).map fun i => off / 4 + i).foldl (fun p k => spSet false p k v) p

/-! ### Geometry (09 R238-R241) -/

/-- A tile's descriptor with its slot. -/
structure Geo where
  rows   : Nat
  cols   : Nat
  pitch  : Nat
  base   : Nat
  sparse : Bool
  scales : Nat
  raw    : W64
  slot   : Slot
  deriving DecidableEq, Repr

def geoOf (r : Record) (w0 w1 : W64) : Geo :=
  let raw := r.slots.getD (w1.extractLsb' 0 3).toNat 0
  { rows := (w0.extractLsb' 0 7).toNat + 1, cols := (w0.extractLsb' 7 7).toNat + 1, pitch := (w0.extractLsb' 16 16).toNat
    base := (w0.extractLsb' 32 32).toNat, sparse := w1.getLsbD 4, scales := (w1.extractLsb' 32 32).toNat, raw := raw
    slot := slotOf raw }

/-- Logical positions of a sparse line (03 R92); none for a format without one. -/
def lineLambda (s : Slot) : Option Nat :=
  match s.kind with
  | 1 => some 96
  | 2 => some 96
  | 3 => if s.width < 3 then none else some 192
  | 4 => if slotBits s = 8 then some 192 else none
  | 5 => if slotBits s = 8 then some 192 else none
  | 6 => some 192
  | _ => none

def Geo.rowBytes (g : Geo) : Nat :=
  if g.sparse then 128 * ((g.cols + (lineLambda g.slot).getD 1 - 1) / (lineLambda g.slot).getD 1)
  else (g.cols * containerBits g.slot + 7) / 8

/-- End, exclusive, of a tile's hull. -/
def Geo.hullEnd (g : Geo) : Nat := g.base + (g.rows - 1) * g.pitch + g.rowBytes

/-- The hull as offset and length. -/
def Geo.hull (g : Geo) : Nat × Nat := (g.base, (g.rows - 1) * g.pitch + g.rowBytes)

/-- Bytes of the scale vector under scale mode 2 or 3. -/
def Geo.scaleRange (g : Geo) : List (Nat × Nat) :=
  if g.slot.smode = 2 then [(g.scales, 4 * g.rows)] else if g.slot.smode = 3 then [(g.scales, 4 * g.cols)] else []

/-- Subtile rows and columns of the extent. -/
def Geo.subRows (g : Geo) : Nat := (g.rows + 15) / 16
def Geo.subCols (g : Geo) : Nat := (g.cols + 15) / 16

/-- The mask of the subtiles within the extent (09 R241). -/
def Geo.extent (g : Geo) : W64 :=
  (List.range 64).foldl (fun m s => if s / 8 < g.subRows ∧ s % 8 < g.subCols then m ||| (1#64 <<< s) else m) 0

/-- The rows of a subtile, and the bytes of each within the row: start and length. -/
def Geo.subtileRows (g : Geo) (s : Nat) : List Nat := (List.range 16).filterMap fun i =>
  if 16 * (s / 8) + i < g.rows then some (16 * (s / 8) + i) else none

def Geo.subtileSpan (g : Geo) (s : Nat) : Nat × Nat :=
  if g.sparse then (0, g.rowBytes)
  else
    let c := containerBits g.slot
    (16 * (s % 8) * c / 8, (min 16 (g.cols - 16 * (s % 8)) * c + 7) / 8)

/-- The subtile that holds a byte of the tile. -/
def Geo.subtileAt (g : Geo) (off : Nat) : Option Nat :=
  if off < g.base then none
  else
    let i := (off - g.base) / max g.pitch 1
    let k := (off - g.base) % max g.pitch 1
    if g.rows ≤ i ∨ g.rowBytes ≤ k then none
    else some (8 * (i / 16) + (if g.sparse then 0 else k * 8 / containerBits g.slot / 16))

def rangesMeet (a b : Nat × Nat) : Bool := decide (a.1 < b.1 + b.2) && decide (b.1 < a.1 + a.2)

/-- The geometry of tile n of a block. -/
def Block.geo (b : Block) (r : Record) (n : Nat) : Geo := geoOf r (b.tileAt n).w0 (b.tileAt n).w1

def Record.tileNos (r : Record) : List Nat := List.range r.tiles

/-! ### Nodes (09 R243-R245) -/

/-- A source of a node: its tile, map, window offsets, index tile and slices. -/
structure Src where
  tile  : Nat
  map   : Nat
  dr    : Nat
  dc    : Nat
  idx   : Nat
  p     : Nat
  deriving DecidableEq, Repr

def srcA (a : BitVec 10) (prm : W64) : Src :=
  { tile := a.toNat % 16, map := a.toNat / 128, dr := (prm.extractLsb' 0 7).toNat, dc := (prm.extractLsb' 7 7).toNat
    idx := (prm.extractLsb' 28 4).toNat, p := (prm.extractLsb' 36 4).toNat + 1 }

def srcB (b : BitVec 10) (prm : W64) : Src :=
  { tile := b.toNat % 16, map := b.toNat / 128, dr := (prm.extractLsb' 14 7).toNat, dc := (prm.extractLsb' 21 7).toNat
    idx := (prm.extractLsb' 32 4).toNat, p := (prm.extractLsb' 40 4).toNat + 1 }

/-- The sources of an operation: none for TLD, two for TMMA and TEW. -/
def opSources (op : Nat) (a b : BitVec 10) (prm : W64) : List Src :=
  if op = 0x201 then [] else if op = 0x202 ∨ op = 0x203 then [srcA a prm, srcB b prm] else [srcA a prm]

def Node.sources (n : Node) : List Src := opSources n.op n.a n.b n.prm

/-- The tiles that sources name, index tiles included. -/
def srcTiles (l : List Src) : List Nat := l.flatMap fun x => if x.map = 5 then [x.tile, x.idx] else [x.tile]

/-- Byte ranges that an operation reads: hulls and scale vectors of its sources and index tiles, and the scale vector of
its destination (09 R246). -/
def Block.readRanges (b : Block) (r : Record) (srcs : List Src) (d : Nat) : List (Nat × Nat) :=
  (srcTiles srcs).flatMap (fun t => (b.geo r t).hull :: (b.geo r t).scaleRange) ++ (b.geo r d).scaleRange

def Block.node? (b : Block) (q : Nat) : Option Node := spFind b.nodes q

def Block.nodeReads (b : Block) (r : Record) (n : Node) : List (Nat × Nat) := b.readRanges r n.sources n.dest

/-- Whether a node reads a byte range, other than bytes of its own destination. -/
def Block.nodeAliases (b : Block) (r : Record) (n : Node) (off : Nat) : Bool :=
  (b.nodeReads r n).any (fun x => rangesMeet x (off, 1)) && ((b.geo r n.dest).subtileAt off).isNone

/-- The lowest byte of a range that lies in an invalid subtile of a tile with a producer (02 R71). -/
def Block.suspendedIn (b : Block) (r : Record) (off n : Nat) : Option Nat :=
  let ts := r.tileNos.filter fun t => (b.tileAt t).producer.isSome
  if ts.isEmpty then none
  else (rangeFrom off n).find? fun o => ts.any fun t => match (b.geo r t).subtileAt o with
    | none => false
    | some s => !(b.tileAt t).valid.getLsbD s

/-- The lowest byte of a range that a pending or faulted node reads (02 R71). -/
def Block.aliasedIn (b : Block) (r : Record) (off n : Nat) : Option Nat :=
  if b.nodes.isEmpty then none
  else (rangeFrom off n).find? fun o => b.nodes.any fun e => b.nodeAliases r e.2 o

/-- Free a node: its tile loses its producer, every reader bit of it is cleared. -/
def Block.freeNode (b : Block) (q : Nat) : Block :=
  { b with
    nodes := spDel b.nodes q
    tiles := b.tiles.filterMap fun e =>
      let t := { e.2 with
        readers := e.2.readers &&& ~~~(1#64 <<< q)
        producer := if e.2.producer = some q then none else e.2.producer
        valid := if e.2.producer = some q then BitVec.allOnes 64 else e.2.valid }
      if t = noTile then none else some (e.1, t) }

/-- Free a node of a block with its range lock. -/
def State.freeNode (s : State) (id : WaveId) (q : Nat) : State :=
  match s.block? id with
  | none => s
  | some b =>
    let s := (match b.node? q with
      | some n => match n.lock with
        | some k => s.unlock k
        | none => s
      | none => s)
    s.modBlock id fun b => b.freeNode q

/-! ### Elements (09 R239, R240, 03 R81, R84, R92) -/

/-- A value with NSTAT bits, or a node's fault: cause and address. -/
abbrev Ev := Except (Nat × Nat) (Fl XReal)

def Block.tileByte (b : Block) (off : Nat) : Byte := spGet 0 b.tile off
def Block.tileNat (b : Block) (off n : Nat) : Nat := natOfBytes ((List.range n).map fun i => b.tileByte (off + i))

/-- The code of element j of a packed run that starts at a byte. -/
def Block.packed (b : Block) (s : Slot) (start j : Nat) : Nat :=
  let c := containerBits s
  let q := if 8 ≤ c then b.tileNat (start + j * c / 8) (c / 8) else (b.tileByte (start + j * c / 8)).toNat / 2 ^ (j * c % 8) % 2 ^ c
  q % 2 ^ slotBits s

/-- The scale of the stored position (03 R82). -/
def Block.scaleAt (b : Block) (g : Geo) (i j : Nat) : Option W32 :=
  match g.slot.smode with
  | 0 => none
  | 1 => some g.slot.scale
  | 2 => some (BitVec.ofNat 32 (b.tileNat (g.scales + 4 * i) 4))
  | _ => some (BitVec.ofNat 32 (b.tileNat (g.scales + 4 * j) 4))

/-- Whether a sparse line is malformed (03 R93). -/
def Block.lineBad (b : Block) (s : Slot) (off : Nat) : Bool :=
  let idx := b.tileNat off 24
  let byte (i : Nat) : Nat := (b.tileByte (off + i)).toNat
  let lam := (lineLambda s).getD 96
  let i2 (j : Nat) : Nat := idx / 4 ^ j % 4
  byte 24 != s.kind + 16 * (s.width - 1) ||
  (rangeFrom 25 7).any (fun i => byte i != 0) ||
  (lam == 96 && decide (2 ^ 96 ≤ idx)) ||
  (containerBits s == 4 && (rangeFrom 80 48).any fun i => byte i != 0) ||
  (List.range (lam / 4)).any fun g => decide (i2 (2 * g + 1) ≤ i2 (2 * g))

/-- The offset of the line that holds a logical position of a row. -/
def Geo.lineAt (g : Geo) (i k : Nat) : Nat := g.base + i * g.pitch + 128 * (k / (lineLambda g.slot).getD 96)

/-- Element (i, k) of a sparse tile: a pruned position is the zero that a dense tile would hold there (03 R90; DEDUCED, log
28); a malformed line is a fault (03 R93). -/
def Block.sparseElem (b : Block) (g : Geo) (i k : Nat) : Except (Nat × Nat) (Fl XReal) :=
  let off := g.lineAt i k
  if b.lineBad g.slot off then .error (cILLEGAL_OP, off)
  else
    let pos := k % (lineLambda g.slot).getD 96
    let idx := b.tileNat off 24
    let j := 2 * (pos / 4)
    let hit := if idx / 4 ^ j % 4 = pos % 4 then some j else if idx / 4 ^ (j + 1) % 4 = pos % 4 then some (j + 1) else none
    .ok (slotDecode g.slot (b.scaleAt g i k) ((hit.map fun n => b.packed g.slot (off + 32) n).getD 0))

/-- Element (i, j) of a dense tile, decoded exactly with its scale. -/
def Block.elem (b : Block) (g : Geo) (i j : Nat) : Fl XReal :=
  slotDecode g.slot (b.scaleAt g i j) (b.packed g.slot (g.base + i * g.pitch) j)

def isIntKind (g : Geo) : Bool := decide (4 ≤ g.slot.kind) && decide (g.slot.kind ≤ 6)
/-- An integer kind with scale mode 0. -/
def plainInt (g : Geo) : Bool := isIntKind g && g.slot.smode == 0

/-- The gather index of row i, with the offset of the index element (09 R244): the INT32 code as it stands, whatever the
slot's scale mode (DESIGN CHOICE, log 92). -/
def Block.gatherIdx (b : Block) (r : Record) (x : Src) (i : Nat) : Int × Nat :=
  let g := b.geo r x.idx
  let off := g.base + i * g.pitch
  ((BitVec.ofNat 32 (b.packed g.slot off 0)).toInt, off)

/-- Terms of map 6: exact for plain integers, else each further term added with one rounding to FP32 (09 R244). -/
def foldSlices (exact : Bool) (l : List (Fl XReal)) : Fl XReal :=
  match l with
  | [] => ⟨xzero, 0⟩
  | x :: t => t.foldl (fun acc y =>
      let r := xadd acc.val y.val
      if exact then ⟨r.val, acc.flags ||| y.flags ||| r.flags⟩
      else
        let q := rnd32 ⟨r.val, acc.flags ||| y.flags ||| r.flags⟩
        ⟨f32 q.val, q.flags⟩) x

/-- L(i, j) of a source through its map (09 R244). -/
def Block.logical (b : Block) (r : Record) (x : Src) (i j : Nat) : Ev :=
  let g := b.geo r x.tile
  match x.map with
  | 0 => .ok (b.elem g i j)
  | 1 => .ok (b.elem g j i)
  | 2 => .ok (b.elem g 0 j)
  | 3 => .ok (b.elem g i 0)
  | 4 => .ok (b.elem g (i + x.dr) (j + x.dc))
  | 5 =>
    let k := b.gatherIdx r x i
    if k.1 < 0 ∨ (g.rows : Int) ≤ k.1 then .error (cREG_BOUND, k.2) else .ok (b.elem g k.1.toNat j)
  | _ => .ok (foldSlices (plainInt g) ((List.range x.p).map fun q => b.elem g (q * (g.rows / x.p) + i) j))

/-- Logical extents: none is unbounded (09 R244). -/
def Block.logicalExtent (b : Block) (r : Record) (x : Src) : Option Nat × Option Nat :=
  let g := b.geo r x.tile
  match x.map with
  | 0 => (some g.rows, some g.cols)
  | 1 => (some g.cols, some g.rows)
  | 2 => (none, some g.cols)
  | 3 => (some g.rows, none)
  | 4 => (some (g.rows - x.dr), some (g.cols - x.dc))
  | 5 => (some (b.geo r x.idx).rows, some g.cols)
  | _ => (some (g.rows / x.p), some g.cols)

/-! ### Demand (09 R244, R252-R255, R259) -/

def subBit (a b : Nat) : W64 := if a < 8 ∧ b < 8 then 1#64 <<< (8 * a + b) else 0

/-- Subtiles of the rows and columns of two lists of indices within a tile. -/
def Geo.maskOfCells (g : Geo) (rows cols : List Nat) : W64 :=
  (rows.foldl (fun m i => if i < g.rows then
      cols.foldl (fun m j => if j < g.cols then m ||| subBit (i / 16) (j / 16) else m) m else m) 0) &&& g.extent

/-- Subtiles of its index tile that a logical subtile's rows demand (09 R244). -/
def Src.indexDemand (x : Src) (a : Nat) : List (Nat × W64) := if x.map = 5 then [(x.idx, subBit a 0)] else []

/-- Source subtiles that a logical subtile demands (09 R244). -/
def Block.sourceDemand (b : Block) (r : Record) (x : Src) (a c : Nat) : List (Nat × W64) :=
  let g := b.geo r x.tile
  let rows := rangeFrom (16 * a) 16
  let cols := rangeFrom (16 * c) 16
  match x.map with
  | 0 => [(x.tile, subBit a c)]
  | 1 => [(x.tile, subBit c a)]
  | 2 => [(x.tile, subBit 0 c)]
  | 3 => [(x.tile, subBit a 0)]
  | 4 => [(x.tile, g.maskOfCells (rows.map (· + x.dr)) (cols.map (· + x.dc)))]
  | 5 =>
    [(x.tile, g.maskOfCells ((rows.filter fun i => decide (i < (b.geo r x.idx).rows) && decide (0 ≤ (b.gatherIdx r x i).1)).map fun i =>
        ((b.gatherIdx r x i).1).toNat) cols)]
  | _ =>
    let h := g.rows / x.p
    [(x.tile, g.maskOfCells ((List.range x.p).flatMap fun q => (rows.filter fun i => decide (i < h)).map fun i => q * h + i) cols)]

/-- Gather one source's demands into one mask per tile, in order of first naming: R259 takes each source whole. -/
def joinDemand (l : List (Nat × W64)) : List (Nat × W64) :=
  l.foldl (fun acc e => if acc.any fun x => x.1 == e.1 then acc.map fun x => if x.1 = e.1 then (x.1, x.2 ||| e.2) else x
    else acc ++ [e]) []

/-- What a source demands for some logical subtiles: all of its index tile, then of itself, also where the two are one tile. -/
def Block.demandsOf (b : Block) (r : Record) (x : Src) (l : List (Nat × Nat)) : List (Nat × W64) :=
  joinDemand (l.flatMap fun k => x.indexDemand k.1) ++ joinDemand (l.flatMap fun k => b.sourceDemand r x k.1 k.2)

/-- The demands of a node's evaluation on a subtile, source by source: A's index tile, A, B's index tile, B. -/
def Block.nodeDemand (b : Block) (r : Record) (n : Node) (s : Nat) : List (Nat × W64) :=
  let a := s / 8
  let c := s % 8
  let span (o : Option Nat) : List Nat := List.range ((o.getD 0 + 15) / 16)
  match n.op, n.sources with
  | 0x202, [x, y] =>
    let ks := span (b.logicalExtent r x).2
    b.demandsOf r x (ks.map fun k => (a, k)) ++ b.demandsOf r y (ks.map fun k => (k, c))
  | 0x205, [x] =>
    b.demandsOf r x (if n.modifier.getLsbD 2 then (span (b.logicalExtent r x).1).map fun k => (k, c)
      else (span (b.logicalExtent r x).2).map fun k => (a, k))
  | _, l => l.flatMap fun x => b.demandsOf r x [(a, c)]

/-- The first evaluation that a demand needs (09 R259): tile and subtile. `fuel` bounds the depth of producers. -/
def Block.firstEval (b : Block) (r : Record) : Nat → List (Nat × W64) → Option (Nat × Nat)
  | 0, _ => none
  | fuel + 1, demand =>
    firstSome (demand.map fun e =>
      let t := b.tileAt e.1
      match t.producer with
      | none => none
      | some q => match b.node? q with
        | none => none
        | some n => match (List.range 64).find? fun k => e.2.getLsbD k && !t.valid.getLsbD k with
          | none => none
          | some k => match firstEval b r fuel ((b.nodeDemand r n k).filter fun d => d.1 != e.1) with
            | some x => some x
            | none => some (e.1, k))

/-! ### Evaluation (09 R251-R257) -/

/-- Write a code into its container: upper container bits zero, neighbours in the byte kept (03 R81). -/
def Block.putCode (b : Block) (g : Geo) (i j code : Nat) : Block :=
  let c := containerBits g.slot
  let off := g.base + i * g.pitch + j * c / 8
  if 8 ≤ c then
    { b with tile := (List.range (c / 8)).foldl (fun t k => spSet 0 t (off + k) (BitVec.ofNat 8 (code / 256 ^ k))) b.tile }
  else
    let old := (b.tileByte off).toNat
    let sh := j * c % 8
    { b with tile := spSet 0 b.tile off (BitVec.ofNat 8 (old % 2 ^ sh + (code % 2 ^ c) * 2 ^ sh + old / 2 ^ (sh + c) * 2 ^ (sh + c))) }

/-- Exact maximum or minimum (06 R164): the other operand for one NaN, -0 below +0. -/
def xMinMax (wantMax : Bool) (x y : XReal) : XReal :=
  let below (p q : XReal) : Bool := xlt p q || (xeq p q && (match p, q with
    | .fin true 0 _, .fin false 0 _ => true
    | _, _ => false))
  if x = .nan then y else if y = .nan then x
  else if wantMax then (if below x y then y else x) else (if below y x then y else x)

/-- TEW's operation on exact values (09 R253). -/
def tewOp (op : Nat) (x y : XReal) : Fl XReal :=
  match op with
  | 0 => xadd x y
  | 1 => xadd x (xneg y)
  | 2 => xmul x y
  | 3 => ⟨xMinMax true x y, 0⟩
  | _ => ⟨xMinMax false x y, 0⟩

/-- TMAP's function on an exact value (09 R254). -/
def tmapOp (op : Nat) (x : XReal) : Fl XReal :=
  match op with
  | 0 => ⟨if x = .nan then .nan else if xlt xzero x then x else xzero, 0⟩
  | 1 => ⟨xneg x, 0⟩
  | 2 => ⟨xabs x, 0⟩
  | 3 => ⟨xexp2 x, 0⟩
  | _ => xmul x x

/-- The integer of an exact integer value. -/
def intOfX : XReal → Int
  | .fin neg n d => if neg then -((n / max d 1 : Nat) : Int) else ((n / max d 1 : Nat) : Int)
  | _ => 0

/-- A sum in runs of eight from an exact start, each run rounded once to FP32 (03 R88). -/
def sumRuns : Nat → Fl XReal → List (Fl XReal) → Fl XReal
  | 0, acc, _ => acc
  | k + 1, acc, ps =>
    if ps.isEmpty then acc
    else
      let q := rnd32 (xsum acc (ps.take 8))
      sumRuns k ⟨f32 q.val, q.flags⟩ (ps.drop 8)

/-- An exact product of two decoded operands (03 R88). -/
def mulExact (x y : Fl XReal) : Fl XReal :=
  let p := xmul x.val y.val
  ⟨p.val, x.flags ||| y.flags ||| p.flags⟩

/-- A TMMA operand at row or column i and position k: A(i, k), or B(k, i) presented by map 1 when sparse. -/
def Block.operand (b : Block) (r : Record) (x : Src) (left : Bool) (i k : Nat) : Ev :=
  let g := b.geo r x.tile
  if g.sparse then b.sparseElem g i k else if left then b.logical r x i k else b.logical r x k i

/-- All results of a list, or the first fault. -/
def sequenceEv {α : Type} : List (Except (Nat × Nat) α) → Except (Nat × Nat) (List α)
  | [] => .ok []
  | .error e :: _ => .error e
  | .ok a :: t => match sequenceEv t with
    | .error e => .error e
    | .ok l => .ok (a :: l)

/-- An INT32 tile with scale mode 0. -/
def int32Plain (g : Geo) : Bool := g.slot.kind == 4 && slotBits g.slot == 32 && g.slot.smode == 0

/-- A destination code. -/
abbrev Code := Except (Nat × Nat) (Fl Nat)

/-- Convert an exact value through the destination's slot (09 R257). -/
def Block.intoTile (b : Block) (g : Geo) (i j : Nat) (x : Fl XReal) : Fl Nat :=
  let c := slotEncode g.slot (b.scaleAt g i j) x.val
  ⟨c.val, x.flags ||| c.flags⟩

/-- The integer of a list of exact terms, modulo 2^32. -/
def intSum (c : Int) (l : List (Fl XReal)) : Fl Nat :=
  ⟨((l.foldl (fun (a : Int) (x : Fl XReal) => a + intOfX x.val) c) % 2 ^ 32).toNat, l.foldl (fun f x => f ||| x.flags) 0⟩

/-- TMMA at (i, j) (09 R252, 03 R88-R90). -/
def Block.mmaAt (b : Block) (r : Record) (n : Node) (x y : Src) (i j : Nat) : Code :=
  let g := b.geo r n.dest
  let k := ((b.logicalExtent r x).2).getD 0
  match sequenceEv ((List.range k).map fun q =>
      match b.operand r x true i q, b.operand r y false j q with
      | .error e, _ => .error e
      | _, .error e => .error e
      | .ok u, .ok v => .ok (mulExact u v)) with
  | .error e => .error e
  | .ok ps =>
    let acc := n.modifier.getLsbD 0
    if plainInt (b.geo r x.tile) && plainInt (b.geo r y.tile) && int32Plain g then
      .ok (intSum (if acc then intOfX (b.elem g i j).val else 0) ps)
    else .ok (b.intoTile g i j (sumRuns 17 (if acc then b.elem g i j else ⟨xnegzero, 0⟩) ps))

/-- TRED at (i, j) (09 R255). -/
def Block.redAt (b : Block) (r : Record) (n : Node) (x : Src) (i j : Nat) : Code :=
  let g := b.geo r n.dest
  let ext := b.logicalExtent r x
  let col := n.modifier.getLsbD 2
  let cnt := (if col then ext.1 else ext.2).getD 0
  match sequenceEv ((List.range cnt).map fun q => if col then b.logical r x q j else b.logical r x i q) with
  | .error e => .error e
  | .ok l =>
    let op := n.modifier.toNat % 4
    if op = 0 then
      if plainInt (b.geo r x.tile) && int32Plain g then .ok (intSum 0 l) else .ok (b.intoTile g i j (sumRuns 17 ⟨xnegzero, 0⟩ l))
    else
      let vals := l.map fun v => if op = 3 then xabs v.val else v.val
      let fl := l.foldl (fun f v => f ||| v.flags) 0
      .ok (b.intoTile g i j ⟨(vals.drop 1).foldl (fun a v => xMinMax (op != 2) a v) (vals.headD .nan), fl⟩)

/-- The code of D(i, j) that a node gives. -/
def Block.nodeAt (b : Block) (r : Record) (n : Node) (i j : Nat) : Code :=
  let g := b.geo r n.dest
  match n.op, n.sources with
  | 0x202, [x, y] => b.mmaAt r n x y i j
  | 0x203, [x, y] => match b.logical r x i j, b.logical r y i j with
    | .error e, _ => .error e
    | _, .error e => .error e
    | .ok u, .ok v =>
      let z := tewOp (n.modifier.toNat % 8) u.val v.val
      .ok (b.intoTile g i j ⟨z.val, u.flags ||| v.flags ||| z.flags⟩)
  | 0x204, [x] => match b.logical r x i j with
    | .error e => .error e
    | .ok u =>
      let z := tmapOp (n.modifier.toNat % 8) u.val
      .ok (b.intoTile g i j ⟨z.val, u.flags ||| z.flags⟩)
  | 0x205, [x] => b.redAt r n x i j
  | _, [x] => match b.logical r x i j with
    | .error e => .error e
    | .ok u => .ok (b.intoTile g i j u)
  | _, _ => .ok ⟨0, 0⟩

/-- The cells of a subtile within a tile. -/
def Geo.cells (g : Geo) (s : Nat) : List (Nat × Nat) :=
  (g.subtileRows s).flatMap fun i =>
    ((rangeFrom (16 * (s % 8)) 16).filter fun j => decide (j < g.cols)).map fun j => (i, j)

/-- Evaluate a computing node on a subtile: reads come before any write, and of several elements that fault the first in row-major
order is recorded, k ascending, A before B (09 R265 names no order; DESIGN CHOICE, log 105). The NSTAT bits of an evaluation that faults are lost
with it (DESIGN CHOICE, log 80). -/
def Block.computeSubtile (b : Block) (r : Record) (n : Node) (s : Nat) : Except (Nat × Nat) (Block × W32) :=
  let g := b.geo r n.dest
  match sequenceEv ((g.cells s).map fun c => match b.nodeAt r n c.1 c.2 with
      | .error e => .error e
      | .ok v => .ok (c, v)) with
  | .error e => .error e
  | .ok l => .ok (l.foldl (fun b e => b.putCode g e.1.1 e.1.2 e.2.val) b, l.foldl (fun f e => f ||| e.2.flags) 0)

/-- The virtual address of row i of a node's memory source. -/
def Node.rowAddr (n : Node) (i : Nat) : W64 := n.memAddr + BitVec.ofNat 64 i * n.memPitch

/-- Evaluate a TLD on a subtile: the bytes of its rows and containers, read from home and written unchanged (09 R251); a unit
is read once for the whole node (04 R113), so of a unit that two subtiles share the first read stands, although R263 reads when
each is evaluated (DESIGN CHOICE, log 93). -/
def State.loadSubtile (s : State) (b : Block) (r : Record) (n : Node) (k : Nat) : Except (Nat × Nat) (Block × W32) :=
  let g := b.geo r n.dest
  let span := g.subtileSpan k
  let bytes := (g.subtileRows k).flatMap fun i => (List.range span.2).map fun q =>
    ((n.rowAddr i).toNat + span.1 + q, g.base + i * g.pitch + span.1 + q)
  let fresh := fun (e : Nat × Nat) => (spFind n.buf (physOf n.pages e.1 / 8)).isNone
  match bytes.find? fun e => fresh e && s.poisoned (physOf n.pages e.1 / 8 * 8) with
  | some e => .error (cMEM_POISON, e.1 / 8 * 8)
  | none =>
    let buf := (((bytes.filter fresh).map fun e => physOf n.pages e.1 / 8).eraseDups).foldl
      (fun m u => spPut m u (BitVec.ofNat 64 (s.readNat (8 * u) 8))) n.buf
    let q := ((b.tileAt n.dest).producer).getD 64
    let b := { b with nodes := spMod b.nodes q fun n => { n with buf := buf } }
    .ok (bytes.foldl (fun b e =>
      let pa := physOf n.pages e.1
      { b with tile := spSet 0 b.tile e.2 (((spGet 0 buf (pa / 8)).extractLsb' (8 * (pa % 8)) 8)) }) b, 0)

/-- The subtiles that an evaluation makes valid: all of the row-block of a sparse tile (09 R240). -/
def Geo.validBy (g : Geo) (k : Nat) : W64 := if g.sparse then 0xFF#64 <<< (8 * (k / 8)) else 1#64 <<< k

/-- Rows of a memory source and their translation, in ascending order: the pages or the first failure (09 R251, R261). -/
def State.translateRows (s : State) (asid t : Nat) (rows : List (W64 × Nat)) (rights : List Nat) :
    Except (Nat × Nat) (List (Nat × Nat)) :=
  rows.foldl (fun acc e =>
    match acc with
    | .error x => .error x
    | .ok l => match s.translateRange asid t e.1.toNat e.2 rights with
      | .error x => .error x
      | .ok p => .ok (l ++ p)) (.ok [])

/-- The one range-lock entry of some rows: from the lowest to the highest line of their hull, page by page as they have translated; a
page between two rows that none of them touches is locked as it translates now, one that does not translate has no line (04 R110,
07 R194, R195; DEDUCED, log 29). -/
def State.rowLines (s : State) (l : Launch) (pages : List (Nat × Nat)) (rows : List (W64 × Nat)) : List (Nat × Nat) :=
  let lo := ((minBy id (rows.map fun e => e.1.toNat)).getD 0)
  let hi := rows.foldl (fun m e => max m (e.1.toNat + e.2 - 1)) 0
  (pagesOf lo (hi + 1 - lo)).filterMap fun a =>
    let page := match pages.find? fun p => p.1 == a / 65536 with
      | some p => some p.2
      | none => match s.translate l.asid l.tenant a [] with
        | .error _ => none
        | .ok pa => some (pa / 65536)
    page.map fun p => ((p * 65536 + a % 65536) / 64, (p * 65536 + min (hi - a / 65536 * 65536) 65535) / 64)

/-- The translations of the pages that rows touch are held (22 R376). -/
def State.holdRows (s : State) (l : Launch) (rows : List (W64 × Nat)) (rights : List Nat) : State :=
  (rows.flatMap fun e => pagesOf e.1.toNat e.2).foldl (fun s va => s.hold l.asid l.tenant va rights) s

/-- The rows of a TLD. -/
def Node.rows (n : Node) (g : Geo) : List (W64 × Nat) := (List.range g.rows).map fun i => (n.rowAddr i, g.rowBytes)

/-- A memory-source node without a lock takes it again with fresh translation, and reads anew (21 R363 step 3); where that fails the
node faults with the translation's cause (09 R265 names none for it; DESIGN CHOICE, log 105). -/
def State.relock (s : State) (id : WaveId) (b : Block) (l : Launch) (q : Nat) (n : Node) : Except (Nat × Nat) State :=
  if n.op ≠ 0x201 ∨ n.lock.isSome then .ok s
  else
    let rows := n.rows (b.geo l.record n.dest)
    match s.translateRows l.asid l.tenant rows [rREAD] with
    | .error e => .error e
    | .ok pages =>
      let k := s.nextOp
      let s := { s.holdRows l rows [rREAD] with nextOp := k + 1, locks := s.locks ++ [(⟨id.core, k, false, s.rowLines l pages rows⟩ : Lock)] }
      .ok (s.modBlock id fun b => { b with nodes := spMod b.nodes q fun n => { n with lock := some k, pages := pages, buf := [] } })

/-- The lock of a forcing instruction of another block: its operation is registered and has not begun (04 R111). -/
def State.forcesElsewhere (s : State) (b : Block) (owner : Nat) : Bool :=
  s.blocks.any fun e => e.2.uid != b.uid && e.2.waves.any fun w => match w.2.wait with
    | some (.force _ k _ _) => k == some owner
    | _ => false

/-- A memory-source node starts only after earlier engine operations that write its source and after its wave's older
accesses (04 R111, R120), and with a free range-lock entry where it has none (04 R110). The forcing of a save does not wait for
accesses that only the restored block issues again (21 R363; DEDUCED, log 54). -/
def State.nodeBlocked (s : State) (b : Block) (n : Node) : Bool :=
  n.op == 0x201 && (match n.lock with
  | none => s.lockFree b.core == 0
  | some k => (s.lockBlocked k fun o => (spFind s.ops o).isSome || s.forcesElsewhere b o) || !b.saving && s.engineHeld b (s.wave (b.id n.wave)) k n.since)

/-- One evaluation: the subtile becomes valid, and a node whose subtiles are all valid is freed; or the node faults, with the lock
that it has taken again. A failed translation is not held (22 R376). A node that has faulted is pending again from its next success on
(09 R245 does not say; DESIGN CHOICE, log 105). -/
def State.evalSubtile (s : State) (id : WaveId) (tile k : Nat) : Except (State × Nat × Node) (State × W32) :=
  match s.block? id with
  | none => .ok (s, 0)
  | some b => match s.launchOf b, (b.tileAt tile).producer with
    | some l, some q => match b.node? q with
      | none => .ok (s, 0)
      | some n0 => if s.nodeBlocked b n0 then .ok (s, 0) else match s.relock id b l q n0 with
        | .error e => .error (s.unhold l.asid e.2, q, { n0 with state := 2, cause := e.1, faultAddr := BitVec.ofNat 64 e.2 })
        | .ok s =>
          let b := (s.block? id).getD b
          let n := (b.node? q).getD n0
          if s.nodeBlocked b n then .ok (s, 0)
          else match (if n.op = 0x201 then s.loadSubtile b l.record n k else b.computeSubtile l.record n k) with
          | .error e => .error (s, q, { n with state := 2, cause := e.1, faultAddr := BitVec.ofNat 64 e.2 })
          | .ok (b', fl) =>
            let g := b.geo l.record tile
            let b' := b'.modTile tile fun t => { t with valid := t.valid ||| g.validBy k }
            let b' := { b' with nodes := spMod b'.nodes q fun n => { n with state := 1 } }
            let s := s.modBlock id fun _ => b'
            .ok (if (b'.tileAt tile).valid = BitVec.allOnes 64 then s.freeNode id q else s, fl)
    | _, _ => .ok (s, 0)

/-- The wave of a block whose forcing is served; in a save no instruction is (21 R363). -/
def Block.forcer (b : Block) : Option (Nat × Wave × List (Nat × W64)) :=
  if b.saving then none else
  firstSome (b.waves.map fun e => match e.2.wait with
    | some (.force d _ _ _) => if b.demandMet d then none else some (e.1, e.2, d)
    | _ => none)

/-- The demand of a block that its core's tile engine serves, and the evaluation it needs: of a forcing instruction, else of a
save once its operations have ended (09 R250, R259; 21 R363). -/
def State.tileNeeds (s : State) (b : Block) : Option (Option (Nat × Nat)) :=
  match s.launchOf b with
  | none => none
  | some l => match b.forcer with
    | some (_, _, d) => (b.firstEval l.record 65 d).map some
    | none => if b.demand.isEmpty then none else some (b.firstEval l.record 65 b.demand)

/-- The block has an evaluation that nothing holds up. -/
def State.tileReady (s : State) (b : Block) : Bool :=
  match s.tileNeeds b with
  | none => false
  | some none => true
  | some (some x) => match (b.tileAt x.1).producer.bind b.node? with
    | none => true
    | some n => !s.nodeBlocked b n

/-- The block slot that a core's tile engine serves next: ascending from the last, one evaluation each in turn (09 R250). -/
def State.tileNext (s : State) (core : Nat) : Option Nat :=
  minBy (fun slot => (slot + 15 - spGet 15 s.tileTurn core) % 16)
    ((s.blocks.filter fun e => e.1 / 16 == core && s.tileReady e.2).map fun e => e.1 % 16)

/-- TILE_SUBTILE_EVAL: the first evaluation that the block's demand needs (09 R259); a fault makes the node faulted and
reaches the forcing instruction as LATE_TILE (09 R265), but not while its block is being stopped: it forces again when it issues
anew. The forcing of a save has no wave (21 R363). -/
def State.tileStep (s : State) (core slot : Nat) : State :=
  let id0 : WaveId := ⟨core, slot, 0⟩
  if s.tileNext core != some slot then s
  else
  let s := { s with tileTurn := spSet 15 s.tileTurn core slot }
  match s.block? id0 with
  | none => s
  | some b => match s.launchOf b with
    | none => s
    | some l => match b.forcer with
      | some (w, wv, d) => match b.firstEval l.record 65 d with
        | none => s
        | some (t, k) => match s.evalSubtile id0 t k with
          | .ok (s, fl) => s.modWave ⟨core, slot, w⟩ fun w => { w with nstat := w.nstat ||| fl }
          | .error (s, q, n) =>
            let s := s.modBlock id0 fun b => { b with nodes := spMod b.nodes q fun _ => n }
            if s.stands ⟨core, slot, w⟩ then s else s.raise ⟨core, slot, w⟩ {
              cause := cLATE_TILE, also := causeBit n.cause, pc := wv.wordAddr, addr := n.faultAddr, lanes := wv.active
              index := wv.clause.next, code := 0, origin := n.origin, resume := 0, seq := wv.accesses }
      | none => match b.firstEval l.record 65 b.demand with
        | none => s.modBlock id0 fun b => { b with demand := [] }
        | some (t, k) => match s.evalSubtile id0 t k with
          | .ok (s, _) => s
          | .error (s, q, n) =>
            let s := (match n.lock with
              | some k => if b.saving then s.unlock k else s
              | none => s)
            s.modBlock id0 fun b => { b with
              nodes := spMod b.nodes q fun _ => { n with lock := if b.saving then none else n.lock }
              demand := b.demand.filter fun d => d.1 != n.dest }

def execTileSubtileEval (core slot : Nat) (s : State) : Host.Outcome State Fault Refusal := .next (s.tileStep core slot)

/-! ### Forcing by an instruction (09 R250, R264) -/

/-- Nodes of a list of table slots, oldest first, each demanded in full. -/
def Block.fullDemand (b : Block) (qs : List Nat) : List (Nat × W64) :=
  ((sortBy (fun q => match b.node? q with
    | some n => n.seq
    | none => 0) qs.eraseDups).filterMap fun q => (b.node? q).map fun n => (n.dest, BitVec.allOnes 64))

/-- An instruction that forces holds the wave until its demand is met, with what it has read; another forcing of the block goes first
(09 R250). -/
def State.forceFirst (s : State) (c : Ctx) (demand : List (Nat × W64)) (lock : Option Nat) (pages : List (Nat × Nat))
    (body : State → State) : State :=
  if c.b.demandMet demand then body s else s.hang c.id (.force demand lock pages c.reading)

/-- Whether another wave of the block forces. -/
def Ctx.tilesBusy (c : Ctx) : Bool := c.b.waves.any fun e => e.1 != c.id.wave && e.2.forcing

/-- Nodes with a memory source that a wave appended: a publish forces them in full before it seals (04 R100). -/
def Block.loadsOf (b : Block) (wave : Nat) : List Nat :=
  b.nodes.filterMap fun e => if e.2.op = 0x201 ∧ e.2.wave = wave then some e.1 else none

def Ctx.publishDemand (c : Ctx) : List (Nat × W64) := c.b.fullDemand (c.b.loadsOf c.id.wave)

/-- Another wave of the core is held by the forcing of its tile instruction, which ends in an issue slot. -/
def State.coreForcing (s : State) (id : WaveId) : Bool :=
  s.blocks.any fun e => e.2.core == id.core && e.2.waves.any fun w => w.2.forcing && (⟨e.2.core, e.2.slot, w.1⟩ : WaveId) != id

/-- A publishing instruction: its forcing, then its body. The wave is held in its issue slot, but for a scalar-class instruction, whose
wait ends it, and for one that waits for the forcing of a tile instruction of another wave of the core, directly or through a lock
that it holds (05 R127; DEDUCED, log 104). -/
def State.publishFirst (s : State) (c : Ctx) (scalarClass : Bool) (body : State → State) : State :=
  let hold := fun (wt : Wait) => if scalarClass || s.coreForcing c.id then s.hang c.id wt else s.linger c.id wt
  if c.publishDemand.isEmpty then body s
  else if c.tilesBusy then s.hang c.id .tiles
  else if c.b.demandMet c.publishDemand then body s
  else hold (.force c.publishDemand none [] c.reading)

end Sys2Proof.Machine
end

