-- ==== Sys2Proof/Machine/Memory.lean ====
section
/-! DEFINITION. LD, ST, LDC, STC, ATOM and RED, and the steps that bring a logged access to its end: its walk, its
performance at home or in the journal, its return, its fault; the drain of sealed lines; reduction windows (07 R182-R192,
04 R94-R106, 12 R304, R305, 23 R396-R398). -/

namespace Sys2Proof.Machine

open Sys2Proof

/-! ### Widths (07 R187) -/

/-- Registers of a width in bytes. -/
def regsOf (bytes : Nat) : Nat := if bytes ≤ 4 then 1 else bytes / 4

/-- The k-th register of a loaded value: extended to 32 bits (07 R187). -/
def loadedWord (m : BitVec 6) (bs : List Byte) (k : Nat) : W32 :=
  let x := natOfBytes ((bs.drop (4 * k)).take 4)
  if m.toNat % 8 = 1 then (BitVec.ofNat 8 x).signExtend 32
  else if m.toNat % 8 = 3 then (BitVec.ofNat 16 x).signExtend 32 else BitVec.ofNat 32 x

/-- The bytes that a store takes from its registers. -/
def storedBytes (n : Nat) (reg : Nat → W32) : List Byte :=
  ((List.range (regsOf n)).flatMap fun k => bytesOfNat 4 (reg k).toNat).take n

/-! ### Addresses (07 R182) -/

def Ctx.memAddr (c : Ctx) (f : F) (signed : Bool) (l : Nat) : W64 :=
  let x := c.lane f.b l 0
  c.scalar f.a + (if signed then x.signExtend 64 else x.zeroExtend 64)

/-- PROT_PAGE of an address beyond 57 bits, ALIGN of one not naturally aligned (07 R182). -/
def addressCause (n : Nat) (a : W64) : Option Nat :=
  if a >>> 57 ≠ 0 then some cPROT_PAGE else if a.toNat % n ≠ 0 then some cALIGN else none

/-- Lanes whose address does not translate at issue: their lines meet the range-lock table in their walk (04 R111). -/
def State.untranslated (s : State) (c : Ctx) (addr : Nat → W64) : BitVec 32 :=
  maskOf fun l => c.part.getLsbD l && (match s.translate c.l.asid c.l.tenant (addr l).toNat [] with
    | .error _ => true
    | .ok _ => false)

/-- The lowest address of each line that n bytes from an address touch, n at most 64. -/
def touchedLines (a : W64) (n : Nat) : List W64 :=
  let last := (a.toNat + n - 1) / 64 * 64
  if last ≤ a.toNat then [a] else [a, BitVec.ofNat 64 last]

/-- RANGE_LOCKED of the lanes at the lowest locked address that each touches (04 R111, 19 R335): an address that does not
translate is found later, in its walk. -/
def State.lockFails (s : State) (c : Ctx) (addr : Nat → W64) (n : Nat) (write : Bool) : List Fail :=
  (lanesOf c.part).filterMap fun l => ((touchedLines (addr l) n).find? fun a =>
      match s.translate c.l.asid c.l.tenant a.toNat [] with
      | .error _ => false
      | .ok pa => s.lineLocked c.id.core (pa / 64) write).map fun a => ⟨l, cRANGE_LOCKED, a⟩

def Ctx.addressFails (c : Ctx) (addr : Nat → W64) (n : Nat) : List Fail :=
  (lanesOf c.part).filterMap fun l => (addressCause n (addr l)).map fun k => ⟨l, k, addr l⟩

/-! ### Operand-log entries (07 R184, 19 R338) -/

/-- The registers that a field reads in each participating lane. -/
def Ctx.fieldRegs (c : Ctx) (f : BitVec 10) : Sparse Nat :=
  (lanesOf c.part).filterMap fun l => (c.eff f l).map fun n => (l, n)

/-- A scalar or special operand by value, 0 for any other form. -/
def Ctx.byValue (c : Ctx) (f : BitVec 10) : W64 := if scalForm f then c.scalar f else 0

/-- A fresh entry for an instruction word: `reads` the registers it holds. -/
def Ctx.logEntry (c : Ctx) (op : BitVec 10) (f : F) (reads : List (BitVec 10 × Nat)) : LogEntry :=
  { word := wordR op f, addr := c.addr, index := c.idx, aVal := c.byValue f.a, bVal := c.byValue f.b, lanes := c.part
    state := 1, cause := 0xFF, faultAddr := 0, seq := c.w.accesses, stage := 0
    regs := (reads.flatMap fun u => (c.fieldRegs u.1).flatMap fun e => rangeFrom e.2 u.2).eraseDups
    causes := 0, faultLanes := 0, done := 0, dests := [], addrs := [], data := [], dRegs := [], bRegs := c.fieldRegs f.b
    old := [], pages := [], sealNo := none, op := none, gen := c.b.gen, phase := c.b.journal.phase }

/-- Destination words of n registers per participating lane. -/
def Ctx.destWords (c : Ctx) (d : BitVec 10) (n : Nat) : List Nat :=
  (lanesOf c.part).flatMap fun l => match c.eff d l with
    | none => []
    | some r => (List.range n).map fun k => (r + k) * 32 + l

/-- Words of n data registers per participating lane. -/
def Ctx.dataWords (c : Ctx) (d : BitVec 10) (n : Nat) : Sparse W64 :=
  (lanesOf c.part).flatMap fun l => (List.range n).map fun k => (l * 4 + k, (c.laneReg d k l).zeroExtend 64)

/-- Issue with an entry of the operand log: it is taken and counted, the flag counts up, destination words become pending;
a write that the device orders lies behind the results in flight (05 R132, 02 R56). -/
def State.logIssue (s : State) (c : Ctx) (sp : Spec) (e : LogEntry) : State :=
  let ordered := c.ordered || sp.dsts.any fun u => !isVec u.1
  let s := s.issue c sp
  let s := s.modWave c.id fun w => match c.w.logFree with
    | none => w
    | some i =>
      let w := (w.flagUp sp.ctl.sig.toNat).setPend e.dests true
      { w with
        log := spPut w.log i e
        accesses := w.accesses + 1
        inflight := if ordered then w.inflight.map fun p =>
            if p.regs.any fun o => match o.reg with
              | .vec n => decide (n * 32 + o.lane ∈ e.dests)
              | _ => false
            then { p with short := 0 } else p
          else w.inflight }
  s.advance c.id

def State.modEntry (s : State) (id : WaveId) (i : Nat) (f : LogEntry → LogEntry) : State :=
  s.modWave id fun w => { w with log := spMod w.log i f }

/-- The access has performed: its entry is freed and its flag counts down; a re-issue is over. -/
def State.endEntry (s : State) (id : WaveId) (i : Nat) : State :=
  match spFind (s.wave id).log i with
  | none => s
  | some e =>
    let s := s.modWave id fun w => { (w.flagDown (ctlOf e.word).sig.toNat) with log := spDel w.log i }
    if (s.wave id).reissue.head? = some i then s.nextReissue id else s

/-- The access has failed: its fault is on its way to the wave. -/
def State.failEntry (s : State) (id : WaveId) (i : Nat) (fs : List Fail) : State :=
  match settleFails fs with
  | none => s
  | some (bits, cause, lanes, addr) => s.modEntry id i fun e =>
    { e with stage := 3, cause := cause, causes := bits, faultLanes := lanes, faultAddr := addr }

/-- Data registers of an access's D (07 R187, R189, R193). -/
def atomData (m : BitVec 6) : Nat :=
  let op := m.toNat / 4
  if op = 15 then 4 else if op = 1 ∨ op = 13 ∨ op = 14 then 2 else 1

def LogEntry.dataCount (e : LogEntry) : Nat :=
  let m := e.fields.m
  if e.opcode = 0x101 then regsOf (accessBytes m) else if e.opcode = 0x113 then 1 else atomData m

def LogEntry.signed (e : LogEntry) : Bool :=
  (e.opcode == 0x100 || e.opcode == 0x101) && e.fields.m.getLsbD 3

/-- At a re-issue the vector operands are read again from the registers the entry holds (08 R236, 19 R338). -/
def Wave.recapture (w : Wave) (e : LogEntry) : LogEntry :=
  { e with
    addrs := e.addrs.map fun a => match spFind e.bRegs a.1 with
      | none => a
      | some n =>
        let x := w.vget n a.1
        (a.1, e.aVal + (if e.signed then x.signExtend 64 else x.zeroExtend 64))
    data := e.dRegs.flatMap fun d => (List.range e.dataCount).map fun k => (d.1 * 4 + k, (w.vget (d.2 + k) d.1).zeroExtend 64) }

/-- An older access of the wave to the same bytes goes first (04 R120). -/
def State.olderMeets (s : State) (l : Launch) (w : Wave) (e : LogEntry) : Bool :=
  w.log.any fun x => w.before x.2 e.seq && s.meets l x.2 e

/-- What the order of the wave's accesses holds back (04 R120). -/
def State.orderHeld (s : State) (l : Launch) (b : Block) (w : Wave) (e : LogEntry) : Bool :=
  s.olderMeets l w e || s.publishHeld b w e.seq

/-! ### LD and ST (07 R187) -/

def ldSpec (f : F) : Spec :=
  let n := regsOf (accessBytes f.m)
  { cls := 2, ctl := f.ctl
    enc := isScal f.a && anyForm f.b && vecForm f.d && decide (f.m.toNat < 16) && decide (f.m.toNat % 8 < 7)
    holdA := some f.a, holdB := some f.b, holdD := some f.d, srcs := [(f.a, 1), (f.b, 1)], dsts := [(f.d, n)]
    logs := true, acq := true }

def execLd (f : F) (s : State) : Host.Outcome State Fault Refusal :=
  let n := accessBytes f.m
  .next (run (ldSpec f)
    (fun c =>
      let addr := c.memAddr f (f.m.getLsbD 3)
      s.lockFails c addr n false ++ c.addressFails addr n)
    noResume (fun c s =>
      if c.part = 0 then s.quick c (ldSpec f) id
      else
        let addr := c.memAddr f (f.m.getLsbD 3)
        s.logIssue c (ldSpec f) { c.logEntry 0x100 f [(f.b, 1)] with
          addrs := (lanesOf c.part).map fun l => (l, addr l), dests := c.destWords f.d (regsOf n)
          unchecked := s.untranslated c addr }) s)

def stSpec (f : F) : Spec :=
  let n := regsOf (accessBytes f.m)
  { cls := 2, ctl := f.ctl
    enc := isScal f.a && anyForm f.b && vecForm f.d && decide (f.m.toNat < 16) &&
      !(f.m.toNat % 8 == 1 || f.m.toNat % 8 == 3 || f.m.toNat % 8 == 7)
    holdA := some f.a, holdB := some f.b, holdD := some f.d, srcs := [(f.a, 1), (f.b, 1), (f.d, n)]
    logs := true, acq := true }

/-- Physical lines that the stores of a wave will enter in the journal: those in flight of its block. -/
def State.storeLines (s : State) (b : Block) : List (Nat × Nat) :=
  match s.launchOf b with
  | none => []
  | some l => b.waves.flatMap fun w => w.2.log.flatMap fun x =>
      if x.2.opcode = 0x101 ∧ x.2.state = 1 then x.2.addrs.filterMap fun a =>
        match s.translate l.asid l.tenant a.2.toNat [] with
        | .error _ => none
        | .ok pa => some (pa / 64, x.2.phase)
      else []

/-- The lowest address that a store writes into a line the journal does not hold, where its new lines and those of stores in
flight do not fit (04 R97, 19 R335). At its issue a line that a store in flight will enter is no new one; as it enters, it is. -/
def State.journalLacks (s : State) (b : Block) (phase : Nat) (mine : List (W64 × Nat)) (enters : Bool) : Option W64 :=
  let j := b.journal
  let lacks := fun (q : Nat × Nat) => !j.lines.any fun l => l.line == q.1 && l.phase == q.2
  let flying := ((s.storeLines b).filter lacks).eraseDups
  let need := mine.filter fun x => lacks (x.2, phase)
  let fresh := ((need.filter fun x => !((x.2, phase) ∈ flying)).map Prod.snd).eraseDups
  if (if enters then need ≠ [] else fresh ≠ []) ∧ 16384 < j.lines.length + flying.length + fresh.length then
    (minBy (fun x => x.1.toNat) need).map Prod.fst
  else none

/-- JOURNAL_FULL of a store at its issue (04 R97). -/
def State.journalFull (s : State) (c : Ctx) (addr : Nat → W64) : List Fail :=
  let mine := (lanesOf c.part).filterMap fun l => match s.translate c.l.asid c.l.tenant (addr l).toNat [] with
    | .error _ => none
    | .ok pa => some (addr l, pa / 64)
  match s.journalLacks c.b c.b.journal.phase mine false with
  | none => []
  | some a => failAll c.active cJOURNAL_FULL a

/-- Checks of a store: locks and addresses. -/
def State.storeChecks (s : State) (c : Ctx) (addr : Nat → W64) (n : Nat) : List Fail :=
  s.lockFails c addr n true ++ c.addressFails addr n

/-- What a store fails with at its own index: its checks, then room in the journal (04 R97). -/
def State.storeFails (s : State) (c : Ctx) (addr : Nat → W64) (n : Nat) : List Fail :=
  let fs := s.storeChecks c addr n
  if fs.isEmpty then s.journalFull c addr else fs

/-- JOURNAL_FULL at a store's own index: nothing is journaled, and its operands stay in the operand log, as those of any held access do:
its re-issue is the store's, behind which the wave goes on (04 R97, 19 R338; DEDUCED, log 106). -/
def State.raiseFull (s : State) (c : Ctx) (sp : Spec) (e : LogEntry) (fs : List Fail) : State :=
  match settleFails fs with
  | none => s
  | some (bits, cause, lanes, addr) =>
    (s.logIssue c sp { e with state := 2, cause := cause, causes := bits, faultLanes := lanes, faultAddr := addr }).raise c.id
      { c.causeRec cause lanes addr 0 with also := bits, log := true }

def execSt (f : F) (s : State) : Host.Outcome State Fault Refusal :=
  let n := accessBytes f.m
  .next (run (stSpec f)
    (fun c => s.storeChecks c (c.memAddr f (f.m.getLsbD 3)) n)
    noResume (fun c s =>
      if c.part = 0 then s.quick c (stSpec f) id
      else
        let addr := c.memAddr f (f.m.getLsbD 3)
        let e := { c.logEntry 0x101 f [(f.b, 1), (f.d, regsOf n)] with
          addrs := (lanesOf c.part).map fun l => (l, addr l), data := c.dataWords f.d (regsOf n), dRegs := c.fieldRegs f.d
          unchecked := s.untranslated c addr }
        let full := s.journalFull c addr
        if full.isEmpty then s.logIssue c (stSpec f) e else s.raiseFull c (stSpec f) e full) s)

/-! ### LDC and STC (07 R188, 02 R59-R62, R71) -/

/-- Ownership of the area bytes that the lanes touch, then their alignment. -/
def areaFails (f : F) (write : Bool) (c : Ctx) : List Fail :=
  let n := accessBytes f.m
  let tile := f.m.getLsbD 3
  (lanesOf c.part).flatMap fun l =>
    let off := c.areaOff f.a f.b l
    (match pendingIn (if tile then c.b.tpend else c.b.cpend) off n with
      | none => []
      | some k => [⟨l, cREG_PENDING, BitVec.ofNat 64 (if tile then c.b.tileAddr (4 * k) else c.b.commonAddr (4 * k))⟩]) ++
    (match (if tile then c.b.suspendedIn c.l.record off n else none) with
      | none => []
      | some o => [⟨l, cTILE_SUSPENDED, BitVec.ofNat 64 o⟩]) ++
    (match (if tile && write then c.b.aliasedIn c.l.record off n else none) with
      | none => []
      | some o => [⟨l, cALIAS_SUSPENDED, BitVec.ofNat 64 o⟩]) ++
    (if off % n ≠ 0 then [⟨l, cALIGN, BitVec.ofNat 64 off⟩] else [])

def ldcSpec (f : F) : Spec :=
  { cls := 2, ctl := f.ctl
    enc := anyForm f.a && anyForm f.b && vecForm f.d && decide (f.m.toNat < 16) && decide (f.m.toNat % 8 < 7)
    holdA := some f.a, holdB := some f.b, holdD := some f.d, srcs := [(f.a, 1), (f.b, 1)]
    dsts := [(f.d, regsOf (accessBytes f.m))], lat := 8, area := some (f.a, f.b, accessBytes f.m, f.m.getLsbD 3) }

/-- Bytes of an area. -/
def Block.areaBytes (b : Block) (tile : Bool) (off n : Nat) : List Byte :=
  (List.range n).map fun i => spGet 0 (if tile then b.tile else b.common) (off + i)

/-- Write bytes of an area. -/
def Block.setArea (b : Block) (tile : Bool) (off : Nat) (bs : List Byte) : Block :=
  let put := fun (m : Sparse Byte) => ((List.range bs.length).zip bs).foldl (fun m e => spSet 0 m (off + e.1) e.2) m
  if tile then { b with tile := put b.tile } else { b with common := put b.common }

def execLdc (f : F) (s : State) : Host.Outcome State Fault Refusal :=
  let n := accessBytes f.m
  .next (run (ldcSpec f) (areaFails f false) noResume (fun c s => if c.part = 0 then s.quick c (ldcSpec f) id else
    (s.fixed c (ldcSpec f) (c.laneWritesN f.d (regsOf n) fun l k =>
      loadedWord f.m (c.b.areaBytes (f.m.getLsbD 3) (c.areaOff f.a f.b l) n) k) 0).advance c.id) s)

def stcSpec (f : F) : Spec :=
  { cls := 2, ctl := f.ctl
    enc := anyForm f.a && anyForm f.b && vecForm f.d && decide (f.m.toNat < 16) &&
      !(f.m.toNat % 8 == 1 || f.m.toNat % 8 == 3 || f.m.toNat % 8 == 7)
    holdA := some f.a, holdB := some f.b, holdD := some f.d
    srcs := [(f.a, 1), (f.b, 1), (f.d, regsOf (accessBytes f.m))], area := some (f.a, f.b, accessBytes f.m, f.m.getLsbD 3) }

def execStc (f : F) (s : State) : Host.Outcome State Fault Refusal :=
  let n := accessBytes f.m
  .next (run (stcSpec f) (areaFails f true) noResume (fun c s =>
    s.quick c (stcSpec f) fun s => s.modBlock c.id fun b =>
      (lanesOf c.part).foldl (fun b l =>
        b.setArea (f.m.getLsbD 3) (c.areaOff f.a f.b l) (storedBytes n fun k => c.laneReg f.d k l)) b) s)

/-! ### ATOM and RED (07 R189-R192) -/

def atomOp (m : BitVec 6) : Nat := m.toNat / 4
def atomBytes (m : BitVec 6) : Nat := if atomWide m then 8 else 4

/-- The value that an atomic leaves, from the old one and its data words, low word first (07 R189). -/
def atomNew (op : Nat) (old : W64) (d : Nat → W64) : W64 :=
  let o := old.extractLsb' 0 32
  let x := (d 0).extractLsb' 0 32
  let wide := fun i => (d (i + 1)).extractLsb' 0 32 ++ (d i).extractLsb' 0 32
  let r : W32 :=
    match op with
    | 0 => o + x
    | 2 => (add32 o x).val
    | 3 => if x.toNat < o.toNat then x else o
    | 4 => if x.toInt < o.toInt then x else o
    | 5 => if o.toNat < x.toNat then x else o
    | 6 => if o.toInt < x.toInt then x else o
    | 7 => floatMinMax 2 false o x
    | 8 => floatMinMax 2 true o x
    | 9 => o &&& x
    | 10 => o ||| x
    | 11 => o ^^^ x
    | 12 => x
    | _ => if o = x then (d 1).extractLsb' 0 32 else o
  if op = 1 then old + wide 0
  else if op = 14 then wide 0
  else if op = 15 then (if old = wide 0 then wide 2 else old)
  else r.zeroExtend 64

/-- Locks and addresses of an atomic: an address in a reduction window is not translated here (23 R396). -/
def State.atomFails (s : State) (f : F) (c : Ctx) : List Fail :=
  let addr := c.memAddr f false
  ((s.lockFails c addr (atomBytes f.m) true).filter fun x => (s.windowOf c.l.tenant (addr x.lane)).isNone) ++
    c.addressFails addr (atomBytes f.m)

def atomSpec (f : F) : Spec :=
  { cls := 2, ctl := f.ctl, enc := isScal f.a && anyForm f.b && vecForm f.d
    holdA := some f.a, holdB := some f.b, holdD := some f.d, srcs := [(f.a, 1), (f.b, 1), (f.d, atomData f.m)]
    dsts := [(f.d, if atomWide f.m then 2 else 1)], logs := true, acq := true }

def redSpec (f : F) : Spec :=
  { cls := 2, ctl := f.ctl, enc := isScal f.a && anyForm f.b && vecForm f.d && decide (atomOp f.m < 12) && !f.m.getLsbD 0
    holdA := some f.a, holdB := some f.b, holdD := some f.d, srcs := [(f.a, 1), (f.b, 1), (f.d, atomData f.m)]
    logs := true, acq := true }

/-- Issue of an atomic: with .rel it first forces and seals (04 R99, R100). -/
def State.atomIssue (s : State) (c : Ctx) (sp : Spec) (op : BitVec 10) (f : F) (dests : List Nat) : State :=
  let addr := c.memAddr f false
  let e := { c.logEntry op f [(f.b, 1), (f.d, atomData f.m)] with
    addrs := (lanesOf c.part).map fun l => (l, addr l), data := c.dataWords f.d (atomData f.m), dRegs := c.fieldRegs f.d
    dests := dests, unchecked := s.untranslated c addr }
  if f.m.getLsbD 1 then s.publishFirst c false fun s =>
    (s.modBlock c.id fun b => b.sealBy c.id.wave).logIssue c sp { e with sealNo := some c.b.journal.phase, phase := c.b.journal.phase + 1 }
  else s.logIssue c sp e

def execAtom (f : F) (s : State) : Host.Outcome State Fault Refusal :=
  .next (run (atomSpec f) (fun c => s.atomFails f c) noResume (fun c s =>
    if c.part = 0 then s.quick c (atomSpec f) id
    else s.atomIssue c (atomSpec f) 0x104 f (c.destWords f.d (if atomWide f.m then 2 else 1))) s)

def execRed (f : F) (s : State) : Host.Outcome State Fault Refusal :=
  .next (run (redSpec f) (fun c => s.atomFails f c) noResume (fun c s =>
    if c.part = 0 then s.quick c (redSpec f) id else s.atomIssue c (redSpec f) 0x105 f []) s)

/-! ### TRANSLATION_WALK for a thread's access (22 R373, R374) -/

/-- Rights that an access needs (07 R187, R189). -/
def LogEntry.rights (e : LogEntry) : List Nat :=
  if e.opcode = 0x100 ∨ e.opcode = 0x106 then [rREAD] else if e.opcode = 0x101 then [rWRITE] else [rREAD, rWRITE]

/-- The outcome of a lane's walk: a failure, or its page; a lane that has not met the range-lock table meets it (04 R111). -/
def State.walkLane (s : State) (core : Nat) (l : Launch) (e : LogEntry) (ln : Nat) : Except Fail (List (Nat × Nat)) :=
  let a := e.addrAt ln
  match (if e.isAtomic then s.windowOf l.tenant a else none) with
  | some _ => if 12 ≤ atomOp e.fields.m then .error ⟨ln, cPROT_PAGE, a⟩ else .ok []
  | none =>
    match addressCause e.bytes a with
    | some k => .error ⟨ln, k, a⟩
    | none => match s.translate l.asid l.tenant a.toNat e.rights with
      | .error k => .error ⟨ln, k, a⟩
      | .ok pa =>
        if e.isAccess && e.unchecked.getLsbD ln && s.lineLocked core (pa / 64) (e.opcode != 0x100) then .error ⟨ln, cRANGE_LOCKED, a⟩
        else .ok [(a.toNat / 65536, pa / 65536)]

/-- Enter a store in the journal: all lanes as one unit, the highest lane's byte standing (04 R95, 07 R187). -/
def State.journalStore (s : State) (j : Journal) (wave : Nat) (e : LogEntry) (pages : List (Nat × Nat)) : State × Journal :=
  e.addrs.foldl (fun (q : State × Journal) a =>
    let bs := storedBytes e.bytes fun k => ((spFind e.data (a.1 * 4 + k)).getD 0).extractLsb' 0 32
    ((List.range bs.length).zip bs).foldl (fun q x => q.1.journalPut q.2 e.phase wave e.seq (physOf pages a.2.toNat + x.1) x.2) q) (s, j)

/-- Translations of lanes that succeeded are held, those of lanes that failed are not (22 R376, R379); an address in a window
is not translated here (23 R396). -/
def State.holdLanes (s : State) (l : Launch) (e : LogEntry) (outs : List (Nat × Except Fail (List (Nat × Nat)))) : State :=
  outs.foldl (fun s o => match o.2 with
    | .error _ => s.unhold l.asid (e.addrAt o.1).toNat
    | .ok [] => s
    | .ok _ => s.hold l.asid l.tenant (e.addrAt o.1).toNat e.rights) s

/-- A window's translation at its home is not held: it walks anew (22 R376, R379). -/
def State.unholdHome (s : State) (win : Nat) (a : W64) : State :=
  s.unhold ((s.pkgR (0x4C1 + 2 * win)).extractLsb' 16 8).toNat a.toNat

/-- Translations of an access are not held, at the home of its window or here: it walks anew (22 R376, R379). -/
def State.unholdLanes (s : State) (l : Launch) (e : LogEntry) (as : List W64) : State :=
  as.foldl (fun s a => match (if e.isAtomic then s.windowOf l.tenant a else none) with
    | some win => s.unholdHome win a
    | none => s.unhold l.asid a.toNat) s

/-- The journal has no room for the lines that a store needs and the journal does not hold (04 R97). -/
def State.storeShort (s : State) (b : Block) (wave i : Nat) (e : LogEntry) (pages : List (Nat × Nat)) : Option W64 :=
  let b := { b with waves := spMod b.waves wave fun w => { w with log := spDel w.log i } }
  s.journalLacks b e.phase (e.addrs.map fun a => (a.2, physOf pages a.2.toNat / 64)) true

/-- A scan holds a line of the pools in which a journal keeps its bytes and masks (04 R94, 11 R293). -/
def State.poolHeld (s : State) (j : Journal) : Bool :=
  s.scanMeets [(s.jdata j 0 / 64, (s.jdata j 0 + 1048575) / 64), (s.jmask j 0 / 64, (s.jmask j 0 + 131071) / 64)]

/-- A request may be sent: the wave's order lets it, the publish of a .rel atomic is complete, and its tag is free (04 R99,
R117, R120). -/
def State.sendable (s : State) (l : Launch) (b : Block) (w : Wave) (e : LogEntry) : Bool :=
  !s.orderHeld l b w e && s.released b w e && s.tagFree b e.phase

/-- The walk of LD, ST, ATOM, RED and ALD ends: a failure goes back through the log; a store enters the journal once the
wave's older accesses to its bytes have performed; any other access goes on to its home once it may be sent. A re-issue is
checked anew and walks anew (22 R379). It waits for a scan of the journal's pools, as every write to their lines does (11 R293). A store that a seal has moved to the next phase after its check waits for drains where it lacks room; one whose
lines were not checked at its issue fails (04 R97; DEDUCED, log 57). -/
def State.walkAccess (s : State) (id : WaveId) (i : Nat) (e : LogEntry) (l : Launch) : State :=
  match s.block? id with
  | none => s
  | some b =>
    let w := s.wave id
    let again := w.reissue.head? == some i
    let e := if again then { w.recapture e with unchecked := e.lanes } else e
    let s := if again then s.unholdLanes l e (e.addrs.map Prod.snd) else s
    let outs := (lanesOf (e.lanes &&& ~~~e.done)).map fun ln => (ln, s.walkLane id.core l e ln)
    let fs := outs.filterMap fun o => match o.2 with
      | .error x => some x
      | .ok _ => none
    let pages := (outs.flatMap fun o => match o.2 with
      | .error _ => []
      | .ok p => p).eraseDups
    let t := s.holdLanes l e outs
    if !fs.isEmpty then t.failEntry id i fs
    else if e.opcode = 0x101 then
      if s.orderHeld l b w e || s.poolHeld b.journal then t
      else match s.storeShort b id.wave i e pages with
        | some a => if e.unchecked = 0 then t else t.failEntry id i (failAll e.lanes cJOURNAL_FULL a)
        | none =>
          let q := t.journalStore b.journal id.wave e pages
          (q.1.modBlock id fun b => { b with journal := q.2 }).endEntry id i
    else if !s.sendable l b w e then t
    else t.modEntry id i fun _ => { e with stage := 1, pages := pages }

/-! ### LOAD_RESPONSE (07 R185) -/

/-- A destination word takes a value that arrives (02 R70, R72): an earlier fixed-latency result of the same word that no
stall field covers may still stand (05 R133). -/
def Wave.land (w : Wave) (tick d : Nat) (x : W32) : Wave :=
  let n := d / 32
  let l := d % 32
  let same := fun (o : OldReg) => o.reg == .vec n && o.lane == l
  let stands := (w.inflight.any fun p => !p.landed && p.short != 0 && p.regs.any same) && Config.freeBit tick d
  let w := { w with pend := spSet false w.pend d false }
  if stands then w
  else { (w.vset n l x) with inflight := w.inflight.map fun p => { p with regs := p.regs.filter fun o => !same o } }

def Wave.landAll (w : Wave) (tick : Nat) (ws : List (Nat × W32)) : Wave :=
  ws.foldl (fun w x => w.land tick x.1 x.2) w

/-- The byte that a load of the block reads (04 R96). -/
def State.loadByte (s : State) (b : Block) (pa : Nat) : Byte := (s.journalByte b.journal pa).getD (s.readByte pa)

/-- MEM_POISON of the lanes that touch a poisoned unit, at the unit's address (04 R420, 19 R335). -/
def State.poisonFails (s : State) (e : LogEntry) : List Fail :=
  (lanesOf (e.lanes &&& ~~~e.done)).filterMap fun l =>
    let a := (e.addrAt l).toNat
    let pa := physOf e.pages a
    (s.poisonIn pa e.bytes).map fun u => ⟨l, cMEM_POISON, BitVec.ofNat 64 (a / 8 * 8 + (u - pa / 8 * 8))⟩

/-- A journal of the block holds the byte at a physical address, or may hold it, in a poisoned unit of the pools. -/
def State.journalPoisoned (s : State) (j : Journal) (pa : Nat) : Bool :=
  j.lines.any fun l => l.line == pa / 64 && s.jpoisoned j l (pa % 64)

/-- MEM_POISON of a load whose bytes the journal gives from poisoned units of the pools, at the unit of the load that the byte
lies in (04 R420). -/
def State.journalFails (s : State) (b : Block) (e : LogEntry) : List Fail :=
  (lanesOf e.lanes).filterMap fun l =>
    let a := (e.addrAt l).toNat
    let pa := physOf e.pages a
    ((List.range e.bytes).find? fun i => s.journalPoisoned b.journal (pa + i)).map fun i =>
      ⟨l, cMEM_POISON, BitVec.ofNat 64 ((a + i) / 8 * 8)⟩

/-- Byte i of a lane's load: of a unit that it has read already, or as it stands (04 R102). -/
def State.laneByte (s : State) (b : Block) (e : LogEntry) (l i : Nat) : Byte :=
  match spFind e.data (2 * l + i / 8) with
  | some x => x.extractLsb' (8 * (i % 8)) 8
  | none => s.loadByte b (physOf e.pages (e.addrAt l).toNat + i)

/-- The words a load lands, in the order of its destinations. -/
def State.loadWords (s : State) (b : Block) (e : LogEntry) : List (Nat × W32) :=
  e.dests.zip ((lanesOf e.lanes).flatMap fun l =>
    let bs := (List.range e.bytes).map fun i => s.laneByte b e l i
    (List.range (regsOf e.bytes)).map fun k => loadedWord e.fields.m bs k)

/-- A load of 16 bytes reads one of its units, which is free, before the other (04 R102). -/
def State.loadUnit (s : State) (b : Block) (e : LogEntry) (i : Nat) : LogEntry :=
  let u := if Config.freeBit s.tick i then 1 else 0
  { e with data := (lanesOf e.lanes).map fun l => (2 * l + u,
      BitVec.ofNat 64 (natOfBytes ((List.range 8).map fun k => s.laneByte b e l (8 * u + k)))) }

/-- The words an atomic returns. -/
def LogEntry.oldWords (e : LogEntry) : List (Nat × W32) :=
  e.dests.zip ((lanesOf e.lanes).flatMap fun l =>
    (List.range (regsOf e.bytes)).map fun k => ((spFind e.old l).getD 0).extractLsb' (32 * k) 32)

/-- A load has been sent and may perform. -/
def LogEntry.loadReady (e : LogEntry) : Bool := e.state == 1 && e.opcode == 0x100 && e.stage == 1

/-- A load performs and its values land; the value of an atomic that has performed lands. -/
def State.loadResponse (s : State) (id : WaveId) (i : Nat) : State :=
  match s.block? id, spFind (s.wave id).log i with
  | some b, some e =>
    if e.loadReady then
      let fs := s.poisonFails e ++ s.journalFails b e
      if !fs.isEmpty then s.failEntry id i fs
      else if e.bytes = 16 ∧ e.data = [] then s.modEntry id i fun e => s.loadUnit b e i
      else (s.modWave id fun w => w.landAll s.tick (s.loadWords b e)).endEntry id i
    else if e.state ≠ 1 then s
    else if e.opcode = 0x104 ∧ e.stage = 2 then (s.modWave id fun w => w.landAll s.tick e.oldWords).endEntry id i
    else s
  | _, _ => s

def execLoadResponse (id : WaveId) (i : Nat) (s : State) : Host.Outcome State Fault Refusal := .next (s.loadResponse id i)

/-! ### Reduction windows (12 R304, R305, 23 R396-R398) -/

/-- A contribution may be merged with one that waits for the same address and operation, or, where the launch asks for the
fixed order, joins the collection of its phase tag (12 R304, R305). -/
def State.joinGroup (s : State) (g : WinGroup) (salt : Nat) : State :=
  match s.wingroups.find? fun x => x.2.window == g.window && x.2.addr == g.addr && x.2.oper == g.oper && x.2.det == g.det && x.2.pa == g.pa &&
      !x.2.applied && (if g.det then x.2.tag == g.tag else Config.freeBit s.tick (x.1 + salt)) with
  | some x => { s with wingroups := spMod s.wingroups x.1 fun x => { x with parts := x.parts ++ g.parts } }
  | none => { s with wingroups := spPut s.wingroups s.nextGroup g, nextGroup := s.nextGroup + 1 }

/-- A lane's contribution leaves for its window; it has performed when it is acknowledged. In the fixed order another package's home needs
a close after it (23 R398). -/
def State.contribute (s : State) (b : Block) (l : Launch) (id : WaveId) (i win : Nat) (e : LogEntry) (ln : Nat) : State :=
  let a := e.addrAt ln
  let op := atomOp e.fields.m
  let det := l.record.detReduce
  let v := (if op = 1 then ((spFind e.data (ln * 4 + 1)).getD 0 <<< 32) else 0) ||| (spFind e.data (ln * 4)).getD 0
  let part : Contribution := ⟨s.ownPackage l.tenant, id, i, ln, v, b.uid, e.phase, e.opcode == 0x104, 0⟩
  let s := if !det || s.homeHere win then s
    else { s with closesSent := s.closesSent.filter (· != (l.tenant, e.phase % 2, s.homeOf win)) }
  s.joinGroup ⟨win, a, op, det, e.phase % 2 == 1, [part], false, 0, none, physOf e.pages a.toNat⟩ ln

/-- An atomic has performed in every lane: a returning one goes back, any other is over. -/
def State.settleAtomic (s : State) (id : WaveId) (i : Nat) : State :=
  match spFind (s.wave id).log i with
  | none => s
  | some e =>
    if e.state ≠ 1 ∨ e.lanes &&& ~~~e.done ≠ 0 then s
    else if e.opcode = 0x104 then s.modEntry id i fun e => { e with stage := 2 } else s.endEntry id i

/-! ### ATOMIC_AT_HOME (04 R104, 07 R190) -/

/-- An atomic changes its bytes at home. Poison takes no change (04 R420); one that returns a value and has met none before it began has
performed before a poison that is found since (07 R184; DEDUCED, log 90), and its bytes stand under it. -/
def State.atomWrite (s : State) (pa : Nat) (ret : Bool) (bs : List Byte) : State :=
  if (s.poisonIn pa bs.length).isNone then s.writeBytes pa bs
  else if ret then { (({ s with poison := [] } : State).writeBytes pa bs) with poison := s.poison } else s

/-- One lane's atomic at its home. -/
def State.atomLane (s : State) (id : WaveId) (i : Nat) (e : LogEntry) (ln : Nat) : State :=
  let pa := physOf e.pages (e.addrAt ln).toNat
  let old : W64 := BitVec.ofNat 64 (s.readNat pa e.bytes)
  let s := s.atomWrite pa (e.opcode == 0x104)
    (bytesOfNat e.bytes (atomNew (atomOp e.fields.m) old fun k => (spFind e.data (ln * 4 + k)).getD 0).toNat)
  s.modEntry id i fun e => { e with done := e.done ||| (1#32 <<< ln), old := spPut e.old ln old }

/-- Lanes of an atomic that have neither performed nor sent a contribution. -/
def LogEntry.left (e : LogEntry) : BitVec 32 := e.lanes &&& ~~~e.done &&& ~~~e.sent

/-- An atomic has been sent and may perform in lanes that it has left. -/
def LogEntry.atomReady (e : LogEntry) : Bool := e.isAtomic && e.state == 1 && e.stage == 1 && e.left != 0

/-- What a home in another package answers, which is free: no failure, or one of those it may meet (23 R398; DESIGN CHOICE,
log 12). -/
def farFailure (n : Nat) : Option Nat :=
  match n % 4 with
  | 1 => some cPAGE_FAULT
  | 2 => some cPROT_PAGE
  | 3 => some cMEM_POISON
  | _ => none

/-- What an atomic meets before its first lane performs, so that it has no effect in any lane (07 R184): poison where it
returns a value, and in a window a translation that fails at its home (23 R398); what a home in another package answers is free
(DESIGN CHOICE, log 12). -/
def State.atomFaults (s : State) (l : Launch) (e : LogEntry) : List Fail :=
  if e.begun then []
  else
    let ret := e.opcode == 0x104
    let plain := if ret then (s.poisonFails e).filter fun x => (s.windowOf l.tenant (e.addrAt x.lane)).isNone else []
    plain ++ (lanesOf e.left).filterMap fun ln => match s.windowOf l.tenant (e.addrAt ln) with
      | none => none
      | some win =>
        let home := s.pkgR (0x4C1 + 2 * win)
        let a := e.addrAt ln
        let unit : W64 := BitVec.ofNat 64 (a.toNat / 8 * 8)
        if !s.homeHere win then (farFailure (Config.choose (s.tick + ln))).bind fun k =>
          if k = cMEM_POISON then (if ret then some ⟨ln, k, unit⟩ else none) else some ⟨ln, k, a⟩
        else match s.translate (home.extractLsb' 16 8).toNat (home.extractLsb' 24 4).toNat a.toNat [rREAD, rWRITE] with
          | .error k => some ⟨ln, k, a⟩
          | .ok pa => if ret && (s.poisonIn pa e.bytes).isSome then some ⟨ln, cMEM_POISON, unit⟩ else none

/-- An atomic that has met no fault begins: what its window addresses translate to at a home in this package is held with it (22 R376,
23 R398), so that nothing fails once a lane has performed. -/
def State.beginAtomic (s : State) (l : Launch) (id : WaveId) (i : Nat) (e : LogEntry) : State :=
  if e.begun then s
  else
    let outs := (lanesOf e.left).filterMap fun ln => (s.windowOf l.tenant (e.addrAt ln)).bind fun win =>
      let home := s.pkgR (0x4C1 + 2 * win)
      let asid := (home.extractLsb' 16 8).toNat
      let tenant := (home.extractLsb' 24 4).toNat
      let a := (e.addrAt ln).toNat
      if !s.homeHere win then none else match s.translate asid tenant a [rREAD, rWRITE] with
        | .error _ => none
        | .ok pa => some (asid, tenant, a, pa)
    (outs.foldl (fun s x => s.hold x.1 x.2.1 x.2.2.1 [rREAD, rWRITE]) s).modEntry id i fun e =>
      { e with begun := true, pages := e.pages ++ outs.map fun (x : Nat × Nat × Nat × Nat) => (x.2.2.1 / 65536, x.2.2.2 / 65536) }

/-- The lanes that perform in this step: those of one address, in ascending order; which address comes first is free (07
R190). -/
def State.atomNow (s : State) (l : Launch) (e : LogEntry) : List Nat :=
  let left := (lanesOf e.left).filter fun ln =>
    (s.windowOf l.tenant (e.addrAt ln)).isSome || !s.sieveHeld (physOf e.pages (e.addrAt ln).toNat / 64)
  let as := (left.map e.addrAt).eraseDups
  let a := as.getD (Config.choose s.tick % as.length) 0
  left.filter fun ln => e.addrAt ln == a

/-- The lanes of one address perform, or their contributions leave. -/
def State.atomicAtHome (s : State) (id : WaveId) (i : Nat) : State :=
  match s.block? id, spFind (s.wave id).log i with
  | some b, some e => match s.launchOf b with
    | none => s
    | some l =>
      if !e.atomReady then s
      else
        let fs := s.atomFaults l e
        if !fs.isEmpty then (s.unholdLanes l e (fs.map Fail.addr)).failEntry id i fs
        else
          let now := s.atomNow l e
          let s := s.beginAtomic l id i e
          let e := (spFind (s.wave id).log i).getD e
          let s := now.foldl (fun s ln =>
            match s.windowOf l.tenant (e.addrAt ln) with
            | none => s.atomLane id i e ln
            | some win => (s.contribute b l id i win e ln).modEntry id i fun e => { e with sent := e.sent ||| (1#32 <<< ln) }) s
          s.settleAtomic id i
  | _, _ => s

def execAtomicAtHome (id : WaveId) (i : Nat) (s : State) : Host.Outcome State Fault Refusal := .next (s.atomicAtHome id i)

/-! ### Windows at their home -/

def dataOf (v : W64) (k : Nat) : W64 := if k = 0 then v &&& 0xFFFFFFFF else v >>> 32

/-- Contributions merged into one value (12 R304). -/
def mergeParts (op : Nat) : List W64 → W64
  | [] => 0
  | v :: t => t.foldl (fun acc x => atomNew op acc (dataOf x)) v

/-- Apply the merged value of a group once at the home of its address: the machine after it, and the value before (12 R304, 23 R398). -/
def State.applyWindow (s : State) (g : WinGroup) (v : W64) : State × W64 :=
  let n := if g.oper = 1 then 8 else 4
  let old : W64 := BitVec.ofNat 64 (s.readNat g.pa n)
  (s.atomWrite g.pa (g.parts.any Contribution.ret) (bytesOfNat n (atomNew g.oper old (dataOf v)).toNat), old)

def State.modGroup (s : State) (k : Nat) (f : WinGroup → WinGroup) : State := { s with wingroups := spMod s.wingroups k f }

/-- A group's line is held by a scan. -/
def State.windowHeld (s : State) (g : WinGroup) : Bool := s.homeHere g.window && s.sieveHeld (g.pa / 64)

/-- Contributions enter the collection of their phase tag and are acknowledged (23 R398). -/
def State.enterCollection (s : State) (k : Nat) : State :=
  s.modGroup k fun g => { g with parts := g.parts.map fun p => if p.stage = 0 then { p with stage := 1 } else p }

/-- A contribution of another package reaches a window homed here: an input, as the switches bring it (04 R106, 12 R304,
23 R398; DESIGN CHOICE, log 82). Where its address does not translate it is not applied, the translation is not held, and the failure
goes back to it (22 R379, 23 R398); those of this package have met theirs before they left. -/
def State.windowAdmit (s : State) : State :=
  match s.winArrivals with
  | [] => s
  | g :: rest =>
    let s := { s with winArrivals := rest }
    let home := s.pkgR (0x4C1 + 2 * g.window)
    let asid := (home.extractLsb' 16 8).toNat
    let tenant := (home.extractLsb' 24 4).toNat
    if !s.homeHere g.window then s
    else match s.translate asid tenant g.addr.toNat [rREAD, rWRITE] with
      | .error c => { s.unholdHome g.window g.addr with
        wingroups := spPut s.wingroups s.nextGroup { g with applied := true, failed := some c }
        nextGroup := s.nextGroup + 1 }
      | .ok pa => (s.hold asid tenant g.addr.toNat [rREAD, rWRITE]).joinGroup { g with pa := pa } 0

/-- WINDOW_CONTRIBUTION_APPLY: a merged contribution is applied as one write, or enters the collection of its phase tag
(04 R106, 12 R305); a home in another package returns values that are free (DESIGN CHOICE, log 12); its failures were met before the first lane. A number that
no group has admits a contribution of another package. -/
def State.windowApply (s : State) (k : Nat) : State :=
  match spFind s.wingroups k with
  | none => s.windowAdmit
  | some g =>
    if g.applied || !(g.parts.any fun p => p.stage == 0) then s
    else if g.det then s.enterCollection k
    else if !s.homeHere g.window then s.modGroup k fun g =>
      { g with applied := true, value := Config.freeWord s.tick }
    else if s.windowHeld g then s
    else
      let (s, old) := s.applyWindow g (mergeParts g.oper (g.parts.map Contribution.value))
      s.modGroup k fun g => { g with applied := true, value := old }

def execWindowContributionApply (k : Nat) (s : State) : Host.Outcome State Fault Refusal := .next (s.windowApply k)

/-- A contribution of this package. -/
def State.ownPart (s : State) (g : WinGroup) (p : Contribution) : Bool :=
  p.package == s.ownPackage ((s.pkgR (0x4C1 + 2 * g.window)).extractLsb' 24 4).toNat

/-- The acknowledgement of one contribution: its lane has performed, with the value that the group gives it (23 R398). That of another
package's contribution leaves this one. -/
def State.ackPart (s : State) (g : WinGroup) (p : Contribution) : State :=
  if !s.ownPart g p then s else
  match s.block? p.w with
  | none => s
  | some b =>
    if b.uid ≠ p.uid then s
    else (s.modEntry p.w p.entry fun e =>
      { e with old := spPut e.old p.lane g.value, done := e.done ||| (1#32 <<< p.lane) }).settleAtomic p.w p.entry

/-- The contributions of a group that are acknowledged next: all of an applied one; in the fixed order those that return nothing once
they have entered the collection (23 R398). -/
def WinGroup.back (g : WinGroup) : List Contribution :=
  g.parts.filter fun p => decide (p.stage < 2) && (g.applied || (p.stage == 1 && !p.ret))

/-- WINDOW_ACK_RECEIVE: one acknowledgement to each contribution of the group that is due (23 R398). -/
def State.windowAck (s : State) (k : Nat) : State :=
  match spFind s.wingroups k with
  | none => s
  | some g =>
    let s := s.modGroup k fun x => { x with parts := x.parts.map fun p => if p ∈ g.back then { p with stage := 2 } else p }
    let s := g.back.foldl (fun s p => s.ackPart g p) s
    if g.applied then { s with wingroups := spDel s.wingroups k } else s

def execWindowAckReceive (k : Nat) (s : State) : Host.Outcome State Fault Refusal := .next (s.windowAck k)

/-- Collections of a tenant's windows under a phase tag. -/
def State.collections (s : State) (tenant tag : Nat) : List (Nat × WinGroup) :=
  s.wingroups.filter fun g => g.2.det && !g.2.applied && g.2.tag == (tag == 1) &&
    ((s.pkgR (0x4C1 + 2 * g.2.window)).extractLsb' 24 4).toNat == tenant

/-- The block with a unique number, resident or saved (21 R363). -/
def State.anyBlock (s : State) (uid : Nat) : Option Block :=
  match s.blockOfUid uid with
  | some b => some b
  | none => (s.saved.find? fun c => c.block.uid == uid).map SavedSlot.block

/-- Of some collections, every block of this package that contributed, a saved one among them, has sealed its next phase and has had its
contributions acknowledged; a killed block counts as having sealed (23 R398). -/
def State.settled (s : State) (gs : List (Nat × WinGroup)) : Bool :=
  gs.all fun g => g.2.parts.all fun p => !s.ownPart g.2 p ||
    (p.stage == 2 || (p.ret && p.stage == 1)) && (match s.anyBlock p.uid with
      | none => true
      | some b => b.killed || decide (p.phase < b.journal.phase))

/-- This package may close a tag. -/
def State.mayClose (s : State) (tenant tag : Nat) : Bool := s.settled (s.collections tenant tag)

/-- Collections of a tenant's windows under a phase tag whose home is this package. -/
def State.collectionsHere (s : State) (tenant tag : Nat) : List (Nat × WinGroup) :=
  (s.collections tenant tag).filter fun g => s.homeHere g.2.window

/-- Windows in force of a tenant. -/
def State.windowsOf (s : State) (tenant : Nat) : List Nat :=
  (List.range 16).filter fun w => (s.pkgR (0x4C0 + 2 * w)).getLsbD 63 && ((s.pkgR (0x4C1 + 2 * w)).extractLsb' 24 4).toNat == tenant

/-- Packages that are the home of a window of a tenant, but for the own one (23 R396, R398). -/
def State.homesOf (s : State) (tenant : Nat) : List Nat :=
  (((s.windowsOf tenant).map s.homeOf).eraseDups).filter fun p => p != s.ownPackage tenant

/-- Apply a collection: contributions in ascending source package, in the order they left it, one write (12 R305). -/
def State.applyCollection (s : State) (k : Nat) : State :=
  match spFind s.wingroups k with
  | none => s
  | some g =>
    if !s.homeHere g.window then s.modGroup k fun g => { g with applied := true, value := Config.freeWord s.tick }
    else
      let vs := (sortBy Contribution.package g.parts).map Contribution.value
      let (s, old) := s.applyWindow g (mergeParts g.oper vs)
      s.modGroup k fun g => { g with applied := true, value := old }

/-- close(t) goes from this package to the other homes of the tenant's windows. What such a home answers to a collection, and when its
other closes have come, is free (23 R398; DESIGN CHOICE, log 12). -/
def State.closeFar (s : State) (tenant tag : Nat) : State :=
  let far := (s.collections tenant tag).filter fun g => !s.homeHere g.2.window
  let s := far.foldl (fun s g => s.applyCollection g.1) s
  { s with closesSent := (s.closesSent ++ (s.homesOf tenant).map fun p => (tenant, tag, p)).eraseDups }

/-- close(t) of a package reaches this home; with every package of the group closed, the collections of the tag are applied, once no scan
holds a line of them (11 R293), and where this package has contributed since its close, once it may close again (DEDUCED, log 98). -/
def State.closeHere (s : State) (tenant tag package : Nat) : State :=
  let here : Nat × Nat × Nat := (tenant, tag, package)
  let closes := if here ∈ s.closes then s.closes else s.closes ++ [here]
  let gs := s.collectionsHere tenant tag
  if ((List.range (s.groupSize tenant)).all fun p => decide ((tenant, tag, p) ∈ closes)) && s.settled gs &&
      gs.all fun g => !s.windowHeld g.2 then
    gs.foldl (fun s g => s.applyCollection g.1) { s with closes := closes.filter fun c => !(c.1 == tenant && c.2.1 == tag) }
  else { s with closes := closes }

/-- WINDOW_CLOSE: a package has closed a tag, for the homes in this package and, of this package's own, for the others (23 R398). -/
def State.windowClose (s : State) (tenant tag package : Nat) : State :=
  if s.groupSize tenant ≤ package ∨ 2 ≤ tag ∨ (package = s.ownPackage tenant ∧ !s.mayClose tenant tag) then s
  else
    let s := if package = s.ownPackage tenant then s.closeFar tenant tag else s
    if (s.windowsOf tenant).any s.homeHere || !(s.collectionsHere tenant tag).isEmpty then s.closeHere tenant tag package else s

def execWindowClose (tenant tag package : Nat) (s : State) : Host.Outcome State Fault Refusal :=
  .next (s.windowClose tenant tag package)

/-! ### OPERAND_LOG_FAULT (07 R184, 19 R335, R338) -/

/-- The resumption in s125 of a cause that a held entry raises: that of its row (19 R335, R336). -/
def logResume (cause : Nat) : Nat := if cause = cRANGE_LOCKED ∨ cause = cJOURNAL_FULL ∨ cause = cALIGN then 0 else 1

/-- A fault found after issue is raised at the access that holds the entry; destination words stay pending. Of a wave that has
exited nothing is issued again, and the entry and its operation are freed (16 R317). -/
def State.operandLogFault (s : State) (id : WaveId) (i : Nat) : State :=
  match spFind (s.wave id).log i with
  | none => s
  | some e =>
    if e.state ≠ 1 ∨ e.stage ≠ 3 then s
    else
      let s := s.modEntry id i fun e => { e with state := 2 }
      let s := s.raiseFrom id e.seq {
        cause := e.cause, also := e.causes, pc := e.addr, addr := e.faultAddr, lanes := e.faultLanes, index := e.index
        code := 0, origin := 0, resume := logResume e.cause, seq := e.seq, log := true }
      if (s.wave id).live = 0 then (match e.op with
        | none => s
        | some n => { s.unlock n with ops := spDel s.ops n }).endEntry id i
      else if (s.wave id).reissue.head? = some i then s.nextReissue id else s

def execOperandLogFault (id : WaveId) (i : Nat) (s : State) : Host.Outcome State Fault Refusal := .next (s.operandLogFault id i)

/-! ### SEALED_LINE_APPLY (04 R99) -/

/-- The oldest sealed line of a physical line. -/
def Journal.oldestSealed (j : Journal) (line : Nat) : Option JLine :=
  minBy JLine.phase (j.lines.filter fun l => l.line == line && decide (l.phase < j.phase))

/-- The masked bytes of a line, as its place in the pools holds them. -/
def State.lineBytes (s : State) (j : Journal) (l : JLine) : List (Option Byte) := (List.range 64).map (s.jbyte j l)

/-- Change a block, resident or saved. -/
def State.modAny (s : State) (uid : Nat) (f : Block → Block) : State :=
  { s.modUid uid f with saved := s.saved.map fun c => if c.block.uid = uid then { c with block := f c.block } else c }

/-- A load or an atomic that has not performed. -/
def LogEntry.unread (e : LogEntry) : Bool := (e.opcode == 0x100 || e.isAtomic) && (e.state == 2 || e.stage != 2)

/-- A store of a seal's phase or an earlier one that has not entered the journal and may touch the line (04 R99). -/
def State.storeComes (s : State) (b : Block) (w : Wave) (l : JLine) (e : LogEntry) : Bool :=
  e.opcode == 0x101 && decide (e.phase ≤ l.phase) && !w.setAside e && (match s.launchOf b with
  | none => false
  | some r => (lanesOf e.lanes).any fun ln => match s.lanePhys r e ln with
    | some p => p / 64 == l.line
    | none => decide (e.phase < l.phase))

/-- What a sealed line waits for: the loads and atomics that a storing wave issued before its store (04 R122, note 6), and
stores that belong to the line or to an earlier line of its address (04 R99). -/
def State.sealedHeld (s : State) (b : Block) (l : JLine) : Bool :=
  (l.after.any fun a => (spFind b.waves a.1).any fun w => w.log.any fun x => x.2.unread && decide (x.2.seq < a.2)) ||
  b.waves.any fun w => w.2.log.any fun x => s.storeComes b w.2 l x.2

/-- A sealed line is applied at its home as one write of its masked bytes. -/
def State.sealedLineApply (s : State) (uid line : Nat) : State :=
  match s.anyBlock uid with
  | none => s
  | some b => match b.journal.oldestSealed line with
    | none => s
    | some l =>
      if s.sieveHeld line || s.sealedHeld b l || !s.tagFree b l.phase then s
      else (s.writeRun (line * 64) (s.lineBytes b.journal l)).modAny uid fun b =>
        { b with journal := { b.journal with lines := b.journal.lines.filter fun x => !(x.line == line && x.phase == l.phase) } }

def execSealedLineApply (uid line : Nat) (s : State) : Host.Outcome State Fault Refusal := .next (s.sealedLineApply uid line)

end Sys2Proof.Machine
end

