-- ==== Sys2Proof/Machine/Fronds.lean ====
section
/-! DEFINITION. Fronds: FEXP, FREV, FRD, FWR, the owner core's service and the response (02 R66-R73, 07 R197-R199, 13 R311,
R312). -/

namespace Sys2Proof.Machine

open Sys2Proof

/-! ### Handles (02 R66, R67) -/

/-- An index lies in the window. -/
def hInside (h : W64) (i : Nat) : Bool := decide (i < (if hAll h then 32 * hLen h else hLen h))

def State.frondGenOf (s : State) (id : WaveId) : BitVec 8 := spGet 0 s.frondGen (wfull id)

def State.bumpFrond (s : State) (id : WaveId) : State :=
  { s with frondGen := spSet 0 s.frondGen (wfull id) (s.frondGenOf id + 1) }

/-! ### FEXP and FREV (07 R197, R198) -/

def fexpSpec (f : F) : Spec := scalarSpec 2 f.ctl (f.b == 0 && f.m == 0) [f.a] (some f.d) 0

/-- The checks on the parameter word, in their order. -/
def fexpFails (f : F) (c : Ctx) : List Fail :=
  let p := c.scalar f.a
  if c.part = 0 then []
  else if (p &&& 0xFFFFFFFF80000003) != 0 || decide (4 < hScope p) || p.extractLsb' 25 2 == 0 || (hAll p && hLane p != 0) then
    failAll c.active cILLEGAL_OP 0
  else if c.budget < hBase p + hLen p then failAll c.active cREG_BOUND 0
  else []

/-- The completed handle. -/
def Ctx.handle (c : Ctx) (p : W64) (gen : BitVec 8) : W64 :=
  p ||| (gen.zeroExtend 64 <<< 56) ||| (BitVec.ofNat 64 (c.id.core % 4096) <<< 44) ||| (BitVec.ofNat 64 (c.id.slot % 16) <<< 40) |||
    (BitVec.ofNat 64 (c.id.wave % 32) <<< 35) ||| (BitVec.ofNat 64 (c.l.tenant % 16) <<< 31)

def execFexp (f : F) (s : State) : Host.Outcome State Fault Refusal :=
  .next (run (fexpSpec f) (fexpFails f) noResume (fun c s =>
    s.quick c (fexpSpec f) fun s =>
      if c.part = 0 then s else s.setS c.id (sdst f.d) (c.handle (c.scalar f.a) (s.frondGenOf c.id))) s)

def frevSpec (f : F) : Spec := scalarSpec 2 f.ctl (f.d == 0 && f.a == 0 && f.b == 0 && f.m == 0) [] none 0

def execFrev (f : F) (s : State) : Host.Outcome State Fault Refusal :=
  .next (run (frevSpec f) noFails noResume (fun c s =>
    s.quick c (frevSpec f) fun s => if c.part = 0 then s else s.bumpFrond c.id) s)

/-! ### FRD and FWR at the accessing core (07 R199, 13 R311) -/

/-- The accessor lies within the scope of the owner thread (02 R68). -/
def withinScope (h : W64) (i : Nat) (id : WaveId) (lane : Nat) : Bool :=
  match hScope h with
  | 0 => id == hOwner h && lane == (hTarget h i).1
  | 1 => id == hOwner h
  | 2 => id.core == hCore h && id.slot == hSlot h
  | 3 => dieOf id.core == dieOf (hCore h)
  | _ => true

/-- Checks 1 to 3. -/
def frondLocal (h : W64) (i tenant : Nat) (id : WaveId) (lane : Nat) : Option Nat :=
  if h.extractLsb' 0 2 != 0 || decide (4 < hScope h) || hTenant h != tenant || !withinScope h i id lane then
    some cPROT_FROND
  else none

def frondFails (f : F) (c : Ctx) : List Fail :=
  (lanesOf c.part).filterMap fun l =>
    (frondLocal (c.target f.a l) (c.lane f.b l 0).toNat c.l.tenant c.id l).map fun k => ⟨l, k, c.target f.a l⟩

def frondSpec (f : F) (write : Bool) : Spec :=
  { cls := 2, ctl := f.ctl, enc := targetForm f.a && anyForm f.b && vecForm f.d && f.m == 0
    holdA := some f.a, holdB := some f.b, holdD := some f.d
    srcs := [(f.a, if isVec f.a then 2 else 1), (f.b, 1)] ++ (if write then [(f.d, 1)] else [])
    dsts := if write then [] else [(f.d, 1)], logs := true, acq := true }

/-- Per lane: handle, index and datum, at keys 4L, 4L + 1 and 4L + 2. -/
def Ctx.frondData (c : Ctx) (f : F) (write : Bool) : Sparse W64 :=
  (lanesOf c.part).flatMap fun l =>
    [(4 * l, c.target f.a l), (4 * l + 1, (c.lane f.b l 0).zeroExtend 64)] ++
      (if write then [(4 * l + 2, (c.lane f.d l 0).zeroExtend 64)] else [])

def execFrd (f : F) (s : State) : Host.Outcome State Fault Refusal :=
  .next (run (frondSpec f false) (frondFails f) noResume (fun c s =>
    if c.part = 0 then s.quick c (frondSpec f false) id
    else s.logIssue c (frondSpec f false) { c.logEntry 0x112 f ((f.b, 1) :: if isVec f.a then [(f.a, 2)] else []) with
      data := c.frondData f false, dests := c.destWords f.d 1 }) s)

def execFwr (f : F) (s : State) : Host.Outcome State Fault Refusal :=
  .next (run (frondSpec f true) (frondFails f) noResume (fun c s =>
    if c.part = 0 then s.quick c (frondSpec f true) id
    else s.logIssue c (frondSpec f true) { c.logEntry 0x113 f ([(f.b, 1), (f.d, 1)] ++ if isVec f.a then [(f.a, 2)] else []) with
      data := c.frondData f true, dRegs := c.fieldRegs f.d }) s)

/-! ### At the owner core (02 R68-R73) -/

def LogEntry.isFrond (e : LogEntry) : Bool := e.opcode == 0x112 || e.opcode == 0x113

/-- At a re-issue the vector operands are read again (19 R338). -/
def Wave.refrond (w : Wave) (e : LogEntry) : LogEntry :=
  let f := e.fields
  { e with data := (lanesOf e.lanes).flatMap fun l =>
      [(4 * l, if isVec f.a then w.vget (vecNo f.a + 1) l ++ w.vget (vecNo f.a) l else e.handleAt l),
       (4 * l + 1, match spFind e.bRegs l with
        | none => BitVec.ofNat 64 (e.frondIdx l)
        | some n => (w.vget n l).zeroExtend 64),
       (4 * l + 2, match spFind e.dRegs l with
        | none => 0
        | some n => (w.vget n l).zeroExtend 64)] }

/-- Checks 4 to 7 of a lane, after 1 to 3. -/
def State.frondCause (s : State) (e : LogEntry) (id : WaveId) (tenant l : Nat) : Option Nat :=
  let h := e.handleAt l
  let i := e.frondIdx l
  match frondLocal h i tenant id l with
  | some k => some k
  | none => match s.wave? (hOwner h) with
    | none => some cSTALE_HANDLE
    | some w =>
      if s.frondGenOf (hOwner h) != hGen h then some cSTALE_HANDLE
      else if !(if e.opcode = 0x112 then h.getLsbD 25 else h.getLsbD 26) || !hInside h i then some cPROT_FROND
      else if w.pending (hTarget h i).2 (hTarget h i).1 then some cREG_PENDING
      else none

/-- A fixed-latency write to a word has not landed (02 R72). -/
def Wave.unlanded (w : Wave) (n l : Nat) : Bool :=
  w.inflight.any fun p => !p.landed && p.regs.any fun o => o.reg == .vec n && o.lane == l

/-- A word as it stands where results in flight have not landed. -/
def Wave.landedWord (w : Wave) (n l : Nat) : W32 :=
  ((firstSome (w.inflight.map fun p => if p.landed then none else
    (p.regs.find? fun o => o.reg == .vec n && o.lane == l).map fun o => o.old.extractLsb' 0 32))).getD (w.vget n l)

/-- An older Frond access of the wave to a common owner word has not performed: an older FWR goes before an FWR always, also
where it awaits its re-issue and the handler issues the younger one (04 R115). -/
def Wave.olderFrond (w : Wave) (e : LogEntry) : Bool :=
  w.log.any fun x => x.2.isFrond &&
    (w.before x.2 e.seq || (x.2.opcode == 0x113 && e.opcode == 0x113 && decide (x.2.seq < e.seq))) &&
    (lanesOf x.2.lanes).any fun a => (lanesOf e.lanes).any fun b => x.2.ownerWord a == e.ownerWord b

/-- The value read from an owner word; beyond the owner's registers the spec names none (DESIGN CHOICE, log 12). -/
def State.ownerRead (s : State) (e : LogEntry) (l : Nat) : W32 :=
  let o := e.ownerWord l
  match s.block? o.1 with
  | none => 0
  | some b => if b.budget ≤ o.2.1 then (Config.freeWord s.tick).extractLsb' 0 32 else (s.wave o.1).landedWord o.2.1 o.2.2

/-- The owner core accepts a write: the word is pending, and the allocation's tag is kept (02 R70, R73). -/
def State.acceptFwr (s : State) (id : WaveId) (i : Nat) (e : LogEntry) : State :=
  let tags := (lanesOf e.lanes).filterMap fun l => (s.block? (e.ownerWord l).1).map fun b => (l, b.uid, b.gen)
  let s := (lanesOf e.lanes).foldl (fun s l =>
    let o := e.ownerWord l
    s.modWave o.1 fun w => w.setPend [o.2.1 * 32 + o.2.2] true) s
  s.modEntry id i fun _ => { e with
    stage := 1
    data := e.data ++ tags.map (fun t => (4 * t.1 + 3, BitVec.ofNat 64 t.2.1))
    old := tags.map fun t => (t.1, BitVec.ofNat 64 t.2.2) }

/-- A lane's value lands in the owner's register, or is dropped by its tag and counted (02 R73). -/
def State.landFwr (s : State) (e : LogEntry) (l : Nat) : State := s.landFwrBut e none l

/-- FROND_OWNER_ACCESS: the owner core checks an access and reads, or accepts the write, which then lands. It is sent once its
tag is free (04 R117). Lanes with different owner cores are served in one step (DESIGN CHOICE, log 83). -/
def State.frondOwnerAccess (s : State) (id : WaveId) (i : Nat) : State :=
  match s.block? id, spFind (s.wave id).log i with
  | some b, some e0 => match s.launchOf b with
    | none => s
    | some l =>
      let w := s.wave id
      let e := if w.reissue.head? = some i ∧ e0.stage = 0 then w.refrond e0 else e0
      if !e.isFrond || e.state != 1 || w.olderFrond e || s.publishHeld b w e.seq then s
      else if e.stage = 0 ∧ s.tagFree b e.phase = false then s
      else if e.stage = 0 then
        let fs := (lanesOf e.lanes).filterMap fun ln =>
          (s.frondCause e id l.tenant ln).map fun k => (⟨ln, k, e.handleAt ln⟩ : Fail)
        if !fs.isEmpty then (s.modEntry id i fun _ => e).failEntry id i
          (fs.map fun x => { x with addr := ((fs.find? fun y => y.cause == x.cause).map Fail.addr).getD 0 })
        else if e.opcode = 0x112 then s.modEntry id i fun _ => { e with
          stage := 2, old := (lanesOf e.lanes).map fun ln => (ln, (s.ownerRead e ln).zeroExtend 64) }
        else if (lanesOf e.lanes).any fun ln => (s.wave (e.ownerWord ln).1).unlanded (e.ownerWord ln).2.1 (e.ownerWord ln).2.2 then s
        else s.acceptFwr id i e
      else if e.opcode = 0x113 ∧ e.stage = 1 then ((lanesOf e.lanes).foldl (fun s ln => s.landFwr e ln) s).endEntry id i
      else s
  | _, _ => s

def execFrondOwnerAccess (id : WaveId) (i : Nat) (s : State) : Host.Outcome State Fault Refusal := .next (s.frondOwnerAccess id i)

/-- FROND_RESPONSE: the values of an FRD land. -/
def State.frondResponse (s : State) (id : WaveId) (i : Nat) : State :=
  match spFind (s.wave id).log i with
  | none => s
  | some e =>
    if e.opcode = 0x112 ∧ e.state = 1 ∧ e.stage = 2 then
      (s.modWave id fun w => w.landAll s.tick (e.dests.zip ((lanesOf e.lanes).map fun l =>
        ((spFind e.old l).getD 0).extractLsb' 0 32))).endEntry id i
    else s

def execFrondResponse (id : WaveId) (i : Nat) (s : State) : Host.Outcome State Fault Refusal := .next (s.frondResponse id i)

end Sys2Proof.Machine
end

