-- ==== Sys2Proof/Machine/Sync.lean ====
section
/-! DEFINITION. The SYNC class: fences, barrier objects, phasers, stage queues, active messages and CSEG (07 R200-R211,
02 R63, 18 R320-R324). -/

namespace Sys2Proof.Machine

open Sys2Proof

/-- sD, A of the SYNC class. -/
def sy (f : F) (enc : Bool) (srcs : List (BitVec 10)) (d : Bool) : Spec :=
  scalarSpec 3 f.ctl enc srcs (if d then some f.d else none) 0

/-- A check that stops a scalar-class instruction which takes effect. -/
def Ctx.stop (c : Ctx) (cause : Option (Nat × W64)) : List Fail :=
  if c.part = 0 then []
  else match cause with
    | none => []
    | some k => failAll c.active k.1 k.2

/-- A scalar-class instruction with an immediate effect: it has none when no lane participates (06 R152). -/
def scalarAct (sp : Spec) (own : Ctx → List Fail) (act : Ctx → State → State) : State → State :=
  run sp own noResume fun c s => s.quick c sp fun s => if c.part = 0 then s else act c s

/-! ### FENCE and FWAIT (07 R200, R201, 04 R107-R109, 19 R329) -/

def fenceSpec (f : F) : Spec := sy f (f.a == 0 && f.b == 0 && decide (f.m.toNat < 7)) [] true

/-- A demoted fence traps when the policy says so: s123 is the requested scope. -/
def fenceFails (f : F) (s : State) (c : Ctx) : List Fail :=
  c.stop (if s.policyScope c.l.fn < f.m.toNat ∧ s.policyTrap c.l.fn then some (cSCOPE_DEMOTED, BitVec.ofNat 64 f.m.toNat) else none)

def fenceToken (seq scope : Nat) (demoted : Bool) : W64 :=
  BitVec.ofNat 64 (seq % 2 ^ 48) ||| (BitVec.ofNat 64 scope <<< 48) ||| (if demoted then 1#64 <<< 51 else 0)

/-- The token, the demotion's marks, and the seal at scope die or wider. -/
def State.fence (s : State) (c : Ctx) (d requested : Nat) : State :=
  let scope := min requested (s.policyScope c.l.fn)
  let demoted := decide (scope < requested)
  let s := if demoted then (s.countDemotion c.l.fn).modWave c.id fun w => { w with demoted := true } else s
  let s := if 3 ≤ scope then
      (s.modWave c.id fun w => { w with fences := w.fences ++ [(c.w.accesses, c.b.journal.phase)] }).modBlock c.id
        fun b => b.sealBy c.id.wave
    else s
  s.setS c.id d (fenceToken c.w.accesses scope demoted)

def execFence (f : F) (s : State) : Host.Outcome State Fault Refusal :=
  .next (run (fenceSpec f) (fenceFails f s) noResume (fun c s =>
    if c.part = 0 then s.quick c (fenceSpec f) id
    else
      let go := fun (s : State) => s.quick c (fenceSpec f) fun s => s.fence c (sdst f.d) f.m.toNat
      if 3 ≤ f.m.toNat then s.publishFirst c true go else go s) s)

def fwaitSpec (f : F) : Spec := sy f (f.d == 0 && f.b == 0 && f.m == 0) [f.a] false

def fwaitFails (f : F) (c : Ctx) : List Fail :=
  let t := c.scalar f.a
  c.stop (if t >>> 52 ≠ 0 ∨ t.extractLsb' 48 3 = 7 ∨ c.w.accesses < (t.extractLsb' 0 48).toNat then some (cILLEGAL_OP, 0) else none)

def execFwait (f : F) (s : State) : Host.Outcome State Fault Refusal :=
  .next (run (fwaitSpec f) (fwaitFails f) (fun c _ s => s.awaited c (fwaitSpec f) id) (fun c s =>
    if c.part = 0 then s.quick c (fwaitSpec f) id else s.awaitOr c (fwaitSpec f) (.fwait (c.scalar f.a)) id) s)

/-! ### Barrier objects (07 R202, R203) -/

def barNo (f : F) : Nat := f.m.toNat

def barSpec (f : F) (rest : Bool) (srcs : List (BitVec 10)) (d : Bool) : Spec := sy f (rest && decide (f.m.toNat < 16)) srcs d

/-- REG_BOUND of a barrier at or above the block's count, then the illegal uses. -/
def barFails (f : F) (illegal : Ctx → Bool) (c : Ctx) : List Fail :=
  c.stop (if c.b.nbar ≤ barNo f then some (cREG_BOUND, 0) else if illegal c then some (cILLEGAL_OP, 0) else none)

def Ctx.bar (c : Ctx) (f : F) : Barrier := c.b.bar (barNo f)

def binitSpec (f : F) : Spec := barSpec f (f.d == 0 && f.b == 0) [f.a] false

def execBinit (f : F) (s : State) : Host.Outcome State Fault Refusal :=
  .next (scalarAct (binitSpec f) (barFails f fun c => (c.scalar f.a).extractLsb' 0 16 == 0) (fun c s =>
    s.modBlock c.id fun b => b.setBar (barNo f) ⟨(c.scalar f.a).extractLsb' 0 16, 0, 0, 0, false⟩) s)

def barvSpec (f : F) : Spec := barSpec f (f.a == 0 && f.b == 0) [] true

def barvIllegal (f : F) (c : Ctx) : Bool := (c.bar f).expected == 0 || (c.bar f).arrived == (c.bar f).expected

/-- The arrival: the phase before it, the count, the wave's bit, and the phase's completion. -/
def State.arrive (s : State) (c : Ctx) (f : F) : State :=
  let x := c.bar f
  let s := s.modBlock c.id fun b => b.setBar (barNo f)
    (Barrier.settle { x with arrived := x.arrived + 1, mask := x.mask ||| (1#32 <<< c.id.wave) })
  s.setS c.id (sdst f.d) (if x.phase then 1 else 0)

/-- After its wait an arrival that has become illegal is one. -/
def barvResume (f : F) (c : Ctx) (_ : Wait) (s : State) : State :=
  let fs := barFails f (barvIllegal f) c
  if fs.isEmpty then s.awaited c (barvSpec f) fun s => s.arrive c f
  else (s.modWave c.id fun w => w.flagDown f.ctl.sig.toNat).raiseFails c fs

def execBarv (f : F) (s : State) : Host.Outcome State Fault Refusal :=
  .next (run (barvSpec f) (barFails f (barvIllegal f)) (barvResume f) (fun c s =>
    if c.part = 0 then s.quick c (barvSpec f) id else s.awaitOr c (barvSpec f) (.arrive (barNo f)) fun s => s.arrive c f) s)

def bcntSpec (f : F) : Spec := barSpec f (f.d == 0 && f.b == 0) [f.a] false

def execBcnt (f : F) (s : State) : Host.Outcome State Fault Refusal :=
  .next (scalarAct (bcntSpec f) (barFails f fun c => (c.bar f).expected == 0) (fun c s =>
    s.modBlock c.id fun b => b.setBar (barNo f)
      (Barrier.settle { c.bar f with bytes := (c.bar f).bytes + (c.scalar f.a).extractLsb' 0 32 })) s)

def bwaitSpec (f : F) : Spec := barSpec f (f.d == 0 && f.b == 0) [f.a] false

def execBwait (f : F) (s : State) : Host.Outcome State Fault Refusal :=
  .next (run (bwaitSpec f) (barFails f fun c => (c.bar f).expected == 0) (fun c _ s => s.awaited c (bwaitSpec f) id) (fun c s =>
    if c.part = 0 then s.quick c (bwaitSpec f) id
    else s.awaitOr c (bwaitSpec f) (.bwait (barNo f) ((c.scalar f.a).getLsbD 0)) id) s)

/-! ### Handles of the synchronisation engine (07 R204, R207, 19 R330) -/

/-- The causes of a handle: reserved bits and index, then the tenant's allotment. -/
def State.objectCause (s : State) (c : Ctx) (h : W64) (queue : Bool) : Option (Nat × W64) :=
  let idx := (h.extractLsb' 0 16).toNat
  let allot := s.dieR (h.extractLsb' 16 3).toNat (0x210 + c.l.tenant)
  let first := (allot.extractLsb' 0 16).toNat
  if h.extractLsb' 19 13 ≠ 0 ∨ (queue = true ∧ 4096 ≤ idx) then some (cILLEGAL_OP, 0)
  else if idx < first ∨ first + (allot.extractLsb' 16 16).toNat ≤ idx then some (cPROT_PAGE, h &&& 0xFFFFFFFF)
  else none

/-- The number of the object that a handle names: die and index. -/
def objectOf (h : W64) : Nat := (h.extractLsb' 0 19).toNat

/-! ### Phasers (07 R204-R206) -/

def State.setPhaser (s : State) (k : Nat) (p : Phaser) : State := { s with phasers := spSet noPhaser s.phasers k p }

/-- The phase advances while the signals equal a nonzero signal-member count; members whose last phase has passed leave. -/
def Phaser.advance : Nat → Phaser → Phaser
  | 0, p => p
  | n + 1, p =>
    let members := (p.members.filter fun m => m.signals).length
    if members ≠ 0 ∧ p.current = members then
      Phaser.advance n { p with
        phase := p.phase + 1, current := p.early, early := 0
        members := p.members.filter fun m => !(m.leaving && BitVec.ofNat 32 m.count == p.phase + 1) }
    else p

/-- Every advance that signals already made allow: the current phase and the next. -/
def Phaser.settle (p : Phaser) : Phaser := p.advance 3

/-- A wave's membership. A member that has dropped and not yet left is one still: it may signal with its rights, and PHREG answers
2 (DESIGN CHOICE, log 95). -/
def Phaser.member (p : Phaser) (b : Block) (wave : Nat) : Option Member := p.members.find? fun m => m.is b wave

/-- A member's next signal lies in the current phase or the next (07 R206). -/
def Phaser.maySignal (p : Phaser) (m : Member) : Bool := decide ((BitVec.ofNat 32 (m.count + 1) - p.phase).toNat ≤ 2)

/-- A signal of a member: its count grows, and it is counted in the current phase or as early. -/
def Phaser.signal (p : Phaser) (b : Block) (wave : Nat) : Phaser :=
  match p.member b wave with
  | none => p
  | some m =>
    let n := (m.count + 1) % 2 ^ 32
    let now := BitVec.ofNat 32 n == p.phase + 1
    Phaser.settle { p with
      current := if now then p.current + 1 else p.current
      early := if now then p.early else p.early + 1
      members := p.members.map fun x => if x.is b wave then { x with count := n } else x }

/-- PHDROP: a signalling member counts as a signal for the current phase if it has not signalled it, and leaves after the
last phase its signals reach; a waiting one leaves. -/
def Phaser.drop (p : Phaser) (b : Block) (wave : Nat) : Phaser :=
  match p.member b wave with
  | none => p
  | some m =>
    if !m.signals then { p with members := p.members.filter fun x => !x.is b wave }
    else
      let owes := BitVec.ofNat 32 m.count == p.phase
      Phaser.settle { p with
        current := if owes then p.current + 1 else p.current
        members := p.members.map fun x => if x.is b wave then
            { x with leaving := true, count := if owes then (x.count + 1) % 2 ^ 32 else x.count } else x }

/-- Memberships that a die's table holds. -/
def State.memberships (s : State) (die : Nat) : Nat :=
  s.phasers.foldl (fun n e => if e.1 / 65536 = die then n + e.2.members.length else n) 0

/-- Causes of a phaser handle, then of the wave's membership. -/
def State.phaserStop (s : State) (c : Ctx) (h : W64) (ok : Option Member → Bool) : List Fail :=
  c.stop (match s.objectCause c h false with
    | some k => some k
    | none => if ok ((s.phaser (objectOf h)).member c.b c.id.wave) then none else some (cILLEGAL_OP, 0))

def phregSpec (f : F) : Spec := sy f (f.b == 0 && decide (1 ≤ f.m.toNat) && decide (f.m.toNat < 4)) [f.a] true

def State.phreg (s : State) (c : Ctx) (f : F) : State :=
  let k := objectOf (c.scalar f.a)
  let p := s.phaser k
  if (p.member c.b c.id.wave).isSome then s.setS c.id (sdst f.d) (failCode 2)
  else if 262144 ≤ s.memberships (k / 65536) then s.setS c.id (sdst f.d) (failCode 1)
  else
    let m : Member := ⟨c.b.launch, c.b.linear, c.id.wave, f.m.getLsbD 0, f.m.getLsbD 1, p.phase.toNat, false⟩
    (s.setPhaser k { p with members := p.members ++ [m] }).setS c.id (sdst f.d) (p.phase.zeroExtend 64)

def execPhreg (f : F) (s : State) : Host.Outcome State Fault Refusal :=
  .next (scalarAct (phregSpec f) (fun c => s.phaserStop c (c.scalar f.a) fun _ => true) (fun c s => s.phreg c f) s)

def phdropSpec (f : F) : Spec := sy f (f.d == 0 && f.b == 0 && f.m == 0) [f.a] false

def execPhdrop (f : F) (s : State) : Host.Outcome State Fault Refusal :=
  .next (scalarAct (phdropSpec f) (fun c => s.phaserStop c (c.scalar f.a) Option.isSome) (fun c s =>
    let k := objectOf (c.scalar f.a)
    s.setPhaser k ((s.phaser k).drop c.b c.id.wave)) s)

def phsigSpec (f : F) : Spec := sy f (f.b == 0 && f.m == 0) [f.a] true

/-- The rights that PHSIG, or PHADV, needs. -/
def sigRights (adv : Bool) (m : Option Member) : Bool :=
  match m with
  | none => false
  | some m => m.signals && (!adv || m.waits)

/-- The signal counts at the phaser whose handle was read at issue: PHSIG writes the phase signalled and completes; PHADV goes on
to wait for its advance. -/
def State.signalNow (s : State) (c : Ctx) (f : F) (adv : Bool) (k : Nat) : State :=
  let p := s.phaser k
  let signalled : BitVec 32 := match p.member c.b c.id.wave with
    | none => p.phase
    | some m => BitVec.ofNat 32 m.count
  let s := s.setPhaser k (p.signal c.b c.id.wave)
  if !adv then s.awaited c (phsigSpec f) fun s => s.setS c.id (sdst f.d) (signalled.zeroExtend 64)
  else if phasePassed (s.phaser k).phase signalled then
    s.awaited c (phsigSpec f) fun s => s.setS c.id (sdst f.d) ((signalled + 1).zeroExtend 64)
  else s.hang c.id (.advance k signalled)

/-- After the publish point the signal counts, or waits while it lies beyond the early one. -/
def State.signalOr (s : State) (c : Ctx) (f : F) (adv : Bool) (k : Nat) : State :=
  let may := match (s.phaser k).member c.b c.id.wave with
    | none => true
    | some m => (s.phaser k).maySignal m
  if may then s.signalNow c f adv k else s.hang c.id (.signal k)

/-- PHADV of a restored block waits anew for the phase that its member signalled last (21 R366). -/
def State.rewait (s : State) (c : Ctx) (f : F) : State :=
  let k := objectOf (c.scalar f.a)
  match (s.phaser k).member c.b c.id.wave with
  | none => s.awaited c (phsigSpec f) fun s => s.setS c.id (sdst f.d) ((s.phaser k).phase.zeroExtend 64)
  | some m =>
    let p := BitVec.ofNat 32 m.count - 1
    if phasePassed (s.phaser k).phase p then s.awaited c (phsigSpec f) fun s => s.setS c.id (sdst f.d) ((p + 1).zeroExtend 64)
    else s.hang c.id (.advance k p)

def sigResume (f : F) (adv : Bool) (c : Ctx) (wt : Wait) (s : State) : State :=
  match wt with
  | .publish _ k => s.signalOr c f adv k
  | .signal k => s.signalOr c f adv k
  | .advance _ p => s.awaited c (phsigSpec f) fun s => s.setS c.id (sdst f.d) ((p + 1).zeroExtend 64)
  | _ => s.rewait c f

/-- PHSIG and PHADV force and seal at their issue, and wait for the publish point (04 R99, R100). -/
def sigBody (f : F) (adv : Bool) (c : Ctx) (s : State) : State :=
  if c.part = 0 then s.quick c (phsigSpec f) id
  else s.publishFirst c true fun s =>
    let s := (s.modBlock c.id fun b => b.sealBy c.id.wave).issue c (phsigSpec f)
    let s := s.modWave c.id fun w => w.flagUp f.ctl.sig.toNat
    let n := c.b.journal.phase
    if s.sealReached ((s.block? c.id).getD c.b) (s.wave c.id) n c.w.accesses then s.signalOr c f adv (objectOf (c.scalar f.a))
    else s.hang c.id (.publish n (objectOf (c.scalar f.a)))

def execPhsig (f : F) (s : State) : Host.Outcome State Fault Refusal :=
  .next (run (phsigSpec f) (fun c => s.phaserStop c (c.scalar f.a) (sigRights false)) (sigResume f false) (sigBody f false) s)

def execPhadv (f : F) (s : State) : Host.Outcome State Fault Refusal :=
  .next (run { phsigSpec f with half := true } (fun c => s.phaserStop c (c.scalar f.a) (sigRights true)) (sigResume f true)
    (sigBody f true) s)

def phwaitSpec (f : F) : Spec := sy f (f.d == 0 && f.m == 0) [f.a, f.b] false

def execPhwait (f : F) (s : State) : Host.Outcome State Fault Refusal :=
  .next (run (phwaitSpec f)
    (fun c => s.phaserStop c (c.scalar f.a) fun m => match m with
      | none => false
      | some m => m.waits)
    (fun c _ s => s.awaited c (phwaitSpec f) id)
    (fun c s =>
      if c.part = 0 then s.quick c (phwaitSpec f) id
      else s.awaitOr c (phwaitSpec f) (.phwait (objectOf (c.scalar f.a)) ((c.scalar f.b).extractLsb' 0 32)) id) s)

/-! ### Stage queues (07 R207-R209, 18 R320-R324) -/

def noQueue : StageQueue := ⟨false, 0, [], 0, 0, 0, 0, 0, [], [], false, false, false, 0, [], []⟩
/-- Stage-queue objects are a space of their own, 4,096 of each die. -/
def State.stageq (s : State) (k : Nat) : StageQueue := spGet noQueue s.stageqs k
def State.setStageq (s : State) (k : Nat) (q : StageQueue) : State := { s with stageqs := spSet noQueue s.stageqs k q }

def StageQueue.stateAt (q : StageQueue) (i : Nat) : Option SlotState := (q.slots[i]?).map Prod.fst

def StageQueue.count (q : StageQueue) (x : SlotState) : Nat := (q.slots.filter fun e => e.1 == x).length

/-- Filled slots and slots reserved for popping (07 R207). -/
def StageQueue.occupancy (q : StageQueue) : Nat := q.count .filled + q.count .popping

/-- A threshold is armed again whenever the occupancy lies on its other side (18 R323). -/
def StageQueue.arm (q : StageQueue) : StageQueue :=
  { q with highArmed := q.highArmed || decide (q.occupancy < q.high), lowArmed := q.lowArmed || decide (q.low < q.occupancy) }

def StageQueue.setSlot (q : StageQueue) (i : Nat) (x : SlotState) (holder : Option (Nat × Nat)) : StageQueue :=
  StageQueue.arm { q with slots := q.slots.set i (x, holder) }

/-- The slots that a retiring block holds reserved become free and lose their turn (18 R324). -/
def StageQueue.release (q : StageQueue) (holder : Nat × Nat) : StageQueue :=
  let mine := (List.range q.slots.length).filter fun i => decide (((q.slots[i]?).bind Prod.snd) = some holder)
  StageQueue.arm { q with
    slots := q.slots.map fun e => if e.2 = some holder then (.free, none) else e
    order := q.order.filter fun i => !(i ∈ mine) }

/-- The status of a registration, and the object after it (07 R207, 18 R320, R323). Of several codes that apply 1 comes first,
then 5 or 2, then 3 (DESIGN CHOICE, log 95). -/
def StageQueue.register (q : StageQueue) (ring prm : W64) (tenant : Nat) : StageQueue × W64 :=
  let n := (prm.extractLsb' 0 4).toNat
  let high := (prm.extractLsb' 4 4).toNat
  let low := (prm.extractLsb' 8 4).toNat
  if prm &&& ~~~0x00FF0FFF#64 ≠ 0 ∨ 8 < n ∨ high < low then (q, failCode 1)
  else if n = 0 then (if q.registered then (noQueue, 0) else (q, failCode 5))
  else if q.registered then (q, failCode 2)
  else if !hInside ring (n - 1) then (q, failCode 3)
  else (⟨true, ring, List.replicate n (.free, none), high, low, (prm.extractLsb' 16 4).toNat, (prm.extractLsb' 20 4).toNat,
    0, [], [], false, true, true, tenant, [], []⟩, 0)

/-- Causes of a stage-queue handle, then of the object's and a slot's state. -/
def State.queueStop (s : State) (c : Ctx) (h : W64) (ok : StageQueue → Bool) : List Fail :=
  c.stop (match s.objectCause c h true with
    | some k => some k
    | none => if ok (s.stageq (objectOf h)) then none else some (cILLEGAL_OP, 0))

def sqregSpec (f : F) : Spec := { sy f (f.m == 0) [f.a, f.b] true with scals := [scalNo f.d] }

def execSqreg (f : F) (s : State) : Host.Outcome State Fault Refusal :=
  .next (scalarAct (sqregSpec f) (fun c => s.queueStop c (c.scalar f.a) fun _ => true) (fun c s =>
    let k := objectOf (c.scalar f.a)
    let r := (s.stageq k).register (c.sreg (scalNo f.d)) (c.scalar f.b) c.l.tenant
    (s.setStageq k r.1).setS c.id (sdst f.d) r.2) s)

def State.setStage (s : State) (c : Ctx) (stage : Nat) : State := s.modBlock c.id fun b => { b with stage := some stage }

def Ctx.holder (c : Ctx) : Nat × Nat := (c.b.launch, c.b.linear)

def sqresSpec (f : F) : Spec := sy f (f.b == 0 && f.m == 0) [f.a] true
def sqcomSpec (f : F) (eos : Bool) : Spec := sy f (f.d == 0 && (f.m == 1 || (eos && f.m == 3))) [f.a, f.b] false

/-- SQPUSH.res: the slot at the push position, reserved, or a code (07 R208): 4 where both codes apply (DESIGN CHOICE, log 95). -/
def StageQueue.reservePush (q : StageQueue) (holder : Nat × Nat) : StageQueue × W64 :=
  if q.eos ≠ [] then (q, failCode 4)
  else if q.stateAt q.push ≠ some .free then (q, failCode 1)
  else ({ q.setSlot q.push .pushing (some holder) with push := (q.push + 1) % q.slots.length, order := q.order ++ [q.push] },
    BitVec.ofNat 64 q.push)

def execSqpushRes (f : F) (s : State) : Host.Outcome State Fault Refusal :=
  .next (scalarAct (sqresSpec f) (fun c => s.queueStop c (c.scalar f.a) StageQueue.registered) (fun c s =>
    let k := objectOf (c.scalar f.a)
    let q := s.stageq k
    let r := q.reservePush c.holder
    ((s.setStageq k r.1).setStage c q.producer).setS c.id (sdst f.d) r.2) s)

/-- SQPUSH.com marks its slot filled, and with .eos end of stream. -/
def StageQueue.commitPush (q : StageQueue) (i : Nat) (eos : Bool) : StageQueue :=
  { q.setSlot i .filled none with eos := if eos then q.eos ++ [i] else q.eos }

def State.sqpushCom (s : State) (c : Ctx) (k i : Nat) (eos : Bool) : State :=
  (s.setStageq k ((s.stageq k).commitPush i eos)).setStage c (s.stageq k).producer

def sqcomSlot (f : F) (c : Ctx) : Nat := ((c.scalar f.b).extractLsb' 0 3).toNat

def sqpushComFails (f : F) (s : State) (c : Ctx) : List Fail :=
  s.queueStop c (c.scalar f.a) fun q => q.registered && q.stateAt (sqcomSlot f c) == some .pushing

/-- After its wait a slot that is no longer reserved for pushing makes the commit illegal; object and slot are those read at
issue (05 R133). -/
def sqpushComResume (f : F) (c : Ctx) (wt : Wait) (s : State) : State :=
  match wt with
  | .fwrs k i eos _ =>
    let q := s.stageq k
    let fs := c.stop (if q.registered && q.stateAt i == some .pushing then none else some (cILLEGAL_OP, 0))
    if fs.isEmpty then s.awaited c (sqcomSpec f true) fun s => s.sqpushCom c k i eos
    else (s.modWave c.id fun w => w.flagDown f.ctl.sig.toNat).raiseFails c fs
  | _ => s

def execSqpushCom (f : F) (s : State) : Host.Outcome State Fault Refusal :=
  .next (run (sqcomSpec f true) (sqpushComFails f s) (sqpushComResume f) (fun c s =>
    let k := objectOf (c.scalar f.a)
    if c.part = 0 then s.quick c (sqcomSpec f true) id
    else s.awaitOr c (sqcomSpec f true) (.fwrs k (sqcomSlot f c) (f.m.getLsbD 1) c.w.accesses)
      fun s => s.sqpushCom c k (sqcomSlot f c) (f.m.getLsbD 1)) s)

/-- SQPOP.res: the oldest filled slot in ring order, reserved, or a code; end of stream is popped once (07 R208, 18 R321). -/
def StageQueue.reservePop (q : StageQueue) (holder : Nat × Nat) : StageQueue × W64 :=
  if q.eosPopped then (q, failCode 4)
  else match q.order with
    | [] => (q, failCode 1)
    | i :: rest =>
      if q.stateAt i ≠ some .filled then (q, failCode 1)
      else
        let last := decide (i ∈ q.eos)
        ({ q.setSlot i .popping (some holder) with order := rest, eosPopped := last },
          BitVec.ofNat 64 i ||| (if last then 1#64 <<< 62 else 0))

def execSqpopRes (f : F) (s : State) : Host.Outcome State Fault Refusal :=
  .next (scalarAct (sqresSpec f) (fun c => s.queueStop c (c.scalar f.a) StageQueue.registered) (fun c s =>
    let k := objectOf (c.scalar f.a)
    let q := s.stageq k
    let r := q.reservePop c.holder
    ((s.setStageq k r.1).setStage c q.consumer).setS c.id (sdst f.d) r.2) s)

def execSqpopCom (f : F) (s : State) : Host.Outcome State Fault Refusal :=
  .next (scalarAct (sqcomSpec f false)
    (fun c => s.queueStop c (c.scalar f.a) fun q => q.registered && q.stateAt (sqcomSlot f c) == some .popping)
    (fun c s =>
      let k := objectOf (c.scalar f.a)
      (s.setStageq k ((s.stageq k).setSlot (sqcomSlot f c) .free none)).setStage c (s.stageq k).consumer) s)

/-- What SQSTAT shows (07 R209). -/
def StageQueue.statusWord (q : StageQueue) : W64 :=
  BitVec.ofNat 64 (q.count .filled + q.count .pushing * 2 ^ 4 + q.count .popping * 2 ^ 8 + q.slots.length * 2 ^ 12 +
    (if q.eos ≠ [] then 2 ^ 16 else 0) + (if q.eosPopped then 2 ^ 17 else 0) + (if q.registered then 2 ^ 18 else 0))

def execSqstat (f : F) (s : State) : Host.Outcome State Fault Refusal :=
  .next (scalarAct (sqresSpec f) (fun c => s.queueStop c (c.scalar f.a) fun _ => true) (fun c s =>
    s.setS c.id (sdst f.d) (s.stageq (objectOf (c.scalar f.a))).statusWord) s)

/-! ### AMSEND (07 R210, R211) -/

def amsendSpec (f : F) : Spec := sy f (f.d == 0 && f.m == 0) [f.a, f.b] false

def amCore (x : W64) : Nat := (x.extractLsb' 0 12).toNat
def amOffset (x : W64) : Nat := (x.extractLsb' 16 16).toNat * 128

/-- The causes of AMSEND, in their order; of a destination core that does not work or lies outside the partition s123 holds its number,
there being no faulting address (07 R210 names none; DESIGN CHOICE, log 107); where no header word can stand, at an address that is no word's, there is no valid one
(08 R217); payload words in flight are pending (02 R71). -/
def amsendFails (f : F) (s : State) (c : Ctx) : List Fail :=
  let x := c.scalar f.b
  let h := c.scalar f.a
  c.stop (if x.extractLsb' 12 4 ≠ 0 ∨ x.extractLsb' 48 16 ≠ 0 then some (cILLEGAL_OP, 0)
    else if h &&& 7 ≠ 0 then some (cILLEGAL_OP, 0)
    else match s.peek c.id.core c.l.asid c.l.tenant h with
      | .error k => some (k, h)
      | .ok w =>
        if !headerValid w then some (cILLEGAL_OP, 0)
        else if !s.coreWorks (amCore x) || !s.inPartition c.l.tenant (amCore x) then some (cPROT_PAGE, BitVec.ofNat 64 (amCore x))
        else if c.b.commonLen < amOffset x + 128 then some (cREG_BOUND, BitVec.ofNat 64 (amOffset x))
        else match pendingIn c.b.cpend (amOffset x) 128 with
          | none => none
          | some k => some (cREG_PENDING, BitVec.ofNat 64 (c.b.commonAddr (4 * k))))

/-- A wave's priority: the highest in its handler (19 R333). -/
def Ctx.priority (c : Ctx) : Nat := if c.w.handler then 127 else c.b.prio

/-- The message that AMSEND forms: its payload is copied at issue. -/
def State.messageOf (s : State) (c : Ctx) (f : F) : Message :=
  let x := c.scalar f.b
  let budget := match s.peek c.id.core c.l.asid c.l.tenant (c.scalar f.a) with
    | .ok w => headerBudget w
    | .error _ => 0
  { handler := c.scalar f.a, budget := budget, arg := x.extractLsb' 32 16
    payload := (List.range 32).map fun i => BitVec.ofNat 32 (natOfBytes ((List.range 4).map fun j =>
      spGet 0 c.b.common (amOffset x + 4 * i + j)))
    sender := c.id, launch := c.b.launch, uid := c.b.uid, tenant := c.l.tenant, asid := c.l.asid, priv := c.l.priv
    priority := min 126 c.priority, phase := c.b.journal.phase, sig := f.ctl.sig.toNat, level := 0, since := s.clock }

/-- The message is on its way, with the cycle of its sending: the launch waits for its wave, and the flag counts down at its spawn. -/
def State.sendMessage (s : State) (core : Nat) (m : Message) : State :=
  ((s.modLaunch m.launch fun l => { l with messages := l.messages + 1 }).push (.amArrive core { m with since := s.clock })).advance m.sender

def amsendResume (c : Ctx) (wt : Wait) (s : State) : State :=
  match wt with
  | .messages core m => (s.modWave c.id fun w => { w with wait := none }).sendMessage core m
  | _ => s

/-- The header's address, where its read fails. -/
def amsendLost (f : F) (s : State) (c : Ctx) : Option Nat :=
  match s.peek c.id.core c.l.asid c.l.tenant (c.scalar f.a) with
  | .error _ => some (c.scalar f.a).toNat
  | .ok _ => none

def execAmsend (f : F) (s : State) : Host.Outcome State Fault Refusal :=
  .next (s.unholdFail (run (amsendSpec f) (amsendFails f s) amsendResume (fun c s =>
    if c.part = 0 then s.quick c (amsendSpec f) id
    else
      let core := amCore (c.scalar f.b)
      let m := s.messageOf c f
      if s.waitDone c.id c.b c.w (.messages core m) then
        ((s.issue c (amsendSpec f)).modWave c.id fun w => w.flagUp f.ctl.sig.toNat).sendMessage core m
      else s.await c (amsendSpec f) (.messages core m)) s) f.ctl (amsendLost f s))

/-! ### CSEG (02 R60, R63) -/

def csegSpec (f : F16) : Spec :=
  scalarSpec 3 f.ctl (f.a == 0 && f.ctl.guard == 127) [] (some f.d) 0

/-- The result of CSEG and the segments after it. What is stored in the range stays at its offsets, as loads of its wave find
it, although its banks change (DESIGN CHOICE, log 96). -/
def Block.carve (b : Block) (rows span : Nat) : Block × W64 :=
  let p := b.segs.foldl (fun n g => n + g.2.1) 0
  if span = 7 then (b, failCode 3)
  else if rows = 0 then (b, failCode 4)
  else if b.segs.length = 8 then (b, failCode 2)
  else if b.commonLen < p + rows * 512 then (b, failCode 1)
  else ({ b with segs := b.segs ++ [(p, rows * 512, span)] }, BitVec.ofNat 64 p)

def execCseg (f : F16) (s : State) : Host.Outcome State Fault Refusal :=
  .next (scalarAct (csegSpec f) noFails (fun c s =>
    let rows := (f.imm.extractLsb' 0 13).toNat
    let span := (f.imm.extractLsb' 13 3).toNat
    (s.modBlock c.id fun b => (b.carve rows span).1).setS c.id (sdst f.d) (c.b.carve rows span).2) s)

end Sys2Proof.Machine
end

