-- ==== Sys2Proof/Machine/Engine.lean ====
section
/-! DEFINITION. The request engine: ALD, KICK, GATH, EVRD, the reads and landings of an engine operation, its completion, and
the walk of every logged access (07 R184, R193-R196, 04 R110-R113, 02 R70-R73). -/

namespace Sys2Proof.Machine

open Sys2Proof

/-! ### Copies (07 R194, R195) -/

/-- A copy as its descriptor gives it: rows by source and destination, where they lie, and what completion does. -/
structure Copy where
  gath    : Bool
  rows    : List (Nat × Nat)
  bytes   : Nat
  src     : Space
  dst     : Space
  barrier : Nat
  post    : Bool
  tag     : Nat
  deriving DecidableEq, Repr

/-- A field of a descriptor. -/
def descNat (d : List Byte) (off n : Nat) : Nat := natOfBytes ((d.drop off).take n)

def descInt (d : List Byte) (off n : Nat) : Int := (BitVec.ofNat (8 * n) (descNat d off n)).toInt

/-- An address modulo 2^64. -/
def wrapAddr (i : Int) : Nat := (BitVec.ofInt 64 i).toNat

def Block.commonBytes (b : Block) (off n : Nat) : List Byte := (List.range n).map fun i => spGet 0 b.common (off + i)

/-- A row's place: a virtual address wraps, an area offset does not; a negative one lies beyond the area. -/
def rowPlace (sp : Space) (base : Nat) (step : Int) : Nat :=
  match sp with
  | .memory => wrapAddr (base + step)
  | _ => if (base : Int) + step < 0 then 2 ^ 64 else ((base : Int) + step).toNat

/-- The copy of a KICK descriptor, or none for one that breaks its table. -/
def kickCopy (d : List Byte) : Option Copy :=
  let kind := descNat d 0 1 % 16
  let rows := descNat d 4 4
  let rb := descNat d 0x18 4
  let sp := descInt d 0x20 8
  let dp := descInt d 0x28 8
  if 4 < kind ∨ 2 ≤ descNat d 1 1 ∨ rows = 0 ∨ 65536 < rows ∨ rb % 8 ≠ 0 ∨ rb < 8 ∨ 65536 < rb ∨ descNat d 0x1C 4 ≠ 0 ∨
      descNat d 0x30 16 ≠ 0 ∨ sp % 8 ≠ 0 ∨ dp % 8 ≠ 0 then none
  else
    let src : Space := if kind = 3 then .common else if kind = 4 then .tile else .memory
    let dst : Space := if kind = 1 then .common else if kind = 2 then .tile else .memory
    some ⟨false, (List.range rows).map fun (i : Nat) => (rowPlace src (descNat d 8 8) (i * sp), rowPlace dst (descNat d 16 8) (i * dp)),
      rb, src, dst, descNat d 0 1 / 16, descNat d 1 1 == 1, descNat d 2 2⟩

/-- The index list that a GATH descriptor names. -/
def Block.gathList (b : Block) (d : List Byte) : List Byte := b.commonBytes (descNat d 0x18 4) (4 * min 4096 (descNat d 4 4))

/-- The copy of a GATH descriptor with its index list; none for one that breaks its table. -/
def gathCopy (list d : List Byte) : Option Copy :=
  let ctl := descNat d 0 1
  let n := descNat d 4 4
  let stride := descInt d 0x10 8
  let rb := descNat d 0x20 4
  if 128 ≤ ctl ∨ descNat d 1 1 ≠ 0 ∨ n = 0 ∨ 4096 < n ∨ stride % 8 ≠ 0 ∨ rb % 8 ≠ 0 ∨ rb < 8 ∨ 4096 < rb ∨
      descNat d 0x24 28 ≠ 0 then none
  else
    let index := fun i =>
      let x : W32 := BitVec.ofNat 32 (descNat list (4 * i) 4)
      if ctl / 64 % 2 = 1 then x.toInt else (x.toNat : Int)
    some ⟨true, (List.range n).map fun i => (rowPlace .memory (descNat d 8 8) (index i * stride), descNat d 0x1C 4 + i * rb),
      rb, .memory, if ctl / 16 % 2 = 1 then .tile else .common, ctl % 16, ctl / 32 % 2 == 1, descNat d 2 2⟩

/-- The copy of a descriptor and, for GATH, its index list. -/
def copyRead (gath : Bool) (d list : List Byte) : Option Copy := if gath then gathCopy list d else kickCopy d

def Block.areaLen (b : Block) (sp : Space) : Nat := match sp with | .common => b.commonLen | .tile => b.tileLen | _ => 0
def Block.areaPend (b : Block) (sp : Space) : Sparse Bool := match sp with | .common => b.cpend | .tile => b.tpend | _ => []
def Block.areaAddr (b : Block) (sp : Space) (off : Nat) : Nat := match sp with | .tile => b.tileAddr off | _ => b.commonAddr off

/-- Rows of a copy that lie in an area, with the area. -/
def Copy.areaRows (k : Copy) : List (Space × Nat) :=
  (if k.src = .memory then [] else k.rows.map fun r => (k.src, r.1)) ++ (if k.dst = .memory then [] else k.rows.map fun r => (k.dst, r.2))

/-- Ownership of register-space words that an operation takes (02 R71): pending words, suspended and aliased tile bytes. -/
def Block.ownCause (b : Block) (r : Record) (words : List (Space × Nat × Nat)) (dsts : List (Space × Nat × Nat)) :
    Option (Nat × W64) :=
  let pend := words.filterMap fun x => (pendingIn (b.areaPend x.1) x.2.1 x.2.2).map fun k => b.areaAddr x.1 (4 * k)
  let susp := words.filterMap fun x => if x.1 = .tile then b.suspendedIn r x.2.1 x.2.2 else none
  let ali := dsts.filterMap fun x => if x.1 = .tile then b.aliasedIn r x.2.1 x.2.2 else none
  let low := fun (l : List Nat) => minBy (fun a => a) l
  match low pend, low susp, low ali with
  | some a, _, _ => some (cREG_PENDING, BitVec.ofNat 64 a)
  | _, some o, _ => some (cTILE_SUSPENDED, BitVec.ofNat 64 o)
  | _, _, some o => some (cALIAS_SUSPENDED, BitVec.ofNat 64 o)
  | _, _, _ => none

/-- The checks on a copy's values, in their order (07 R193-R195). -/
def Copy.cause (k : Copy) (b : Block) (r : Record) (words : List (Space × Nat × Nat)) : Option (Nat × W64) :=
  let out := (k.areaRows).find? fun x => decide (b.areaLen x.1 < x.2 + k.bytes)
  let places := k.rows.flatMap fun x => [x.1, x.2]
  if b.nbar < k.barrier then some (cREG_BOUND, 0)
  else match places.find? fun p => p % 8 != 0 with
    | some p => some (cALIGN, BitVec.ofNat 64 p)
    | none => match out with
      | some x => some (cREG_BOUND, BitVec.ofNat 64 x.2)
      | none => b.ownCause r (words ++ k.areaRows.map fun x => (x.1, x.2, k.bytes))
          (if k.dst = .memory then [] else k.rows.map fun x => (k.dst, x.2, k.bytes))

/-- The copy that an instruction's descriptor gives, or the cause that stops it (07 R194, R195). Of a GATH the checks of its
index list come before that of its barrier code (DESIGN CHOICE, log 97). -/
def Block.copyOf (b : Block) (r : Record) (gath : Bool) (off : Nat) : Except (Nat × W64) Copy :=
  if off % 64 ≠ 0 then .error (cALIGN, BitVec.ofNat 64 off)
  else if b.commonLen < off + 64 then .error (cREG_BOUND, BitVec.ofNat 64 off)
  else
    let d := b.commonBytes off 64
    let idx := descNat d 0x18 4
    let list := 4 * descNat d 4 4
    match copyRead gath d (if gath then b.gathList d else []) with
    | none => .error (cILLEGAL_OP, 0)
    | some k =>
      if gath && idx % 4 != 0 then .error (cALIGN, BitVec.ofNat 64 idx)
      else if gath && decide (b.commonLen < idx + list) then .error (cREG_BOUND, BitVec.ofNat 64 idx)
      else match k.cause b r ((.common, off, 64) :: if gath then [(.common, idx, list)] else []) with
        | some e => .error e
        | none => .ok k

/-- Memory rows of a copy's two sides. -/
def Copy.srcRows (k : Copy) : List (W64 × Nat) := if k.src = .memory then k.rows.map fun r => (BitVec.ofNat 64 r.1, k.bytes) else []
def Copy.dstRows (k : Copy) : List (W64 × Nat) := if k.dst = .memory then k.rows.map fun r => (BitVec.ofNat 64 r.2, k.bytes) else []

/-- Range-lock entries that it needs (07 R194). -/
def Copy.locks (k : Copy) : Nat := (if k.src = .memory then 1 else 0) + (if k.dst = .memory then 1 else 0)

/-- Pages of both sides, source rows first, or the first failure. -/
def State.copyPages (s : State) (l : Launch) (k : Copy) : Except (Nat × Nat) (List (Nat × Nat) × List (Nat × Nat)) :=
  match s.translateRows l.asid l.tenant k.srcRows [rREAD] with
  | .error e => .error e
  | .ok a => match s.translateRows l.asid l.tenant k.dstRows [rWRITE] with
    | .error e => .error e
    | .ok d => .ok (a, d)

/-- The 8-byte units of some rows, numbered in row order: physical addresses in memory, offsets in an area. -/
def unitsOf (sp : Space) (pages : List (Nat × Nat)) (rows : List Nat) (bytes : Nat) : List (Nat × Nat) :=
  let all := rows.flatMap fun a => (List.range (bytes / 8)).map fun j => a + 8 * j
  (List.range all.length).zip (all.map fun a => if sp = .memory then physOf pages a else a)

/-- Mark area words of some units pending, or clear them. -/
def Block.markUnits (b : Block) (sp : Space) (us : List (Nat × Nat)) (v : Bool) : Block :=
  match sp with
  | .common => { b with cpend := us.foldl (fun p u => setPending p u.2 8 v) b.cpend }
  | .tile => { b with tpend := us.foldl (fun p u => setPending p u.2 8 v) b.tpend }
  | _ => b

/-- An operation that has no unit to read or write yet. -/
def emptyOp (id : Nat) (kind : OpKind) (w : WaveId) (b : Block) (sig : Nat) : EngineOp :=
  { id := id, kind := kind, w := w, uid := b.uid, gen := b.gen, sig := sig, entry := none, unit := 8, rd := [], rdSpace := .memory
    wr := [], wrSpace := .memory, buf := [], barrier := 0, credit := 0, post := false, tag := 0, scan := none, inst := none
    sealNo := none, status := 0, virt := [], faulted := false, phase := b.journal.phase
    seq := ((spFind b.waves w.wave).map Wave.accesses).getD 0, issued := id }

/-- The count of accesses at the issue of a log entry, which a re-issue keeps. -/
def State.entrySeq (s : State) (id : WaveId) (entry : Nat) (b : Block) : Nat :=
  match spFind (s.wave id).log entry with
  | some e => e.seq
  | none => ((spFind b.waves id.wave).map Wave.accesses).getD 0

/-- Add an operation with its locks. -/
def State.addOp (s : State) (o : EngineOp) (locks : List (Bool × List (Nat × Nat))) : State :=
  { s with
    ops := spPut s.ops o.id o
    nextOp := max s.nextOp (o.id + 1)
    locks := s.locks ++ (locks.filter fun k => k.2 != []).map fun k => (⟨o.w.core, o.id, k.1, k.2⟩ : Lock) }

/-- Start a copy whose ranges are translated: locks, pending words, the operation (07 R194), which keeps its place in issue
order when it runs again (04 R118). -/
def State.startCopy (s : State) (id : WaveId) (b : Block) (l : Launch) (k : Copy) (pages : List (Nat × Nat) × List (Nat × Nat))
    (sig entry issued : Nat) : State :=
  let rd := unitsOf k.src pages.1 (k.rows.map Prod.fst) k.bytes
  let wr := unitsOf k.dst pages.2 (k.rows.map Prod.snd) k.bytes
  let va := unitsOf .common [] (k.rows.map Prod.fst) k.bytes
  let o := { emptyOp s.nextOp (if k.gath then .gath else .kick) id b sig with
    entry := some entry, rd := rd, rdSpace := k.src, wr := wr, wrSpace := k.dst, barrier := k.barrier
    credit := k.rows.length * k.bytes, post := k.post, tag := k.tag, issued := issued, seq := s.entrySeq id entry b
    virt := va.map fun u => (u.1, BitVec.ofNat 64 u.2) }
  let s := (s.holdRows l k.srcRows [rREAD]).holdRows l k.dstRows [rWRITE]
  let s := s.addOp o [(false, if k.src = .memory then s.rowLines l pages.1 k.srcRows else []),
    (true, if k.dst = .memory then s.rowLines l pages.2 k.dstRows else [])]
  s.modBlock id fun b => (b.markUnits k.src rd true).markUnits k.dst wr true

def descOff (f : F) (c : Ctx) : Nat := ((c.scalar f.a).extractLsb' 0 32).toNat

def copySpec (f : F) : Spec :=
  { scalarSpec 2 f.ctl (f.d == 0 && f.b == 0 && f.m == 0) [f.a] none 0 with logs := true, acq := true }

def copyFails (f : F) (gath : Bool) (c : Ctx) : List Fail :=
  c.stop (match c.b.copyOf c.l.record gath (descOff f c) with
    | .error e => some e
    | .ok _ => none)

/-- KICK and GATH at issue: ranges that do not translate fail through the log; too few lock entries hold the wave (04 R110). -/
def copyBody (f : F) (gath : Bool) (c : Ctx) (s : State) : State :=
  let sp := copySpec f
  let op : BitVec 10 := if gath then 0x108 else 0x107
  if c.part = 0 then s.quick c sp id
  else match c.b.copyOf c.l.record gath (descOff f c) with
    | .error _ => s
    | .ok k =>
      let i := c.w.logFree.getD 0
      let d := c.b.commonBytes (descOff f c) 64
      let e := { c.logEntry op f [] with desc := d, list := if gath then c.b.gathList d else [] }
      match s.copyPages c.l k with
      | .error x =>
        let s := (s.logIssue c sp { e with no := s.nextOp }).unhold c.l.asid x.2
        { s with nextOp := s.nextOp + 1 }.failEntry c.id i (failAll c.part x.1 (BitVec.ofNat 64 x.2))
      | .ok pages =>
        if s.lockFree c.id.core < k.locks then s.linger c.id (.locks k.locks)
        else ((s.logIssue c sp { e with stage := 1, op := some s.nextOp, no := s.nextOp }).startCopy c.id c.b c.l k pages
          f.ctl.sig.toNat i s.nextOp)

/-- The address at which the translation of a copy's ranges fails. -/
def copyLost (f : F) (gath : Bool) (s : State) (c : Ctx) : Option Nat :=
  match c.b.copyOf c.l.record gath (descOff f c) with
  | .error _ => none
  | .ok k => match s.copyPages c.l k with
    | .error x => some x.2
    | .ok _ => none

def execKick (f : F) (s : State) : Host.Outcome State Fault Refusal :=
  .next (run (copySpec f) (copyFails f false) noResume (copyBody f false) s)

def execGath (f : F) (s : State) : Host.Outcome State Fault Refusal :=
  .next (run (copySpec f) (copyFails f true) noResume (copyBody f true) s)

/-! ### ALD (07 R193) -/

def aldBytes (f : F) : Nat := 4 * 2 ^ (f.m.toNat % 4)

def aldSpec (f : F) : Spec :=
  { cls := 2, ctl := f.ctl, enc := isScal f.a && anyForm f.b && vecForm f.d && decide (f.m.toNat % 4 < 3)
    holdA := some f.a, holdB := some f.b, holdD := some f.d, srcs := [(f.a, 1), (f.b, 1)], dsts := [(f.d, regsOf (aldBytes f))]
    logs := true, acq := true, bar := f.m.toNat / 4 }

def aldFails (f : F) (c : Ctx) : List Fail := c.addressFails (c.memAddr f false) (aldBytes f)

def execAld (f : F) (s : State) : Host.Outcome State Fault Refusal :=
  .next (run (aldSpec f) (aldFails f) noResume (fun c s =>
    if c.part = 0 then s.quick c (aldSpec f) id
    else
      let addr := c.memAddr f false
      s.logIssue c (aldSpec f) { c.logEntry 0x106 f [(f.b, 1)] with
        addrs := (lanesOf c.part).map fun l => (l, addr l), dests := c.destWords f.d (regsOf (aldBytes f)) }) s)

/-- The walk of an ALD has ended: its operation begins. -/
def State.startAld (s : State) (id : WaveId) (i : Nat) (b : Block) : State :=
  match spFind (s.wave id).log i with
  | none => s
  | some e =>
    if e.stage ≠ 1 then s
    else
      let n := s.nextOp
      let ds := (List.range e.dests.length).zip e.dests
      let o := { emptyOp n .ald id b (ctlOf e.word).sig.toNat with
        entry := some i, unit := 4, wr := ds, wrSpace := .regs, rd := [(0, 0)]
        barrier := e.fields.m.toNat / 4, credit := e.bytes * (lanesOf e.lanes).length, seq := e.seq }
      (s.addOp o []).modEntry id i fun e => { e with op := some n }

/-! ### TRANSLATION_WALK (22 R373, 07 R184) -/

/-- A re-issued KICK or GATH runs whole again and walks anew, by the descriptor and the index list read at its issue (07 R194, R195,
15 R315, 22 R379). -/
def State.rerunCopy (s : State) (id : WaveId) (i : Nat) (e : LogEntry) (b : Block) (l : Launch) : State :=
  match copyRead (e.opcode == 0x108) e.desc e.list with
  | none => s
  | some k => match k.cause b l.record [], ({ s with held := [] } : State).copyPages l k with
    | some x, _ => s.failEntry id i (failAll e.lanes x.1 x.2)
    | none, .error x => (s.unhold l.asid x.2).failEntry id i (failAll e.lanes x.1 (BitVec.ofNat 64 x.2))
    | none, .ok pages =>
      if s.lockFree id.core < k.locks then s
      else (s.modEntry id i fun e => { e with stage := 1, op := some s.nextOp }).startCopy id b l k pages (ctlOf e.word).sig.toNat i e.no

/-! ### ENGINE_RETURN_LAND (02 R70, R73, 04 R111-R113) -/

/-- A log entry of the operation can issue it again: not of a TST, a SQRY or a SAPP. -/
def EngineOp.reissued (o : EngineOp) : Bool := o.entry.isSome && o.kind != .sqry && o.kind != .sapp

/-- Until it has begun, earlier locks, earlier accesses of the wave to its lines, and traffic of another phase under its tag go
before an operation (04 R111, R117, R120); an ALD takes its place among the wave's accesses. In a save an operation that no log
entry can issue again does not wait for accesses that only the restored block issues again (21 R363; DEDUCED, log 54). -/
def State.opHeld (s : State) (o : EngineOp) : Bool :=
  let w := s.wave o.w
  let e := o.entry.bind (spFind w.log)
  !o.begun && o.status == 0 && (s.lockBlocked o.id (fun _ => true) || (match s.block? o.w with
  | none => false
  | some b => !s.tagFree b o.phase || (!(b.saving && !o.reissued) && s.engineHeld b w o.id ((e.map LogEntry.seq).getD o.seq)) ||
    (o.kind == .ald && (match e, s.launchOf b with
      | some e, some l => s.orderHeld l b w e
      | _, _ => false))))

/-- An operation begins: its packets are under way (23 R399). -/
def State.begin_ (s : State) (n : Nat) : State := s.modOp n fun o => { o with begun := true }

/-- An operation meets a fault: its pending words and locks are released, landed words stay, and the fault goes back through
its entry (07 R194); without an entry there is none to tell. -/
def State.failOp (s : State) (o : EngineOp) (cause : Nat) (a : W64) : State :=
  let s := s.modBlock o.w fun b => if b.uid = o.uid then (b.markUnits o.rdSpace o.rd false).markUnits o.wrSpace o.wr false else b
  let s := { s.unlock o.id with ops := spDel s.ops o.id }
  match o.entry with
  | none => s
  | some i => (s.modEntry o.w i fun e => { e with op := none }).failEntry o.w i (failAll (match spFind (s.wave o.w).log i with
      | none => 1
      | some e => e.lanes) cause a)

/-- The unit read next: any, but of those that land in one place the lowest first (07 R194). -/
def EngineOp.nextUnit (o : EngineOp) (pick : Nat) : Option (Nat × Nat) :=
  let place := fun (u : Nat) => (o.wr.find? fun x => x.1 == u).map Prod.snd
  match o.rd[pick % max 1 o.rd.length]? with
  | none => none
  | some u => if o.wrSpace = .memory then some u else o.rd.find? fun x => place x.1 == place u.1

/-- Read one unit of a copy, once for all rows that name it (04 R113), and land it if its place is register space. -/
def State.copyUnit (s : State) (o : EngineOp) (u : Nat × Nat) : State :=
  match s.block? o.w with
  | none => s
  | some b =>
    let had := spFind o.buf u.1
    if o.rdSpace = .memory && had.isNone && s.poisoned u.2 then
      s.failOp o cMEM_POISON (((o.virt.find? fun v => v.1 == u.1).map Prod.snd).getD 0)
    else
      let x := had.getD (BitVec.ofNat 64 (natOfBytes (match o.rdSpace with
        | .memory => s.readBytes u.2 8
        | sp => b.areaBytes (sp == .tile) u.2 8)))
      let buf := (o.rd.filter fun v => v.2 == u.2).foldl (fun m v => spPut m v.1 x) o.buf
      let s := s.modBlock o.w fun b => b.markUnits o.rdSpace [u] false
      if o.wrSpace = .memory then s.modOp o.id fun o => { o with rd := o.rd.filter fun v => v.2 != u.2, buf := buf }
      else
        let dst := (o.wr.find? fun v => v.1 == u.1).map Prod.snd
        let s := s.modBlock o.w fun b =>
          let b := b.setArea (o.wrSpace == .tile) (dst.getD 0) (bytesOfNat 8 x.toNat)
          if o.wr.any fun v => v.1 != u.1 && some v.2 == dst then b else b.markUnits o.wrSpace [(u.1, dst.getD 0)] false
        s.modOp o.id fun o => { o with rd := o.rd.filter fun v => v.1 != u.1, wr := o.wr.filter fun v => v.1 != u.1, buf := buf }

/-- An ALD reads home, never the journal, and its values land (07 R193). -/
def State.aldLand (s : State) (o : EngineOp) : State :=
  match o.entry with
  | none => s
  | some i => match spFind (s.wave o.w).log i with
    | none => s
    | some e =>
      let fs := s.poisonFails e
      if fs.isEmpty then
        let vals := (lanesOf e.lanes).flatMap fun l =>
          let bs := s.readBytes (physOf e.pages (e.addrAt l).toNat) e.bytes
          (List.range (regsOf e.bytes)).map fun k => loadedWord 4 bs k
        (s.modWave o.w fun w => w.landAll s.tick (e.dests.zip vals)).modOp o.id fun o => { o with rd := [], wr := [] }
      else { (s.modEntry o.w i fun e => { e with op := none }).failEntry o.w i fs with ops := spDel s.ops o.id }

/-- Kinds that read units and write them at their completion or as they land. -/
def OpKind.copies : OpKind → Bool
  | .kick => true
  | .gath => true
  | .tst => true
  | _ => false

/-- Kinds whose units are read one by one. -/
def OpKind.reads (k : OpKind) : Bool := k.copies || k == .sapp

/-- TST reads its source bytes, each under the mask of its columns (09 R261); their pending bits clear. -/
def State.tstRead (s : State) (o : EngineOp) : State :=
  match s.block? o.w with
  | none => s
  | some b =>
    let buf := o.rd.map fun u => (u.1, ((spGet 0 b.tile u.2).zeroExtend 64) &&& ((o.virt.find? fun v => v.1 == u.1).map Prod.snd).getD 0xFF)
    (s.modBlock o.w fun b => { b with tpend := o.rd.foldl (fun p u => setPending p u.2 1 false) b.tpend }).modOp o.id
      fun o => { o with rd := [], buf := buf }

/-! ### ENGINE_COMPLETE (07 R193-R196) -/

/-- Room in the block's event queue. -/
def Block.eventRoom (b : Block) : Bool := decide (b.events.length < 16)

/-- An event record (07 R196): status, wave, source and tag. -/
def eventRecord (status wave source tag : Nat) : W64 :=
  BitVec.ofNat 64 (status * 2 ^ 32 + wave * 2 ^ 20 + source * 2 ^ 16 + tag)

/-- Bytes of a memory destination with their data, in the order of the rows. -/
def EngineOp.cells (o : EngineOp) : List (Nat × Byte) :=
  o.wr.flatMap fun u =>
    let bs := bytesOfNat o.unit (spGet 0 o.buf u.1).toNat
    (List.range o.unit).zip bs |>.map fun x => (u.2 + x.1, x.2)

/-- Write bytes at home, each 8-byte unit once: of several for one place the last stands (07 R194, 13 R314). -/
def State.writeCells (s : State) (cells : List (Nat × Byte)) : State :=
  (cells.map fun x => x.1 / 8).eraseDups.foldl (fun s u =>
    let mine := (cells.filter fun x => x.1 / 8 == u).reverse
    s.writeUnit (8 * u) ((List.range 8).map fun i => (mine.find? fun x => x.1 == 8 * u + i).map Prod.snd)) s

/-- Whether an operation's work is done, but for its completion. -/
def EngineOp.worked (o : EngineOp) : Bool :=
  o.status == 1 || o.status == 2 || (o.rd.isEmpty && (o.kind.copies || o.kind == .ald) && (o.wrSpace == .memory || o.wr.isEmpty))

/-- The source number of an event record (07 R196, 11 R288). -/
def OpKind.source : OpKind → Nat
  | .gath => 2
  | .sqry => 3
  | .sapp => 4
  | .coll _ => 5
  | _ => 1

/-- The record posted for an operation; status 2 of a rejected SQRY or of instances that disagree. -/
def EngineOp.event (o : EngineOp) : W64 := eventRecord (if o.status = 2 then 2 else 0) o.w.wave o.kind.source o.tag

/-- SIEVE_ECC of a scan that met poison reaches its wave (11 R289). -/
def State.sieveEcc (s : State) (o : EngineOp) (seq : Nat) : State :=
  match o.scan.bind Scan.poison with
  | none => s
  | some p => s.raiseFrom o.w seq ((s.wave o.w).nextRec cSIEVE_ECC p.2)

/-- ILLEGAL_OP of a collective whose instances disagree (12 R301). -/
def State.collMismatch (s : State) (o : EngineOp) (seq : Nat) : State :=
  match o.kind with
  | .coll _ => if o.status = 2 then s.raiseFrom o.w seq ((s.wave o.w).nextRec cILLEGAL_OP 0) else s
  | _ => s

/-- The event record is posted, locks and entry are freed, and the flag counts down; then a scan's poison is told. -/
def State.closeOp (s : State) (o : EngineOp) : State :=
  let s := s.modBlock o.w fun b => if o.post && b.uid == o.uid then { b with events := b.events ++ [o.event] } else b
  let s := { s.unlock o.id with ops := spDel s.ops o.id }
  match o.entry with
  | some i =>
    let seq := match spFind (s.wave o.w).log i with
      | some e => e.seq
      | none => 0
    ((s.endEntry o.w i).sieveEcc o seq).collMismatch o seq
  | none => s.modWave o.w fun w => w.flagDown o.sig

/-- Memory is written and the byte credit made; then, once there is room for its record, the operation is over. -/
def State.engineComplete (s : State) (n : Nat) : State :=
  match spFind s.ops n with
  | none => s
  | some o => match s.block? o.w with
    | none => s
    | some b =>
      if !o.worked || s.opHeld o || (o.status == 0 && o.wrSpace == .memory && o.cells.any fun x => s.sieveHeld (x.1 / 64)) then s
      else
        let s := if 1 ≤ o.status then s
          else
            let s := if o.wrSpace = .memory then s.writeCells o.cells else s
            (s.modBlock o.w fun b => b.credit o.barrier o.credit).modOp n fun o => { o with status := 1 }
        if o.post && !b.eventRoom then s else s.closeOp o

def execEngineComplete (n : Nat) (s : State) : Host.Outcome State Fault Refusal := .next (s.engineComplete n)

/-! ### EVRD (07 R196) -/

def evrdSpec (f : F) : Spec := sy f (f.a == 0 && f.b == 0 && f.m == 0) [] true

def execEvrd (f : F) (s : State) : Host.Outcome State Fault Refusal :=
  .next (scalarAct (evrdSpec f) noFails (fun c s =>
    (s.modBlock c.id fun b => { b with events := b.events.drop 1 }).setS c.id (sdst f.d)
      (c.b.events.headD (BitVec.allOnes 64))) s)

end Sys2Proof.Machine
end

