-- ==== Sys2Proof/Machine/TileIns.lean ====
section
/-! DEFINITION. The TILE class: TDESC, the appending instructions, TFORCE, TST and TGROW (09 R242-R261, 02 R64). -/

namespace Sys2Proof.Machine

open Sys2Proof

/-! ### Operand fields (09 R243) -/

def tileD (f : F) : Nat := f.d.toNat % 16

/-- The scalar of the parameter word. -/
def prmNo (f : F) : Nat := f.d.toNat / 32

/-- A source field's assigned codes. -/
def tileSrcOk (a : BitVec 10) : Bool := a.extractLsb' 4 3 == 0 && decide (a.toNat / 128 ≤ 6)

/-- D with its parameter register, or without one. -/
def tileDestOk (d : BitVec 10) : Bool := d.getLsbD 4 || d >>> 5 == 0

/-- A bare tile number. -/
def tileBare (d : BitVec 10) : Bool := d >>> 4 == 0

/-- A scalar pair sN, s(N + 1) of an address and a pitch. -/
def pairForm (a : BitVec 10) : Bool := isScal a && decide (scalNo a ≤ 126)

/-- The parameter word: copied at append. -/
def Ctx.prm (c : Ctx) (f : F) : W64 := if f.d.getLsbD 4 then c.sreg (prmNo f) else 0

/-- Bits of the parameter word that the sources use. -/
def prmUsed (op : Nat) (a b : BitVec 10) : W64 :=
  let one := fun (m : Nat) (off idx sl : W64) => if m = 4 then off else if m = 5 then idx else if m = 6 then sl else 0
  if op = 0x201 then 0
  else one (a.toNat / 128) 0x3FFF 0xF0000000 0xF000000000 |||
    (if op = 0x202 ∨ op = 0x203 then one (b.toNat / 128) 0xFFFC000 0xF00000000 0xF0000000000 else 0)

/-- A tile instruction: without participating lanes it has no effect. -/
def tileSpec (f : F) (enc : Bool) (scals : List Nat) : Spec :=
  { cls := 5, ctl := f.ctl, enc := enc && f.ctl.hold == 0, scals := scals }

/-- Scalars behind fields that name them. -/
def scalsOf (l : List (BitVec 10)) : List Nat := l.filterMap fun f => if isScal f then some (scalNo f) else none

/-- Checks of a tile instruction in order (05 R138, 09 R246): convergence, then, where its lanes participate, tile numbers,
then its own, which a forcing of another wave holds back (09 R250). -/
def tileFails (tiles : List Nat) (own : Ctx → Option (Nat × W64)) (c : Ctx) : List Fail :=
  if !c.convergence.isEmpty then c.convergence
  else if c.part = 0 then []
  else if tiles.any fun t => decide (c.b.ntiles ≤ t) then failAll c.active cREG_BOUND 0
  else if c.tilesBusy then []
  else c.stop (own c)

/-- The body of a tile instruction: without participating lanes nothing, behind another forcing a hold (09 R250). -/
def State.tileBody (s : State) (c : Ctx) (sp : Spec) (body : State → State) : State :=
  if c.part = 0 then s.quick c sp id
  else if c.tilesBusy then s.hang c.id .tiles
  else body s

/-- The lock that this instruction already took before its forcing, with the pages translated for it: its checks are over
(22 R381). -/
def Ctx.heldLock (c : Ctx) : Option (Nat × List (Nat × Nat)) :=
  match c.w.wait with
  | some (.force _ (some k) pages _) => some (k, pages)
  | _ => none

/-- The lowest pending word of some tile-area ranges, as a register-space address (02 R71). -/
def Block.tilePending (b : Block) (rs : List (Nat × Nat)) : Option W64 :=
  (minBy (fun a => a) (rs.filterMap fun x => (pendingIn b.tpend x.1 x.2).map fun k => b.tileAddr (4 * k))).map (BitVec.ofNat 64)

/-- Nodes whose read ranges meet a range; a self-read node reads its own hull. -/
def Block.readersOf (b : Block) (r : Record) (h : Nat × Nat) : List Nat :=
  b.nodes.filterMap fun e =>
    if (b.nodeReads r e.2).any (rangesMeet h) || (e.2.selfRead && rangesMeet h (b.geo r e.2.dest).hull) then some e.1 else none

/-- The reader mask of a tile (09 R238). -/
def Block.readerMask (b : Block) (r : Record) (t : Nat) : W64 :=
  (b.readersOf r (b.geo r t).hull).foldl (fun m q => m ||| (1#64 <<< q)) 0

/-! ### TDESC (09 R242) -/

def tdescSpec (f : F) : Spec := tileSpec f (tileBare f.d && scalForm f.a && scalForm f.b && f.m == 0) (scalsOf [f.a, f.b])

/-- The checks of a descriptor, in order. -/
def Block.descCause (b : Block) (r : Record) (w0 w1 : W64) : Option (Nat × W64) :=
  let g := geoOf r w0 w1
  let al := if g.sparse then 128 else 8
  if w0.extractLsb' 14 2 ≠ 0 ∨ w1.getLsbD 3 = true ∨ w1.extractLsb' 5 27 ≠ 0 then some (cILLEGAL_OP, 0)
  else if !slotOk g.raw false then some (cILLEGAL_OP, 0)
  else if g.pitch < g.rowBytes then some (cILLEGAL_OP, 0)
  else if g.sparse && ((lineLambda g.slot).isNone || g.cols % 4 != 0) then some (cILLEGAL_OP, 0)
  else if g.base % al ≠ 0 then some (cALIGN, BitVec.ofNat 64 g.base)
  else if g.pitch % al ≠ 0 then some (cALIGN, BitVec.ofNat 64 g.pitch)
  else if g.scales % 4 ≠ 0 then some (cALIGN, BitVec.ofNat 64 g.scales)
  else if b.tileLen < g.hullEnd then some (cREG_BOUND, BitVec.ofNat 64 g.base)
  else if g.scaleRange.any fun x => decide (b.tileLen < x.1 + x.2) then some (cREG_BOUND, BitVec.ofNat 64 g.scales)
  else none

def tdescOwn (f : F) (c : Ctx) : Option (Nat × W64) := c.b.descCause c.l.record (c.scalar f.a) (c.scalar f.b)

/-- Readers of the tile, oldest first, then its producer. -/
def Block.redefine (b : Block) (d : Nat) : List (Nat × W64) :=
  let t := b.tileAt d
  b.fullDemand ((List.range 64).filter fun q => t.readers.getLsbD q) ++
    (if t.producer.isSome then [(d, BitVec.allOnes 64)] else [])

def execTdesc (f : F) (s : State) : Host.Outcome State Fault Refusal :=
  .next (run (tdescSpec f) (tileFails [tileD f] (tdescOwn f)) noResume (fun c s =>
    s.tileBody c (tdescSpec f) fun s => s.forceFirst c (c.b.redefine (tileD f)) none [] fun s =>
      s.quick c (tdescSpec f) fun s => s.modBlock c.id fun b =>
        let b := b.modTile (tileD f) fun t => { t with w0 := c.scalar f.a, w1 := c.scalar f.b, producer := none, valid := BitVec.allOnes 64 }
        b.modTile (tileD f) fun t => { t with readers := b.readerMask c.l.record (tileD f) }) s)

/-! ### Appending (09 R246-R249) -/

/-- A node may read its own destination only so (09 R247). -/
def selfSource (op d : Nat) (x : Src) : Bool := (op == 0x203 || op == 0x204 || op == 0x206) && x.tile == d && x.map == 0

def selfReads (op d : Nat) (m : BitVec 6) (srcs : List Src) : Bool :=
  (op == 0x202 && m.getLsbD 0) || srcs.any (selfSource op d)

/-- Whether an extent reaches a count; an unbounded one does. -/
def reaches (e : Option Nat) (n : Nat) : Bool :=
  match e with
  | none => true
  | some k => decide (n ≤ k)

/-- A bounded extent from 1 to 128. -/
def bounded128 (e : Option Nat) : Bool :=
  match e with
  | none => false
  | some k => decide (1 ≤ k) && decide (k ≤ 128)

/-- The shapes of an operation's sources against its destination (09 R252-R256). -/
def Block.shapeOk (b : Block) (r : Record) (op : Nat) (m : BitVec 6) (d : Nat) (srcs : List Src) : Bool :=
  let g := b.geo r d
  let covers := fun (x : Src) =>
    reaches (b.logicalExtent r x).1 g.rows && reaches (b.logicalExtent r x).2 g.cols
  match op, srcs with
  | 0x202, [x, y] =>
    let ex := b.logicalExtent r x
    let ey := b.logicalExtent r y
    bounded128 ex.2 && reaches ex.1 g.rows && reaches ey.1 (ex.2.getD 0) && reaches ey.2 g.cols
  | 0x205, [x] =>
    let e := b.logicalExtent r x
    if m.getLsbD 2 then bounded128 e.1 && g.rows == 1 && reaches e.2 g.cols
    else bounded128 e.2 && g.cols == 1 && reaches e.1 g.rows
  | 0x204, _ => srcs.all covers && !(m.toNat % 8 == 3 && isIntKind g)
  | _, _ => srcs.all covers

/-- A map's own condition (09 R244). -/
def Block.mapOk (b : Block) (r : Record) (x : Src) : Bool :=
  let g := b.geo r x.tile
  match x.map with
  | 4 => decide (x.dr < g.rows) && decide (x.dc < g.cols)
  | 5 =>
    let i := b.geo r x.idx
    i.slot.kind == 4 && slotBits i.slot == 32 && i.cols == 1
  | 6 => g.rows % x.p == 0
  | _ => true

/-- Sparse tiles in their places (09 R252, R257). -/
def Block.sparseOk (b : Block) (r : Record) (op d : Nat) (srcs : List Src) : Bool :=
  (op == 0x201 || !(b.geo r d).sparse) &&
  (match op, srcs with
    | 0x202, [x, y] => (!(b.geo r x.tile).sparse || x.map == 0) && (!(b.geo r y.tile).sparse || y.map == 1)
    | _, _ => srcs.all fun x => !(b.geo r x.tile).sparse) &&
  srcs.all fun x => x.map != 5 || !(b.geo r x.idx).sparse

/-- Overlaps of a read range with the destination's hull that are not a self-read (09 R247). -/
def Block.overlapOk (b : Block) (r : Record) (op d : Nat) (srcs : List Src) : Bool :=
  let h := (b.geo r d).hull
  ((b.geo r d).scaleRange.all fun x => !rangesMeet h x) &&
  srcs.all fun x =>
    (selfSource op d x || !rangesMeet h (b.geo r x.tile).hull) &&
    ((b.geo r x.tile).scaleRange.all fun y => !rangesMeet h y) &&
    (x.map != 5 || (!rangesMeet h (b.geo r x.idx).hull && (b.geo r x.idx).scaleRange.all fun y => !rangesMeet h y))

/-- Whether an append breaks a rule of its descriptors (09 R242, so a tile that TDESC has never written), shapes, formats, maps or overlaps. -/
def Block.appendIllegal (b : Block) (r : Record) (op : Nat) (f : F) (prm : W64) : Bool :=
  let d := tileD f
  let srcs := opSources op f.a f.b prm
  !(((d :: srcTiles srcs).all fun t => slotOk (b.geo r t).raw false && decide ((b.geo r t).rowBytes ≤ (b.geo r t).pitch)) && prm &&& ~~~(prmUsed op f.a f.b) == 0 &&
    b.sparseOk r op d srcs && srcs.all (b.mapOk r) && b.shapeOk r op f.m d srcs && b.overlapOk r op d srcs)

/-- Address and pitch of a memory operand. -/
def Ctx.memPair (c : Ctx) (f : F) : W64 × W64 := (c.sreg (scalNo f.a), c.sreg (scalNo f.a + 1))

/-- ALIGN of an address and a pitch. -/
def pairCause (g : Geo) (p : W64 × W64) : Option (Nat × W64) :=
  let al := if g.sparse then 128 else 8
  if p.1.toNat % al ≠ 0 then some (cALIGN, p.1) else if p.2.toNat % al ≠ 0 then some (cALIGN, p.1 + p.2) else none

/-- Rows of a memory source. -/
def tldRows (g : Geo) (p : W64 × W64) : List (W64 × Nat) :=
  (List.range g.rows).map fun i => (p.1 + BitVec.ofNat 64 i * p.2, g.rowBytes)

/-- The checks of an append, in the order of 09 R246. -/
def appendOwn (op : Nat) (f : F) (s : State) (c : Ctx) : Option (Nat × W64) :=
  let r := c.l.record
  let prm := if op = 0x201 then 0 else c.prm f
  let d := tileD f
  let srcs := opSources op f.a f.b prm
  let reads := c.b.readRanges r srcs d
  let scales := (d :: srcTiles srcs).flatMap fun t => (c.b.geo r t).scaleRange
  let g := c.b.geo r d
  if srcs.any fun x => x.map == 5 && decide (r.tiles ≤ x.idx) then some (cREG_BOUND, 0)
  else if c.b.appendIllegal r op f prm then some (cILLEGAL_OP, 0)
  else match c.b.tilePending (((List.range g.rows).map fun i => (g.base + i * g.pitch, g.rowBytes)) ++ reads) with
    | some a => some (cREG_PENDING, a)
    | none => match minBy (fun a => a) (scales.filterMap fun x => c.b.suspendedIn r x.1 x.2) with
      | some o => some (cTILE_SUSPENDED, BitVec.ofNat 64 o)
      | none =>
        if op ≠ 0x201 then none
        else match pairCause g (c.memPair f) with
          | some e => some e
          | none => match s.translateRows c.l.asid c.l.tenant (tldRows g (c.memPair f)) [rREAD] with
            | .error e => some (e.1, BitVec.ofNat 64 e.2)
            | .ok _ => none

/-- The nodes that an append forces first (09 R246). -/
def Block.appendForces (b : Block) (r : Record) (op : Nat) (f : F) (prm : W64) : List Nat :=
  let d := tileD f
  let h := (b.geo r d).hull
  let srcs := opSources op f.a f.b prm
  let named := srcTiles srcs
  let reads := b.readRanges r srcs d
  let producers := fun (p : Nat → Bool) => r.tileNos.filterMap fun t => if p t then (b.tileAt t).producer else none
  b.readersOf r h ++
  producers (fun t => t != d && rangesMeet h (b.geo r t).hull) ++
  producers (fun t => t != d && !named.contains t && reads.any (rangesMeet (b.geo r t).hull)) ++
  (if selfReads op d f.m srcs then producers (fun t => t == d) else [])

/-- The lowest free slot of the thunk table. -/
def Block.freeNodeSlot (b : Block) : Option Nat := (List.range 64).find? fun q => (b.node? q).isNone

/-- Write a node and make it its tile's producer (09 R246). -/
def Block.append (b : Block) (r : Record) (q : Nat) (n : Node) : Block :=
  let b := { b with nodes := spPut b.nodes q { n with seq := b.appends }, appends := b.appends + 1 }
  let b := b.modTile n.dest fun t => { t with producer := some q, valid := ~~~(b.geo r n.dest).extent }
  let own := (b.geo r n.dest).hull
  let reads := b.nodeReads r n
  r.tileNos.foldl (fun b t =>
    if reads.any (rangesMeet (b.geo r t).hull) || (n.selfRead && rangesMeet own (b.geo r t).hull) then
      b.modTile t fun x => { x with readers := x.readers ||| (1#64 <<< q) }
    else b) b

/-- The 16 oldest nodes (09 R249). -/
def Block.oldest16 (b : Block) : List Nat := ((sortBy (fun e => e.2.seq) b.nodes).take 16).map Prod.fst

/-- Take one range-lock entry for an instruction that forces: its owner is the number of its operation (04 R110). -/
def State.takeLock (s : State) (core : Nat) (writes : Bool) (lines : List (Nat × Nat)) : State :=
  { s with nextOp := s.nextOp + 1, locks := s.locks ++ [⟨core, s.nextOp, writes, lines⟩] }

/-- Forcing, superseding, overflow and the append (09 R246-R249). -/
def State.appendStep (s : State) (c : Ctx) (sp : Spec) (n : Node) (forces : List Nat) : State :=
  let demand := c.b.fullDemand forces
  s.forceFirst c demand n.lock n.pages fun s =>
    match (c.b.tileAt n.dest).producer, c.b.freeNodeSlot with
    | none, none => (s.countCore c.id.core 0x102 1).hang c.id (.force (c.b.fullDemand c.b.oldest16) n.lock n.pages c.reading)
    | p, _ => s.quick c sp fun s =>
      let s := match p with
        | some q => s.freeNode c.id q
        | none => s
      s.modBlock c.id fun b => b.append c.l.record (b.freeNodeSlot.getD 0) n

def appendBody (op : Nat) (sp : Spec) (f : F) (c : Ctx) (s : State) : State :=
  s.tileBody c sp fun s =>
    let r := c.l.record
    let prm := if op = 0x201 then 0 else c.prm f
    let d := tileD f
    let n : Node := {
      origin := c.addr, index := c.idx, wave := c.id.wave, op := op, modifier := f.m, dest := d
      selfRead := selfReads op d f.m (opSources op f.a f.b prm), state := 1, cause := 0xFF, a := f.a, b := f.b, prm := prm
      memAddr := 0, memPitch := 0, seq := 0, faultAddr := 0, pages := [], lock := none, since := c.w.accesses }
    let forces := c.b.appendForces r op f prm
    if op ≠ 0x201 then s.appendStep c sp n forces
    else
      let p := c.memPair f
      let rows := tldRows (c.b.geo r d) p
      let n := { n with memAddr := p.1, memPitch := p.2 }
      match c.heldLock with
      | some (k, pages) => s.appendStep c sp { n with lock := some k, pages := pages } forces
      | none => match s.translateRows c.l.asid c.l.tenant rows [rREAD] with
        | .error _ => s
        | .ok pages =>
          if s.lockFree c.id.core = 0 then s.linger c.id (.locks 1)
          else
            let k := s.nextOp
            ((s.holdRows c.l rows [rREAD]).takeLock c.id.core false (s.rowLines c.l pages rows)).appendStep c sp
              { n with lock := some k, pages := pages } forces

/-- The tiles that the fields of an append name. -/
def appendTiles (op : Nat) (f : F) : List Nat :=
  tileD f :: (if op = 0x201 then [] else if op = 0x202 ∨ op = 0x203 then [f.a.toNat % 16, f.b.toNat % 16] else [f.a.toNat % 16])

/-- An appending instruction. -/
def appendOp (op : Nat) (sp : Spec) (f : F) (s : State) : State :=
  run sp (tileFails (appendTiles op f) fun c => appendOwn op f s c) noResume (appendBody op sp f) s

def prmScals (f : F) : List Nat := if f.d.getLsbD 4 then [prmNo f] else []

/-- An engine access is held behind an .acq atomic (04 R104, R120). -/
def tldSpec (f : F) : Spec :=
  { tileSpec f (tileBare f.d && pairForm f.a && f.b == 0 && f.m == 0) [scalNo f.a, scalNo f.a + 1] with acq := true }

/-- The address at which the translation of rows fails; a forcing has made its translation before. -/
def rowsLost (rows : Ctx → List (W64 × Nat)) (rights : List Nat) (s : State) (c : Ctx) : Option Nat :=
  if c.w.forcing then none else match s.translateRows c.l.asid c.l.tenant (rows c) rights with
    | .error e => some e.2
    | .ok _ => none

/-- The rows of a TLD. -/
def tldReads (f : F) (c : Ctx) : List (W64 × Nat) := tldRows (c.b.geo c.l.record (tileD f)) (c.memPair f)

def execTld (f : F) (s : State) : Host.Outcome State Fault Refusal :=
  .next (s.unholdFail (appendOp 0x201 (tldSpec f) f s) f.ctl (rowsLost (tldReads f) [rREAD] s))

def appendSpec (f : F) (two : Bool) (modOk : Bool) : Spec :=
  tileSpec f (tileDestOk f.d && tileSrcOk f.a && (if two then tileSrcOk f.b else f.b == 0) && modOk) (prmScals f)

def execTmma (f : F) (s : State) : Host.Outcome State Fault Refusal :=
  .next (appendOp 0x202 (appendSpec f true (decide (f.m.toNat ≤ 1))) f s)

def execTew (f : F) (s : State) : Host.Outcome State Fault Refusal :=
  .next (appendOp 0x203 (appendSpec f true (decide (f.m.toNat ≤ 4))) f s)

def execTmap (f : F) (s : State) : Host.Outcome State Fault Refusal :=
  .next (appendOp 0x204 (appendSpec f false (decide (f.m.toNat ≤ 4))) f s)

def execTred (f : F) (s : State) : Host.Outcome State Fault Refusal :=
  .next (appendOp 0x205 (appendSpec f false (decide (f.m.toNat ≤ 7))) f s)

def execTcvt (f : F) (s : State) : Host.Outcome State Fault Refusal :=
  .next (appendOp 0x206 (appendSpec f false (f.m == 0)) f s)

/-! ### TFORCE (09 R258) -/

def tforceSpec (f : F) : Spec := tileSpec f (tileBare f.d && scalForm f.a && f.b == 0 && f.m == 0) (scalsOf [f.a])

def execTforce (f : F) (s : State) : Host.Outcome State Fault Refusal :=
  .next (run (tforceSpec f) (tileFails [tileD f] fun _ => none) noResume (fun c s =>
    s.tileBody c (tforceSpec f) fun s =>
      s.forceFirst c [(tileD f, c.scalar f.a &&& (c.b.geo c.l.record (tileD f)).extent)] none [] fun s =>
        s.quick c (tforceSpec f) id) s)

/-! ### TST (09 R261) -/

def tstSpec (f : F) : Spec :=
  { tileSpec f (tileBare f.d && pairForm f.a && scalForm f.b && f.m == 0) ([scalNo f.a, scalNo f.a + 1] ++ scalsOf [f.b]) with
    acq := true }

/-- What a store of some subtiles takes, subtile by subtile: row, first byte within it, bytes, and the mask of the last
byte. A sparse tile stores whole rows of each named row-block, once. Where rows overlap in memory the last byte in this order
stands (DESIGN CHOICE, log 94). -/
def Geo.storeRuns (g : Geo) (mask : W64) : List (Nat × Nat × Nat × Nat) :=
  if g.sparse then
    ((List.range g.rows).filter fun i => (List.range 8).any fun k => mask.getLsbD (8 * (i / 16) + k)).map fun i => (i, 0, g.rowBytes, 255)
  else
    ((List.range 64).filter fun k => mask.getLsbD k).flatMap fun k =>
      let n := min 16 (g.cols - 16 * (k % 8))
      let bits := n * containerBits g.slot % 8
      (g.subtileRows k).map fun i => (i, (g.subtileSpan k).1, (g.subtileSpan k).2, if bits = 0 then 255 else 2 ^ bits - 1)

/-- Memory ranges of the runs, in ascending row order. -/
def storeRows (p : W64 × W64) (runs : List (Nat × Nat × Nat × Nat)) : List (W64 × Nat) :=
  (sortBy (fun x => x.1) runs).map fun x => (p.1 + BitVec.ofNat 64 x.1 * p.2 + BitVec.ofNat 64 x.2.1, x.2.2.1)

def Ctx.tstMask (c : Ctx) (f : F) : W64 := c.scalar f.b &&& (c.b.geo c.l.record (tileD f)).extent

def Ctx.tstRuns (c : Ctx) (f : F) : List (Nat × Nat × Nat × Nat) := (c.b.geo c.l.record (tileD f)).storeRuns (c.tstMask f)

/-- The checks of a TST, before any forcing; that of its slot comes after those of ownership (03 R83; DEDUCED, log
84). A tile never described, one element at offset 0, is stored too where the area does not hold it, as zero bytes (DESIGN
CHOICE, log 94). -/
def tstOwn (f : F) (s : State) (c : Ctx) : Option (Nat × W64) :=
  let g := c.b.geo c.l.record (tileD f)
  let runs := c.tstRuns f
  if c.tstMask f = 0 then none
  else match c.b.tilePending (runs.map fun x => (g.base + x.1 * g.pitch + x.2.1, x.2.2.1)) with
    | some a => some (cREG_PENDING, a)
    | none => if !slotOk g.raw false then some (cILLEGAL_OP, 0) else match pairCause g (c.memPair f) with
      | some e => some e
      | none => match s.translateRows c.l.asid c.l.tenant (storeRows (c.memPair f) runs) [rWRITE] with
        | .error e => some (e.1, BitVec.ofNat 64 e.2)
        | .ok _ => none

/-- The store that follows the forcing: an engine operation under the number of its lock. -/
def State.startTst (s : State) (c : Ctx) (sp : Spec) (f : F) (k : Nat) (pages : List (Nat × Nat)) : State :=
  let g := c.b.geo c.l.record (tileD f)
  let p := c.memPair f
  let bytes := (c.tstRuns f).flatMap fun x => (List.range x.2.2.1).map fun j =>
    (g.base + x.1 * g.pitch + x.2.1 + j,
     physOf pages ((p.1 + BitVec.ofNat 64 x.1 * p.2).toNat + x.2.1 + j),
     if j + 1 = x.2.2.1 then x.2.2.2 else 255)
  let nums := List.range bytes.length
  let s := s.issue c sp
  let o : EngineOp := { emptyOp k .tst c.id c.b sp.ctl.sig.toNat with
    unit := 1, rd := nums.zip (bytes.map fun x => x.1), rdSpace := .tile
    wr := nums.zip (bytes.map fun x => x.2.1), wrSpace := .memory
    virt := nums.zip (bytes.map fun x => BitVec.ofNat 64 x.2.2) }
  let s := { s with ops := spPut s.ops k o }
  let s := s.modBlock c.id fun b => { b with tpend := bytes.foldl (fun t x => setPending t x.1 1 true) b.tpend }
  (s.modWave c.id fun w => w.flagUp sp.ctl.sig.toNat).advance c.id

def tstBody (f : F) (c : Ctx) (s : State) : State :=
  let sp := tstSpec f
  s.tileBody c sp fun s =>
    if c.tstMask f = 0 then s.quick c sp id
    else
      let rows := storeRows (c.memPair f) (c.tstRuns f)
      let demand := [(tileD f, c.tstMask f)]
      match c.heldLock with
      | some (k, pages) => s.forceFirst c demand (some k) pages fun s => s.startTst c sp f k pages
      | none => match s.translateRows c.l.asid c.l.tenant rows [rWRITE] with
        | .error _ => s
        | .ok pages =>
          if s.lockFree c.id.core = 0 then s.linger c.id (.locks 1)
          else
            let k := s.nextOp
            ((s.holdRows c.l rows [rWRITE]).takeLock c.id.core true (s.rowLines c.l pages rows)).forceFirst c demand (some k) pages
              fun s => s.startTst c sp f k pages

/-- The rows of a TST. -/
def tstWrites (f : F) (c : Ctx) : List (W64 × Nat) := storeRows (c.memPair f) (c.tstRuns f)

def execTst (f : F) (s : State) : Host.Outcome State Fault Refusal :=
  .next (s.unholdFail (run (tstSpec f) (tileFails [tileD f] fun c => tstOwn f s c) noResume (tstBody f) s) f.ctl
    (rowsLost (tstWrites f) [rWRITE] s))

/-! ### Rows of a core and TGROW (02 R51, R64, 01 R27, R28) -/

def State.coreBlocks (s : State) (core : Nat) : List Block := (s.blocks.filter fun e => e.1 / 16 == core).map Prod.snd

/-- Free rows of a core: 2,016 but for those that its blocks hold. -/
def State.freeRows (s : State) (core : Nat) : Nat :=
  2016 - ((s.coreBlocks core).flatMap Block.place).foldl (fun n x => n + x.2) 0

/-- Free wave places of a core. -/
def State.freeWaves (s : State) (core : Nat) : Nat := 48 - (s.coreBlocks core).foldl (fun n b => n + b.nwaves) 0

/-- Rows of a core below 2,016 that no block holds: ascending ranges of a first row and a count. -/
def State.freeRanges (s : State) (core : Nat) : List (Nat × Nat) :=
  let used := sortBy (fun x => x.1) ((s.coreBlocks core).flatMap Block.place)
  let q := used.foldl (fun (a : Nat × List (Nat × Nat)) x =>
    (max a.1 (x.1 + x.2), if a.1 < x.1 then a.2 ++ [(a.1, x.1 - a.1)] else a.2)) (0, [])
  if q.1 < 2016 then q.2 ++ [(q.1, 2016 - q.1)] else q.2

/-- The lowest n rows of some ranges. -/
def takeRows : List (Nat × Nat) → Nat → List (Nat × Nat)
  | [], _ => []
  | (r, k) :: t, n => if n ≤ k then [(r, n)] else (r, k) :: takeRows t (n - k)

/-- Where n rows lie: in the lowest range that holds them all, else in the lowest free rows; it shows only in s123 of
REG_PENDING (02 R51; DEDUCED, log 30). -/
def State.placeRows (s : State) (core n : Nat) : List (Nat × Nat) :=
  match (s.freeRanges core).find? fun g => decide (n ≤ g.2) with
  | some g => [(g.1, n)]
  | none => takeRows (s.freeRanges core) n

/-- Rows that a block holds. -/
def Block.rowsHeld (b : Block) : Nat := b.place.foldl (fun n x => n + x.2) 0

def tgrowSpec (f : F16) : Spec :=
  { cls := 5, ctl := f.ctl, enc := f.ctl.hold == 0 && isScal f.d && f.a == 0 && f.imm.extractLsb' 12 4 == 0, wscals := [scalNo f.d] }

def tgrowRows (f : F16) : Nat := (f.imm.extractLsb' 0 12).toNat

def State.tgrow (s : State) (c : Ctx) (f : F16) : State :=
  let n := tgrowRows f
  let d := scalNo f.d
  if n = 0 then s.setS c.id d (BitVec.ofNat 64 c.b.tileLen)
  else if c.b.extents.length = 4 then s.setS c.id d (failCode 2)
  else if s.freeRows c.id.core < n then s.setS c.id d (failCode 1)
  else
    (s.modBlock c.id fun b => { b with
      place := b.place ++ s.placeRows c.id.core n, extents := b.extents ++ [(b.rowsHeld, n)], tileLen := b.tileLen + 512 * n }).setS
        c.id d (BitVec.ofNat 64 (c.b.tileLen + 512 * n))

def execTgrow (f : F16) (s : State) : Host.Outcome State Fault Refusal :=
  .next (run (tgrowSpec f) Ctx.convergence noResume (fun c s =>
    s.quick c (tgrowSpec f) fun s => if c.part = 0 then s else s.tgrow c f) s)

end Sys2Proof.Machine
end

