-- ==== Sys2Proof/Machine/Sieve.lean ====
section
/-! DEFINITION. The NEAR class: SQRY, SAPP and SMRG, and the steps of a pseudo-channel's Sieves (11 R278-R293, 16 R317). -/

namespace Sys2Proof.Machine

open Sys2Proof

/-! ### The descriptor (11 R281) -/

/-- A Sieve descriptor: for SAPP `n` is the key index and `record` the K source. -/
structure SieveDesc where
  barrier : Nat
  post    : Bool
  cls     : Nat
  kSlot   : W64
  vSlot   : W64
  tag     : Nat
  d       : Nat
  budget  : Nat
  kBase   : W64
  vBase   : W64
  n       : Nat
  scale   : W32
  record  : Nat
  vSource : Nat
  kStride : Nat
  vStride : Nat
  deriving DecidableEq, Repr

/-- A slot that a Sieve reads: BF16, FP16 or a programmable float of 5 to 8 bits, scale mode 0 or 1, in order. -/
def sieveSlot (w : W64) : Bool :=
  let s := slotOf w
  (s.kind == 1 || s.kind == 2 || (s.kind == 3 && decide (5 ≤ s.width) && decide (s.width ≤ 8))) && decide (s.smode < 2) && slotOk w false

/-- Bytes of one row of d elements of a slot (11 R279). -/
def sieveRowBytes (d : Nat) (slot : W64) : Nat := d * containerBits (slotOf slot) / 8

def SieveDesc.kBytes (x : SieveDesc) : Nat := sieveRowBytes x.d x.kSlot
def SieveDesc.vBytes (x : SieveDesc) : Nat := sieveRowBytes x.d x.vSlot

/-- A stride that holds a row. -/
def strideOk (stride row : Nat) : Bool := stride % 64 == 0 && decide (row ≤ stride) && decide (stride ≤ 32768)

def headDim (d : Nat) : Bool := d % 32 == 0 && decide (32 ≤ d) && decide (d ≤ 256)

/-- Read a descriptor; none for one that breaks its table. -/
def sieveDesc (r : Record) (bs : List Byte) (append : Bool) : Option SieveDesc :=
  let ctl := descNat bs 0 1
  let slots := descNat bs 1 1
  let sc : W32 := BitVec.ofNat 32 (descNat bs 0x1C 4)
  let x : SieveDesc := {
    barrier := ctl % 16, post := ctl / 16 % 2 == 1, cls := ctl / 32 % 4, kSlot := r.slots.getD (slots % 8) 0
    vSlot := r.slots.getD (slots / 16 % 8) 0, tag := descNat bs 2 2, d := descNat bs 4 2, budget := descNat bs 6 2
    kBase := BitVec.ofNat 64 (descNat bs 8 8), vBase := BitVec.ofNat 64 (descNat bs 16 8), n := descNat bs 0x18 4, scale := sc
    record := descNat bs 0x20 4, vSource := descNat bs 0x24 4, kStride := descNat bs 0x28 2, vStride := descNat bs 0x2A 2 }
  if 128 ≤ ctl ∨ slots / 8 % 2 = 1 ∨ 128 ≤ slots ∨ descNat bs 0x2C 20 ≠ 0 ∨ headDim x.d = false ∨ sieveSlot x.kSlot = false ∨
      sieveSlot x.vSlot = false ∨ strideOk x.kStride x.kBytes = false ∨ strideOk x.vStride x.vBytes = false then none
  else if append then
    (if x.n ≤ 32767 ∧ sc = 0 ∧ x.record % 8 = 0 ∧ x.vSource % 8 = 0 then some x else none)
  else
    (if x.n ≤ 32768 ∧ sc &&& 0x7FFFFFFF ≠ 0 ∧ sc &&& 0x7F800000 ≠ 0x7F800000 ∧ x.record % 16 = 0 ∧ x.vSource = 0 then some x else none)

/-- Bytes of one record (11 R287). -/
def recordBytes (d : Nat) : Nat := 16 + 4 * d

/-! ### The regions (11 R279, R280, R284) -/

/-- Offset of key j's row from its region's base. -/
def keyOffset (stride j : Nat) : Nat := j % 32 * 65536 + j / 32 * stride

/-- The lowest key of a list of slots whose row leaves its bank, with the lowest address outside: keys come by their slot
in bank 0, or one key alone. -/
def leavesBank (base : W64) (stride row : Nat) (keys : List Nat) : Option (Nat × W64) :=
  let w := base.toNat % 65536
  (keys.find? fun j => decide (65536 < w + j / 32 * stride + row)).map fun j =>
    (j, base + BitVec.ofNat 64 (keyOffset stride j) + BitVec.ofNat 64 (65536 - (w + j / 32 * stride)))

/-- Whether the page of a base is compute-capable, and the base's physical address. -/
def State.sievePage (s : State) (l : Launch) (va : W64) : Bool × Nat :=
  match s.leafOf l.asid va.toNat with
  | .error _ => (false, 0)
  | .ok (x, _) => (x.entry.getLsbD 8, leafAddr x.entry + va.toNat % x.size)

/-- Why a command is rejected whole: its status and the address of s123 (11 R284, R291). -/
def State.sieveReject (s : State) (l : Launch) (x : SieveDesc) (append : Bool) : Option (Nat × W64) :=
  let keys := if append then [x.n] else (List.range ((x.n + 31) / 32)).map (32 * ·)
  let k := s.sievePage l x.kBase
  let v := s.sievePage l x.vBase
  let out := (leavesBank x.kBase x.kStride x.kBytes keys).toList ++ (leavesBank x.vBase x.vStride x.vBytes keys).toList
  if !k.1 then some (3, x.kBase)
  else if !v.1 then some (3, x.vBase)
  else match minBy (fun e => e.1) out with
    | some e => some (2, ((minBy (fun a : W64 => a.toNat) ((out.filter fun y => y.1 == e.1).map Prod.snd)).getD 0))
    | none => if s.pcOf k.2 ≠ s.pcOf v.2 then some (4, x.vBase) else none

/-! ### Checks at issue (11 R283) -/

/-- ALIGN, PAGE_FAULT and PROT_PAGE of the two bases. -/
def State.baseCause (s : State) (l : Launch) (x : SieveDesc) (right : Nat) : Option (Nat × W64) :=
  let bad := fun (a : W64) => a.extractLsb' 16 5 != 0 || a.extractLsb' 0 3 != 0
  if bad x.kBase then some (cALIGN, x.kBase)
  else if bad x.vBase then some (cALIGN, x.vBase)
  else match s.translate l.asid l.tenant x.kBase.toNat [right] with
    | .error e => some (e, x.kBase)
    | .ok _ => match s.translate l.asid l.tenant x.vBase.toNat [right] with
      | .error e => some (e, x.vBase)
      | .ok _ => none

/-- The descriptor of an instruction, or the cause that stops it. -/
def Ctx.descAt (c : Ctx) (off : Nat) (append : Bool) : Except (Nat × W64) SieveDesc :=
  if off % 64 ≠ 0 then .error (cALIGN, BitVec.ofNat 64 off)
  else if c.b.commonLen < off + 64 then .error (cREG_BOUND, BitVec.ofNat 64 off)
  else match sieveDesc c.l.record (c.b.commonBytes off 64) append with
    | none => .error (cILLEGAL_OP, 0)
    | some x => if c.b.nbar < x.barrier then .error (cREG_BOUND, 0) else .ok x

/-- The lowest pending word of some common-area ranges. -/
def Block.commonPending (b : Block) (rs : List (Nat × Nat)) : Option W64 :=
  (minBy (fun a => a) (rs.filterMap fun x => (pendingIn b.cpend x.1 x.2).map fun k => b.commonAddr (4 * k))).map (BitVec.ofNat 64)

def sqrySpec (f : F) : Spec :=
  { cls := 6, ctl := f.ctl, enc := f.d == 0 && f.m == 0 && f.ctl.hold == 0 && isScal f.a && isVec f.b
    xsrcs := [(f.b, 1)], scals := [scalNo f.a], acq := true }

/-- Pending words of n vector registers, by lane. -/
def Ctx.pendingRegs (c : Ctx) (reg n : Nat) : List Fail :=
  (lanesOf c.part).filterMap fun l => ((List.range n).find? fun k => c.w.pending (reg + k) l).map fun k =>
    ⟨l, cREG_PENDING, c.regAddr (reg + k) l⟩

/-- The checks of 11 R283; a dependence on the query registers beyond vB shows with the descriptor (05 R134; DEDUCED, log 85). -/
def sqryFails (f : F) (s : State) (c : Ctx) : List Fail :=
  let off := descOff f c
  if !c.convergence.isEmpty then c.convergence
  else if c.part = 0 then []
  else match c.descAt off false with
    | .error e => failAll c.active e.1 e.2
    | .ok x =>
      let size := 16 * recordBytes x.d
      let pend := c.pendingRegs (vecNo f.b) (x.d / 32) ++ (match c.b.commonPending [(off, 64), (x.record, size)] with
        | none => []
        | some a => failAll c.active cREG_PENDING a)
      if c.shortRegs (rangeFrom (vecNo f.b) (x.d / 32)) then failAll c.active cSTALL_SHORT 0
      else if c.budget < vecNo f.b + x.d / 32 then failAll c.active cREG_BOUND 0
      else if c.b.commonLen < x.record + size then failAll c.active cREG_BOUND (BitVec.ofNat 64 x.record)
      else if !pend.isEmpty then pend
      else c.stop (s.baseCause c.l x rREAD)

/-! ### Records (11 R287) -/

/-- The identity partial (03 R91). -/
def noPartial (d : Nat) : Partial := ⟨ninf32, 0, List.replicate d 0⟩

/-- A record's bytes: partial and status word. -/
def recordOfPartial (p : Partial) (status : Nat) : List Byte :=
  bytesOfNat 4 p.mu.toNat ++ bytesOfNat 4 p.lam.toNat ++ bytesOfNat 8 status ++ p.alpha.flatMap fun a => bytesOfNat 4 a.toNat

/-- The status word without the count of corrected errors. -/
def statusOf (code sieve keys : Nat) : Nat := keys * 2 ^ 32 + sieve * 2 ^ 20 + code

/-- The 16 records of a command that scans nothing. -/
def Block.emptyRecords (b : Block) (x : SieveDesc) (code : Nat) : Block :=
  (List.range 16).foldl (fun b i =>
    b.setArea false (x.record + i * recordBytes x.d) (recordOfPartial (noPartial x.d) (statusOf code i 0))) b

/-- An event record that is due at once: posted, or held by an operation of its own until the queue has room. -/
def State.postNow (s : State) (id : WaveId) (b : Block) (o : EngineOp) : State :=
  if !o.post then s
  else if b.eventRoom then s.modBlock id fun b => { b with events := b.events ++ [o.event] }
  else s.addOp o []

/-! ### SQRY (11 R282, R284, R285) -/

/-- The scan of an accepted command. -/
def State.scanOf (s : State) (l : Launch) (x : SieveDesc) (q : List W32) : Scan :=
  let k := s.sievePage l x.kBase
  let v := s.sievePage l x.vBase
  { pc := s.pcOf k.2, d := x.d, n := x.n, scale := x.scale, kSlot := x.kSlot, vSlot := x.vSlot, kBase := k.2, vBase := v.2
    kVirt := x.kBase, vVirt := x.vBase, kStride := x.kStride, vStride := x.vStride, query := q, record := x.record
    accepted := false, sent := [], landed := [], poison := none }

def SieveDesc.op (x : SieveDesc) (n : Nat) (kind : OpKind) (id : WaveId) (b : Block) (sig : Nat) : EngineOp :=
  { emptyOp n kind id b sig with barrier := x.barrier, post := x.post, tag := x.tag, service := (x.cls, x.budget) }

/-- Element i of the query is the word of lane i mod 32 of register B + i div 32. -/
def Ctx.query (c : Ctx) (f : F) (d : Nat) : List W32 := (List.range d).map fun i => c.vreg (vecNo f.b + i / 32) (i % 32)

/-- A command that sends none: its records, credit, event record and flag in the issue cycle. -/
def State.sqryAtOnce (s : State) (c : Ctx) (f : F) (x : SieveDesc) (code : Nat) : State :=
  s.quick c (sqrySpec f) fun s =>
    let s := s.modBlock c.id fun b => (b.emptyRecords x code).credit x.barrier (16 * recordBytes x.d)
    s.postNow c.id c.b { x.op s.nextOp .sqry c.id c.b 15 with status := if code = 0 then 1 else 2 }

/-- An accepted command: locks, pending record words, a log entry. -/
def State.sqryStart (s : State) (c : Ctx) (f : F) (x : SieveDesc) : State :=
  if c.w.logFree.isNone then s.linger c.id (.log [] true)
  else if s.lockFree c.id.core < 2 then s.linger c.id (.locks 2)
  else
    let k := s.scanOf c.l x (c.query f x.d)
    let words := (List.range (2 * recordBytes x.d)).map fun i => (i, x.record + 8 * i)
    let n := s.nextOp
    let o := { x.op n .sqry c.id c.b f.ctl.sig.toNat with
      entry := c.w.logFree, wr := words, wrSpace := .common, credit := 16 * recordBytes x.d, scan := some k }
    let s := s.logIssue c (sqrySpec f) { c.logEntry 0x280 f [] with stage := 1, op := some n, no := n, bRegs := [] }
    let s := [x.kBase, x.vBase].foldl (fun s (a : W64) => s.hold c.l.asid c.l.tenant a.toNat [rREAD]) s
    (s.addOp o (k.hulls.map fun h => (false, [h]))).modBlock c.id fun b => b.markUnits .common words true

/-- The base whose translation fails. -/
def baseLost (f : F) (append : Bool) (right : Nat) (s : State) (c : Ctx) : Option Nat :=
  match c.descAt (descOff f c) append with
  | .error _ => none
  | .ok x => (s.baseCause c.l x right).map fun e => e.2.toNat

def execSqry (f : F) (s : State) : Host.Outcome State Fault Refusal :=
  .next (s.unholdFail (run (sqrySpec f) (sqryFails f s) noResume (fun c s =>
    if c.part = 0 then s.quick c (sqrySpec f) id
    else match c.descAt (descOff f c) false with
      | .error _ => s
      | .ok x => match s.sieveReject c.l x false with
        | some e =>
          let s := s.sqryAtOnce c f x e.1
          s.raiseFrom c.id c.w.accesses ((s.wave c.id).nextRec cSIEVE_REJECT e.2)
        | none => if x.n = 0 then s.sqryAtOnce c f x 0 else s.sqryStart c f x) s) f.ctl (baseLost f false rREAD s))

/-! ### SAPP (11 R291) -/

def sappSpec (f : F) : Spec :=
  { scalarSpec 6 f.ctl (f.d == 0 && f.b == 0 && f.m == 0) [f.a] none 0 with acq := true }

/-- Source ranges in the common area. -/
def SieveDesc.sources (x : SieveDesc) : List (Nat × Nat) := [(x.record, x.kBytes), (x.vSource, x.vBytes)]

def sappOwn (f : F) (s : State) (c : Ctx) : Option (Nat × W64) :=
  let off := descOff f c
  match c.descAt off true with
  | .error e => some e
  | .ok x => match x.sources.find? fun r => decide (c.b.commonLen < r.1 + r.2) with
    | some r => some (cREG_BOUND, BitVec.ofNat 64 r.1)
    | none => match c.b.commonPending ((off, 64) :: x.sources) with
      | some a => some (cREG_PENDING, a)
      | none => match s.baseCause c.l x rWRITE with
        | some e => some e
        | none => (s.sieveReject c.l x true).map fun e => (cSIEVE_REJECT, e.2)

/-- Physical address of a destination row. -/
def State.appendRow (s : State) (l : Launch) (base : W64) (stride j : Nat) : Nat := (s.sievePage l base).2 + keyOffset stride j

def State.sappStart (s : State) (c : Ctx) (f : F) (x : SieveDesc) : State :=
  if c.w.logFree.isNone then s.linger c.id (.log [] true)
  else if s.lockFree c.id.core < 2 then s.linger c.id (.locks 2)
  else
    let k := s.appendRow c.l x.kBase x.kStride x.n
    let v := s.appendRow c.l x.vBase x.vStride x.n
    let us := fun (a n : Nat) => (List.range (n / 8)).map fun i => a + 8 * i
    let rd := us x.record x.kBytes ++ us x.vSource x.vBytes
    let wr := us k x.kBytes ++ us v x.vBytes
    let nums := List.range rd.length
    let n := s.nextOp
    let o := { x.op n .sapp c.id c.b f.ctl.sig.toNat with
      entry := c.w.logFree, rd := nums.zip rd, rdSpace := .common, wr := nums.zip wr, wrSpace := .memory
      credit := x.kBytes + x.vBytes }
    let s := s.logIssue c (sappSpec f) { c.logEntry 0x281 f [] with stage := 1, op := some n, no := n }
    let s := [x.kBase, x.vBase].foldl (fun s (a : W64) => s.hold c.l.asid c.l.tenant a.toNat [rWRITE]) s
    (s.addOp o [(true, [(k / 64, (k + x.kBytes - 1) / 64)]), (true, [(v / 64, (v + x.vBytes - 1) / 64)])]).modBlock c.id
      fun b => b.markUnits .common (nums.zip rd) true

def execSapp (f : F) (s : State) : Host.Outcome State Fault Refusal :=
  .next (s.unholdFail (run (sappSpec f) (fun c => c.stop (sappOwn f s c)) noResume (fun c s =>
    if c.part = 0 then s.quick c (sappSpec f) id
    else match c.descAt (descOff f c) true with
      | .error _ => s
      | .ok x => s.sappStart c f x) s) f.ctl (baseLost f true rWRITE s))

/-! ### The pseudo-channel's Sieves (11 R286, R289, R292, R293) -/

def noChannel : Channel := { sieveq := [], queues := [[], [], [], []] }
def State.channel (s : State) (pc : Nat) : Channel := spGet noChannel s.channels pc
def State.modChannel (s : State) (pc : Nat) (f : Channel → Channel) : State :=
  { s with channels := spSet noChannel s.channels pc (f (s.channel pc)) }

/-- The scan of a number: of an operation, or one that runs on after its block was killed or flushed (11 R288). -/
def State.scanAt (s : State) (n : Nat) : Option Scan :=
  match spFind s.ops n with
  | some o => o.scan
  | none => spFind s.orphans n

/-- Change a scan where it stands. -/
def State.setScan (s : State) (n : Nat) (k : Scan) : State :=
  if (spFind s.ops n).isSome then s.modOp n fun o => { o with scan := some k } else { s with orphans := spMod s.orphans n fun _ => k }

/-- Commands accepted and not scanned; those dropped before their acceptance have left. -/
def State.sieveQueue (s : State) (pc : Nat) : List Nat := (s.channel pc).sieveq.filter fun n => (s.scanAt n).isSome

/-- SIEVE_COMMAND_ACCEPT: a command enters its pseudo-channel's queue of 16. -/
def State.sieveAccept (s : State) (n : Nat) : State :=
  match spFind s.ops n with
  | none => s
  | some o => match o.scan with
    | none => s
    | some k =>
      if k.accepted || s.opHeld o || decide (16 ≤ (s.sieveQueue k.pc).length) then s
      else (s.modOp n fun o => { o with scan := some { k with accepted := true }, begun := true }).modChannel k.pc fun c =>
        { c with sieveq := s.sieveQueue k.pc ++ [n] }

def execSieveCommandAccept (n : Nat) (s : State) : Host.Outcome State Fault Refusal := .next (s.sieveAccept n)

/-- Elements of a row at home, each decoded exactly with its scale. -/
def State.rowElems (s : State) (slot : W64) (pa d : Nat) : List XReal :=
  let t := slotOf slot
  let c := containerBits t / 8
  (List.range d).map fun i => (slotDecode t (tensorScale t) (s.readNat (pa + i * c) c % 2 ^ slotBits t)).val

/-- One key's partial (11 R286). -/
def State.keyPartial (s : State) (k : Scan) (kRow vRow : Nat) : Partial :=
  let ks := s.rowElems k.kSlot kRow k.d
  let vs := s.rowElems k.vSlot vRow k.d
  let dot := sumRuns 32 ⟨xnegzero, 0⟩ (List.zipWith (fun (q : W32) x => xmul (f32 q) x) k.query ks)
  ⟨(rnd32 (xmul (f32 k.scale) dot.val)).val, one32, vs.map fun x => (rnd32 ⟨x, 0⟩).val⟩

/-- What a Sieve's fold has come to: partial, keys scanned, and the first poisoned row: slot, bank, whether in V, its
virtual address. -/
structure Fold where
  part   : Partial
  keys   : Nat
  poison : Option (Nat × Nat × Bool × W64)
  deriving DecidableEq, Repr

/-- An uncorrectable error in a row: poison at home, or one that the arrays still hold (11 R289, 24 R409). -/
def State.rowBad (s : State) (pa n : Nat) : Bool :=
  (s.poisonIn pa n).isSome || s.hwErrors.any fun e => e.cls == 4 && decide (pa ≤ e.addr / 8 * 8 + 7) && decide (e.addr < pa + n)

def State.foldKey (s : State) (k : Scan) (f : Fold) (j : Nat) : Fold :=
  if f.poison.isSome then f
  else
    let kr := k.kBase + keyOffset k.kStride j
    let vr := k.vBase + keyOffset k.vStride j
    if s.rowBad kr (k.rowBytes k.kSlot) then
      { f with poison := some (j / 32, j % 32, false, k.kVirt + BitVec.ofNat 64 (keyOffset k.kStride j)) }
    else if s.rowBad vr (k.rowBytes k.vSlot) then
      { f with poison := some (j / 32, j % 32, true, k.vVirt + BitVec.ofNat 64 (keyOffset k.vStride j)) }
    else { f with part := (mergeP f.part (s.keyPartial k kr vr)).val, keys := f.keys + 1 }

/-- Keys of a Sieve, ascending. -/
def Scan.keysOf (k : Scan) (sieve : Nat) : List Nat := (List.range k.n).filter fun j => j % 32 / 2 == sieve

/-- A Sieve's fold; memory that no working path reaches answers with a poisoned record of its own (24 R413). -/
def State.sieveFold (s : State) (k : Scan) (sieve : Nat) : Fold :=
  if s.unreachable k.kBase || s.unreachable k.vBase then ⟨noPartial k.d, 0, some (0, 0, false, k.kVirt)⟩
  else (k.keysOf sieve).foldl (s.foldKey k) ⟨noPartial k.d, 0, none⟩

/-- Rows that a Sieve has read without an uncorrectable error: both of each key it folded, and the K row of a key whose V row
stopped it. -/
def Scan.rowsRead (k : Scan) (sieve : Nat) (f : Fold) : List (Nat × Nat) :=
  let row := fun (base stride : Nat) (slot : W64) (j : Nat) => (base + keyOffset stride j, k.rowBytes slot)
  let half := match f.poison with
    | some p => if p.2.2.1 then ((k.keysOf sieve).drop f.keys).take 1 else []
    | none => []
  (((k.keysOf sieve).take f.keys) ++ half).map (row k.kBase k.kStride k.kSlot) ++
    ((k.keysOf sieve).take f.keys).map (row k.vBase k.vStride k.vSlot)

/-- Corrected array errors in the rows that a Sieve read, at most 255 (11 R287, R289; DESIGN CHOICE, log 31). -/
def State.correctedIn (s : State) (k : Scan) (sieve : Nat) (f : Fold) : Nat :=
  min 255 (s.hwErrors.filter fun e => e.cls == 3 && (k.rowsRead sieve f).any fun r =>
    decide (r.1 ≤ e.addr) && decide (e.addr < r.1 + r.2)).length

/-- The record of a fold, with its count of corrected errors. -/
def Fold.record (f : Fold) (d sieve fixed : Nat) : List Byte :=
  match f.poison with
  | none => recordOfPartial f.part (fixed * 256 + statusOf 0 sieve f.keys)
  | some p => recordOfPartial (noPartial d)
      (p.1 * 2 ^ 54 + p.2.1 * 2 ^ 49 + (if p.2.2.1 then 2 ^ 48 else 0) + fixed * 256 + statusOf 1 sieve f.keys)

/-- The poisoned row of the lowest Sieve. -/
def lowPoison (a : Option (Nat × W64)) (sieve : Nat) (f : Fold) : Option (Nat × W64) :=
  match f.poison, a with
  | none, _ => a
  | some p, none => some (sieve, p.2.2.2)
  | some p, some b => if sieve < b.1 then some (sieve, p.2.2.2) else some b

/-- A bank that a Sieve reads is under refresh: the Sieve pauses (11 R294). -/
def State.sievePaused (s : State) (k : Scan) (sieve : Nat) : Bool :=
  (k.keysOf sieve).any fun j => (spFind (s.channel k.pc).refresh (j % 32)).isSome

/-- SIEVE_PARTIAL_SEND: a Sieve of the oldest accepted command ends its fold; after the last the command leaves the queue. -/
def State.sieveSend (s : State) (n sieve : Nat) : State :=
  match s.scanAt n with
  | none => s
  | some k =>
    if !k.accepted || decide (16 ≤ sieve) || (k.sent.any fun e => e.1 == sieve) || (s.sieveQueue k.pc).head? != some n ||
        s.sievePaused k sieve then s
    else
      let f := s.sieveFold k sieve
      let k' := { k with sent := k.sent ++ [(sieve, f.record k.d sieve (s.correctedIn k sieve f))], poison := lowPoison k.poison sieve f }
      if k'.sent.length < 16 then s.setScan n k'
      else ({ s.setScan n k' with orphans := spDel s.orphans n }).modChannel k.pc fun c =>
        { c with sieveq := c.sieveq.filter (· != n) }

/-- An operation's work is done: its range locks are released and its credit is made, and it is over once its event record
has room (07 R193, 11 R288, 12 R302). -/
def State.finishOp (s : State) (n : Nat) : State :=
  match spFind s.ops n with
  | none => s
  | some o => match s.block? o.w with
    | none => s
    | some b =>
      let s := ((s.unlock n).modBlock o.w fun b => b.credit o.barrier o.credit).modOp n fun o => { o with status := 1 }
      if o.post && !b.eventRoom then s else s.closeOp { o with status := 1 }

/-- SIEVE_RECORD_LAND: a record lands; the last one completes the SQRY (11 R288). -/
def State.sieveLand (s : State) (n sieve : Nat) : State :=
  match spFind s.ops n with
  | none => s
  | some o => match o.scan with
    | none => s
    | some k => match k.sent.find? fun e => e.1 == sieve with
      | none => s
      | some e =>
        if sieve ∈ k.landed then s
        else
          let lo := k.record + sieve * recordBytes k.d
          let mine := o.wr.filter fun u => decide (lo ≤ u.2) && decide (u.2 < lo + recordBytes k.d)
          let k' := { k with landed := k.landed ++ [sieve] }
          let s := s.modBlock o.w fun b => (b.setArea false lo e.2).markUnits .common mine false
          let s := s.modOp n fun o => { o with scan := some k', wr := o.wr.filter fun u => u ∉ mine }
          if k'.landed.length = 16 then s.finishOp n else s

def execSieveRecordLand (n sieve : Nat) (s : State) : Host.Outcome State Fault Refusal := .next (s.sieveLand n sieve)

/-- The pseudo-channel stands between two Sieve commands. -/
def State.betweenScans (s : State) (pc : Nat) : Bool :=
  match s.sieveQueue pc with
  | [] => true
  | n :: _ => match s.scanAt n with
    | none => true
    | some k => k.sent.isEmpty

/-- SAPP_APPLY: both rows are applied as one write; the SAPP completes (11 R292). -/
def State.sappApply (s : State) (n : Nat) : State :=
  match spFind s.ops n with
  | none => s
  | some o =>
    let pc := s.pcOf ((o.wr.head?.map Prod.snd).getD 0)
    if o.kind ≠ .sapp ∨ o.rd ≠ [] ∨ o.status ≠ 0 ∨ s.opHeld o = true ∨ s.betweenScans pc = false ∨
        (o.cells.any fun x => s.sieveHeld (x.1 / 64)) = true then s
    else (s.writeCells o.cells).finishOp n

def execSappApply (n : Nat) (s : State) : Host.Outcome State Fault Refusal := .next (s.sappApply n)

/-! ### SMRG (11 R290) -/

def smrgSpec (f : F) : Spec :=
  { cls := 6, ctl := f.ctl, enc := f.ctl.hold == 0 && isScal f.a && isScal f.b && isVec f.d
    dsts := [(f.d, 1)], scals := [scalNo f.a, scalNo f.b] }

def smrgCount (f : F) : Nat := f.m.toNat % 16 + 1

def Ctx.smrgDim (c : Ctx) (f : F) : Nat := ((c.scalar f.b).extractLsb' 0 9).toNat

def smrgFails (f : F) (c : Ctx) : List Fail :=
  let d := c.smrgDim f
  let off := descOff f c
  let size := smrgCount f * recordBytes d
  if !c.convergence.isEmpty then c.convergence
  else if c.part = 0 then []
  else if c.scalar f.b >>> 9 ≠ 0 ∨ headDim d = false then failAll c.active cILLEGAL_OP 0
  else if off % 16 ≠ 0 then failAll c.active cALIGN (BitVec.ofNat 64 off)
  else if c.shortRegs (rangeFrom (vecNo f.d) (d / 32 + 3)) then failAll c.active cSTALL_SHORT 0
  else if c.budget ≤ vecNo f.d + d / 32 + 2 then failAll c.active cREG_BOUND 0
  else if c.b.commonLen < off + size then failAll c.active cREG_BOUND (BitVec.ofNat 64 off)
  else c.pendingRegs (vecNo f.d) (d / 32 + 3) ++ (match c.b.commonPending [(off, size)] with
    | none => []
    | some a => failAll c.active cREG_PENDING a)

/-- The records merged in ascending order: partial and status mask. -/
def Block.smrgFold (b : Block) (off d n : Nat) (start : Fl Partial × W32) : Fl Partial × W32 :=
  (List.range n).foldl (fun (acc : Fl Partial × W32) r =>
    let bs := b.commonBytes (off + r * recordBytes d) (recordBytes d)
    let st := descNat bs 8 1
    let word := fun (o : Nat) => (BitVec.ofNat 32 (descNat bs o 4) : W32)
    let m := acc.2 ||| (1#32 <<< (min st 5))
    if st = 0 then
      let q := mergeP acc.1.val ⟨word 0, word 4, (List.range d).map fun i => word (16 + 4 * i)⟩
      (⟨q.val, acc.1.flags ||| q.flags⟩, m)
    else (acc.1, m)) start

/-- The triple in registers that .acc starts from. -/
def Ctx.smrgStart (c : Ctx) (f : F) (d : Nat) : Fl Partial × W32 :=
  let v := vecNo f.d
  if f.m.getLsbD 4 then
    (⟨⟨c.vreg (v + d / 32) 0, c.vreg (v + d / 32 + 1) 0, (List.range d).map fun i => c.vreg (v + i / 32) (i % 32)⟩, 0⟩,
      c.vreg (v + d / 32 + 2) 0)
  else (⟨noPartial d, 0⟩, 0)

/-- Divide an element by λ, as VDIV.f32 does. -/
def divTerm (a lam : W32) : Fl W32 := rnd32 (xdiv (f32 a) (f32 lam))

/-- Register words that SMRG writes, with NSTAT bits. -/
def Ctx.smrgResult (c : Ctx) (f : F) : List (Nat × W32) × W32 :=
  let d := c.smrgDim f
  let q := d / 32
  let v := vecNo f.d
  let r := c.b.smrgFold (descOff f c) d (smrgCount f) (c.smrgStart f d)
  let out := if f.m.getLsbD 5 then r.1.val.alpha.map fun a => divTerm a r.1.val.lam else r.1.val.alpha.map fun a => (⟨a, 0⟩ : Fl W32)
  let all := fun (reg : Nat) (x : W32) => lanes32.map fun l => (reg * 32 + l, x)
  (((List.range d).zip out).map (fun e => ((v + e.1 / 32) * 32 + e.1 % 32, e.2.val)) ++
    all (v + q) r.1.val.mu ++ all (v + q + 1) r.1.val.lam ++ all (v + q + 2) r.2,
   out.foldl (fun x o => x ||| o.flags) r.1.flags)

def execSmrg (f : F) (s : State) : Host.Outcome State Fault Refusal :=
  .next (run (smrgSpec f) (smrgFails f) noResume (fun c s =>
    if c.part = 0 then s.quick c (smrgSpec f) id
    else
      let regs := (rangeFrom (vecNo f.d) (c.smrgDim f / 32 + 3)).filter c.w.logHolds
      if !regs.isEmpty then s.linger c.id (.log regs false)
      else s.quick c (smrgSpec f) fun s => s.modWave c.id fun w =>
        let r := c.smrgResult f
        let w := w.landAll s.tick r.1
        { w with nstat := w.nstat ||| r.2 }) s)

end Sys2Proof.Machine
end

