-- ==== Sys2Proof/Machine/Coll.lean ====
section
/-! DEFINITION. The COLL class and the steps of a collective at one package; the walk of every logged access and the reads of
every engine operation, which serve the collectives too (12 R295-R308, 22 R373, 02 R70). What the other packages of the
group issue stands in `State.peers`. -/

namespace Sys2Proof.Machine

open Sys2Proof

/-! ### The descriptor (12 R296, R297) -/

structure CollDesc where
  barrier : Nat
  post    : Bool
  oper    : Nat
  tag     : Nat
  cid     : Nat
  root    : Nat
  first   : Nat
  count   : Nat
  elems   : Nat
  src     : Nat
  dst     : Nat
  status  : Nat
  deriving DecidableEq, Repr

/-- Instruction codes: 0 XRED, 1 XALL, 2 XGATH, 3 XBCST, 4 XBAR. -/
def collWidth (oper : Nat) : Nat := if oper = 1 then 8 else 4

/-- Bytes of one participant's data. -/
def CollDesc.bytes (x : CollDesc) : Nat := x.elems * collWidth x.oper

/-- Logical package and size of a launch's group: one package where it has none. -/
def Launch.place (l : Launch) : Nat × Nat := if l.group.2 = 0 then (0, 1) else l.group

/-- Source and destination bytes of this participant, of index p. -/
def CollDesc.srcBytes (x : CollDesc) (code p : Nat) : Nat :=
  if code ≤ 2 then x.bytes else if code = 3 ∧ p = x.root then x.bytes else 0
def CollDesc.dstBytes (x : CollDesc) (code p : Nat) : Nat :=
  if code = 4 then 0 else if code = 0 then (if p = x.root then x.bytes else 0) else if code = 2 then x.count * x.bytes else x.bytes

/-- Bytes of the barrier credit (12 R302). -/
def CollDesc.credit (x : CollDesc) (code : Nat) : Nat := if code = 4 then 0 else if code = 2 then x.count * x.bytes else x.bytes

/-- Read a descriptor; none for one that breaks its tables, at logical package `me` of a group of n. -/
def collDesc (bs : List Byte) (code me n : Nat) : Option CollDesc :=
  let ctl := descNat bs 0 1
  let x : CollDesc := {
    barrier := ctl % 16, post := ctl / 16 % 2 == 1, oper := descNat bs 1 1, tag := descNat bs 2 2, cid := descNat bs 4 2
    root := descNat bs 6 2, first := descNat bs 8 2, count := descNat bs 10 2, elems := descNat bs 12 4, src := descNat bs 0x10 8
    dst := descNat bs 0x18 8, status := descNat bs 0x20 4 }
  let p := me - x.first
  let sb := x.srcBytes code p
  let db := x.dstBytes code p
  if 32 ≤ ctl ∨ 16 ≤ x.oper ∨ descNat bs 0x24 28 ≠ 0 ∨ x.status % 8 ≠ 0 ∨ x.count = 0 ∨ 32768 < x.count ∨ n < x.first + x.count ∨
      me < x.first ∨ x.count ≤ p then none
  else if code = 4 ∧ (x.oper ≠ 0 ∨ x.elems ≠ 0) then none
  else if code ≠ 4 ∧ (x.elems = 0 ∨ 2 ^ 24 < x.elems ∨ (if code = 2 ∨ code = 3 then x.oper ≠ 12 else 11 < x.oper)) then none
  else if (if code = 0 ∨ code = 3 then x.count ≤ x.root else x.root ≠ 0) then none
  else if (sb = 0 ∧ x.src ≠ 0) ∨ (db = 0 ∧ x.dst ≠ 0) then none
  else if sb ≠ 0 ∧ db ≠ 0 ∧ x.src < x.dst + db ∧ x.dst < x.src + sb then none
  else some x

/-- What a descriptor's bytes give, or the cause that stops them (12 R299). -/
def Block.collFrom (b : Block) (l : Launch) (bs : List Byte) (code : Nat) : Except (Nat × W64) CollDesc :=
  if b.commonLen < descNat bs 0x20 4 + 8 then .error (cREG_BOUND, BitVec.ofNat 64 (descNat bs 0x20 4))
  else match collDesc bs code l.place.1 l.place.2 with
    | none => .error (cILLEGAL_OP, 0)
    | some x => if b.nbar < x.barrier then .error (cREG_BOUND, 0) else .ok x

/-- The descriptor of an instruction, or the cause that stops it (12 R299). -/
def Block.collAt (b : Block) (l : Launch) (off code : Nat) : Except (Nat × W64) CollDesc :=
  if off % 64 ≠ 0 then .error (cALIGN, BitVec.ofNat 64 off)
  else if b.commonLen < off + 64 then .error (cREG_BOUND, BitVec.ofNat 64 off)
  else b.collFrom l (b.commonBytes off 64) code

def CollDesc.part (x : CollDesc) (l : Launch) : Nat := l.place.1 - x.first

/-- A collective's ranges and their pages: source, then destination. -/
structure CollPages where
  src : List (Nat × Nat)
  dst : List (Nat × Nat)
  deriving DecidableEq, Repr

/-- Alignment and translation of both ranges. -/
def State.collPages (s : State) (l : Launch) (code : Nat) (x : CollDesc) : Except (Nat × Nat) CollPages :=
  let sb := x.srcBytes code (x.part l)
  let db := x.dstBytes code (x.part l)
  if sb ≠ 0 ∧ x.src % 8 ≠ 0 then .error (cALIGN, x.src)
  else if db ≠ 0 ∧ x.dst % 8 ≠ 0 then .error (cALIGN, x.dst)
  else match s.translateRange l.asid l.tenant x.src sb [rREAD] with
    | .error e => .error e
    | .ok a => match s.translateRange l.asid l.tenant x.dst db [rWRITE] with
      | .error e => .error e
      | .ok d => .ok ⟨a, d⟩

/-- The causes of a collective's own definition, after convergence (12 R299). -/
def State.collCause (s : State) (b : Block) (l : Launch) (off code : Nat) : Option (Nat × W64) :=
  match b.collAt l off code with
  | .error e => some e
  | .ok x => match b.commonPending [(off, 64), (x.status, 8)] with
    | some a => some (cREG_PENDING, a)
    | none => match s.collPages l code x with
      | .error e => some (e.1, BitVec.ofNat 64 e.2)
      | .ok _ => none

/-! ### Issue (12 R295, R300) -/

def collRep (f : F) : Bool := f.m.getLsbD 0

def collSpec (f : F) : Spec :=
  { cls := 7, ctl := f.ctl, enc := f.d == 0 && f.b == 0 && f.ctl.hold == 0 && decide (f.m.toNat < 2) && isScal f.a
    scals := [scalNo f.a], acq := true }

def collFails (f : F) (code : Nat) (s : State) (c : Ctx) : List Fail :=
  if !c.convergence.isEmpty then c.convergence else c.stop (s.collCause c.b c.l (descOff f c) code)

/-- The 8-byte units of a virtual range by physical address. -/
def unitsAt (pages : List (Nat × Nat)) (va n : Nat) : List (Nat × Nat) :=
  (List.range ((n + 7) / 8)).map fun i => (i, physOf pages (va + 8 * i))

/-- What the other packages compare (12 R301). -/
def CollDesc.inst (x : CollDesc) (l : Launch) (code : Nat) (rep : Bool) (op : Nat) : Instance :=
  { package := l.place.1, tenant := l.tenant, cid := x.cid, code := code, rep := rep, oper := x.oper, elements := x.elems, root := x.root
    first := x.first, count := x.count, det := l.record.detReduce, op := some op, data := [], digest := 0, status := 0
    src := x.src, dst := x.dst }

/-- Locks that it needs. -/
def CollDesc.locks (x : CollDesc) (l : Launch) (code : Nat) : Nat :=
  (if x.srcBytes code (x.part l) = 0 then 0 else 1) + (if x.dstBytes code (x.part l) = 0 then 0 else 1)

/-- Take ownership: range locks, the status word, the operation with its units (12 R300). A collective that is issued again
keeps its instance's place in issue order and its seal (12 R301, 04 R98; DEDUCED, log 91). -/
def State.startColl (s : State) (id : WaveId) (b : Block) (l : Launch) (code : Nat) (rep : Bool) (x : CollDesc) (p : CollPages)
    (sig entry issued : Nat) (sealNo : Option Nat) : State :=
  let sb := x.srcBytes code (x.part l)
  let db := x.dstBytes code (x.part l)
  let lines := fun (pages : List (Nat × Nat)) (va k : Nat) => if k = 0 then [] else s.rowLines l pages [((BitVec.ofNat 64 va : W64), k)]
  let o := { emptyOp s.nextOp (.coll code) id b sig with
    entry := some entry, issued := issued, rd := unitsAt p.src x.src sb, rdSpace := .memory, wr := [(0, x.status)], wrSpace := .common
    barrier := x.barrier, credit := x.credit code, post := x.post, tag := x.tag
    inst := some (x.inst l code rep issued), sealNo := sealNo, seq := s.entrySeq id entry b
    virt := (unitsAt p.dst x.dst db).map fun u => (u.1, BitVec.ofNat 64 u.2) }
  let s := (s.holdRows l [(BitVec.ofNat 64 x.src, sb)] [rREAD]).holdRows l [(BitVec.ofNat 64 x.dst, db)] [rWRITE]
  let s := s.addOp o [(false, lines p.src x.src sb), (true, lines p.dst x.dst db)]
  s.modBlock id fun b => b.markUnits .common o.wr true

/-- A collective at issue: .rep seals the journal (12 R300); its instance counts from now on (12 R301). -/
def collBody (f : F) (code : Nat) (op : BitVec 10) (c : Ctx) (s : State) : State :=
  let sp := collSpec f
  if c.part = 0 then s.quick c sp id
  else match c.b.collAt c.l (descOff f c) code with
    | .error _ => s
    | .ok x => match s.collPages c.l code x with
      | .error _ => s
      | .ok p =>
        let go := fun (s : State) =>
          if c.w.logFree.isNone then s.linger c.id (.log [] true)
          else if s.lockFree c.id.core < x.locks c.l code then s.linger c.id (.locks (x.locks c.l code))
          else
            let n := s.nextOp
            let sealNo := if collRep f then some c.b.journal.phase else none
            let b := if collRep f then c.b.sealBy c.id.wave else c.b
            let s := if collRep f then s.modBlock c.id fun b => b.sealBy c.id.wave else s
            let s := s.logIssue c sp { c.logEntry op f [] with
              stage := 1, op := some n, no := n, sealNo := sealNo, phase := b.journal.phase
              desc := c.b.commonBytes (descOff f c) 64 }
            let s := s.startColl c.id b c.l code (collRep f) x p f.ctl.sig.toNat (c.w.logFree.getD 0) n sealNo
            { s with instances := s.instances ++ [x.inst c.l code (collRep f) n] }
        if collRep f then s.publishFirst c false go else go s

/-- The address at which the translation of a collective's ranges fails. -/
def collLost (f : F) (code : Nat) (s : State) (c : Ctx) : Option Nat :=
  match c.b.collAt c.l (descOff f c) code with
  | .error _ => none
  | .ok x => match s.collPages c.l code x with
    | .error e => some e.2
    | .ok _ => none

/-- A collective: a failed translation of its ranges is not held (22 R376, R379). -/
def collOp (code : Nat) (op : BitVec 10) (f : F) (s : State) : State :=
  s.unholdFail (run (collSpec f) (collFails f code s) noResume (collBody f code op) s) f.ctl (collLost f code s)

def execXred (f : F) (s : State) : Host.Outcome State Fault Refusal := .next (collOp 0 0x2A0 f s)

def execXall (f : F) (s : State) : Host.Outcome State Fault Refusal := .next (collOp 1 0x2A1 f s)

def execXgath (f : F) (s : State) : Host.Outcome State Fault Refusal := .next (collOp 2 0x2A2 f s)

def execXbcst (f : F) (s : State) : Host.Outcome State Fault Refusal := .next (collOp 3 0x2A3 f s)

def execXbar (f : F) (s : State) : Host.Outcome State Fault Refusal := .next (collOp 4 0x2A4 f s)

/-! ### TRANSLATION_WALK (22 R373, 07 R184) -/

/-- A re-issued collective runs whole again, behind the locks that stand now, by the descriptor read at its issue (15 R315),
for the instance of that issue (12 R301). Its publish point has been reached, so nothing is sealed or forced again (04 R98, R100;
DEDUCED, log 91). -/
def State.rerunColl (s : State) (id : WaveId) (i : Nat) (e : LogEntry) (b : Block) (l : Launch) : State :=
  let code := e.opcode - 0x2A0
  match b.collFrom l e.desc code with
  | .error _ => s
  | .ok x => match b.commonPending [(x.status, 8)], ({ s with held := [] } : State).collPages l code x with
    | some a, _ => s.failEntry id i (failAll e.lanes cREG_PENDING a)
    | none, .error y => (s.unhold l.asid y.2).failEntry id i (failAll e.lanes y.1 (BitVec.ofNat 64 y.2))
    | none, .ok p =>
      if s.lockFree id.core < x.locks l code then s
      else
        let s := match e.op with
          | some k => { s with ops := spDel s.ops k }
          | none => s
        (s.modEntry id i fun e => { e with stage := 1, op := some s.nextOp }).startColl id b l code (collRep e.fields) x p
          (ctlOf e.word).sig.toNat i e.no e.sealNo

/-- A walk of a logged access ends. -/
def State.translationWalk (s : State) (id : WaveId) (i : Nat) : State :=
  match s.block? id, spFind (s.wave id).log i with
  | some b, some e => match s.launchOf b with
    | none => s
    | some l =>
      if e.state ≠ 1 ∨ e.stage ≠ 0 ∨ e.isFrond = true then s
      else if e.opcode = 0x107 ∨ e.opcode = 0x108 then s.rerunCopy id i e b l
      else if 0x2A0 ≤ e.opcode then s.rerunColl id i e b l
      else if e.opcode = 0x106 then (s.walkAccess id i e l).startAld id i b
      else s.walkAccess id i e l
  | _, _ => s

def execTranslationWalk (id : WaveId) (i : Nat) (s : State) : Host.Outcome State Fault Refusal := .next (s.translationWalk id i)

/-! ### ENGINE_RETURN_LAND (02 R70, R73, 04 R111-R113) -/

/-- The publish of a .rep collective is complete (12 R300). -/
def State.collSealed (s : State) (o : EngineOp) : Bool :=
  match o.sealNo, s.block? o.w with
  | some k, some b =>
    let w := s.wave o.w
    let seq := match o.entry.bind (spFind w.log) with
      | none => w.accesses
      | some e => e.seq
    s.sealReachedAt b w k seq 6
  | _, _ => true

/-- A source that cannot be read fails through the log; the instance keeps its place (12 R301). -/
def State.failColl (s : State) (o : EngineOp) (a : W64) : State :=
  let s := (s.modBlock o.w fun b => b.markUnits .common o.wr false).unlock o.id
  let s := s.modOp o.id fun o => { o with faulted := true, rd := [] }
  match o.entry with
  | none => s
  | some i => s.failEntry o.w i (failAll (match spFind (s.wave o.w).log i with
      | none => 1
      | some e => e.lanes) cMEM_POISON a)

/-- One 8-byte unit of a collective's source is read from home. -/
def State.collRead (s : State) (o : EngineOp) : State :=
  match o.rd[Config.choose s.tick % max 1 o.rd.length]? with
    | none => s
    | some u =>
      if s.poisoned u.2 then s.failColl o (BitVec.ofNat 64 ((match o.inst with
        | none => 0
        | some i => i.src) + 8 * u.1))
      else s.modOp o.id fun o => { o with
        rd := o.rd.filter fun x => x.1 != u.1, buf := spPut o.buf u.1 (BitVec.ofNat 64 (s.readNat u.2 8)) }

def OpKind.isColl : OpKind → Bool
  | .coll _ => true
  | _ => false

/-- ENGINE_RETURN_LAND: an operation that nothing holds reads a unit, and with it begins. -/
def State.engineReturnLand (s : State) (n : Nat) : State :=
  match spFind s.ops n with
  | none => s
  | some o =>
    if o.rd = [] ∨ s.opHeld o = true ∨ s.collSealed o = false then s
    else
    let s := s.begin_ n
    if o.kind = .ald then s.aldLand o
    else if o.kind = .tst then s.tstRead o
    else if o.kind.isColl then s.collRead o
    else if o.kind.reads then match o.nextUnit (Config.choose s.tick) with
      | none => s
      | some u => s.copyUnit o u
    else s

def execEngineReturnLand (n : Nat) (s : State) : Host.Outcome State Fault Refusal := .next (s.engineReturnLand n)

/-! ### Combination (12 R297, R298) -/

/-- The operation of R189 with the same effect. -/
def collAtom (oper : Nat) : Nat := if oper = 4 then 5 else if oper = 5 then 4 else oper

def combine (oper : Nat) (a b : W64) : W64 := atomNew (collAtom oper) a (dataOf b)

/-- Elements of a participant's data. -/
def elemsOf (width : Nat) (bs : List Byte) : List W64 :=
  (List.range (bs.length / width)).map fun i => BitVec.ofNat 64 (natOfBytes ((bs.drop (i * width)).take width))

/-- Additions in some binary tree over the participants: each step adds two of the partial sums (DESIGN CHOICE, log 6). -/
def treeFold (oper seed : Nat) : Nat → List (List W64) → List (List W64)
  | 0, l => l
  | fuel + 1, l =>
    if l.length < 2 then l
    else
      let i := Config.sumTree seed (2 * fuel) % l.length
      let x := l.getD i []
      let l := l.eraseIdx i
      let j := Config.sumTree seed (2 * fuel + 1) % l.length
      treeFold oper seed fuel (List.zipWith (combine oper) x (l.getD j []) :: l.eraseIdx j)

/-- The left fold in ascending participant index. -/
def leftFold (oper : Nat) : List (List W64) → List W64
  | [] => []
  | x :: t => t.foldl (List.zipWith (combine oper)) x

/-- The destination's bytes from the participants' data in ascending index. -/
def collResult (code oper root seed : Nat) (det : Bool) (data : List (List Byte)) : List Byte :=
  if code = 2 then data.flatten
  else if code = 3 then data.getD root []
  else if code = 4 then []
  else
    let w := collWidth oper
    let ls := data.map (elemsOf w)
    let r := if oper = 2 ∧ det = false then (treeFold oper seed ls.length ls).headD [] else leftFold oper ls
    r.flatMap fun x => bytesOfNat w x.toNat

/-! ### COLLECTIVE_MEET (12 R301) -/

/-- Whether instances agree in what is compared. -/
def Instance.agrees (a b : Instance) : Bool :=
  a.code == b.code && a.rep == b.rep && a.oper == b.oper && a.elements == b.elements && a.root == b.root && a.first == b.first &&
    a.count == b.count && a.det == b.det

/-- The number of an own instance under its collective id, and the instances of the other packages with that number. -/
def State.collPeers (s : State) (i : Instance) : List Instance :=
  let mine := s.instances.filter fun x => x.tenant == i.tenant && x.cid == i.cid
  let k := mine.findIdx fun x => x.op == i.op
  let cand := s.peers.filter fun x => x.tenant == i.tenant && x.cid == i.cid && x.package != i.package
  ((cand.map Instance.package).eraseDups).filterMap fun p => (cand.filter fun x => x.package == p)[k]?

/-- An instance has arrived from every package that the arrived instances name. -/
def allArrived (l : List Instance) : Bool :=
  l.all fun x => (rangeFrom x.first x.count).all fun p => l.any fun y => y.package == p

/-- This package's instance has arrived: its publish is complete and its source read. -/
def State.contributed (s : State) (o : EngineOp) : Bool := o.rd.isEmpty && !o.faulted && !s.opHeld o && s.collSealed o

/-- The bytes that were read. -/
def EngineOp.dataBytes (o : EngineOp) (n : Nat) : List Byte :=
  ((List.range ((n + 7) / 8)).flatMap fun u => bytesOfNat 8 (spGet 0 o.buf u).toNat).take n

/-- The instances of an operation have met: its own has arrived, and one of every package that the arrived ones name. -/
def State.collReady (s : State) (tenant cid : Nat) (o : EngineOp) : Bool :=
  o.kind.isColl && o.status == 0 && s.contributed o && (match o.inst with
  | none => false
  | some i => i.tenant == tenant && i.cid == cid && allArrived (i :: s.collPeers i))

/-- The oldest operation of a collective id whose instances have met: each instance meets its own (12 R301). -/
def State.nextColl (s : State) (tenant cid : Nat) : Option EngineOp :=
  minBy EngineOp.issued ((s.ops.map Prod.snd).filter (s.collReady tenant cid))

/-- Bytes that this package's instance contributes: all of its elements, but of a broadcast the root's alone and of a barrier none
(12 R297). -/
def Instance.ownLen (i : Instance) : Nat :=
  if i.code = 3 ∧ i.package - i.first ≠ i.root then 0 else if i.code = 4 then 0 else i.elements * collWidth i.oper

/-- The instances meet: status 4 and the combined bytes where they agree, status 5 where they do not. -/
def State.collMeet (s : State) (tenant cid : Nat) : State :=
  match s.nextColl tenant cid with
  | none => s
  | some o => match o.inst with
    | none => s
    | some i =>
      let peers := s.collPeers i
      if !peers.all i.agrees then s.modOp o.id fun o => { o with status := 5, begun := true }
      else
        let own := { i with data := o.dataBytes i.ownLen }
        let data := (sortBy Instance.package (own :: peers)).map Instance.data
        s.modOp o.id fun o => { o with status := 4, begun := true, inst := some { i with data := collResult i.code i.oper i.root s.tick i.det data } }

def execCollectiveMeet (tenant cid : Nat) (s : State) : Host.Outcome State Fault Refusal := .next (s.collMeet tenant cid)

/-! ### COLLECTIVE_COMPLETE (12 R302, R303, R307, R308) -/

/-- Destination bytes with their physical addresses. -/
def EngineOp.destCells (o : EngineOp) (i : Instance) : List (Nat × Byte) :=
  if o.virt = [] then []
  else ((List.range i.data.length).zip i.data).map fun e =>
    (((o.virt.find? fun v => v.1 == e.1 / 8).map fun v => v.2.toNat + e.1 % 8).getD (2 * hostBit), e.2)

/-- The status word, and whether completion is withheld with which cause. -/
def agreement (own : Instance) (peers : List Instance) : Nat × Option Nat :=
  let all := sortBy Instance.package (own :: peers)
  let c := all.length
  let idx := fun (x : Instance) => x.package - own.first
  let held := fun (d : Nat) => (all.filter fun x => x.digest == d).length
  match all.find? fun x => decide (c < 2 * held x.digest) with
  | none => (2 ^ 53 + 2 ^ 51 + min c 0xFFFF * 2 ^ 32 + (all.head?.map idx).getD 0, some cNO_QUORUM)
  | some m =>
    let off := all.filter fun x => x.digest != m.digest
    let base := 2 ^ 51 + min off.length 0xFFFF * 2 ^ 32 + held m.digest * 2 ^ 16 + (off.head?.map idx).getD 0xFFFF
    if own.digest ≠ m.digest then (base + 2 ^ 54, some cDIVERGED)
    else (base + (if off.isEmpty then 0 else 2 ^ 52), none)

/-- The status word is written and its words are no longer pending. -/
def State.collStatus (s : State) (o : EngineOp) (v : Nat) : State :=
  let off := (o.wr.head?.map Prod.snd).getD 0
  let s := s.modBlock o.w fun b => (b.setArea false off (bytesOfNat 8 v)).markUnits .common o.wr false
  s.modOp o.id fun o => { o with wr := [] }

/-- The record over room: the operation is over, or waits for its event record under a status. -/
def State.closeAs (s : State) (n status : Nat) : State :=
  match spFind s.ops n with
  | none => s
  | some o => match s.block? o.w with
    | none => s
    | some b =>
      let s := (s.unlock n).modOp n fun o => { o with status := status }
      if o.post && !b.eventRoom then s else s.closeOp { o with status := status }

/-- DIVERGED or NO_QUORUM in every wave of the block; one interrupt record; completion is withheld, and a re-issue is over with it, so
that its wave takes the cause (08 R232, R236). -/
def State.withhold (s : State) (o : EngineOp) (cause tenant status : Nat) : State :=
  match s.block? o.w with
  | none => s
  | some b =>
    let off := (o.wr.head?.map Prod.snd).getD 0
    let s := (s.collStatus o status).modOp o.id fun o => { o with status := 3 }
    let s := s.interrupt (dieOf o.w.core) (if cause = cDIVERGED then 2 else 3) tenant (locOf o.w.core o.w.slot) 0xFF (BitVec.ofNat 64 status)
    let s := b.waves.foldl (fun s e =>
      let r := (s.wave (b.id e.1)).nextRec cause (BitVec.ofNat 64 off)
      if e.1 = o.w.wave then s.raiseFrom (b.id e.1) o.seq r
      else if e.2.live ≠ 0 then s.raiseLater (b.id e.1) r
      else s) s
    if o.entry.isSome && (s.wave o.w).reissue.head? == o.entry then s.nextReissue o.w else s

/-- An engine operation writes a REPLICA page: a copy, a store or an append by its units, a collective by its destination. -/
def State.toReplica (s : State) (o : EngineOp) : Bool :=
  (o.wrSpace == .memory && o.wr.any fun u => (s.replicaAt u.2).isSome) ||
  (o.kind.isColl && o.virt.any fun v => (s.replicaAt v.2.toNat).isSome)

/-- A KICK that waits for its walk or its re-issue may write a REPLICA page. -/
def State.entryToReplica (s : State) (l : Launch) (e : LogEntry) : Bool :=
  e.opcode == 0x107 && e.op.isNone && (match kickCopy e.desc with
  | none => false
  | some k => k.dstRows.any fun r => match s.translate l.asid l.tenant r.1.toNat [] with
    | .error _ => true
    | .ok pa => (s.replicaAt pa).isSome)

/-- Engine operations to REPLICA pages that the block issued before the collective, those that await their re-issue among
them (04 R118), by their places in issue order. -/
def State.opsBefore (s : State) (o : EngineOp) : Bool :=
  (s.ops.any fun x => x.2.uid == o.uid && decide (x.2.issued < o.issued) && x.2.status != 3 && s.toReplica x.2) ||
  (match s.block? o.w with
  | none => false
  | some b => match s.launchOf b with
    | none => false
    | some l => b.waves.any fun w => w.2.log.any fun e =>
        decide (e.2.no < o.issued) && s.entryToReplica l e.2)

/-- The destination is applied, agreement decided, the status word written; then the operation is over. -/
def State.collComplete (s : State) (n : Nat) : State :=
  match spFind s.ops n with
  | none => s
  | some o => match o.inst with
    | none => s
    | some i =>
      if o.status = 5 then (s.collStatus o (2 ^ 55 + 0xFFFF)).closeAs n 2
      else if o.status ≠ 4 then s
      else
        let cells := o.destCells i
        if (cells.any fun x => s.sieveHeld (x.1 / 64)) || (i.rep && s.opsBefore o) then s
        else
          let s := s.writeCells cells
          if i.rep then
            let a := agreement { i with digest := spGet 0 s.digests i.tenant } (s.collPeers i)
            match a.2 with
            | some cause => s.withhold o cause i.tenant a.1
            | none => (s.collStatus o a.1).finishOp n
          else (s.collStatus o 0xFFFF).finishOp n

def execCollectiveComplete (n : Nat) (s : State) : Host.Outcome State Fault Refusal := .next (s.collComplete n)

end Sys2Proof.Machine
end

