-- ==== Sys2Proof/Machine/Sys.lean ====
section
/-! DEFINITION. The SYS class without the context instructions: system registers, ASINV, KILLB, REMAP, the registration of
REPLICA pages, and the codes that no instruction has (19 R325-R334, 22 R372-R385, 23 R407, 24 R411, R412, 05 R144). -/

namespace Sys2Proof.Machine

open Sys2Proof

/-! ### Opcodes without an instruction (05 R129, R144) -/

/-- A code outside every class raises ILLEGAL_OP in a clause of any class. -/
def illegalSpec (w : W64) (s : State) : Spec :=
  let k := opcodeClass (opcodeOf w).toNat
  { cls := if k = 0 then headerClass (s.wave s.cur).clause.header else k, ctl := ctlOf w, enc := false }

def execIllegal (w : W64) (s : State) : Host.Outcome State Fault Refusal :=
  .next (run (illegalSpec w s) noFails noResume (fun _ s => s) s)

/-! ### Selectors (19 R327) -/

def selNumber (v : W64) : Nat := (v.extractLsb' 0 12).toNat
def selSlot (v : W64) : Nat := (v.extractLsb' 12 4).toNat
def selWave (v : W64) : Nat := (v.extractLsb' 16 5).toNat

/-- What a register belongs to. -/
inductive Owner where
  | none | wave | core | die | package
  deriving DecidableEq, Repr

/-- The owner of a register number; none for an unassigned one. -/
def regOwner (n : Nat) : Owner :=
  let within := fun (lo hi : Nat) => decide (lo ≤ n) && decide (n ≤ hi)
  if n ≤ 4 then .wave
  else if within 0x100 0x103 then .core
  else if within 0x200 0x202 || within 0x210 0x223 || within 0x230 0x233 || within 0x240 0x313 || within 0x320 0x331 ||
    within 0x380 0x3FF || within 0x800 0x9FF then .die
  else if within 0x400 0x45F || within 0x460 0x477 || within 0x480 0x482 || within 0x490 0x49F || within 0x4A0 0x4B2 ||
    within 0x4C0 0x4FF || within 0x500 0x5FF || n == 0x600 then .package
  else .none

/-- Registers all of whose fields have access R. -/
def readOnlyReg (n : Nat) : Bool :=
  n == 4 || n == 0x100 || n == 0x221 || n == 0x482 || n == 0x600 || (decide (0x800 ≤ n) && decide (n ≤ 0x9FF))

/-- The wave that a per-wave selector names on the issuing core. -/
def Ctx.selected (c : Ctx) (v : W64) : WaveId := ⟨c.id.core, selSlot v, selWave v⟩

/-- A selector that names a register. -/
def selectorOk (s : State) (c : Ctx) (v : W64) : Bool :=
  v >>> 21 == 0 &&
  (match regOwner (selNumber v) with
  | .none => false
  | .wave => (s.wave? (c.selected v)).isSome
  | _ => v >>> 12 == 0)

/-! ### Values read (19 R327, R328, 24 R412) -/

/-- WSTAT of a wave (19 R328). -/
def State.wstat (s : State) (w : WaveId) : W64 :=
  let x := s.wave w
  let priv := (match s.block? w with
    | none => false
    | some b => match s.launchOf b with
      | none => false
      | some l => l.priv)
  BitVec.ofNat 64 ((if x.overrun then 16 else 0) + (if x.demoted then 8 else 0) +
    (if x.log.any (fun e => e.2.state == 2) then 4 else 0) + (if x.handler then 2 else 0) + (if priv then 1 else 0))

/-- WPRI (19 R327, 20 R356): 127 in a handler, else the block's priority. -/
def State.wpri (s : State) (w : WaveId) : Nat :=
  if (s.wave w).handler then 127 else ((s.block? w).map Block.prio).getD 0

/-- Retired units of a kind. -/
def State.retiredCount (s : State) (kind : Nat) : Nat := (s.retiredU.filter fun u => u / 65536 == kind).length

/-- Physical cores of a die that could take a logical core: neither retired nor fused out nor mapped (24 R410, R411). -/
def State.spares (s : State) (die : Nat) : List Nat :=
  (List.range 528).filter fun p => !s.isRetired 1 die p && !decide (die * 528 + p ∈ s.badCores) &&
    (List.range 512).all fun i => s.dieR die (0x800 + i) != 0x8000 ||| BitVec.ofNat 64 p

/-- A working die with no spare left and an absent core (24 R412). -/
def State.shortOfCores (s : State) : Bool :=
  s.workingDies.any fun d => (s.spares d).isEmpty && (List.range 512).any fun i => !(s.dieR d (0x800 + i)).getLsbD 15

/-- The state field of HEALTH: it never falls back, so the worst it has been counts (24 R412). -/
def State.healthState (s : State) : Nat :=
  max s.worst
    (if s.power == .failed then 3
    else if s.shortOfCores || s.retiredCount 2 != 0 || s.retiredCount 5 != 0 || decide (2 < s.retiredCount 4) then 2
    else if s.retiredU.isEmpty then 0 else 1)

/-- HEALTH (24 R412). -/
def State.health (s : State) : W64 :=
  BitVec.ofNat 64 (s.healthState + s.retiredCount 1 % 4096 * 2 ^ 8 + s.retiredCount 2 % 4096 * 2 ^ 20 +
    s.retiredCount 3 % 256 * 2 ^ 32 + s.retiredCount 4 % 256 * 2 ^ 40)

/-- The value of a system register. -/
def State.sysRead (s : State) (c : Ctx) (v : W64) : W64 :=
  let n := selNumber v
  let t := c.selected v
  match regOwner n with
  | .none => 0
  | .wave =>
    if n = 0 then s.wstat t
    else if n = 1 then (s.wave t).tcause
    else if n = 2 then BitVec.ofNat 64 ((s.wave t).hcycles s.clock)
    else if n = 3 then (s.wave t).tmask
    else BitVec.ofNat 64 (s.wpri t)
  | .core => if n = 0x100 then c.cyc else s.coreR c.id.core n
  | .die => s.dieR (dieOf c.id.core) n
  | .package =>
    if 0x440 ≤ n ∧ n < 0x460 then 0
    else if n = 0x482 then BitVec.ofNat 64 s.replicas.length
    else if n = 0x600 then s.health
    else s.pkgR n

def sysrdSpec (f : F) : Spec := scalarSpec 8 f.ctl (f.b == 0 && f.m == 0) [f.a] (some f.d) 0

/-- ILLEGAL_OP with the active lanes, when a lane participates. -/
def Ctx.illegalIf (c : Ctx) (bad : Bool) : List Fail := c.stop (if bad then some (cILLEGAL_OP, 0) else none)

def execSysrd (f : F) (s : State) : Host.Outcome State Fault Refusal :=
  .next (scalarAct (sysrdSpec f) (fun c => c.illegalIf (!selectorOk s c (c.scalar f.a)))
    (fun c s => s.setS c.id (scalNo f.d) (s.sysRead c (c.scalar f.a))) s)

/-! ### Values refused (19 R327, R329, R330, 22 R372, R375, R382, R385, 21 R367, 23 R396, R407) -/

/-- Whether bits outside a mask are set. -/
def beyond (v mask : W64) : Bool := v &&& ~~~mask != 0

/-- Whether any block, resident or saved, holds a journal of a die's pool. -/
def State.journalHeld (s : State) (die : Nat) : Bool := s.journals.any fun j => j.1 == die

/-- Whether a context slot of a die holds a context. -/
def State.contextHeld (s : State) (die : Nat) : Bool := s.saved.any fun c => c.die == die && c.slot.isSome

/-- First index and count of an allotment. -/
def halt (v : W64) : Nat × Nat := ((v.extractLsb' 0 16).toNat, (v.extractLsb' 16 16).toNat)

/-- A PHALT value that is refused (19 R330); a range without an index overlaps none. -/
def State.phaltBad (s : State) (die t : Nat) (v : W64) : Bool :=
  let a := halt v
  v >>> 32 != 0 || decide (65536 < a.1 + a.2) ||
  (List.range 16).any fun u => u != t &&
    (let b := halt (s.dieR die (0x210 + u))
     a.2 != 0 && b.2 != 0 && decide (a.1 < b.1 + b.2) && decide (b.1 < a.1 + a.2))

/-- Windows of one tenant that overlap (23 R396). -/
def State.windowsMeet (s : State) : Bool :=
  (List.range 16).any fun w => (List.range 16).any fun x =>
    w != x && (s.pkgR (0x4C0 + 2 * w)).getLsbD 63 && (s.pkgR (0x4C0 + 2 * x)).getLsbD 63 &&
    (s.pkgR (0x4C1 + 2 * w)).extractLsb' 24 4 == (s.pkgR (0x4C1 + 2 * x)).extractLsb' 24 4 &&
    (let range := fun (n : Nat) =>
       let v := s.pkgR (0x4C0 + 2 * n)
       let b := (v.extractLsb' 16 41).toNat * 65536
       (b, b + 2 ^ (v.extractLsb' 0 6).toNat)
     decide ((range w).1 < (range x).2) && decide ((range x).1 < (range w).2))

/-- A WBASE or WHOME value that is refused (23 R396). -/
def State.windowBad (s : State) (n : Nat) (v : W64) : Bool :=
  if n % 2 = 0 then
    let size := (v.extractLsb' 0 6).toNat
    beyond v 0x81FFFFFFFFFF003F ||
    (v.getLsbD 63 && (decide (size < 16) || decide (40 < size) || (v.extractLsb' 16 41).toNat * 65536 % 2 ^ size != 0)) ||
    (s.setPkgR n v).windowsMeet
  else beyond v 0xFFFFFFF || (s.setPkgR n v).windowsMeet

/-- A policy value that is refused (19 R329). -/
def policyBad (f : Nat) (v : W64) : Bool :=
  let scope := (v.extractLsb' 0 3).toNat
  v &&& 0xFFFFF0E8 != 0 || decide (scope < 3) || scope == 7 || (f == 0 && (scope != 6 || v.getLsbD 4))

/-- A registration command (22 R382): page, size, tenant and operation. -/
def rpPage (v : W64) : Nat := (v.extractLsb' 16 36).toNat * 65536
def rpSize (v : W64) : Nat :=
  match (v.extractLsb' 0 2).toNat with
  | 0 => 65536
  | 1 => 2097152
  | _ => 1073741824
def rpTenant (v : W64) : Nat := (v.extractLsb' 4 4).toNat
def rpOp (v : W64) : Nat := (v.extractLsb' 2 2).toNat

def rpIs (v : W64) (r : Replica) : Bool := r.page == rpPage v && r.size == rpSize v && r.tenant == rpTenant v

/-- A command that is refused (22 R382). -/
def State.rpBad (s : State) (v : W64) : Bool :=
  let page := rpPage v
  let size := rpSize v
  let base := (s.pkgR 0x481).toNat
  v >>> 52 != 0 || v.extractLsb' 8 8 != 0 || v.extractLsb' 0 2 == 3 || rpOp v == 0 || rpOp v == 3 ||
  decide (stackBytes < page + size) || page % size != 0 || base % size != 0 || decide (2 ^ 57 < base + size) ||
  (if rpOp v = 1 then
    (s.replicas.any fun r => decide (r.page < page + size) && decide (page < r.page + r.size)) || decide (4096 ≤ s.replicas.length)
  else !s.replicas.any (rpIs v))

/-- A value that a per-wave register refuses (19 R327, R328). -/
def waveRegBad (n : Nat) (v : W64) : Bool :=
  if n = 0 then v >>> 5 != 0
  else if n = 1 then v >>> 30 != 0
  else if n = 3 then beyond v (1#64 <<< 25)
  else false

/-- A value that a per-die register refuses. -/
def State.dieRegBad (s : State) (die n : Nat) (v : W64) : Bool :=
  if n = 0x200 then v.toNat % 1048576 != 0 || v >>> 52 != 0 || s.journalHeld die
  else if n = 0x201 then decide (16384 < v.toNat) || s.journalHeld die
  else if n = 0x202 then v.toNat % 131072 != 0 || v >>> 52 != 0 || s.journalHeld die
  else if 0x210 ≤ n ∧ n < 0x220 then s.phaltBad die (n - 0x210) v
  else if n = 0x220 then beyond v 0xFFFFFFFFFF001
  else if n = 0x222 then decide (255 < v.toNat)
  else if n = 0x230 then v.toNat % 2097152 != 0 || v >>> 52 != 0 || s.contextHeld die
  else if n = 0x231 then decide (1024 < v.toNat) || s.contextHeld die
  else false

/-- A value that a package register refuses. -/
def State.pkgRegBad (s : State) (n : Nat) (v : W64) : Bool :=
  if n < 0x440 then policyBad (n - 0x400) v
  else if n < 0x460 then s.replicas.any fun r => r.tenant == (n - 0x440) / 2
  else if n < 0x478 then v &&& 0x8888888888888888 != 0
  else if n = 0x480 then s.rpBad v
  else if 0x490 ≤ n ∧ n < 0x4A0 then beyond v 0x3FF01FF
  else if n = 0x4B2 then beyond v 0xFFFF
  else if 0x4C0 ≤ n ∧ n < 0x4E0 then s.windowBad n v
  else if 0x4E0 ≤ n ∧ n < 0x500 then (if n % 2 = 0 then beyond v 0xFFFFFFFFFFFC0 else beyond v 0xFFFF)
  else if 0x500 ≤ n ∧ n < 0x600 then beyond v 0xFFFFFFFFFFF01
  else false

/-- A SYSWR that raises ILLEGAL_OP (19 R327). -/
def syswrBad (s : State) (c : Ctx) (sel v : W64) : Bool :=
  let n := selNumber sel
  !selectorOk s c sel || readOnlyReg n ||
  (match regOwner n with
  | .wave => waveRegBad n v
  | .die => s.dieRegBad (dieOf c.id.core) n v
  | .package => s.pkgRegBad n v
  | _ => false)

/-! ### Effects of a write -/

/-- A write to WSTAT (19 R328, R332): the sticky bit takes its value; overrun stop set stops the wave, cleared resumes it. -/
def State.writeWstat (s : State) (t : WaveId) (v : W64) : State :=
  if v >>> 5 != 0 || (s.wave? t).isNone then s
  else
    let w := s.wave t
    let s := s.modWave t fun w => { w with demoted := v.getLsbD 3 }
    if v.getLsbD 4 then
      if w.overrun then s
      else
        let s := s.modBlock t fun b => b.pauseSlice s.clock
        (s.modWave t fun w => { w with overrun := true, hcyc := w.hcycles s.clock }).leave t
    else if w.overrun then
      let s := s.modWave t fun w => { w with overrun := false, hstart := s.clock }
      s.modBlock t fun b => b.resumeSlice s.clock
    else s

/-- The step of a write to WSTAT. -/
def execWstatWrite (t : WaveId) (v : W64) (s : State) : Host.Outcome State Fault Refusal := .next (s.writeWstat t v)

/-- A write to HCYC: the count goes on from it; the stop of R332 comes when it reaches 65,536 (DEDUCED, log 32). -/
def State.writeHcyc (s : State) (t : WaveId) (v : W64) : State :=
  s.modWave t fun w => { w with hcyc := v.toNat, hstart := s.clock, hpast := decide (65536 ≤ v.toNat) }

/-- The terms of every line of a registered page, summed (12 R306). -/
def State.pageTerms (s : State) (r : Replica) : Nat :=
  (List.range (r.size / 64)).foldl (fun d i => (d + s.termAt r (r.page + 64 * i)) % 2 ^ 128) 0

/-- Register a page: its terms enter the tenant's digest (22 R382). -/
def State.rpRegister (s : State) (v : W64) : State :=
  let r : Replica := ⟨rpPage v, rpSize v, rpTenant v, (s.pkgR 0x481).toNat⟩
  let d := (spGet 0 s.digests r.tenant + s.pageTerms r) % 2 ^ 128
  { s with replicas := s.replicas ++ [r], digests := spSet 0 s.digests r.tenant d }

/-- Remove a page: its terms leave the digest (22 R382). -/
def State.rpRemove (s : State) (v : W64) : State :=
  match s.replicas.find? (rpIs v) with
  | none => s
  | some r =>
    let d := (spGet 0 s.digests r.tenant + (2 ^ 128 - s.pageTerms r)) % 2 ^ 128
    { s with replicas := s.replicas.filter (· != r), digests := spSet 0 s.digests r.tenant d }

/-- A write to RPCMD, with the operation it names. -/
def State.rpCommand (s : State) (v : W64) : State :=
  let s := s.setPkgR 0x480 v
  if rpOp v = 1 then s.rpRegister v else s.rpRemove v

/-- The step of a registration; a command that is refused has no effect. -/
def execRpcmdRegister (v : W64) (s : State) : Host.Outcome State Fault Refusal :=
  .next (if rpOp v ≠ 1 ∨ s.rpBad v = true then s else s.rpCommand v)

/-- The step of a removal. -/
def execRpcmdRemove (v : W64) (s : State) : Host.Outcome State Fault Refusal :=
  .next (if rpOp v ≠ 2 ∨ s.rpBad v = true then s else s.rpCommand v)

/-- Write a system register. -/
def State.sysWrite (s : State) (c : Ctx) (sel v : W64) : State :=
  let n := selNumber sel
  let t := c.selected sel
  match regOwner n with
  | .none => s
  | .wave =>
    if n = 0 then s.writeWstat t v
    else if n = 1 then s.modWave t fun w => { w with tcause := v }
    else if n = 2 then s.writeHcyc t v
    else if n = 3 then s.modWave t fun w => { w with tmask := v }
    else s
  | .core => s.setCoreR c.id.core n v
  | .die => s.setDieR (dieOf c.id.core) n v
  | .package => if n = 0x480 then s.rpCommand v else s.setPkgR n v

def syswrSpec (f : F) : Spec := scalarSpec 8 f.ctl (f.d == 0 && f.m == 0) [f.a, f.b] none 0

def execSyswr (f : F) (s : State) : Host.Outcome State Fault Refusal :=
  .next (scalarAct (syswrSpec f) (fun c => c.illegalIf (syswrBad s c (c.scalar f.a) (c.scalar f.b)))
    (fun c s => s.sysWrite c (c.scalar f.a) (c.scalar f.b)) s)

/-! ### ASINV (19 R326, 22 R376, R377, R381) -/

/-- Whether a launch runs in the address spaces that an operand names. -/
def asHit (v : W64) (asid : Nat) : Bool := v.getLsbD 8 || asid == (v.extractLsb' 0 8).toNat

/-- Discard every held translation and instruction line of the address spaces. -/
def State.dropTranslations (s : State) (v : W64) : State :=
  { s with held := s.held.filter fun h => !asHit v h.asid, icache := s.icache.filter fun i => !asHit v i.asid }

/-- The lock that a forcing holds for the operation or node that it precedes (22 R381). -/
def Wave.forceLock (w : Wave) : Option Nat :=
  match w.wait with
  | some (.force _ k _ _) => k
  | _ => none

/-- What has used a translation of the address spaces and is not over: accesses, and operations, nodes and forcings by the owner
of their lock (DEDUCED, log 33). -/
def State.translationUsers (s : State) (v : W64) : Wait :=
  let mine := s.blocks.filter fun e => match s.launchOf e.2 with
    | none => false
    | some l => asHit v l.asid
  .asinv
    (mine.flatMap fun e => e.2.waves.flatMap fun w => (w.2.log.filter fun x => x.2.state == 1 && !x.2.pages.isEmpty).map fun x =>
      (wfull ⟨e.2.core, e.2.slot, w.1⟩, x.1, x.2.seq))
    (mine.flatMap fun e => ((s.ops.filter fun o => o.2.uid == e.2.uid && !o.2.faulted).map fun o => o.1) ++
      (e.2.nodes.filterMap fun n => n.2.lock) ++ e.2.waves.filterMap fun w => w.2.forceLock)

def asinvSpec (f : F) : Spec :=
  { scalarSpec 8 f.ctl (f.d == 0 && f.b == 0 && f.m == 0) [f.a] none 0 with half := true }

/-- The wait is over. -/
def asinvResume (f : F) (c : Ctx) (_ : Wait) (s : State) : State := s.awaited c (asinvSpec f) fun s => s

def execAsinv (f : F) (s : State) : Host.Outcome State Fault Refusal :=
  .next (run (asinvSpec f) (fun c => c.illegalIf (c.scalar f.a >>> 9 != 0)) (asinvResume f) (fun c s =>
    if c.part = 0 then s.quick c (asinvSpec f) fun s => s
    else
      let s := s.dropTranslations (c.scalar f.a)
      s.awaitOr c (asinvSpec f) (s.translationUsers (c.scalar f.a)) fun s => s) s)

/-! ### KILLB (19 R334) -/

def killbSpec (f : F) : Spec := { scalarSpec 8 f.ctl (f.b == 0 && f.m == 0) [f.a] (some f.d) 0 with half := true }

/-- Logical core and slot of an operand. -/
def blockOperand (v : W64) : Nat × Nat := ((v.extractLsb' 0 12).toNat, (v.extractLsb' 12 4).toNat)

def killbResume (f : F) (c : Ctx) (_ : Wait) (s : State) : State :=
  s.awaited c (killbSpec f) fun s => s.setS c.id (scalNo f.d) 0

def execKillb (f : F) (s : State) : Host.Outcome State Fault Refusal :=
  .next (run (killbSpec f) (fun c => c.illegalIf (c.scalar f.a >>> 16 != 0)) (killbResume f) (fun c s =>
    if c.part = 0 then s.quick c (killbSpec f) fun s => s
    else
      let t := blockOperand (c.scalar f.a)
      match s.block? ⟨t.1, t.2, 0⟩ with
      | none => s.quick c (killbSpec f) fun s => s.setS c.id (scalNo f.d) (failCode 1)
      | some b => (s.await c (killbSpec f) (.slotFree t.1 t.2 b.uid)).killBlock t.1 t.2) s)

/-! ### REMAP (19 R326, 24 R411) -/

/-- A core holds a block. -/
def State.coreBusy (s : State) (core : Nat) : Bool := s.blocks.any fun e => e.2.core == core

/-- Map a logical core: 0, or the failure. Another logical core that had the physical core becomes absent, and the
core's instruction lines are gone (DEDUCED, log 34). -/
def State.remap (s : State) (core phys : Nat) : State × W64 :=
  let die := dieOf core
  let others := (List.range 512).filter fun i =>
    i != core % 512 && (s.dieR die (0x800 + i)).getLsbD 15 && ((s.dieR die (0x800 + i)).extractLsb' 0 10).toNat == phys
  if 528 ≤ phys then (s, failCode 2)
  else if s.coreBusy core || others.any (fun i => s.coreBusy (die * 512 + i)) || s.isRetired 1 die phys ||
      decide (die * 528 + phys ∈ s.badCores) then (s, failCode 1)
  else
    let s := { s with worst := s.healthState }
    let s := others.foldl (fun s i => s.setDieR die (0x800 + i) (s.dieR die (0x800 + i) &&& 0x3FF)) s
    let s := s.setDieR die (0x800 + core % 512) (0x8000 ||| BitVec.ofNat 64 phys)
    ({ s with icache := s.icache.filter fun i => i.core != core }, 0)

def remapSpec (f : F) : Spec := scalarSpec 8 f.ctl (f.m == 0) [f.a, f.b] (some f.d) 0

def execRemap (f : F) (s : State) : Host.Outcome State Fault Refusal :=
  .next (scalarAct (remapSpec f) (fun c => c.illegalIf (c.scalar f.a >>> 12 != 0 || c.scalar f.b >>> 10 != 0))
    (fun c s =>
      let r := s.remap (c.scalar f.a).toNat (c.scalar f.b).toNat
      r.1.setS c.id (scalNo f.d) r.2) s)

end Sys2Proof.Machine
end

