-- ==== Sys2Proof/Machine/Blocks.lean ====
section
/-! DEFINITION. The life of a block: room on a core, its start, its retirement and its flush (01 R18, R27-R29, R36-R39,
R41-R43, 07 R211, 18 R324, 20 R354, 21 R359-R362, 24 R410). -/

namespace Sys2Proof.Machine

open Sys2Proof

/-! ### Journals of a pool (04 R94, 19 R327) -/

def State.journalCount (s : State) (die : Nat) : Nat := (s.dieR die 0x201).toNat

/-- The lowest free journal of a die's pool. -/
def State.freeJournal (s : State) (die : Nat) : Option Nat :=
  (List.range (s.journalCount die)).find? fun n => !decide ((die, n) ∈ s.journals)

def State.takeJournal (s : State) (die n : Nat) : State := { s with journals := (die, n) :: s.journals }

def State.giveJournal (s : State) (j : Journal) : State := { s with journals := s.journals.filter (· != (j.die, j.num)) }

/-! ### Room (01 R27, R28, 22 R385) -/

/-- The lowest free block slot of a core. -/
def State.freeSlot (s : State) (core : Nat) : Option Nat :=
  (List.range 16).find? fun n => (spFind s.blocks (blockKey core n)).isNone

/-- What a placement needs. -/
structure Need where
  rows  : Nat
  waves : Nat
  deriving DecidableEq, Repr

/-- A core has room: everything is reserved at one time, with a journal of its die unless the block brings one. -/
def State.roomOn (s : State) (core : Nat) (n : Need) (journal : Bool) : Bool :=
  s.coreTakes core && (s.freeSlot core).isSome && decide (n.waves ≤ s.freeWaves core) && decide (n.rows ≤ s.freeRows core) &&
  (!journal || (s.freeJournal (dieOf core)).isSome)

def Record.need (r : Record) : Need := ⟨r.rows, r.waves⟩

/-- What a message's block needs (20 R354). -/
def messageNeed (m : Message) : Need := ⟨rowsFor 1 m.budget 0 0, 1⟩

/-- What a saved block needs: its reservation and its TGROW extents. -/
def Block.need (b : Block) : Need := ⟨b.rowsHeld, b.nwaves⟩

/-! ### Start (01 R18) -/

/-- A wave at its start. -/
def startWave (pc s0 : W64) (demoted : Bool) : Wave :=
  { (({} : Wave).setPcs fun _ => pc).sset 0 s0 with demoted := demoted }

/-- The block of an index of a launch, placed in a slot and in rows of a core, of a group with its pins. -/
def freshBlock (l : Launch) (launch linear uid core slot : Nat) (place : List (Nat × Nat)) (j : Journal) (clock group : Nat)
    (pins : Option Nat × Option Nat) (deadline : Option Nat) : Block :=
  let r := l.record
  let tileRow := 16 + r.waves * (8 + (r.budget + 3) / 4) + r.common / 512
  { uid := uid, launch := launch, linear := linear, core := core, slot := slot, place := place, rows := r.rows
    waves := (List.range r.waves).map fun w => (w, startWave r.entry r.arg l.demoted)
    nwaves := r.waves, budget := r.budget, commonLen := r.common, tileLen := r.tile, nbar := r.barriers, ntiles := r.tiles
    extents := [(tileRow, r.tile / 512)], journal := j, prio := l.prio, placed := clock, pinDie := pins.1, pinCore := pins.2
    deadline := deadline, group := group }

/-- Where a retired block's outcome is kept while its launch has messages: index and outcome, 0 completed, 1 faulted, 2
killed. -/
def endedAs (linear outcome : Nat) : Nat := linear * 4 + outcome

/-- The block of a message (07 R211): one wave; s0, s1 and v0 as its sender gave them. -/
def messageBlock (m : Message) (uid core slot : Nat) (place : List (Nat × Nat)) (j : Journal) (clock : Nat) : Block :=
  let s0 := BitVec.ofNat 64 (m.sender.core + m.sender.slot * 2 ^ 12 + m.sender.wave * 2 ^ 16 + m.tenant * 2 ^ 21)
  let w := (startWave (m.handler + 8) s0 false).sset 1 (m.arg.zeroExtend 64)
  let w := { w with v := spOf32 0 fun l => m.payload.getD l 0 }
  { uid := uid, launch := m.launch, linear := 2 ^ 32 + uid, core := core, slot := slot, place := place
    rows := (messageNeed m).rows, waves := [(0, w)], nwaves := 1, budget := m.budget, commonLen := 0, tileLen := 0, nbar := 0, ntiles := 0
    extents := [(24 + (m.budget + 3) / 4, 0)], journal := j, prio := m.priority, placed := clock
    sender := some (m.uid, m.launch), pinDie := some (dieOf core), pinCore := some core }

/-- Put a block into its slot. -/
def State.addBlock (s : State) (b : Block) : State :=
  { s with blocks := spPut s.blocks (blockKey b.core b.slot) b }

/-- Place a new block by `make`: the lowest free slot, rows, a journal of the die and a number of its own. -/
def State.placeNew (s : State) (core rows : Nat) (make : Nat → Nat → List (Nat × Nat) → Journal → Block) : State :=
  match s.freeSlot core, s.freeJournal (dieOf core) with
  | some slot, some n =>
    let b := make s.nextUid slot (s.placeRows core rows) ⟨n, dieOf core, 0, [], []⟩
    ({ (s.takeJournal (dieOf core) n) with nextUid := s.nextUid + 1 }).addBlock b
  | _, _ => s

/-! ### Outcomes (01 R41-R43) -/

/-- Count a faulted block in its launch: the lowest index keeps its cause. -/
def Launch.countFault (l : Launch) (linear cause : Nat) : Launch :=
  let lower := match l.firstIdx with
    | none => true
    | some i => decide (linear < i)
  { l with faulted := l.faulted + 1, firstIdx := if lower then some linear else l.firstIdx, firstCause := if lower then cause else l.firstCause }

/-- Count a block of a launch that has retired. -/
def Launch.countBlock (l : Launch) (b : Block) : Launch :=
  let keep := fun (o : Nat) (l : Launch) => if l.messages = 0 then l else { l with ended := l.ended ++ [(b.uid, endedAs b.linear o)] }
  if b.killed then keep 2 { l with killed := l.killed + 1 }
  else match b.faulted with
    | some c => keep 1 (l.countFault b.linear c)
    | none => keep 0 { l with completed := l.completed + 1 }

/-- A handler wave's fault makes its sending block count as faulted: a block that still runs or is saved, or one that has
retired as completed (07 R211). The cause recorded for it is the handler wave's, or the block's own where that is lower: R211
names none (DEDUCED, log 36). -/
def State.blameSender (s : State) (b : Block) (cause : Nat) : State :=
  match b.sender with
  | none => s
  | some (uid, n) =>
    if (s.anyBlock uid).isSome then
      s.modAny uid fun x => { x with faulted := lowerCause x.faulted cause }
    else s.modLaunch n fun l => match l.ended.find? fun e => e.1 == uid with
      | some e => if e.2 % 4 = 0 then
          { (({ l with completed := l.completed - 1 } : Launch).countFault (e.2 / 4) cause) with
            ended := l.ended.map fun x => if x.1 = uid then (uid, endedAs (e.2 / 4) 1) else x }
        else l
      | none => l

/-- Count the end of a block; a handler wave's block is no block of the launch. -/
def State.countEnd (s : State) (b : Block) : State :=
  if b.sender.isSome then
    let s := (match b.killed, b.faulted with
      | false, some c => s.blameSender b c
      | _, _ => s)
    s.modLaunch b.launch fun l => { l with messages := l.messages - 1 }
  else s.modLaunch b.launch fun l => l.countBlock b

/-! ### What leaves with a block -/

/-- Every Frond generation of a slot advances (02 R69). -/
def State.bumpSlot (s : State) (core slot : Nat) : State :=
  lanes32.foldl (fun s w => s.bumpFrond ⟨core, slot, w⟩) s

/-- Reserved slots of stage queues are freed (18 R324). -/
def State.releaseQueues (s : State) (b : Block) : State :=
  { s with stageqs := s.stageqs.map fun e => (e.1, e.2.release (b.launch, b.linear)) }

/-- Remove a block from its slot: locks of its nodes and of operations that count as landed, its journal, its waves. -/
def State.removeBlock (s : State) (b : Block) : State :=
  let mine := s.ops.filter fun o => o.2.uid == b.uid
  let owners := (mine.map fun o => o.1) ++ b.nodes.filterMap fun e => e.2.lock
  let s := { s with
    ops := s.ops.filter fun o => o.2.uid != b.uid
    locks := s.locks.filter fun k => !decide (k.owner ∈ owners)
    blocks := spDel s.blocks (blockKey b.core b.slot)
    running := s.running.filter fun r => wkey r != blockKey b.core b.slot }
  s.giveJournal b.journal

/-- Entries of complete device launches whose issuing block is gone (08 R224). -/
def State.sweepChildren (s : State) (launch linear : Nat) : State :=
  (s.launches.filter fun e => !e.2.host && !e.2.isTail && e.2.complete && e.2.parent == some (launch, linear)).foldl
    (fun s e => s.dropLaunch e.1) s

/-- Device launches of a flushed block are nobody's children any more: their entries are freed when they complete
(21 R362). -/
def State.orphanChildren (s : State) (launch linear : Nat) : State :=
  let s := s.sweepChildren launch linear
  { s with launches := s.launches.map fun e =>
      if e.2.parent = some (launch, linear) ∧ e.2.isTail = false then (e.1, { e.2 with parent := none }) else e }

/-! ### A retired core that has become empty (24 R410) -/

/-- The physical core of a logical one. -/
def State.physCore (s : State) (core : Nat) : Nat := ((s.dieR (dieOf core) (0x800 + core % 512)).extractLsb' 0 10).toNat

/-- Its logical core moves to the lowest spare of its die, or becomes absent. -/
def State.coreEmptied (s : State) (core : Nat) : State :=
  let die := dieOf core
  if s.coreBusy core || !(s.dieR die (0x800 + core % 512)).getLsbD 15 || !s.isRetired 1 die (s.physCore core) then s
  else
    let s := { s with icache := s.icache.filter fun i => i.core != core }
    match s.spares die with
    | p :: _ => s.setDieR die (0x800 + core % 512) (0x8000 ||| BitVec.ofNat 64 p)
    | [] => s.setDieR die (0x800 + core % 512) (BitVec.ofNat 64 (s.physCore core))

/-! ### BLOCK_RETIRE (01 R29, 04 R98, R99) -/

/-- A log entry belongs to a collective whose completion is withheld (12 R308). -/
def State.entryWithheld (s : State) (e : LogEntry) : Bool :=
  match e.op.bind (spFind s.ops) with
  | none => false
  | some o => o.status == 3

/-- The block may retire: every wave has exited or been killed, its operations have landed, been dropped or been withheld,
and the publish point of its retirement is reached, no packet of an earlier phase unacknowledged (04 R99, R117). -/
def State.mayRetire (s : State) (b : Block) : Bool :=
  (b.waves.all fun e => e.2.live == 0) &&
  (s.ops.all fun o => o.2.uid != b.uid || o.2.status == 3 || o.2.faulted) &&
  (b.killed || (b.journal.lines.isEmpty && (b.waves.all fun e => e.2.log.all fun x => x.2.state != 1 || s.entryWithheld x.2) &&
    (s.unacked b).all fun p => decide (b.journal.phase ≤ p + 1)))

/-- The block retires: its generations advance, what it held is freed, its outcome is counted. -/
def State.retire (s : State) (b : Block) : State :=
  let s := s.removeBlock b
  let s := s.bumpSlot b.core b.slot
  let s := s.releaseQueues b
  let s := s.countEnd b
  let s := s.sweepChildren b.launch b.linear
  s.coreEmptied b.core

def execBlockRetire (core slot : Nat) (s : State) : Host.Outcome State Fault Refusal :=
  .next (match s.block? ⟨core, slot, 0⟩ with
    | none => s
    | some b => if s.mayRetire b then s.retire b else s)

/-! ### Actions on a victim (21 R359-R362) -/

/-- A block that the dispatcher leaves alone: in a handler or stopped (19 R333), or with a collective under way (21 R360). -/
def State.exempt (s : State) (b : Block) : Bool :=
  b.inHandler || s.ops.any fun o => o.2.uid == b.uid && (match o.2.kind with
    | .coll _ => true
    | _ => false)

/-- Context slots of a die that hold nothing and await no save. -/
def State.freeContexts (s : State) (die : Nat) : Nat :=
  (s.dieR die 0x231).toNat - (s.saved.filter fun c => c.die == die && c.slot.isSome).length -
    (s.blocks.filter fun e => dieOf e.2.core == die && e.2.stopping == some true && e.2.saveTo.isEmpty).length

/-- What is done with a victim. -/
inductive Action where
  | drain | flush | save | kill
  deriving DecidableEq, Repr

/-- The rows of 21 R359 from `first` on, row 1 only until a drain has timed out (21 R360); without row 5 where a core is retired. A handler wave's block is never flushed
(DEDUCED, log 36). -/
def State.actionFor (s : State) (b : Block) (first : Nat) (retired : Bool) : Action :=
  let e := ((s.launchOf b).map fun l => l.record.clauses).getD 0
  let idem := b.sender.isNone && ((s.launchOf b).map fun l => l.record.idempotent).getD false
  if first ≤ 1 ∧ b.drained = false ∧ e ≠ 0 ∧ 7 * e ≤ 8 * b.retired then .drain
  else if idem ∧ (e = 0 ∨ 2 * b.retired < e) then .flush
  else if s.freeContexts (dieOf b.core) ≠ 0 then .save
  else if idem then .flush
  else if retired then .kill else .drain

/-- Take an action on a resident block. -/
def State.act (s : State) (b : Block) (a : Action) : State :=
  let id : WaveId := ⟨b.core, b.slot, 0⟩
  match a with
  | .drain => s.modBlock id fun b => { b with draining := some s.clock }
  | .flush => s.modBlock id fun b => { b with stopping := some false, draining := none }
  | .save => s.modBlock id fun b => { b with stopping := some true, draining := none }
  | .kill => s.killBlock b.core b.slot

/-- No wave of the block stands in its issue slot. -/
def State.slotEnded (s : State) (b : Block) : Bool := s.running.all fun r => wkey r != blockKey b.core b.slot

/-- A chosen flush or save takes effect now (21 R361). -/
def State.actionDue (s : State) (b : Block) (save : Bool) : Bool :=
  b.stopping == some save && !b.saving && s.slotEnded b && !b.inHandler && b.waves.any fun e => e.2.live != 0

/-- A flushed block's index is a ticket of its group again, on its die, where its wait begins (21 R362, 01 R39, R45). -/
def State.ticketAgain (s : State) (b : Block) : State :=
  let die := dieOf b.core
  s.modLaunch b.launch fun l => ({ l with
    groups := modPlacement l.groups b.group fun g => { g with ranges := g.ranges ++ [(die, b.linear, b.linear + 1, b.deadline.getD noDeadline)] }
    arrivals := if l.arrivals.any fun a => a.1 == die then l.arrivals else l.arrivals ++ [(die, s.clock)] } : Launch).reage s.clock

/-- Every phaser membership of a wave is dropped (21 R362). -/
def State.dropMember (s : State) (b : Block) (wave : Nat) : State :=
  (s.phasers.filter fun e => (e.2.member b wave).isSome).foldl (fun s e => s.setPhaser e.1 ((s.phaser e.1).drop b wave)) s

/-- BLOCK_FLUSH: the block is discarded and becomes a candidate again (21 R362). -/
def State.flush (s : State) (b : Block) : State :=
  let s := b.waves.foldl (fun s e => s.dropForce e.2) s
  let s := s.dropBlockOps b
  let s := s.removeBlock b
  let s := s.bumpSlot b.core b.slot
  let s := (b.waves.map fun e => e.1).foldl (fun s w => s.dropMember b w) s
  let s := s.releaseQueues b
  let s := s.orphanChildren b.launch b.linear
  let s := s.ticketAgain b
  (s.countDie (dieOf b.core) 0x233 1).coreEmptied b.core

def execBlockFlush (core slot : Nat) (s : State) : Host.Outcome State Fault Refusal :=
  .next (match s.block? ⟨core, slot, 0⟩ with
    | none => s
    | some b => if s.actionDue b false then s.flush b else s)

/-- The deadline of the slice after one that ended at a core cycle: its budget is converted anew there (01 R49, 20 R352). -/
def State.sliceDeadline (s : State) (b : Block) (ended : Nat) : Option Nat :=
  let dl := ((s.launchOf b).map fun l => l.record.deadline).getD 0
  if dl = 0 then none else some (ended / 2 + dl)

/-- The block starts the slice after one that ended at a core cycle. -/
def State.nextSlice (s : State) (b : Block) (ended : Nat) : State :=
  let dl := s.sliceDeadline b ended
  s.modBlock ⟨b.core, b.slot, 0⟩ fun b => { b with
    offered := none, sliceUsed := 0, sliceFrom := none, expired := false, deadline := dl }

/-- BLOCK_SAVE: the block stops issuing (21 R363); one that stands between slices is saved with a new slice, in which it resumes
(08 R228). -/
def State.startSave (s : State) (b : Block) : State :=
  let s := (match b.offered with
    | none => s
    | some t => s.nextSlice b t)
  s.modBlock ⟨b.core, b.slot, 0⟩ fun b => { (b.pauseSlice s.clock) with saving := true }

def execBlockSave (core slot : Nat) (s : State) : Host.Outcome State Fault Refusal :=
  .next (match s.block? ⟨core, slot, 0⟩ with
    | none => s
    | some b => if s.actionDue b true then s.startSave b else s)

/-- DRAIN_TIMEOUT: a victim that drains too long is taken again through rows 2 to 5 (21 R360). -/
def execDrainTimeout (core slot : Nat) (s : State) : Host.Outcome State Fault Refusal :=
  .next (match s.block? ⟨core, slot, 0⟩ with
    | none => s
    | some b => match b.draining with
      | none => s
      | some t =>
        if s.clock < t + 1048576 || s.exempt b || b.stopping.isSome then s
        else (s.modBlock ⟨core, slot, 0⟩ fun b => { b with drained := true }).act b (s.actionFor b 2 false))

end Sys2Proof.Machine
end

