-- ==== Sys2Proof/Machine/MlDsa.lean ====
section
/-! DEFINITION. ML-DSA-87 (FIPS 204), with which firmware images and quotes are signed (00 R3, 24 R418, R419), and SHAKE
(FIPS 202), which it uses. Polynomials are lists of 256 coefficients modulo q. -/

namespace Sys2Proof.Machine

open Sys2Proof

/-! ### SHAKE -/

/-- Pieces of a length of at least one byte; `fuel` bounds their number. -/
def pieces (len : Nat) : Nat → List Byte → List (List Byte)
  | 0, _ => []
  | n + 1, m => if m.isEmpty then [] else m.take len :: pieces len n (m.drop len)

/-- Absorb one block of the rate. -/
def absorbAt (rate : Nat) (a : List W64) (blk : List Byte) : List W64 :=
  keccakF (List.zipWith (· ^^^ ·) a ((List.range 25).map fun i =>
    if i < rate / 8 then wordOfBytes ((blk.drop (8 * i)).take 8) else 0#64))

/-- Padding: domain bits 1111, then 10*1, to a multiple of the rate. -/
def shakePad (rate : Nat) (m : List Byte) : List Byte :=
  let r := m.length % rate
  if r = rate - 1 then m ++ [0x9F#8] else m ++ (0x1F#8 :: List.replicate (rate - 2 - r) 0#8) ++ [0x80#8]

/-- Blocks squeezed from a state. -/
def squeeze (rate : Nat) : Nat → List W64 → List Byte
  | 0, _ => []
  | n + 1, a => ((a.take (rate / 8)).map fun w => bytesOfNat 8 w.toNat).flatten ++ squeeze rate n (keccakF a)

/-- Bytes of SHAKE with a rate of 168 (SHAKE128) or 136 (SHAKE256). -/
def shake (rate out : Nat) (m : List Byte) : List Byte :=
  let p := shakePad rate m
  (squeeze rate ((out + rate - 1) / rate) ((pieces rate (p.length / rate + 1) p).foldl (absorbAt rate) (List.replicate 25 0#64))).take out

/-- FIPS 204's H. -/
def hashH (out : Nat) (m : List Byte) : List Byte := shake 136 out m

/-! ### Arithmetic modulo q -/

def qMod : Nat := 8380417

/-- The signed representative of a coefficient, in (−q/2, q/2]. -/
def signedQ (x : Nat) : Int := if qMod / 2 < x then (x : Int) - qMod else x

def addQ (x y : Nat) : Nat := (x + y) % qMod
def subQ (x y : Nat) : Nat := (x + qMod - y) % qMod

/-- A power of the 512-th root of unity 1753. -/
def zetaPow (e : Nat) : Nat :=
  (List.range 9).foldr (fun i acc => if e / 2 ^ i % 2 = 1 then acc * acc % qMod * 1753 % qMod else acc * acc % qMod) 1

/-- The eight bits of a number reversed. -/
def rev8 (k : Nat) : Nat := (List.range 8).foldl (fun acc i => acc + k / 2 ^ i % 2 * 2 ^ (7 - i)) 0

/-- The transform of a piece of 2^d coefficients, the k-th of its level counted from 1 at the top. -/
def nttAt : Nat → Nat → List Nat → List Nat
  | 0, _, p => p
  | d + 1, k, p =>
    let z := zetaPow (rev8 k)
    let u := (p.drop (2 ^ d)).map fun x => z * x % qMod
    nttAt d (2 * k) (List.zipWith addQ (p.take (2 ^ d)) u) ++ nttAt d (2 * k + 1) (List.zipWith subQ (p.take (2 ^ d)) u)

def unttAt : Nat → Nat → List Nat → List Nat
  | 0, _, p => p
  | d + 1, k, p =>
    let z := zetaPow (512 - rev8 k)
    let a := unttAt d (2 * k) (p.take (2 ^ d))
    let b := unttAt d (2 * k + 1) (p.drop (2 ^ d))
    List.zipWith addQ a b ++ (List.zipWith subQ a b).map fun x => z * x % qMod

def ntt (p : List Nat) : List Nat := nttAt 8 1 p
def untt (p : List Nat) : List Nat := (unttAt 8 1 p).map fun x => x * 8347681 % qMod

def addPoly (p r : List Nat) : List Nat := List.zipWith addQ p r
def subPoly (p r : List Nat) : List Nat := List.zipWith subQ p r
/-- The product of two transforms. -/
def mulHat (p r : List Nat) : List Nat := List.zipWith (fun x y => x * y % qMod) p r
def zeroPoly : List Nat := List.replicate 256 0
/-- A row of transforms times a column of transforms. -/
def dotHat (row col : List (List Nat)) : List Nat := (List.zipWith mulHat row col).foldl addPoly zeroPoly

/-- The largest magnitude of a coefficient is below a bound. -/
def below (bound : Nat) (v : List (List Nat)) : Bool := v.all fun p => p.all fun x => decide ((signedQ x).natAbs < bound)

/-! ### Rounding (γ2 = 261,888) -/

/-- The high and the low part of a coefficient by 2^13. -/
def power2Round (x : Nat) : Nat × Nat :=
  let r0 : Int := if 4096 < x % 8192 then (x % 8192 : Int) - 8192 else x % 8192
  (((x : Int) - r0).toNat / 8192, (r0 % qMod).toNat)

/-- The high part and the signed low part of a coefficient by 2γ2. -/
def decomposeQ (x : Nat) : Nat × Int :=
  let r0 : Int := if 261888 < x % 523776 then (x % 523776 : Int) - 523776 else x % 523776
  if (x : Int) - r0 = 8380416 then (0, r0 - 1) else (((x : Int) - r0).toNat / 523776, r0)

def highBits (x : Nat) : Nat := (decomposeQ x).1

def useHint (h : Bool) (x : Nat) : Nat :=
  let d := decomposeQ x
  if !h then d.1 else if 0 < d.2 then (d.1 + 1) % 16 else (d.1 + 15) % 16

/-! ### Packing -/

/-- Numbers of a width one after the other, the first in the lowest bits. -/
def packBits (width : Nat) (xs : List Nat) : List Byte :=
  bytesOfNat (xs.length * width / 8) (xs.foldr (fun x acc => acc * 2 ^ width + x) 0)
def unpackBits (width : Nat) (bs : List Byte) : List Nat :=
  let n := natOfBytes bs
  (List.range 256).map fun i => n / 2 ^ (width * i) % 2 ^ width

/-- z as γ1 − z in 20 bits, γ1 = 2^19. -/
def packZ (p : List Nat) : List Byte := packBits 20 (p.map fun x => (524288 - signedQ x).toNat)
def unpackZ (bs : List Byte) : List Nat := (unpackBits 20 bs).map fun x => subQ 524288 x

def packW1 (v : List (List Nat)) : List Byte := v.flatMap fun p => packBits 4 p

/-- The hints: their places row after row, in 75 bytes, then the end of each row. -/
def packHints (v : List (List Bool)) : List Byte :=
  let places := v.map fun p => (List.range 256).filter fun i => p.getD i false
  let all := places.flatten
  let ends := (List.range 8).map fun i => ((places.take (i + 1)).flatten).length
  (all ++ List.replicate (75 - all.length) 0 ++ ends).map fun x => BitVec.ofNat 8 x

/-- Strictly rising numbers. -/
def rising : List Nat → Bool
  | x :: y :: t => decide (x < y) && rising (y :: t)
  | _ => true

/-- The hint rows of 83 bytes, if they are packed as `packHints` packs. -/
def unpackHints (bs : List Byte) : Option (List (List Bool)) :=
  let xs := (bs.take 75).map BitVec.toNat
  let ends := (bs.drop 75).map BitVec.toNat
  let rows := (List.range 8).map fun i =>
    let a := if i = 0 then 0 else ends.getD (i - 1) 0
    (a, ends.getD i 0)
  if (rows.all fun r => decide (r.1 ≤ r.2) && decide (r.2 ≤ 75) && rising ((xs.drop r.1).take (r.2 - r.1))) &&
      (xs.drop (ends.getD 7 0)).all (· == 0) then
    some (rows.map fun r => (List.range 256).map fun i => decide (i ∈ (xs.drop r.1).take (r.2 - r.1)))
  else none

/-! ### Sampling -/

/-- Triples of bytes as numbers below 2^23. -/
def triples : List Byte → List Nat
  | a :: b :: c :: t => (a.toNat + 256 * b.toNat + 65536 * (c.toNat % 128)) :: triples t
  | _ => []

def padPoly (p : List Nat) : List Nat := (p ++ zeroPoly).take 256

/-- The entry of the public matrix in a row and a column, as a transform. -/
def matrixHat (rho : List Byte) (row col : Nat) : List Nat :=
  padPoly ((triples (shake 168 1344 (rho ++ [BitVec.ofNat 8 col, BitVec.ofNat 8 row]))).filter fun x => decide (x < qMod))

def matrixA (rho : List Byte) : List (List (List Nat)) :=
  (List.range 8).map fun r => (List.range 7).map fun s => matrixHat rho r s

/-- A secret polynomial with coefficients from −2 to 2. -/
def smallPoly (seed : List Byte) (n : Nat) : List Nat :=
  padPoly (((hashH 544 (seed ++ bytesOfNat 2 n)).flatMap fun b => [b.toNat % 16, b.toNat / 16]).filterMap fun x =>
    if x < 15 then some (subQ 2 (x % 5)) else none)

def maskPoly (seed : List Byte) (n : Nat) : List Nat := unpackZ (hashH 640 (seed ++ bytesOfNat 2 n))

/-- Place the signs of the challenge from coefficient 256 − left on. -/
def ballFrom : Nat → List Byte → Nat → List Nat → List Nat
  | 0, _, _, p => p
  | _, [], _, p => p
  | left, j :: rest, signs, p =>
    let i := 256 - left
    if i < j.toNat then ballFrom left rest signs p
    else ballFrom (left - 1) rest (signs / 2) ((p.set i (p.getD j.toNat 0)).set j.toNat (if signs % 2 = 1 then qMod - 1 else 1))

/-- The challenge: 60 coefficients of ±1. -/
def challengeOf (c : List Byte) : List Nat :=
  let bs := hashH 408 c
  ballFrom 60 (bs.drop 8) (natOfBytes (bs.take 8)) zeroPoly

/-! ### Keys, signatures -/

/-- What a 32-byte seed expands to: ρ, K, the secrets, t1 and t0, and the public key. -/
structure DsaKey where
  rho : List Byte
  k   : List Byte
  s1  : List (List Nat)
  s2  : List (List Nat)
  t0  : List (List Nat)
  pub : List Byte
  deriving DecidableEq, Repr

def timesA (a : List (List (List Nat))) (v : List (List Nat)) : List (List Nat) := a.map fun row => untt (dotHat row v)

/-- ML-DSA.KeyGen_internal. -/
def dsaKey (seed : List Byte) : DsaKey :=
  let h := hashH 128 (seed ++ [8#8, 7#8])
  let rho := h.take 32
  let rhoS := (h.drop 32).take 64
  let s1 := (List.range 7).map fun r => smallPoly rhoS r
  let s2 := (List.range 8).map fun r => smallPoly rhoS (r + 7)
  let t := List.zipWith addPoly (timesA (matrixA rho) (s1.map ntt)) s2
  { rho := rho, k := h.drop 96, s1 := s1, s2 := s2, t0 := t.map fun p => p.map fun x => (power2Round x).2
    pub := rho ++ t.flatMap fun p => packBits 10 (p.map fun x => (power2Round x).1) }

/-- The public key of a seed, 2,592 bytes. -/
def dsaPublic (seed : List Byte) : List Byte := (dsaKey seed).pub

/-- The message representative of a message under the empty context. -/
def dsaMu (pub m : List Byte) : List Byte := hashH 64 (hashH 64 pub ++ [0#8, 0#8] ++ m)

/-- One attempt to sign, whose masks are numbered from κ on. -/
def dsaTry (key : DsaKey) (a : List (List (List Nat))) (mu seed : List Byte) (kappa : Nat) : Option (List Byte) :=
  let y := (List.range 7).map fun r => maskPoly seed (kappa + r)
  let w := timesA a (y.map ntt)
  let ct := hashH 64 (mu ++ packW1 (w.map fun p => p.map highBits))
  let c := ntt (challengeOf ct)
  let by_ := fun (v : List (List Nat)) => v.map fun p => untt (mulHat c (ntt p))
  let z := List.zipWith addPoly y (by_ key.s1)
  let r := List.zipWith subPoly w (by_ key.s2)
  let t0 := by_ key.t0
  let h := List.zipWith (List.zipWith fun x t => highBits x != highBits (addQ x t)) r t0
  if below (524288 - 120) z && (r.all fun p => p.all fun x => decide ((decomposeQ x).2.natAbs < 261888 - 120)) && below 261888 t0 &&
      decide ((h.map fun p => p.countP id).sum ≤ 75) then
    some (ct ++ z.flatMap packZ ++ packHints h)
  else none

def dsaTries (key : DsaKey) (a : List (List (List Nat))) (mu seed : List Byte) : Nat → Nat → List Byte
  | 0, _ => []
  | n + 1, kappa => match dsaTry key a mu seed kappa with
    | some s => s
    | none => dsaTries key a mu seed n (kappa + 7)

/-- ML-DSA.Sign_internal of a message under a seed, with the 32 bytes `rnd`; after 814 attempts it gives up with no
signature, as FIPS 204 allows. -/
def dsaSign (seed rnd m : List Byte) : List Byte :=
  let key := dsaKey seed
  let mu := dsaMu key.pub m
  dsaTries key (matrixA key.rho) mu (hashH 64 (key.k ++ rnd ++ mu)) 814 0

/-- ML-DSA.Verify_internal: a public key, a message, a signature. -/
def dsaVerify (pub m sig : List Byte) : Bool :=
  pub.length == 2592 && sig.length == 4627 && (match unpackHints (sig.drop 4544) with
  | none => false
  | some h =>
    let ct := sig.take 64
    let z := (List.range 7).map fun i => unpackZ ((sig.drop (64 + 640 * i)).take 640)
    let t1 := (List.range 8).map fun i => unpackBits 10 ((pub.drop (32 + 320 * i)).take 320)
    let c := ntt (challengeOf ct)
    let az := (matrixA (pub.take 32)).map fun row => dotHat row (z.map ntt)
    let w := List.zipWith (fun x t => untt (subPoly x (mulHat c (ntt (t.map fun y => y * 8192 % qMod))))) az t1
    below (524288 - 120) z &&
      ct == hashH 64 (dsaMu pub m ++ packW1 (List.zipWith (List.zipWith useHint) h w)))

end Sys2Proof.Machine
end

