-- ==== Sys2Proof/Machine/Context.lean ====
section
/-! DEFINITION. Saved contexts: their bytes, what a restore accepts, CTXSV, CTXLD and CONTEXT_WRITE (19 R326, 21
R363-R369). -/

namespace Sys2Proof.Machine

open Sys2Proof

/-! ### Bytes of a context (21 R364-R366) -/

def zeros (n : Nat) : List Byte := List.replicate n 0
def word64 (w : W64) : List Byte := bytesOfNat 8 w.toNat
def word32 (w : W32) : List Byte := bytesOfNat 4 w.toNat

/-- A tile control register (09 R238). -/
def Tile.bytes (t : Tile) : List Byte :=
  word64 t.w0 ++ word64 t.w1 ++ word64 t.readers ++ bytesOfNat 8 (match t.producer with
    | none => 0
    | some q => q % 64 + 128)

/-- A barrier object (07 R202). -/
def Barrier.octets (x : Barrier) : List Byte :=
  bytesOfNat 2 x.expected.toNat ++ bytesOfNat 2 x.arrived.toNat ++ bytesOfNat 4 x.bytes.toNat ++ bytesOfNat 4 x.mask.toNat ++
    bytesOfNat 4 (if x.phase then 1 else 0)

/-- A thunk-table node; a free one at its reset values (09 R245). -/
def nodeBytes (n : Option Node) : List Byte :=
  match n with
  | none => zeros 14 ++ [0xFF] ++ zeros 49
  | some n => word64 n.origin ++ bytesOfNat 2 (n.index % 16 + n.wave % 32 * 16) ++ bytesOfNat 2 (n.op % 1024 + n.modifier.toNat * 1024) ++
      bytesOfNat 1 (n.dest % 16 + if n.selfRead then 16 else 0) ++ bytesOfNat 1 n.state ++ bytesOfNat 1 n.cause ++ zeros 1 ++
      bytesOfNat 2 n.a.toNat ++ bytesOfNat 2 n.b.toNat ++ zeros 4 ++ word64 n.prm ++ word64 n.memAddr ++ word64 n.memPitch ++
      bytesOfNat 8 n.seq ++ word64 n.faultAddr

/-- Up to n entries of a table of words, the rest zero. -/
def tableBytes (n size : Nat) (l : List Nat) : List Byte :=
  (List.range n).flatMap fun i => bytesOfNat size (l.getD i 0)

/-- The words of the tile extent table: first offset and rows. -/
def extentWords (l : List (Nat × Nat)) : List Nat :=
  (l.foldl (fun (a : List Nat × Nat) e => (a.1 ++ [a.2 * 2 ^ 32 + e.2], a.2 + e.2 * 512)) ([], 0)).1

/-- The journal state of a block frame (21 R364). -/
def State.journalBytes (s : State) (j : Journal) : List Byte :=
  word64 (s.dieR j.die 0x200 + BitVec.ofNat 64 (j.num * 1048576)) ++
  bytesOfNat 4 j.lines.length ++ bytesOfNat 4 (j.lines.filter fun l => decide (l.phase < j.phase)).length ++
  bytesOfNat 8 (j.phase % 2) ++ word64 (s.dieR j.die 0x202 + BitVec.ofNat 64 (j.num * 131072)) ++ zeros 992

/-- The own-write filter's 16,384 bits (04 R96). -/
def Journal.filterBytes (j : Journal) : List Byte :=
  (List.range 2048).map fun i => (List.range 8).foldl (fun (b : Byte) k => if 8 * i + k ∈ j.filter then b ||| (1#8 <<< k) else b) 0

/-- The block frame. -/
def State.blockFrame (s : State) (b : Block) : List Byte :=
  ((List.range 16).flatMap fun n => (b.tileAt n).bytes) ++ ((List.range 16).flatMap fun n => (b.bar n).octets) ++
  tableBytes 8 8 (b.segs.map fun g => g.1 * 2 ^ 32 + g.2.1 + g.2.2) ++ tableBytes 4 8 (extentWords b.extents) ++ zeros 32 ++
  ((List.range 16).flatMap fun n => word64 (b.tileAt n).valid) ++ ((List.range 64).flatMap fun q => nodeBytes (spFind b.nodes q)) ++
  b.journal.filterBytes ++ s.journalBytes b.journal

/-- An operand-log entry; a free one at its reset values (19 R338). -/
def logBytes (e : Option LogEntry) : List Byte :=
  match e with
  | none => zeros 37 ++ [0xFF] ++ zeros 26
  | some e => word64 e.word ++ word64 e.addr ++ word64 e.aVal ++ word64 e.bVal ++ word32 e.lanes ++ bytesOfNat 1 e.state ++
      bytesOfNat 1 e.cause ++ zeros 2 ++ word64 e.faultAddr ++ bytesOfNat 8 e.seq ++ zeros 8

/-- What a completion flag shows: the faulted entries that await re-issue (21 R364). -/
def Wave.flagShown (w : Wave) (k : Nat) : Nat :=
  (w.log.filter fun e => e.2.state == 2 && (ctlOf e.2.word).sig.toNat == k).length

/-- The predicates of a lane. -/
def Wave.predBytes (w : Wave) (l : Nat) : List Byte :=
  (List.range 12).map fun i => (List.range 8).foldl (fun (b : Byte) k => if w.pget (8 * i + k) l then b ||| (1#8 <<< k) else b) 0

/-- A wave frame. -/
def Wave.frame (w : Wave) : List Byte :=
  ((List.range 128).flatMap fun n => word64 (w.sget n)) ++
  (lanes32.flatMap fun l => (List.range 8).flatMap fun i => word32 (w.xget i l)) ++ (lanes32.flatMap fun l => w.predBytes l) ++
  ((List.range 12).flatMap fun k => bytesOfNat 1 (w.flagShown k)) ++ bytesOfNat 2 w.foldSeq.toNat ++ zeros 2 ++ word64 w.fold ++
  word64 w.tcause ++ word32 w.nstat ++ zeros 92 ++ (lanes32.flatMap fun l => word64 (w.pcAt l) ++ word64 (w.meetAt l)) ++
  ((List.range 16).flatMap fun i => logBytes (spFind w.log i))

/-- The thread-register rows of a wave (02 R52). -/
def Wave.registerRows (w : Wave) (budget : Nat) : List Byte :=
  (List.range ((budget + 3) / 4)).flatMap fun r => (List.range 16).flatMap fun p => (List.range 4).flatMap fun n =>
    word32 (w.vget (4 * r + n) (2 * p)) ++ word32 (w.vget (4 * r + n) (2 * p + 1))

/-- Rows that a block holds: its reservation and its extents. -/
def Block.rowCount (b : Block) : Nat := b.rowsHeld

/-- A wave waits in an instruction that has issued: its context is resumed by completing the wait (21 R363, R366). -/
def Wave.waits (w : Wave) : Bool :=
  match w.wait with
  | some wt => wt.issued
  | none => false

/-- The extension row of a wave (21 R366). -/
def Wave.extension (w : Wave) : List Byte :=
  let next := w.clause.next + if w.waits then 1 else 0
  let valid := (List.range 3).foldl (fun n e =>
    if w.trivSet.any fun t => t.1 % 3 == e && decide (t.1 < next) && decide (next ≤ t.1 + 2) then n + 2 ^ e else n) 0
  (lanes32.flatMap fun l => (List.range 3).flatMap fun e => word32 (w.trivetAt e l)) ++ word64 w.clause.header ++
  bytesOfNat 1 next ++ bytesOfNat 1 (if w.waits then 1 else 0) ++ bytesOfNat 1 valid ++ bytesOfNat 1 (if w.demoted then 1 else 0) ++
  zeros 116

/-- The launch field of a header (21 R365). -/
def Launch.name (l : Launch) : Nat := l.entry % 4096 + (if l.host then 0 else l.die * 4096 + 32768) + l.gen * 65536

/-- The home placement of a header. -/
def Block.home (b : Block) : Nat :=
  (b.pinDie.getD (dieOf b.core)) + (if b.pinDie.isSome then 8 else 0) + (match b.pinCore with
    | none => 0
    | some c => 16 + c % 512 * 32)

/-- Cycles left of the slice (21 R365). -/
def Block.sliceLeft (b : Block) (l : Launch) (clock : Nat) : Nat := l.record.slice - b.sliceCount clock

/-- Dispatcher cycles left to the deadline; all ones without one. -/
def State.deadlineLeft (s : State) (b : Block) : Nat :=
  match b.deadline with
  | none => 0xFFFFFFFF
  | some d => min (d - s.dclk) 0xFFFFFFFE

/-- The header row without its check (21 R365). -/
def State.headerBytes (s : State) (b : Block) (l : Launch) : List Byte :=
  bytesOfNat 4 0x31585443 ++ bytesOfNat 2 1 ++ bytesOfNat 1 b.nwaves ++ bytesOfNat 1 b.extents.length ++ bytesOfNat 4 b.rowCount ++
  bytesOfNat 4 l.name ++ bytesOfNat 4 b.linearValue ++ bytesOfNat 4 b.retired ++ bytesOfNat 4 (b.sliceLeft l s.clock) ++
  bytesOfNat 4 (s.deadlineLeft b) ++ bytesOfNat 1 l.tenant ++ bytesOfNat 1 l.asid ++
  bytesOfNat 1 ((if l.priv then 1 else 0) + if l.record.idempotent then 2 else 0) ++ bytesOfNat 1 b.prio ++ bytesOfNat 2 b.home ++
  zeros 58 ++ ((List.range 16).flatMap fun i => word64 (b.events.getD i (BitVec.allOnes 64))) ++ zeros 224

/-- Everything after the header row: the common area as its banks hold it (02 R60). -/
def State.contextBody (s : State) (b : Block) : List Byte :=
  (b.waves.flatMap fun e => e.2.extension) ++ s.blockFrame b ++
  (b.waves.flatMap fun e => e.2.frame ++ e.2.registerRows b.budget) ++
  ((List.range b.commonLen).map fun i => spGet 0 b.common (unbanked b.segs i)) ++ ((List.range b.tileLen).map fun i => spGet 0 b.tile i)

/-- The context of a block with its check. -/
def State.contextBytes (s : State) (b : Block) (l : Launch) : List Byte :=
  let h := s.headerBytes b l
  let body := s.contextBody b
  h ++ sha3_512 (h ++ body) ++ body

/-- Bytes of the context of a block (21 R364). -/
def Block.contextSize (b : Block) : Nat := 512 * (1 + b.nwaves + b.rowCount)

/-! ### CONTEXT_WRITE (21 R363, R367) -/

/-- The lowest context slot of a die that holds nothing. -/
def State.contextSlot (s : State) (die : Nat) : Option Nat :=
  (List.range (s.dieR die 0x231).toNat).find? fun i => !s.saved.any fun c => c.die == die && c.slot == some i

/-- Where a context slot of a die lies (19 R327). -/
def State.contextArea (s : State) (die i : Nat) : Nat := (s.dieR die 0x230).toNat + 2097152 * i

/-- The block as it is kept: its tags change, nothing of it is reserved or pending, its waves stand outside the core. -/
def Block.asSaved (b : Block) : Block :=
  { b with gen := b.gen + 1, stopping := none, saving := false, saveTo := [], draining := none, sliceFrom := none, demand := []
           waves := b.waves.map fun e => (e.1, { e.2 with
             wait := if e.2.waits then e.2.wait else none, inflight := [], since := none, yielding := false })
           nodes := b.nodes.map fun e => (e.1, { e.2 with lock := none, pages := [], buf := [] }) }

/-- CTXSV goes on, in a wave of any block, also where it stands saved behind a handler (08 R421). -/
def State.markWritten (s : State) (wt : Wait) (bytes : Nat) : State :=
  let next := fun (x : Option Wait) => if x = some wt then some (.written bytes) else x
  let mark := fun (w : Wave) => { w with wait := next w.wait, saved := w.saved.map fun v => { v with wait := next v.wait } }
  let all := fun (b : Block) => { b with waves := b.waves.map fun w => (w.1, mark w.2) }
  { s with blocks := s.blocks.map fun e => (e.1, all e.2), saved := s.saved.map fun c => { c with block := all c.block } }

/-- The save is complete: the block's locks are released, the context is written for each that asked, the block leaves its
rows, and CTXSV goes on. -/
def State.finishSave (s : State) (b : Block) (l : Launch) (slot : Option Nat) : State :=
  let die := dieOf b.core
  let bs := s.contextBytes b l
  let s := b.waves.foldl (fun s e => s.dropForce e.2) s
  let s := (b.nodes.filterMap fun e => e.2.lock).foldl State.unlock s
  let s := s.bumpSlot b.core b.slot
  let s := s.markWritten (.context b.core b.slot b.uid) b.contextSize
  let b := (s.block? ⟨b.core, b.slot, 0⟩).getD b
  let at_ := (match slot with
    | some i => [s.contextArea die i]
    | none => b.saveTo)
  let s := at_.foldl (fun (s : State) a => s.writeBytes a bs) s
  let s := if slot.isSome then s.countDie die 0x232 1 else s
  let kept : SavedSlot := ⟨die, slot, at_.headD 0, b.asSaved, 0, s.clock⟩
  let s := { s with
    saved := s.saved ++ [kept], blocks := spDel s.blocks (blockKey b.core b.slot)
    running := s.running.filter fun r => wkey r != blockKey b.core b.slot }
  s.coreEmptied b.core

/-! ### What a save cannot wait for (21 R363, 04 R120) -/

/-- An entry that has not been sent waits for an older one which awaits its re-issue in the restored block. -/
def State.faultHeld (s : State) (l : Launch) (b : Block) (w : Wave) (e : LogEntry) : Bool :=
  let old := { w with log := w.log.filter fun x => x.2.state == 2 && decide (x.2.seq < e.seq) }
  e.state == 1 && w.reissue.isEmpty && !old.log.isEmpty && !w.handler &&
  (if e.isFrond then e.stage == 0 && (old.olderFrond e || s.publishHeld b old e.seq)
  else match e.op.bind (spFind s.ops) with
    | some o => !o.begun && o.reissued && (s.engineHeld b old o.id e.seq || (o.kind == .ald && s.orderHeld l b old e) ||
        (e.sealNo.isSome && !s.performed b old e.seq))
    | none => e.stage == 0 && (s.orderHeld l b old e || (e.sealNo.isSome && !s.performedAt b old e.seq (s.releaseScope b e))))

/-- Such an entry is recorded as one that awaits its re-issue, without a cause, and its operation is given up: the restored block
issues it again after the older one (19 R338; DEDUCED, log 54). -/
def State.parkEntry (s : State) (id : WaveId) (i : Nat) (e : LogEntry) : State :=
  let s := (match e.op.bind (spFind s.ops) with
    | none => s
    | some o =>
      let s := (s.modBlock id fun b => (b.markUnits o.rdSpace o.rd false).markUnits o.wrSpace o.wr false).unlock o.id
      if o.kind.isColl then s.modOp o.id fun o => { o with faulted := true, rd := [] } else { s with ops := spDel s.ops o.id })
  s.modWave id fun w => { (w.setPend e.dests false) with
    log := spMod w.log i fun e => { e with state := 2, stage := 3, op := if 0x2A0 ≤ e.opcode then e.op else none } }

/-- Every entry of a block that only a re-issue of another can let go. -/
def State.parkHeld (s : State) (b : Block) (l : Launch) : State :=
  b.waves.foldl (fun s w => w.2.log.foldl (fun s e =>
    match s.block? (b.id w.1), spFind (s.wave (b.id w.1)).log e.1 with
    | some b, some x => if s.faultHeld l b (s.wave (b.id w.1)) x then s.parkEntry (b.id w.1) e.1 x else s
    | _, _ => s) s) s

/-- In a save an AMSEND that waits at a full destination is sent as soon as that takes it (21 R363, 07 R210). -/
def State.sendHeld (s : State) (core slot : Nat) : State :=
  match s.block? ⟨core, slot, 0⟩ with
  | none => s
  | some b =>
    if !b.saving || b.inHandler then s
    else b.waves.foldl (fun s e => match e.2.wait with
      | some (.messages dest m) =>
        if s.waitDone (b.id e.1) b e.2 (.messages dest m) then
          (s.modWave (b.id e.1) fun w => { w with wait := none }).sendMessage dest m
        else s
      | _ => s) s

/-- CONTEXT_WRITE: once its operations have ended, its pending nodes with a memory source are forced in full, and then the
context is written, where no scan holds its lines (21 R363, 11 R293). -/
def State.contextWrite (s : State) (core slot : Nat) : State :=
  let s := s.sendHeld core slot
  match s.block? ⟨core, slot, 0⟩ with
  | none => s
  | some b => match s.launchOf b with
    | none => s
    | some l =>
      let loads := b.nodes.filterMap fun e => if e.2.op = 0x201 ∧ e.2.state = 1 then some e.1 else none
      if !b.saving || b.inHandler || !b.demand.isEmpty then s
      else if !s.opsEnded b then s.parkHeld b l
      else if !loads.isEmpty then s.modBlock ⟨core, slot, 0⟩ fun b => { b with demand := b.fullDemand loads }
      else if !b.saveTo.isEmpty then if b.saveTo.any fun a => s.heldIn a b.contextSize then s else s.finishSave b l none
      else match s.contextSlot (dieOf core) with
        | none => s
        | some i => if s.heldIn (s.contextArea (dieOf core) i) b.contextSize then s else s.finishSave b l (some i)

def execContextWrite (core slot : Nat) (s : State) : Host.Outcome State Fault Refusal := .next (s.contextWrite core slot)

/-! ### Reading a context (21 R368) -/

def getNat (bs : List Byte) (off n : Nat) : Nat := natOfBytes ((bs.drop off).take n)
def get64 (bs : List Byte) (off : Nat) : W64 := BitVec.ofNat 64 (getNat bs off 8)
def get32 (bs : List Byte) (off : Nat) : W32 := BitVec.ofNat 32 (getNat bs off 4)

/-- Whether bytes are all zero. -/
def zeroAt (bs : List Byte) (off n : Nat) : Bool := ((bs.drop off).take n).all (· == 0)

/-- The launch that a header names: of a kept block its own, if the names agree. -/
def State.launchNamed (s : State) (name : Nat) (kept : Option SavedSlot) : Option (Nat × Launch) :=
  let own := kept.bind fun k => (s.launch? k.block.launch).map fun l => (k.block.launch, l)
  match own with
  | some (n, l) => if l.name = name then some (n, l) else none
  | none => s.launches.find? fun e => e.2.name == name && !e.2.complete && !(e.2.isTail && !e.2.started)

/-- The saved block whose context stands in some bytes, in a dispatcher's slot or saved by CTXSV: the one of its launch and
index (DESIGN CHOICE, log 38). -/
def State.keptFor (s : State) (bs : List Byte) : Option SavedSlot :=
  s.saved.find? fun c => c.block.linearValue == getNat bs 0x10 4 &&
    ((s.launch? c.block.launch).map Launch.name) == some (getNat bs 0xC 4)

/-- The number of bytes that a header's counts give; none for counts beyond a core. -/
def contextLength (head : List Byte) : Option Nat :=
  let w := getNat head 6 1
  let r := getNat head 8 4
  if w = 0 ∨ 32 < w ∨ 2016 < r then none else some (512 * (1 + w + r))

/-- Reserved fields of the header and the extension rows. -/
def reservedClear (bs : List Byte) (waves : Nat) : Bool :=
  getNat bs 0 4 == 0x31585443 && getNat bs 4 2 == 1 && zeroAt bs 0xF 1 && decide (getNat bs 0x20 1 < 16) &&
  decide (getNat bs 0x22 1 < 4) && zeroAt bs 0x26 58 && zeroAt bs 0xE0 224 &&
  (List.range waves).all fun w => zeroAt bs (512 * (1 + w) + 0x18C) 116

/-- The check of a context. -/
def checkHolds (bs : List Byte) : Bool :=
  (bs.drop 0x1C0).take 64 == sha3_512 (bs.take 0x1C0 ++ bs.drop 0x200)

/-- The rows of the tile extents, from their table. -/
def extentRows (frame : List Byte) (n : Nat) : List Nat := (List.range n).map fun i => getNat frame (0x340 + 8 * i) 4

/-- The counts agree with the rows field: waves and rows as the launch, or the kept block, has them. -/
def countsAgree (bs : List Byte) (l : Launch) (kept : Option SavedSlot) : Bool :=
  let w := getNat bs 6 1
  let n := getNat bs 7 1
  let frame := bs.drop (512 * (1 + w))
  let ex := extentRows frame n
  let msg := (kept.map fun k => k.block.sender.isSome).getD false
  let budget := if msg then (kept.map fun k => k.block.budget).getD 1 else l.record.budget
  let common := if msg then 0 else l.record.common
  w == (if msg then 1 else l.record.waves) && decide (1 ≤ n) && decide (n ≤ 4) &&
  getNat bs 8 4 == rowsFor w budget common 0 + ex.foldl (· + ·) 0

/-- The bytes at an address, if no unit is poisoned. -/
def State.cleanBytes (s : State) (pa n : Nat) : Option (List Byte) :=
  if (s.poisonIn pa n).isSome then none else some (s.readBytes pa n)

/-- A context that is accepted: its bytes, its launch and what was kept of the block. -/
structure Accepted where
  bytes  : List Byte
  launch : Nat
  l      : Launch
  kept   : Option SavedSlot
  deriving DecidableEq, Repr

/-- What CTXLD and the dispatcher's restore accept (21 R368). -/
def State.acceptContext (s : State) (pa : Nat) (slot : Option SavedSlot) : Option Accepted :=
  match s.cleanBytes pa 512 with
  | none => none
  | some head => match contextLength head with
    | none => none
    | some n => match s.cleanBytes pa n with
      | none => none
      | some bs =>
        let kept := match slot with
          | some k => some k
          | none => s.keptFor bs
        match s.launchNamed (getNat bs 0xC 4) kept with
        | none => none
        | some (ln, l) =>
          if reservedClear bs (getNat bs 6 1) && countsAgree bs l kept && checkHolds bs then some ⟨bs, ln, l, kept⟩ else none

/-- A tile control register with its bitmap. -/
def tileFrom (frame : List Byte) (n : Nat) : Tile :=
  let o := 32 * n
  let p := getNat frame (o + 24) 1
  ⟨get64 frame o, get64 frame (o + 8), if 128 ≤ p then some (p % 64) else none, get64 frame (o + 16), get64 frame (0x380 + 8 * n)⟩

def barrierFrom (frame : List Byte) (n : Nat) : Barrier :=
  let o := 0x200 + 16 * n
  ⟨BitVec.ofNat 16 (getNat frame o 2), BitVec.ofNat 16 (getNat frame (o + 2) 2), get32 frame (o + 4), get32 frame (o + 8),
    getNat frame (o + 12) 1 % 2 == 1⟩

def nodeFrom (frame : List Byte) (q : Nat) : Option Node :=
  let o := 0x400 + 64 * q
  let place := getNat frame (o + 8) 2
  let op := getNat frame (o + 10) 2
  let d := getNat frame (o + 12) 1
  let st := getNat frame (o + 13) 1
  if st = 0 then none
  else some {
    origin := get64 frame o, index := place % 16, wave := place / 16 % 32, op := op % 1024, modifier := BitVec.ofNat 6 (op / 1024)
    dest := d % 16, selfRead := d / 16 % 2 == 1, state := st, cause := getNat frame (o + 14) 1
    a := BitVec.ofNat 10 (getNat frame (o + 0x10) 2), b := BitVec.ofNat 10 (getNat frame (o + 0x12) 2), prm := get64 frame (o + 0x18)
    memAddr := get64 frame (o + 0x20), memPitch := get64 frame (o + 0x28), seq := getNat frame (o + 0x30) 8
    faultAddr := get64 frame (o + 0x38), pages := [], lock := none }

/-- A sparse table from its entries. -/
def spFrom {α : Type} [DecidableEq α] (d : α) (n : Nat) (f : Nat → α) : Sparse α :=
  (List.range n).filterMap fun i => if f i = d then none else some (i, f i)

/-- What the bytes of an entry show. -/
def entryShown (frame : List Byte) (i : Nat) (e : LogEntry) : LogEntry :=
  let o := 0xC00 + 64 * i
  { e with
    word := get64 frame o, addr := get64 frame (o + 8), aVal := get64 frame (o + 0x10), bVal := get64 frame (o + 0x18)
    lanes := get32 frame (o + 0x20), state := getNat frame (o + 0x24) 1, cause := getNat frame (o + 0x25) 1
    faultAddr := get64 frame (o + 0x28), seq := getNat frame (o + 0x30) 8 }

/-- Words per lane that an entry's access lands. -/
def LogEntry.landWords (e : LogEntry) : Nat :=
  let m := e.fields.m
  if e.opcode = 0x100 then regsOf (accessBytes m) else if e.opcode = 0x106 then regsOf (aldBytes e.fields)
  else if e.opcode = 0x104 then (if atomWide m then 2 else 1) else if e.opcode = 0x112 then 1 else 0

/-- An entry of a block of which the device has kept nothing, from what its bytes show: registers and destinations by the word, the
addresses by the values it holds, the descriptor as it stands (21 R368; DESIGN CHOICE, log 38). -/
def Block.entryAnew (b : Block) (w : Wave) (shown : LogEntry) : LogEntry :=
  let f := shown.fields
  let field := fun (x : BitVec 10) => (lanesOf shown.lanes).filterMap fun l => (w.eff x l).map fun n => (l, n)
  let dData := if shown.opcode = 0x101 ∨ shown.isAtomic = true ∨ shown.opcode = 0x113 then shown.dataCount else 0
  let words := fun (x : BitVec 10) (n : Nat) => if n = 0 then [] else (field x).flatMap fun r => rangeFrom r.2 n
  let off := shown.bVal.extractLsb' 0 32
  let d := b.commonBytes ((shown.aVal.extractLsb' 0 32).toNat) 64
  let direct := shown.opcode = 0x107 ∨ shown.opcode = 0x108 ∨ 0x2A0 ≤ shown.opcode
  { shown with
    regs := (words f.b 1 ++ words f.d dData ++ (if shown.isFrond then words f.a 2 else [])).eraseDups
    dests := (field f.d).flatMap fun r => (List.range shown.landWords).map fun k => (r.2 + k) * 32 + r.1
    addrs := if direct ∨ shown.isFrond = true then [] else (lanesOf shown.lanes).map fun l =>
      (l, shown.aVal + (if shown.signed then off.signExtend 64 else off.zeroExtend 64))
    data := if shown.isFrond then (lanesOf shown.lanes).flatMap fun l => [(4 * l, shown.aVal), (4 * l + 1, shown.bVal)] else []
    dRegs := if dData = 0 then [] else field f.d, bRegs := field f.b
    desc := if direct then d else [], list := if shown.opcode = 0x108 then b.gathList d else [] }

def noEntry : LogEntry :=
  { word := 0, addr := 0, index := 0, aVal := 0, bVal := 0, lanes := 0, state := 0, cause := 0xFF, faultAddr := 0, seq := 0, stage := 3
    regs := [], causes := 0, faultLanes := 0, done := 0, dests := [], addrs := [], data := [], dRegs := [], bRegs := [], old := []
    pages := [], sealNo := none, op := none, gen := 0, phase := 0 }

/-- An entry of the log: the device's own part comes from the kept entry, or is formed anew. -/
def Block.logFrom (b : Block) (w : Wave) (frame : List Byte) (old : Sparse LogEntry) : Sparse LogEntry :=
  (List.range 16).filterMap fun i =>
    let shown := entryShown frame i ((spFind old i).getD noEntry)
    if shown.state = 0 then none
    else some (i, match spFind old i with
      | some e => if e.word = shown.word ∧ e.seq = shown.seq then { shown with op := if e.state = 2 then e.op else none }
          else b.entryAnew w (entryShown frame i noEntry)
      | none => b.entryAnew w shown)

/-- The record of a fault that a restored wave has still to take, where the device has kept none: that of its oldest faulted entry
(21 R368, 19 R335). -/
def Wave.recordAnew (w : Wave) : Option CauseRec :=
  (minBy (fun e : LogEntry => e.seq) ((w.log.map Prod.snd).filter fun e => e.state == 2 && e.cause != 0xFF)).map fun e =>
    { cause := e.cause, also := causeBit e.cause, pc := e.addr, addr := e.faultAddr, lanes := e.lanes, index := e.index, code := 0
      origin := 0, resume := logResume e.cause, seq := e.seq, log := true }

/-- A wave from its extension row, frame and registers, and the device's own part of it. -/
def Block.waveFrom (b : Block) (ext frame regs : List Byte) (budget : Nat) (kept : Bool) (old : Wave) : Wave :=
  let header := get64 ext 0x180
  let next := getNat ext 0x188 1
  let kind := getNat ext 0x189 1
  let valid := getNat ext 0x18A 1
  let at_ := next - if kind = 1 then 1 else 0
  let w : Wave := { old with
    s := spFrom 0 128 fun n => get64 frame (8 * n)
    x := spFrom 0 256 fun k => get32 frame (0x400 + 32 * (k % 32) + 4 * (k / 32))
    p := spFrom 0 96 fun n => maskOf fun l => ((frame.getD (0x800 + 12 * l + n / 8) 0).getLsbD (n % 8))
    k := spFrom 0 12 fun n => getNat frame (0x980 + n) 1 + (old.kget n - old.flagShown n)
    foldSeq := BitVec.ofNat 16 (getNat frame 0x98C 2), fold := get64 frame 0x990, tcause := get64 frame 0x998
    nstat := get32 frame 0x9A0 &&& 0x3F
    pc := spOf32 0 fun l => get64 frame (0xA00 + 16 * l), meet := spOf32 meetNone fun l => get64 frame (0xA08 + 16 * l)
    v := spFrom 0 (32 * budget) fun k => let n := k / 32; let l := k % 32
      get32 regs (512 * (n / 4) + 8 * (4 * (l / 2) + n % 4) + 4 * (l % 2))
    trivet := spFrom 0 96 fun k => get32 ext (12 * (k % 32) + 4 * (k / 32))
    trivSet := (List.range 2).filterMap fun i =>
      if i < next ∧ valid / 2 ^ ((next - 1 - i) % 3) % 2 = 1 then
        some (next - 1 - i, ((old.trivSet.find? fun t => t.1 == next - 1 - i).map Prod.snd).getD (BitVec.allOnes 32))
      else none
    demoted := getNat ext 0x18B 1 % 2 == 1, pend := [], inflight := [], foldq := []
    wait := if kind = 1 then some (old.wait.getD .restart) else none }
  let w := { w with log := b.logFrom w frame old.log }
  let w := if kept then w else { w with
    record := w.recordAnew, accesses := w.log.foldl (fun n e => max n (e.2.seq + 1)) 0 }
  { w with clause := if header = 0 then ⟨0, 0, 0⟩
      else if old.clause.header = header ∧ old.clause.next = at_ then old.clause
      else ⟨header, w.lowestPc w.runnable - 8 - 8 * BitVec.ofNat 64 at_, at_⟩ }

/-- The block of an accepted context, placed on a core: rows and extents anew, bytes from the context, and what the context
does not show from the kept block; the count of appends goes on above the sequence of every restored node (09 R245, 14 R313;
DESIGN CHOICE, log 38). -/
def State.blockFrom (s : State) (a : Accepted) (core slot : Nat) (place : List (Nat × Nat)) (j : Journal) : Block :=
  let bs := a.bytes
  let nw := getNat bs 6 1
  let nx := getNat bs 7 1
  let old := match a.kept with
    | some k => k.block
    | none => freshBlock a.l a.launch (getNat bs 0x10 4) s.nextUid core slot place j s.clock 0 (none, none) none
  let frame := bs.drop (512 * (1 + nw))
  let per := 8 + (old.budget + 3) / 4
  let rows := rowsFor nw old.budget old.commonLen 0
  let areas := frame.drop (512 * (16 + nw * per))
  let left := getNat bs 0x1C 4
  let home := getNat bs 0x24 2
  let ex := extentRows frame nx
  let segs := ((List.range 8).map fun i => getNat frame (0x300 + 8 * i) 8).filterMap fun v =>
    if v = 0 then none else some (v / 2 ^ 32, v % 2 ^ 32 / 8 * 8, v % 8)
  let common := spFrom 0 old.commonLen fun i => areas.getD (bankedAt segs i) 0
  let nodes := (List.range 64).filterMap fun q => (nodeFrom frame q).map fun n => (q, n)
  { old with
    core := core, slot := slot, place := place, rows := rows + ex.headD 0, journal := j
    extents := (List.range nx).map fun i => (rows + (ex.take i).foldl (· + ·) 0, ex.getD i 0)
    tileLen := 512 * ex.foldl (· + ·) 0
    waves := (List.range nw).map fun w =>
      (w, { old with common := common }.waveFrom ((bs.drop (512 * (1 + w))).take 512) (frame.drop (512 * (16 + w * per))) (frame.drop (512 * (16 + w * per + 8)))
        old.budget a.kept.isSome ((spFind old.waves w).getD {}))
    common := common
    tile := spFrom 0 (512 * ex.foldl (· + ·) 0) fun i => areas.getD (old.commonLen + i) 0
    segs := segs
    tiles := spFrom noTile 16 (tileFrom frame), nodes := nodes
    appends := nodes.foldl (fun (n : Nat) e => max n (e.2.seq + 1)) old.appends
    bars := spFrom noBarrier 16 (barrierFrom frame)
    events := ((List.range 16).map fun i => get64 bs (0x60 + 8 * i)).filter (· != BitVec.allOnes 64)
    gen := old.gen + 1, retired := getNat bs 0x14 4
    sliceUsed := a.l.record.slice - getNat bs 0x18 4, sliceFrom := none, offered := none
    deadline := if left = 0xFFFFFFFF then none else some (s.dclk + left)
    prio := getNat bs 0x23 1, placed := s.clock
    pinDie := if home / 8 % 2 = 1 then some (home % 8) else none
    pinCore := if home / 16 % 2 = 1 then some (home % 8 * 512 + home / 32) else none }

/-- The room that an accepted context needs. -/
def Accepted.need (a : Accepted) : Need := ⟨getNat a.bytes 8 4, getNat a.bytes 6 1⟩

/-- The lowest free journal of a die into which lines may be copied: no scan holds a line of its pools (11 R293; DESIGN CHOICE,
log 38). -/
def State.quietJournal (s : State) (die : Nat) : Option Nat :=
  (List.range (s.journalCount die)).find? fun n => !decide ((die, n) ∈ s.journals) && !s.poolHeld ⟨n, die, 0, [], []⟩

/-- The block may be placed on the core: room, the tenant's partition, its pins, and a journal if it moves to another die. -/
def State.restoreRoom (s : State) (a : Accepted) (core : Nat) : Bool :=
  let home := getNat a.bytes 0x24 2
  let own := (a.kept.map fun k => k.block.journal.die == dieOf core).getD false
  s.roomOn core a.need (!own) && (own || a.kept.isNone || (s.quietJournal (dieOf core)).isSome) &&
  s.inPartition a.l.tenant core && (home / 8 % 2 == 0 || dieOf core == home % 8) &&
  (home / 16 % 2 == 0 || core == home % 8 * 512 + home / 32)

/-- A journal as a context shows it, without lines: of those the device must have kept the addresses. It has its number where
that journal is free (21 R368; DESIGN CHOICE, log 38). -/
def State.journalShown (s : State) (bs : List Byte) (die fresh : Nat) : Journal :=
  let frame := bs.drop (512 * (1 + getNat bs 6 1))
  let off := getNat frame 0x1C00 8 - (s.dieR die 0x200).toNat
  let mine := off / 1048576
  let free := decide ((s.dieR die 0x200).toNat ≤ getNat frame 0x1C00 8) && off % 1048576 == 0 && decide (mine < s.journalCount die) &&
    !decide ((die, mine) ∈ s.journals)
  ⟨if free then mine else fresh, die, getNat frame 0x1C10 8 % 2, [],
    (List.range 16384).filter fun i => (frame.getD (0x1400 + i / 8) 0).getLsbD (i % 8)⟩

/-- The journal it has on the core's die: its own, or a free one with its lines copied. -/
def State.journalFor (s : State) (a : Accepted) (core : Nat) : Journal :=
  let die := dieOf core
  let fresh := (s.freeJournal die).getD 0
  match a.kept with
  | none => s.journalShown a.bytes die fresh
  | some k => if k.block.journal.die = die then k.block.journal else { k.block.journal with num := (s.quietJournal die).getD 0, die := die }

/-- The lines and masks of a journal are copied into the places of another (04 R94, 21 R368). -/
def State.copyJournal (s : State) (old new : Journal) : State :=
  old.lines.foldl (fun s l =>
    (s.writeBytes (s.jmask new l.place) (s.readBytes (s.jmask old l.place) 8)).writeBytes (s.jdata new l.place)
      (s.readBytes (s.jdata old l.place) 64)) s

/-- A fault that came during the save is delivered before the wave's first issue (21 R368). -/
def State.deliverHeld (s : State) (id : WaveId) : State :=
  match (s.wave id).record with
  | none => s
  | some r => (s.modWave id fun w => { w with record := none }).raiseLater id r

/-- Place the block of an accepted context on a core that has room. -/
def State.restore (s : State) (a : Accepted) (core : Nat) : State × Nat :=
  match s.freeSlot core with
  | none => (s, 0)
  | some slot =>
    let j := s.journalFor a core
    let b := s.blockFrom a core slot (s.placeRows core (getNat a.bytes 8 4)) j
    let s := (match a.kept with
      | none => { (s.takeJournal j.die j.num) with nextUid := s.nextUid + 1 }
      | some k =>
        let s := { s with saved := s.saved.filter fun c => c.block.uid != k.block.uid }
        if k.block.journal.die = j.die then s
        else ((s.copyJournal k.block.journal j).giveJournal k.block.journal).takeJournal j.die j.num)
    let s := s.addBlock b
    let s := { s with ops := s.ops.map fun o =>
      if o.2.uid = b.uid then (o.1, { o.2 with w := ⟨core, slot, o.2.w.wave⟩ }) else o }
    ((b.waves.map fun e => e.1).foldl (fun s w => s.deliverHeld ⟨core, slot, w⟩) s, slot)

/-! ### CTXSV and CTXLD (19 R326) -/

def ctxSpec (f : F) : Spec := scalarSpec 8 f.ctl (f.m == 0) [f.a, f.b] (some f.d) 0

/-- A context area's address: 4,096-byte aligned and populated (DEDUCED, log 35). -/
def areaOk (v : W64) : Bool := v &&& 0xFFF == 0 && populated v.toNat

/-- The save that CTXSV has asked for goes on: its block stands there and is to be written to the area. -/
def State.saveAsked (s : State) (t : Nat × Nat) (area : Nat) : Option Nat :=
  (s.block? ⟨t.1, t.2, 0⟩).bind fun b => if area ∈ b.saveTo then some b.uid else none

/-- The wait is over: the bytes written, or code 1 where the block has gone. CTXSV of a restored block waits on for the save that
it had asked for (21 R366, R368; DESIGN CHOICE, log 38). -/
def ctxsvResume (f : F) (c : Ctx) (wt : Wait) (s : State) : State :=
  match wt with
  | .restart =>
    let t := blockOperand (c.scalar f.a)
    (match s.saveAsked t (c.scalar f.b).toNat with
    | some uid => s.hang c.id (.context t.1 t.2 uid)
    | none => s.awaited c (ctxSpec f) fun s => s.setS c.id (scalNo f.d) (failCode 1))
  | .written n => s.awaited c (ctxSpec f) fun s => s.setS c.id (scalNo f.d) (BitVec.ofNat 64 n)
  | _ => s.awaited c (ctxSpec f) fun s => s.setS c.id (scalNo f.d) (failCode 1)

/-- CTXSV names the block as KILLB does. -/
def execCtxsv (f : F) (s : State) : Host.Outcome State Fault Refusal :=
  .next (run { ctxSpec f with half := true } (fun c => c.illegalIf (c.scalar f.a >>> 16 != 0 || !areaOk (c.scalar f.b))) (ctxsvResume f) (fun c s =>
    if c.part = 0 then s.quick c (ctxSpec f) fun s => s
    else
      let t := blockOperand (c.scalar f.a)
      match s.block? ⟨t.1, t.2, 0⟩ with
      | none => s.quick c (ctxSpec f) fun s => s.setS c.id (scalNo f.d) (failCode 1)
      | some b =>
        if b.inHandler then s.quick c (ctxSpec f) fun s => s.setS c.id (scalNo f.d) (failCode 2)
        else (s.await c (ctxSpec f) (.context t.1 t.2 b.uid)).modBlock ⟨t.1, t.2, 0⟩ fun b =>
          { b with stopping := some true, saveTo := b.saveTo ++ [(c.scalar f.b).toNat] }) s)

/-- CTXLD places a saved block on a core of its placement: its slot, or a failure. -/
def State.ctxld (s : State) (c : Ctx) (f : F) : State :=
  match s.acceptContext (c.scalar f.a).toNat none with
  | none => s.setS c.id (scalNo f.d) (failCode 2)
  | some a =>
    let core := (c.scalar f.b).toNat
    if !s.restoreRoom a core then s.setS c.id (scalNo f.d) (failCode 1)
    else
      let r := s.restore a core
      r.1.setS c.id (scalNo f.d) (BitVec.ofNat 64 r.2)

def execCtxld (f : F) (s : State) : Host.Outcome State Fault Refusal :=
  .next (scalarAct (ctxSpec f) (fun c => c.illegalIf (!areaOk (c.scalar f.a) || c.scalar f.b >>> 12 != 0))
    (fun c s => s.ctxld c f) s)

end Sys2Proof.Machine
end

