-- ==== Sys2Proof/Machine/Dispatcher.lean ====
section
/-! DEFINITION. A die's dispatcher, job slices, the Ladle and active messages: which candidate takes a core, room made for
it, steals and aging (01 R37, R38, R45, R49, 07 R210, R211, 08 R228-R230, 18 R323, 20 R346-R354, 24 R410). -/

namespace Sys2Proof.Machine

open Sys2Proof

/-! ### Candidates (20 R346) -/

/-- What a candidate is: the next block of a placement group, a saved block, or the head message of a core. -/
inductive CandKind where
  | fresh | saved | message
  deriving DecidableEq, Repr

/-- A candidate of a die: `key` is launch and group, unique number, or core; `cores` is its placement. -/
structure Waiter where
  kind     : CandKind
  key      : Nat
  launch   : Nat
  base     : Nat
  eff      : Nat
  deadline : Nat
  asid     : Nat
  line     : Nat
  arrival  : Nat
  linear   : Nat
  need     : Need
  cores    : List Nat
  deriving DecidableEq, Repr

/-- A base priority raised by aging, never past 125 by it (01 R45). -/
def agedTo (base level : Nat) : Nat := if 125 ≤ base then base else min 125 (base + level)

/-- Levels that the next block of a group, by its place in its launch, has gained on a die, and since when. -/
def Launch.agedOn (l : Launch) (i die : Nat) : Nat × Nat :=
  match l.aged.find? fun a => a.1 == agedKey i die with
  | some a => a.2
  | none => (0, 0)

/-- When the launch arrived at a die. -/
def Launch.arrivedAt (l : Launch) (die : Nat) : Option Nat := (l.arrivals.find? fun a => a.1 == die).map Prod.snd

/-- A launch whose blocks may run. -/
def Launch.runs (l : Launch) : Bool := l.started && l.reject == 0 && !l.complete

/-- A launch whose blocks a die may place. -/
def Launch.live (l : Launch) (die : Nat) : Bool := l.runs && (l.arrivedAt die).isSome

/-- The number of a placement group: launch and position. -/
def groupKey (launch i : Nat) : Nat := launch * 65536 + i

/-- Ranges of a group on a die that are not empty. -/
def Group.onDie (g : Group) (die : Nat) : List (Nat × Nat × Nat × Nat) :=
  g.ranges.filter fun q => q.1 == die && decide (q.2.1 < q.2.2.1)

/-- The range that supplies the next index. -/
def Group.nextRange (g : Group) (die : Nat) : Option (Nat × Nat × Nat × Nat) := minBy (fun q => q.2.1) (g.onDie die)

/-- Cores of a die on which a tenant's blocks may stand. -/
def State.dieCores (s : State) (t die : Nat) : List Nat := (s.partCores t).filter fun c => dieOf c == die

def State.freshCands (s : State) (die : Nat) : List Waiter :=
  s.launches.flatMap fun e =>
    let l := e.2
    if !l.live die then []
    else ((List.range l.groups.length).zip l.groups).filterMap fun g => (g.2.nextRange die).map fun q =>
      { kind := .fresh, key := groupKey e.1 g.1, launch := e.1, base := l.prio, eff := agedTo l.prio (l.agedOn g.1 die).1
        deadline := q.2.2.2, asid := l.asid, line := l.record.entry.toNat / 64, arrival := (l.arrivedAt die).getD 0, linear := q.2.1
        need := l.record.need
        cores := match g.2.pinCore with
          | some c => let c := s.pinnedCore l.tenant c
            if s.inPartition l.tenant c then [c] else []
          | none => s.dieCores l.tenant die }

/-- The address at which a saved block resumes: its first wave's. -/
def Block.resumeAt (b : Block) : Nat :=
  match b.waves with
  | [] => 0
  | e :: _ => (if e.2.inClause then e.2.wordAddr else e.2.lowestPc e.2.runnable).toNat

/-- The accepted context of a dispatcher's slot. -/
def State.slotContext (s : State) (c : SavedSlot) : Option Accepted := s.acceptContext c.addr (some c)

def State.savedCands (s : State) (die : Nat) : List Waiter :=
  (s.saved.filter fun c => c.die == die && c.slot.isSome).filterMap fun c =>
    match s.launch? c.block.launch, s.slotContext c with
    | some l, some a => some {
        kind := .saved, key := c.block.uid, launch := c.block.launch, base := c.block.prio, eff := agedTo c.block.prio c.level
        deadline := c.block.deadline.getD noDeadline, asid := l.asid, line := c.block.resumeAt / 64
        arrival := (l.arrivedAt die).getD c.since, linear := c.block.linearValue, need := a.need
        cores := (s.partCores l.tenant).filter fun k => (match c.block.pinCore, c.block.pinDie with
          | some p, _ => k == p
          | none, some d => dieOf k == d
          | none, none => true) }
    | _, _ => none

def State.messageCands (s : State) (die : Nat) : List Waiter :=
  (s.msgq.filter fun e => dieOf e.1 == die).filterMap fun e => e.2.head?.map fun m =>
    { kind := .message, key := e.1, launch := m.launch, base := m.priority, eff := agedTo m.priority m.level
      deadline := noDeadline, asid := m.asid, line := (m.handler.toNat + 8) / 64, arrival := m.came, linear := 0, need := messageNeed m
      cores := if s.inPartition m.tenant e.1 then [e.1] else [] }

def State.cands (s : State) (die : Nat) : List Waiter := s.freshCands die ++ s.savedCands die ++ s.messageCands die

/-! ### Ranking (20 R347) -/

/-- A candidate has room on a core. -/
def State.candRoom (s : State) (c : Waiter) (core : Nat) : Bool :=
  match c.kind with
  | .saved => match s.saved.find? fun k => k.block.uid == c.key with
    | none => false
    | some k => match s.slotContext k with
      | none => false
      | some a => s.restoreRoom a core
  | _ => s.roomOn core c.need true

/-- Whether a core's instruction cache holds a line. -/
def State.lineHeld (s : State) (core asid line : Nat) : Bool :=
  s.icache.any fun i => i.core == core && i.asid == asid && i.line == line

/-- The chosen core: the lowest with room whose cache holds the line, else the one left with the fewest free wave places; none
of those that are being cleared (20 R348). -/
def State.chosenCore (s : State) (c : Waiter) (barred : List Nat) : Option Nat :=
  let room := c.cores.filter fun k => !decide (k ∈ barred) && s.candRoom c k
  match minBy (fun k => k) (room.filter fun k => s.lineHeld k c.asid c.line) with
  | some k => some k
  | none => minBy (fun k => (s.freeWaves k - c.need.waves) * 8192 + k) room

/-- Lexicographic order. -/
def lexLess : List Nat → List Nat → Bool
  | a :: s, b :: t => decide (a < b) || (a == b && lexLess s t)
  | _, _ => false

/-- The first element by a list of keys. -/
def firstBy {α : Type} (key : α → List Nat) : List α → Option α
  | [] => none
  | x :: t => some (t.foldl (fun m y => if lexLess (key y) (key m) then y else m) x)

/-- Keys 1 and 2. -/
def Waiter.rank2 (c : Waiter) : List Nat := [1000 - c.eff, c.deadline]
/-- Keys 1, 2, 5 and 6. -/
def Waiter.rank4 (c : Waiter) : List Nat := c.rank2 ++ [c.arrival, c.linear]
/-- All keys, on a chosen core. -/
def State.rank6 (s : State) (x : Waiter × Nat) : List Nat :=
  x.1.rank2 ++ [if s.lineHeld x.2 x.1.asid x.1.line then 0 else 1, s.freeWaves x.2 - x.1.need.waves, x.1.arrival, x.1.linear]

/-! ### Placement -/

/-- A placement after its deadline is counted at the root queue (20 R350). -/
def State.countMiss (s : State) (c : Waiter) : State :=
  if s.dclk ≤ c.deadline then s
  else match s.launch? c.launch with
    | none => s
    | some l => { s with queues := spMod s.queues l.queue fun q =>
        if q.stat.extractLsb' 0 32 = BitVec.allOnes 32 then q else { q with stat := q.stat + 1 } }

/-- Take the first index of a range of a group. -/
def takeTicket (q : Nat × Nat × Nat × Nat) (g : Group) : Group :=
  { g with ranges := (g.ranges.map fun r => if r = q then (r.1, r.2.1 + 1, r.2.2) else r).filter fun r => decide (r.2.1 < r.2.2.1) }

/-- The next block of a group starts on a core; the aging of the group on the die starts again. -/
def State.placeFresh (s : State) (die core : Nat) (c : Waiter) : State :=
  let gi := c.key % 65536
  match s.launch? c.launch with
  | none => s
  | some l => match l.groups[gi]? with
    | none => s
    | some g => match g.nextRange die with
      | none => s
      | some q =>
        let dl := if q.2.2.2 = noDeadline then none else some q.2.2.2
        let pins := (g.pinDie, g.pinCore.map (s.pinnedCore l.tenant))
        let s := s.placeNew core l.record.rows fun uid slot place j =>
          freshBlock l c.launch q.2.1 uid core slot place j s.clock gi pins dl
        s.modLaunch c.launch fun l => ({ l with
          groups := modPlacement l.groups gi (takeTicket q)
          aged := l.aged.filter fun a => a.1 != agedKey gi die } : Launch).reage s.clock

/-- AM_SPAWN: the head message becomes its handler wave; the sender's flag counts down (07 R210, R211). -/
def State.spawn (s : State) (core : Nat) : State :=
  match spGet [] s.msgq core with
  | [] => s
  | m :: rest =>
    let s := { s with msgq := spSet [] s.msgq core rest }
    let s := s.modAny m.uid fun b => { b with waves := spMod b.waves m.sender.wave fun w => w.flagDown m.sig }
    s.placeNew core (messageNeed m).rows fun uid slot place j => messageBlock m uid core slot place j s.clock

/-- Place a candidate on a core. -/
def State.place (s : State) (die : Nat) (x : Waiter × Nat) : State :=
  let s := s.countMiss x.1
  match x.1.kind with
  | .fresh => s.placeFresh die x.2 x.1
  | .message => s.spawn x.2
  | .saved => match s.saved.find? fun k => k.block.uid == x.1.key with
    | none => s
    | some k => match s.slotContext k with
      | none => s
      | some a => (s.restore a x.2).1

/-! ### Making room (20 R348) -/

/-- Possible victims on a core, the first to go first: lowest base priority, then most recently placed. -/
def State.victims (s : State) (c : Waiter) (core : Nat) : List Block :=
  sortBy (fun b => b.prio * 2 ^ 64 + (2 ^ 64 - b.placed % 2 ^ 64))
    ((s.coreBlocks core).filter fun b => decide (b.prio < c.eff) && !s.exempt b && b.stopping.isNone && b.draining.isNone)

/-- A candidate takes a journal of a core's die (01 R28, 21 R368). -/
def State.needsJournal (s : State) (c : Waiter) (core : Nat) : Bool :=
  c.kind != .saved || s.saved.all fun k => k.block.uid != c.key || k.block.journal.die != dieOf core

/-- Some of the actions on victims, taken in turn, gives a journal back: each but a save, in which the block keeps it (04 R94). -/
def State.freesJournal (s : State) (bs : List Block) : Bool :=
  (bs.foldl (fun (r : State × Bool) b =>
    let a := r.1.actionFor b 1 false
    (r.1.act b a, r.2 || a != .save)) (s, false)).2

/-- Whether the core would have room without some blocks. -/
def State.roomWithout (s : State) (c : Waiter) (core : Nat) (bs : List Block) : Bool :=
  let t := { s with blocks := s.blocks.filter fun e => !bs.any fun b => b.uid == e.2.uid }
  t.coreTakes core && (t.freeSlot core).isSome && decide (c.need.waves ≤ t.freeWaves core) &&
  decide (c.need.rows ≤ t.freeRows core) && (!s.needsJournal c core || (s.freeJournal (dieOf core)).isSome || s.freesJournal bs)

/-- The fewest victims that suffice on a core. -/
def State.victimsOn (s : State) (c : Waiter) (core : Nat) : Option (List Block) :=
  let vs := s.victims c core
  ((List.range (vs.length + 1)).find? fun n => s.roomWithout c core (vs.take n)).map fun n => vs.take n

/-- Cores that the dies but one are clearing, each for a candidate of its own (20 R348). -/
def State.clearedBy (s : State) (but : Nat) : List Nat := (s.room.filter fun e => e.1 != but).map fun e => e.2.1

/-- The core that a die clears for a candidate, with its victims. -/
def State.clearing (s : State) (die : Nat) (c : Waiter) : Option (Nat × List Block) :=
  minBy (fun x => x.2.length * 8192 + x.1)
    ((c.cores.filter fun k => !decide (k ∈ s.clearedBy die)).filterMap fun k => match s.victimsOn c k with
      | some (b :: bs) => some (k, b :: bs)
      | _ => none)

def kindNo (k : CandKind) : Nat :=
  match k with
  | .fresh => 0
  | .saved => 1
  | .message => 2

/-- Choose victims for a candidate and act on each of them. -/
def State.makeRoom (s : State) (die : Nat) (c : Waiter) : State :=
  match s.clearing die c with
  | none => s
  | some (core, bs) =>
    let s := { s with room := spPut s.room die (core, kindNo c.kind, c.key) }
    bs.foldl (fun s b => match s.block? ⟨b.core, b.slot, 0⟩ with
      | none => s
      | some b => s.act b (s.actionFor b 1 false)) s

/-- Blocks on a core that are leaving it. -/
def State.leaving (s : State) (core : Nat) : Bool := (s.coreBlocks core).any fun b => b.stopping.isSome || b.draining.isSome

/-! ### Blocks of a retired core (24 R410) -/

/-- A block of a retired core that is to be dealt with. -/
def State.evictable (s : State) (b : Block) : Bool :=
  s.isRetired 1 (dieOf b.core) (s.physCore b.core) && !b.killed && b.stopping.isNone &&
  ((s.ops.any fun o => o.2.uid == b.uid && o.2.status == 3) || !s.exempt b) && b.waves.any fun e => e.2.live != 0

/-- Rows 2 to 4, or a kill; a block whose collective is withheld is killed. -/
def State.evict (s : State) (b : Block) : State :=
  if s.ops.any fun o => o.2.uid == b.uid && o.2.status == 3 then s.killBlock b.core b.slot
  else s.act b (match s.actionFor b 2 true with
    | .drain => .kill
    | a => a)

def State.evacuate (s : State) (die : Nat) : State :=
  ((s.blocks.filter fun e => dieOf e.2.core == die && s.evictable e.2).map Prod.snd).foldl (fun s b => s.evict b) s

/-! ### BLOCK_DISPATCH (20 R347, R348) -/

/-- The first candidate by all keys among those that have room on a core other than barred ones. -/
def State.bestCand (s : State) (die : Nat) (barred : List Nat) (skip : Waiter → Bool) : Option (Waiter × Nat) :=
  firstBy s.rank6 ((s.cands die).filterMap fun c =>
    if skip c then none else (s.chosenCore c barred).map fun k => (c, k))

/-- Place the best candidate, if one has room. -/
def State.placeBest (s : State) (die : Nat) (barred : List Nat) (skip : Waiter → Bool) : State :=
  match s.bestCand die barred skip with
  | none => s
  | some x => s.place die x

/-- The candidate first by keys 1, 2, 5 and 6, if no core has room for it. -/
def State.hungry (s : State) (die : Nat) : Option Waiter :=
  match firstBy Waiter.rank4 (s.cands die) with
  | none => none
  | some c => if (s.chosenCore c (s.clearedBy die)).isNone then some c else none

/-- Without a core being cleared: place one candidate; room is made for a first candidate that has none. -/
def State.dispatchFree (s : State) (die : Nat) : State :=
  let h := s.hungry die
  let s := s.placeBest die (s.clearedBy die) fun _ => false
  match h with
  | none => s
  | some c => s.makeRoom die c

/-- One dispatcher cycle of a die. -/
def State.dispatch (s : State) (die : Nat) : State :=
  let s := s.evacuate die
  if !s.dieWorks die then s
  else match spFind s.room die with
    | none => s.dispatchFree die
    | some (core, kind, key) =>
      let mine := fun (c : Waiter) => kindNo c.kind == kind && c.key == key
      match (s.cands die).find? mine with
      | none => ({ s with room := spDel s.room die } : State).dispatchFree die
      | some c =>
        if s.candRoom c core then ({ s with room := spDel s.room die } : State).place die (c, core)
        else if s.leaving core then s.placeBest die (core :: s.clearedBy die) mine
        else ({ s with room := spDel s.room die } : State).dispatchFree die

def execBlockDispatch (die : Nat) (s : State) : Host.Outcome State Fault Refusal := .next (s.dispatch die)

/-! ### TICKET_STEAL (01 R38, 20 R349) -/

/-- The order in which a thief visits the other dies. -/
def victimOrder (die : Nat) : List Nat :=
  match die with
  | 0 => [1, 4, 2, 5, 3, 6, 7]
  | 1 => [2, 5, 0, 3, 6, 4, 7]
  | 2 => [3, 6, 1, 7, 5, 0, 4]
  | 3 => [7, 2, 6, 1, 5, 0, 4]
  | 4 => [0, 5, 1, 6, 2, 7, 3]
  | 5 => [4, 1, 6, 0, 2, 7, 3]
  | 6 => [5, 2, 7, 4, 1, 3, 0]
  | 7 => [6, 3, 5, 2, 4, 1, 0]
  | _ => []

/-- The range that a thief splits: of the first other die in its order that has one; a die that the launch has not reached
holds no counter of it yet. -/
def State.stealFrom (s : State) (l : Launch) (g : Group) (die : Nat) : Option (Nat × Nat × Nat × Nat) :=
  firstSome (((victimOrder die).filter fun d => s.dieWorks d && l.live d).map fun d => g.nextRange d)

/-- The group of a key, with its launch, if the die may steal for it now: every working die has a counter of an unpinned group
(01 R37). -/
def State.stealGroup (s : State) (die key : Nat) : Option (Launch × Group) :=
  match s.launch? (key / 65536) with
  | none => none
  | some l => match l.groups[key % 65536]? with
    | none => none
    | some g =>
      if l.runs && s.dieWorks die && l.record.mode == 0 && g.pinDie.isNone && g.pinCore.isNone && (g.onDie die).isEmpty &&
        (s.dieCores l.tenant die).any fun k => s.roomOn k l.record.need true then some (l, g) else none

/-- A counter does one operation at a time: a take by its own die goes before a split, and splits go in ascending thief number
(20 R349). -/
def State.stealWaits (s : State) (die key : Nat) (q : Nat × Nat × Nat × Nat) : Bool :=
  (match s.bestCand q.1 (s.clearedBy 16) fun _ => false with
  | some x => x.1.kind == .fresh && x.1.key == key
  | none => false) ||
  (List.range die).any fun d => match s.stealGroup d key with
    | some (l, g) => s.stealFrom l g d == some q
    | none => false

/-- The thief takes the upper half of the victim's range; the deadline's remainder travels with it (01 R49). A launch that was
not sent to the thief arrives there with it (DEDUCED, log 78). -/
def State.steal (s : State) (die key : Nat) : State :=
  match s.stealGroup die key with
  | none => s
  | some (l, g) => match s.stealFrom l g die with
    | none => s
    | some q =>
      if s.stealWaits die key q then s
      else
        let n := (q.2.2.1 - q.2.1 + 1) / 2
        let cut := q.2.2.1 - n
        s.modLaunch (key / 65536) fun l => ({ l with
          arrivals := if (l.arrivedAt die).isSome then l.arrivals else l.arrivals ++ [(die, s.clock)]
          groups := modPlacement l.groups (key % 65536) fun g =>
          { g with ranges := ((g.ranges.map fun r => if r = q then (r.1, r.2.1, cut, r.2.2.2) else r).filter fun r =>
              decide (r.2.1 < r.2.2.1)) ++ [(die, cut, q.2.2.1, q.2.2.2)] } } : Launch).reage s.clock

def execTicketSteal (die group : Nat) (s : State) : Host.Outcome State Fault Refusal := .next (s.steal die group)

/-! ### DISPATCH_AGING (01 R45) -/

/-- 2^15 dispatcher cycles in core cycles. -/
def agingCycles : Nat := 65536

/-- A waiter of a base priority gains a level. -/
def agesNow (clock base level since : Nat) : Bool := decide (since + agingCycles ≤ clock) && decide (agedTo base level < 125)

/-- What a launch has waiting on a die gains the level that is due. -/
def State.ageDispatch (s : State) (die n : Nat) : State :=
  match s.launch? n with
  | none => s
  | some l =>
    let age := fun (base : Nat) (a : Nat × Nat × Nat) =>
      if a.1 % 16 = die ∧ agesNow s.clock base a.2.1 a.2.2 = true then (a.1, a.2.1 + 1, a.2.2 + agingCycles) else a
    let s := if l.live die = false then s else s.modLaunch n fun l => { l with aged := l.aged.map (age l.prio) }
    let ageSlot := fun (c : SavedSlot) =>
      if c.die = die ∧ c.slot.isSome = true ∧ c.block.launch = n ∧ agesNow s.clock c.block.prio c.level c.since = true then
        { c with level := c.level + 1, since := c.since + agingCycles }
      else c
    let ageMessage := fun (m : Message) =>
      if m.launch = n ∧ agesNow s.clock m.priority m.level m.since = true then
        { m with level := m.level + 1, since := m.since + agingCycles }
      else m
    { s with
      saved := s.saved.map ageSlot
      msgq := s.msgq.map fun e => if dieOf e.1 ≠ die then e else (e.1, e.2.map ageMessage) }

def execDispatchAging (die launch : Nat) (s : State) : Host.Outcome State Fault Refusal := .next (s.ageDispatch die launch)

/-! ### Job slices (08 R228-R230, 20 R352) -/

/-- SLICE_EXPIRE: BUDGET in every unexited wave that does not wait in YIELD. -/
def State.expireSlice (s : State) (b : Block) : State :=
  let s := s.modBlock ⟨b.core, b.slot, 0⟩ fun b => { b with expired := true }
  (b.waves.filter fun e => e.2.live != 0 && e.2.yieldSig.isNone).foldl (fun s e =>
    let id : WaveId := ⟨b.core, b.slot, e.1⟩
    s.raiseLater id ((s.wave id).nextRec cBUDGET 0)) s

def execSliceExpire (core slot : Nat) (s : State) : Host.Outcome State Fault Refusal :=
  .next (match s.block? ⟨core, slot, 0⟩ with
    | none => s
    | some b => if s.sliceDue b then s.expireSlice b else s)

/-- SLICE_CONTINUE, in the dispatcher cycle after the slice's end: the next slice starts at once, unless a candidate that
ranks above it has no core with room; then the block is a victim. -/
def State.continueSlice (s : State) (b : Block) : State :=
  match b.offered with
  | none => s
  | some t =>
    if s.dclk ≤ t / 2 then s
    else
      let dl := (s.sliceDeadline b t).getD noDeadline
      let beaten := (s.cands (dieOf b.core)).any fun c => lexLess c.rank2 [1000 - b.prio, dl] &&
        (s.chosenCore c (s.clearedBy (dieOf b.core))).isNone
      let s := s.nextSlice b t
      match s.block? ⟨b.core, b.slot, 0⟩ with
      | none => s
      | some b => if beaten && !s.exempt b && b.stopping.isNone && b.draining.isNone then s.act b (s.actionFor b 1 false) else s

def execSliceContinue (core slot : Nat) (s : State) : Host.Outcome State Fault Refusal :=
  .next (match s.block? ⟨core, slot, 0⟩ with
    | none => s
    | some b => s.continueSlice b)

/-! ### The Ladle (18 R322, R323, 20 R353) -/

/-- A block is taken for a move that waits for an event entry. -/
def State.moving (s : State) (b : Block) : Bool := s.stageqs.any fun e => e.2.moves.any fun m => m.1 == b.uid

/-- A resident block that the Ladle of a die may move: in stage 0, not being pre-empted and not in a handler (19 R333, 20 R353). -/
def Block.inPool (b : Block) (die : Nat) : Bool :=
  dieOf b.core == die && b.stage == some 0 && b.stopping.isNone && b.draining.isNone && !b.inHandler

/-- A block in the pool of a die for a tenant, not taken yet. -/
def State.pooled (s : State) (die tenant : Nat) (b : Block) : Bool :=
  b.inPool die && !s.moving b && ((s.launchOf b).map fun l => l.tenant == tenant).getD false

/-- The pool block of lowest core and slot. -/
def State.poolBlock (s : State) (die tenant : Nat) : Option Block :=
  ((s.blocks.find? fun e => s.pooled die tenant e.2).map Prod.snd)

/-- An armed threshold that is met fires once its tenant has a pool block, and is disarmed. -/
def State.fireRing (s : State) (die : Nat) (q : StageQueue) : StageQueue :=
  let can := q.registered && (s.poolBlock die q.tenant).isSome
  let hi := can && q.highArmed && q.high != 0 && decide (q.high ≤ q.occupancy)
  let lo := can && q.lowArmed && q.low != 0 && decide (q.occupancy ≤ q.low)
  { q with
    fired := q.fired ++ (if hi then [true] else []) ++ (if lo then [false] else [])
    highArmed := q.highArmed && !hi, lowArmed := q.lowArmed && !lo }

def State.fireRings (s : State) (die : Nat) : State :=
  { s with stageqs := s.stageqs.map fun e => if e.1 / 65536 = die then (e.1, s.fireRing die e.2) else e }

/-- The stage that a block moves to for a firing. -/
def StageQueue.target (q : StageQueue) (high : Bool) : Nat := if high then q.consumer else q.producer

/-- Firings whose block has left the pool, by a move, a pre-emption or a handler, wait for another one (19 R333, 20 R353). -/
def State.looseRings (s : State) (die : Nat) : State :=
  let there := fun (m : Nat × Bool) => s.blocks.any fun e => e.2.uid == m.1 && e.2.inPool die
  { s with stageqs := s.stageqs.map fun e => if e.1 / 65536 = die then (e.1, { e.2 with
      fired := (e.2.moves.filter fun m => !there m).map Prod.snd ++ e.2.fired, moves := e.2.moves.filter there }) else e }

/-- A firing of a ring takes the pool block of its tenant. -/
def State.takeBlock (s : State) (k : Nat) : State :=
  let q := s.stageq k
  match q.fired, s.poolBlock (k / 65536) q.tenant with
  | high :: rest, some b => s.setStageq k { q with fired := rest, moves := q.moves ++ [(b.uid, high)] }
  | _, _ => s

/-- Fired rings take pool blocks in ascending object index. -/
def State.takeBlocks (s : State) (die : Nat) : State :=
  (s.stageqs.filter fun e => e.1 / 65536 == die).foldl (fun s e => e.2.fired.foldl (fun s _ => s.takeBlock e.1) s) s

/-- Rings fire, and firings take their blocks. -/
def State.readyRings (s : State) (die : Nat) : State := ((s.looseRings die).fireRings die).takeBlocks die

/-- The event record of a move: source 6, the new stage. -/
def moveRecord (stage : Nat) : W64 := BitVec.ofNat 64 (6 * 65536 + stage)

/-- The move that the Ladle makes next: of the ring of lowest index that has taken a block with room for the record. -/
def State.nextMove (s : State) (die : Nat) : Option (Nat × Nat × Bool × Block) :=
  firstSome ((s.stageqs.filter fun e => e.1 / 65536 == die).map fun e => firstSome (e.2.moves.map fun m =>
    match s.blockOfUid m.1 with
    | none => none
    | some b => if b.eventRoom then some (e.1, e.2.target m.2, m.2, b) else none))

/-- LADLE_MOVE: rings fire; one move for 128 dispatcher cycles (20 R353). -/
def State.moveStage (s : State) (die : Nat) : State :=
  let s := s.readyRings die
  if s.dclk < spGet 0 s.ladleNext die then s
  else match s.nextMove die with
    | none => s
    | some (k, stage, high, b) =>
      let s := { s with ladleNext := spSet 0 s.ladleNext die (s.dclk + 128) }
      let s := s.modBlock ⟨b.core, b.slot, 0⟩ fun b => { b with stage := some stage, events := b.events ++ [moveRecord stage] }
      let q := s.stageq k
      s.setStageq k { q with moves := q.moves.erase (b.uid, high) }

def execLadleMove (die : Nat) (s : State) : Host.Outcome State Fault Refusal := .next (s.moveStage die)

/-! ### AM_ARRIVE (20 R354) -/

/-- A message sent earlier is still on its way in the same flow: from a core of the same cluster, to the same die (23 R393, R401). -/
def State.messageBehind (s : State) (core : Nat) (m : Message) : Bool :=
  s.agenda.any fun i => match i with
    | .amArrive c x => x.sender.core / 4 == m.sender.core / 4 && dieOf c == dieOf core && decide (x.since < m.since)
    | _ => false

/-- A message takes the last place of its core's queue, in the order of its flow (23 R401); while the queue is full the message waits
(07 R210). -/
def State.messageArrive (s : State) (core : Nat) (m : Message) : State :=
  let q := spGet [] s.msgq core
  if q.length < 64 ∧ s.messageBehind core m = false then { s with msgq := spSet [] s.msgq core (q ++ [{ m with level := 0, since := s.clock, came := s.clock }]) }
  else s.push (.amArrive core m)

def execAmArrive (core : Nat) (m : Message) (s : State) : Host.Outcome State Fault Refusal := .next (s.messageArrive core m)

end Sys2Proof.Machine
end

