-- ==== Sys2Proof/Machine/Queues.lean ====
section
/-! DEFINITION. Work queues: their registers, doorbells, the acceptance engine, arrival of launches at dies, and writes over
PCIe (20 R340-R345, 04 R101). -/

namespace Sys2Proof.Machine

open Sys2Proof

/-- A queue's registers at reset (20 R340). -/
def noWorkQueue : Queue := ⟨0, 0, 0, 0, 0, 0, 0, 0, false⟩
def State.queue (s : State) (q : Nat) : Queue := spGet noWorkQueue s.queues q
def State.modQueue (s : State) (q : Nat) (f : Queue → Queue) : State :=
  { s with queues := spSet noWorkQueue s.queues q (f (s.queue q)) }

/-! ### Fields (20 R340) -/

def Queue.enabled (q : Queue) : Bool := q.cfg.getLsbD 7
def Queue.ringSize (q : Queue) : Nat := 2 ^ (q.cfg.extractLsb' 8 5).toNat
def Queue.cap (q : Queue) : Nat := (q.cfg.extractLsb' 16 8).toNat
def Queue.owner (q : Queue) : Nat := (q.cfg.extractLsb' 0 6).toNat
def Queue.asid (q : Queue) : Nat := (q.cfg.extractLsb' 40 8).toNat
def Queue.system (q : Queue) : Bool := q.cfg.getLsbD 6
def Queue.fetchError (q : Queue) : Bool := q.stat.getLsbD 42
def Queue.pending (q : Queue) : Bool := q.head != q.tail

/-- A QCFG value that is ignored in full. -/
def qcfgBad (v : W64) : Bool :=
  let size := (v.extractLsb' 8 5).toNat
  v >>> 48 != 0 || v.extractLsb' 36 4 != 0 || v.extractLsb' 13 3 != 0 || decide (size < 4) || decide (16 < size) ||
  decide (125 < (v.extractLsb' 16 8).toNat) || (v.getLsbD 6 && v.extractLsb' 0 6 != 0)

/-- QCFG_WRITE: enabling a queue zeroes its head and tail. -/
def State.writeQcfg (s : State) (q : Nat) (v : W64) : State :=
  if 4096 ≤ q ∨ qcfgBad v = true then s
  else s.modQueue q fun x =>
    if v.getLsbD 7 && !x.enabled then { x with cfg := v, head := 0, tail := 0 } else { x with cfg := v }

def execQcfgWrite (q : Nat) (v : W64) (s : State) : Host.Outcome State Fault Refusal := .next (s.writeQcfg q v)

/-- QSTAT_WRITE: the value is stored, unless it sets a reserved bit. -/
def State.writeQstat (s : State) (q : Nat) (v : W64) : State :=
  if 4096 ≤ q ∨ v >>> 43 ≠ 0 then s else s.modQueue q fun x => { x with stat := v }

def execQstatWrite (q : Nat) (v : W64) (s : State) : Host.Outcome State Fault Refusal := .next (s.writeQstat q v)

/-- A QBASE or QGRP value that is ignored in full: QGRP alone has reserved bits. -/
def qregBad (grp : Bool) (v : W64) : Bool := grp && v >>> 32 != 0

/-- QUEUE_REGISTER_WRITE: QBASE and QGRP take a value; that they are written only while the queue is disabled is a rule for
system software, which the device does not check (DEDUCED, log 40). -/
def State.writeQreg (s : State) (q : Nat) (grp : Bool) (v : W64) : State :=
  if 4096 ≤ q ∨ qregBad grp v = true then s
  else s.modQueue q fun x => if grp then { x with grp := v } else { x with base := v }

def execQueueRegisterWrite (q : Nat) (grp : Bool) (v : W64) (s : State) : Host.Outcome State Fault Refusal :=
  .next (s.writeQreg q grp v)

/-! ### DOORBELL (20 R341) -/

/-- Whether a doorbell is taken. -/
def Queue.takes (x : Queue) (wide : Bool) (v : W64) : Bool :=
  x.enabled && !x.fetchError && decide ((v.extractLsb' 0 32 - x.head).toNat ≤ x.ringSize) && (!wide || v >>> 32 == 0)

/-- A new tail is taken, or overrun is set; a queue that gains a pending record starts at its cap (20 R342). -/
def State.doorbell (s : State) (q : Nat) (wide : Bool) (v : W64) : State :=
  if 4096 ≤ q then s
  else s.modQueue q fun x =>
    if x.takes wide v then
      let y := { x with tail := v.extractLsb' 0 32 }
      if y.pending && !x.pending then { y with prio := x.cap, since := s.clock } else y
    else { x with stat := x.stat ||| (1#64 <<< 41) }

def execDoorbell (q : Nat) (wide : Bool) (v : W64) (s : State) : Host.Outcome State Fault Refusal := .next (s.doorbell q wide v)

/-! ### Places of the registers and doorbells (20 R340, R341) -/

/-- The queue and the register offset that an offset of BAR0 names. -/
def bar0Place (off : Nat) : Option (Nat × Nat) :=
  if 0x100000 ≤ off ∧ off < 0x140000 then some ((off - 0x100000) / 64, off % 64) else none

/-- The step that an 8-byte write of a function to BAR0 is: the physical function alone reaches the queue registers, and
QHEAD, QTAIL and the reserved places take no write. -/
def bar0Write (fn off : Nat) (v : W64) : Option Instr :=
  if fn ≠ 0 then none
  else match bar0Place off with
    | some (q, 0) => some (.qcfgWrite q v)
    | some (q, 0x08) => some (.queueRegisterWrite q false v)
    | some (q, 0x20) => some (.queueRegisterWrite q true v)
    | some (q, 0x28) => some (.qstatWrite q v)
    | _ => none

/-- What the physical function reads in BAR0. -/
def State.bar0Read (s : State) (fn off : Nat) : Option W64 :=
  if fn ≠ 0 then none
  else match bar0Place off with
    | none => none
    | some (q, r) =>
      let x := s.queue q
      match r with
      | 0 => some x.cfg
      | 0x08 => some x.base
      | 0x10 => some (x.head.zeroExtend 64)
      | 0x18 => some (x.tail.zeroExtend 64)
      | 0x20 => some x.grp
      | 0x28 => some x.stat
      | 0x30 => some 0
      | 0x38 => some 0
      | _ => none

/-- The queues of a function, ascending. -/
def State.queuesOf (s : State) (fn : Nat) : List Nat := (List.range 4096).filter fun q => (s.queue q).owner == fn

/-- The step that a write of a function to BAR2 is: the doorbell of the queue whose rank its offset gives. -/
def State.bar2Write (s : State) (fn off : Nat) (wide : Bool) (v : W64) : Option Instr :=
  if off % 4096 ≠ 0 then none else ((s.queuesOf fn)[off / 4096]?).map fun q => .doorbell q wide v

/-! ### The acceptance engine (20 R342-R344) -/

/-- QUEUE_AGING is due. -/
def State.queueAges (s : State) (q : Nat) : Bool :=
  (s.queue q).pending && decide ((s.queue q).prio < 125) && decide ((s.queue q).since + agingCycles ≤ s.clock)

def execQueueAging (q : Nat) (s : State) : Host.Outcome State Fault Refusal :=
  .next (if s.queueAges q then s.modQueue q fun x => { x with prio := x.prio + 1, since := x.since + agingCycles } else s)

/-- A free host launch entry of 4,096. -/
def State.freeHostEntry (s : State) : Option Nat :=
  (List.range 4096).find? fun e => !s.launches.any fun l => l.2.host && l.2.entry == e

/-- A queue that may be read. -/
def Queue.readable (x : Queue) : Bool := x.enabled && x.pending && !x.fetchError

/-- The queue that the engine reads next: the highest queue priority, then the lowest above the last served, wrapping. -/
def State.nextQueue (s : State) : Option Nat :=
  (minBy (fun e => (125 - min 125 e.2.prio) * 8192 + (e.1 + 4095 - s.lastQueue) % 4096) (s.queues.filter fun e => e.2.readable)).map Prod.fst

/-- The engine may read: no read is under way, 64 dispatcher cycles have passed, an entry is free. -/
def State.mayRead (s : State) : Bool :=
  (s.queues.all fun e => !e.2.reading) && decide (s.nextRead ≤ s.clock) && s.freeHostEntry.isSome

/-- QUEUE_RECORD_READ. -/
def State.readRecordNext (s : State) : State :=
  match s.nextQueue with
  | none => s
  | some q =>
    if !s.mayRead then s
    else { (s.modQueue q fun x => { x with reading := true }) with lastQueue := q, nextRead := s.clock + 128 }

def execQueueRecordRead (s : State) : Host.Outcome State Fault Refusal := .next s.readRecordNext

/-- The physical address of a queue's next record: host memory by I/O virtual address, or device memory. -/
def Queue.recordAt (x : Queue) : Nat :=
  let a := (x.base.extractLsb' 0 63).toNat + 256 * (x.head.toNat % x.ringSize)
  if x.base.getLsbD 63 then a else hostBit + a % hostBit

/-- What an accepted launch takes from its queue (20 R343). -/
def State.queueSource (s : State) (q entry : Nat) : Source :=
  let x := s.queue q
  { host := true, die := 8, entry := entry, gen := (spGet 0 s.hostGen entry).toNat
    tenant := ((s.pkgR (0x400 + x.owner)).extractLsb' 8 4).toNat, asid := x.asid, priv := x.system, cap := x.cap, fn := x.owner
    queue := q, group := ((x.grp.extractLsb' 0 16).toNat, (x.grp.extractLsb' 16 16).toNat), parent := none, loc := 0, tail := false }

/-- Accept a record: a valid launch goes to its dies, a rejected one completes at once. -/
def State.acceptHost (s : State) (q : Nat) (r : Record) : State :=
  match s.freeHostEntry with
  | none => s
  | some e =>
    let n := s.nextLaunch
    let s := s.acceptLaunch r (s.queueSource q e)
    match s.launch? n with
    | none => s
    | some l => if l.reject = 0 then s.sendToDies n else s.completeLaunch n

/-- QUEUE_RECORD_ARRIVE: the head advances and the record is accepted or rejected; a failed read sets fetch error, over PCIe
only that of a ring in host memory. -/
def State.recordArrive (s : State) (q : Nat) (pcieError : Bool) : State :=
  let x := s.queue q
  if !x.reading then s
  else
    let pa := x.recordAt
    if (pcieError && !x.base.getLsbD 63) || (s.poisonIn pa 256).isSome then
      s.modQueue q fun x => { x with reading := false, stat := x.stat ||| (1#64 <<< 42) }
    else
      let r := recordOf (wordsOf 32 (s.readBytes pa 256))
      (s.modQueue q fun x => { x with reading := false, head := x.head + 1, prio := x.cap, since := s.clock }).acceptHost q r

def execQueueRecordArrive (q : Nat) (pcieError : Bool) (s : State) : Host.Outcome State Fault Refusal :=
  .next (s.recordArrive q pcieError)

/-- A launch arrives at a die once its fix-up entries stand in memory: until then no block of it starts (20 R345, R351). -/
def State.launchArrives (s : State) (launch die : Nat) : State :=
  if ((s.launch? launch).map s.fixupsHeld).getD false then s.push (.launchArriveDie launch die) else s.arriveAtDie launch die

/-- LAUNCH_ARRIVE_DIE (20 R345). -/
def execLaunchArriveDie (launch die : Nat) (s : State) : Host.Outcome State Fault Refusal := .next (s.launchArrives launch die)

/-! ### Writes over PCIe (04 R101) -/

/-- PCIE_MEMORY_WRITE: stack memory changes at home; a line under a Sieve's hold waits. -/
def State.pcieWrite (s : State) (addr : Nat) (bytes : List Byte) : State :=
  if stackBytes < addr + bytes.length then s
  else s.writeHome addr bytes

def execPcieMemoryWrite (addr : Nat) (bytes : List Byte) (s : State) : Host.Outcome State Fault Refusal :=
  .next (s.pcieWrite addr bytes)

end Sys2Proof.Machine
end

