-- ==== Sys2Proof/Machine/Reliability.lean ====
section
/-! DEFINITION. Error windows, the retirement of units, starts, and attestation (24 R409-R419); the pseudo-channel's queues,
slots, refreshes and retries (11 R294, 23 R403-R406). -/

namespace Sys2Proof.Machine

open Sys2Proof

/-! ### Links of the package (23 R386, R388) -/

/-- The die that a boundary of a die leads to: at a compute die 0 east, 1 west, 2 across the rows, 3 the I/O die; at an I/O
die 0 and 1 its compute dies (PRESUMED, log 41). -/
def neighbour (d dir : Nat) : Option Nat :=
  if d < 8 then
    match dir with
    | 0 => if d % 4 < 3 then some (d + 1) else none
    | 1 => if 0 < d % 4 then some (d - 1) else none
    | 2 => some ((d + 4) % 8)
    | 3 => if d % 4 = 0 then some 8 else if d % 4 = 3 then some 9 else none
    | _ => none
  else
    let c := if d = 8 then 0 else 3
    match dir with
    | 0 => some c
    | 1 => some (c + 4)
    | _ => none

/-- The boundary of the neighbour that leads back. -/
def backDir (d dir : Nat) : Nat :=
  if d < 8 then (match dir with
    | 0 => 1
    | 1 => 0
    | 2 => 2
    | _ => d / 4)
  else 3

/-- The directed link that ends at a die-to-die port, and the ones of Blunik port p into and out of the package. -/
def linkInto (die port : Nat) : Nat := die * 16 + (port - 192)
def bluInto (p : Nat) : Nat := 160 + p
def bluOut (p : Nat) : Nat := 178 + p

/-- The port at the other end of a die-to-die port: its die and number. -/
def farPort (d port : Nat) : Option (Nat × Nat) :=
  let dir := (port - 192) / 4
  (neighbour d dir).map fun e => (e, 192 + 4 * backDir d dir + (port - 192) % 4)

/-- The directed link that carries the opposite direction. -/
def reverseLink (x : Nat) : Nat :=
  if x < 160 then (match farPort (x / 16) (192 + x % 16) with
    | none => x
    | some e => linkInto e.1 e.2)
  else if x < 178 then x + 18 else x - 18

/-- Working ports of a boundary, ascending: neither end is retired (24 R410). -/
def State.workPorts (s : State) (d dir : Nat) : List Nat :=
  match neighbour d dir with
  | none => []
  | some e => ((List.range 4).filter fun i =>
      !s.isRetired 3 d (192 + 4 * dir + i) && !s.isRetired 3 e (192 + 4 * backDir d dir + i)).map fun i => 192 + 4 * dir + i

/-- Dies next to a die over a working link, with their boundaries. -/
def State.reaches (s : State) (d : Nat) : List (Nat × Nat) :=
  (List.range 4).filterMap fun dir => match neighbour d dir with
    | none => none
    | some e => if (s.workPorts d dir).isEmpty then none else some (dir, e)

/-- Hops over working links from each of the ten dies to one, after a number of rounds; 99 where none leads. -/
def State.hops (s : State) (t : Nat) : Nat → List Nat
  | 0 => (List.range 10).map fun d => if d = t then 0 else 99
  | n + 1 =>
    let l := s.hops t n
    (List.range 10).map fun d => (s.reaches d).foldl (fun m e => min m (l.getD e.2 99 + 1)) (l.getD d 99)

/-! ### Retirement (24 R410-R412) -/

/-- A unit is marked retired, and a record of kind 4 is written on die 8 (19 R331, 24 R411). -/
def State.retireMark (s : State) (kind cls die number : Nat) : State :=
  if s.isRetired kind die number then s
  else
    let detail := kind * 2 ^ 60 + cls * 2 ^ 52 + die * 2 ^ 12 + number
    ({ s with retiredU := s.retiredU ++ [unitCode kind die number] }).interrupt 8 4 0xFF 0 0xFF (BitVec.ofNat 64 detail)

/-- A compute die is retired: its cores are absent and its stacks unreachable. -/
def State.retireDie (s : State) (d : Nat) : State :=
  (List.range 512).foldl (fun (s : State) i => s.setDieR d (0x800 + i) (s.dieR d (0x800 + i) &&& 0x3FF)) (s.retireMark 5 0 d 0)

/-- A compute die is retired when all its links are. -/
def State.checkDie (s : State) (d : Nat) : State :=
  if d < 8 ∧ s.isRetired 5 d 0 = false ∧ (s.reaches d).isEmpty then s.retireDie d else s

/-- A die-to-die port is retired, and a die that it leaves without a link. -/
def State.retirePort (s : State) (cls die port : Nat) : State :=
  let s := (s.retireMark 3 cls die port).checkDie die
  match farPort die port with
  | none => s
  | some e => s.checkDie e.1

/-- A core is retired: blocks with a withheld collective are killed, the others go by BLOCK_DISPATCH, and an empty core is
remapped at once. -/
def State.retireCore (s : State) (cls die phys : Nat) : State :=
  let s := s.retireMark 1 cls die phys
  match (List.range 512).find? fun i => s.dieR die (0x800 + i) == 0x8000 ||| BitVec.ofNat 64 phys with
  | none => s
  | some i =>
    let core := die * 512 + i
    let s := (s.coreBlocks core).foldl (fun (s : State) b =>
      if s.ops.any fun o => o.2.uid == b.uid && o.2.status == 3 then s.killBlock core b.slot else s) s
    s.coreEmptied core

/-- The unit of an error class is retired; a Blunik port goes by its number alone (24 R410, R411). -/
def State.retireUnit (s : State) (cls die number : Nat) : State :=
  if cls ≤ 2 then s.retireCore cls die number
  else if cls ≤ 5 then s.retireMark 2 cls die number
  else if cls ≤ 7 then s.retirePort cls die number
  else s.retireMark 4 cls 0 number

/-! ### Error windows (24 R409) -/

/-- Threshold of an error class per window. -/
def threshold (cls : Nat) : Nat :=
  match cls with
  | 1 => 16
  | 3 => 4096
  | 4 => 4
  | 6 => 65536
  | 8 => 65536
  | _ => 1

/-- The window that a die's dispatcher counter is in: each die counts by its own (00 R8). -/
def State.windowNow (s : State) (die : Nat) : Nat := s.dieClock die / 2 ^ 32

def errorKey (cls die number : Nat) : Nat := (cls * 16 + die) * 4096 + number

/-- A die's counts start at zero in a new window. -/
def State.expireWindow (s : State) (die : Nat) : State :=
  if spGet 0 s.windows die = s.windowNow die then s
  else { s with
    errors := s.errors.filter fun e => e.1 / 4096 % 16 != die
    windows := spSet 0 s.windows die (s.windowNow die) }

/-- Count an error of a class at a unit; at its threshold the unit is retired. -/
def State.countError (s : State) (cls die number : Nat) : State :=
  let s := s.expireWindow die
  let n := spGet 0 s.errors (errorKey cls die number) + 1
  let s := { s with errors := spSet 0 s.errors (errorKey cls die number) n }
  if n = threshold cls then s.retireUnit cls die number else s

def execErrorWindowExpire (die : Nat) (s : State) : Host.Outcome State Fault Refusal := .next (s.expireWindow die)

/-- Register-space ECC errors of a core are met (24 R409): each is counted, and an uncorrectable one kills the block that
owns its word. -/
def State.registerErrors (s : State) (core : Nat) : State :=
  let mine := s.hwErrors.filter fun e => decide (e.cls ≤ 2) && e.core == core
  mine.foldl (fun (s : State) e =>
    let s := if e.cls = 2 then (match e.uid.bind s.blockOfUid with
      | none => s
      | some b => if b.core = core then s.killBlock core b.slot else s) else s
    s.countError e.cls (dieOf core) (s.physCore core))
    { s with hwErrors := s.hwErrors.filter fun e => !(decide (e.cls ≤ 2) && e.core == core) }

/-- Add to a field of PCERR of a pseudo-channel, or of LKERR or BPERR of the port that a directed link ends at
(23 R407, R408). -/
def State.countPc (s : State) (pc lo : Nat) : State :=
  s.setDieR (pc / 128) (0x380 + pc % 128) (satField (s.dieR (pc / 128) (0x380 + pc % 128)) lo)

def State.countLink (s : State) (x lo : Nat) : State :=
  if x < 160 then s.setDieR (x / 16) (0x320 + x % 16) (satField (s.dieR (x / 16) (0x320 + x % 16)) lo)
  else
    let p := (x - 160) % 18
    s.setPkgR (0x4A0 + p) (satField (s.pkgR (0x4A0 + p)) lo)

/-- An error class at the port that a directed link ends at: `d2d` for a die-to-die port, two more for a Blunik port. -/
def State.countLinkError (s : State) (x d2d : Nat) : State :=
  if x < 160 then s.countError d2d (x / 16) (192 + x % 16)
  else s.countError (d2d + 2) (if (x - 160) % 18 < 9 then 8 else 9) ((x - 160) % 18)

/-- An array ECC error. -/
def HwError.array (e : HwError) : Bool := e.cls == 3 || e.cls == 4

/-- Array ECC errors are met: each is counted at its pseudo-channel, and an uncorrectable one poisons its unit (04 R420,
24 R409). -/
def State.meetErrors (s : State) (p : HwError → Bool) : State :=
  (s.hwErrors.filter fun e => e.array && p e).foldl (fun (s : State) e =>
    let pc := s.pcOf e.addr
    let s := if e.cls = 4 then (s.addPoison (e.addr / 8 * 8)).countPc pc 48 else s.countPc pc 32
    s.countError e.cls (pc / 128) pc)
    { s with hwErrors := s.hwErrors.filter fun e => !(e.array && p e) }

/-- Array ECC errors of a pseudo-channel are met. -/
def State.arrayErrors (s : State) (pc : Nat) : State := s.meetErrors fun e => s.pcOf e.addr == pc

/-! ### Pseudo-channels (11 R294, 23 R403-R405) -/

/-- The channel counter: 2.0 GHz beside the core's 3.6 GHz (01 R8). -/
def State.cclk (s : State) : Nat := s.clock * 5 / 9

/-! ### Starts (24 R416-R418) -/

/-- The hash of the maker's public key that the boot ROM holds (24 R418). -/
def rootKeyHash : List Byte := sha3_512 (dsaPublic Config.rootSeed)

/-- Firmware images are verified in order and measured; `none` when one fails (24 R418). -/
def measure : List Image → Nat → List (List Byte) → Option (List (List Byte))
  | [], _, ms => some ms
  | i :: rest, n, ms =>
    let h := sha3_512 i.body
    if n < 4 && sha3_512 i.key == rootKeyHash && dsaVerify i.key h i.sign then
      measure rest (n + 1) (ms.set n (sha3_512 (List.replicate 64 0 ++ h)))
    else none

/-- Measurement registers at the begin of a start. -/
def noMeasures : List (List Byte) := List.replicate 4 (List.replicate 64 0)

/-- Inputs from outside the part that a start does not drop. -/
def outside (i : Instr) : Bool :=
  match i with
  | .doorbell _ _ _ => true
  | .qcfgWrite _ _ => true
  | .qstatWrite _ _ => true
  | .queueRegisterWrite _ _ _ => true
  | .pcieMemoryWrite _ _ => true
  | .coldStart _ => true
  | .warmReset _ => true
  | .thermalTrip _ => true
  | .attestationQuote _ => true
  | _ => false

/-- What every start begins from: the machine as its registers reset, host memory, and what has left the part. -/
def State.afresh (s : State) : State :=
  { State.reset with
    tick := s.tick
    agenda := s.agenda.filter outside
    mem := s.mem.filter fun e => decide (stackBytes ≤ e.1)
    starts := s.starts + 1
    deaf := s.deaf
    measures := noMeasures
    quotes := s.quotes
    msi := s.msi }

/-- A cold start's remap table: logical core i is the i-th working physical core (24 R411). -/
def State.mapCores (s : State) : State :=
  (List.range 8).foldl (fun (s : State) d =>
    let ok := (List.range 528).filter fun p => !decide (d * 528 + p ∈ s.badCores)
    (List.range 512).foldl (fun (s : State) i => s.setDieR d (0x800 + i) (match ok[i]? with
      | none => 0
      | some p => 0x8000 ||| BitVec.ofNat 64 p)) s) s

/-- A stack interface that fails full training: its 64 pseudo-channels are retired and reached by no path (24 R413, R417;
class, DEDUCED, log 43). -/
def State.loseStack (s : State) (st : Nat) : State :=
  if s.isRetired 6 (st / 2) st then s
  else
    let s := (List.range 64).foldl (fun (s : State) i => s.retireMark 2 5 (st / 2) (64 * st + i)) s
    { s with retiredU := s.retiredU ++ [unitCode 6 (st / 2) st] }

/-- A step of the start has ended before the reset that cuts the start arrives (24 R417). -/
def StartInput.ends (i : StartInput) (step : Nat) : Bool := i.cut.all fun n => decide (step < n)

/-- Steps 3 and 4: units that fail training are retired, and the start goes on degraded; with no compute die on a working path to die 8
it stops (24 R417). -/
def State.train (s : State) (i : StartInput) : State :=
  let s := if StartInput.ends i 3 then (i.badStacks.filter (· < 16)).foldl State.loseStack s else s
  if !StartInput.ends i 4 then s
  else
    let s := (i.badLinks.filter (· < 160)).foldl (fun (s : State) x => s.retirePort 7 (x / 16) (192 + x % 16)) s
    if (List.range 8).all fun d => decide (99 ≤ (s.hops 8 10).getD d 99) then { s with power := .failed, worst := 3 } else s

/-- Steps 2 to 4, as far as they end: with firmware that does not verify the start stops. At its end HEALTH is taken for the quotes of
this start (24 R419; DEDUCED, log 101). -/
def State.boot (s : State) (i : StartInput) : State :=
  if !StartInput.ends i 2 then s
  else match measure i.images 0 noMeasures with
    | none => { s with power := .failed, worst := 3 }
    | some ms =>
      let t := ({ s with measures := ms }).train i
      { t with healthAt := t.health }

/-- A reset arrives during a start, in the step that the input names: the start does not end, and the part waits for the new
start (24 R417). -/
def State.cutBy (s : State) (i : StartInput) : State :=
  if i.cut.isSome ∧ s.power = .running then { s with power := .stopped } else s

/-- The reset arrives before step 6 has ended. -/
def StartInput.early (i : StartInput) : Bool := i.cut.any fun n => decide (n ≤ 6)

/-- Step 5 of a cold start, where the start comes to its end: every stack byte is zero and no unit is poisoned. -/
def State.zeroStacks (s : State) (i : StartInput) : State :=
  if s.power = .running ∧ StartInput.ends i 5 = true then { s with mem := s.mem.filter fun e => decide (stackBytes ≤ e.1), poison := [] }
  else s

/-- A cold start (24 R416): stacks zero, soft repair maps gone; one that fails or is cut before step 6 has ended makes the next
start cold (24 R417). -/
def State.coldStart (s : State) (i : StartInput) : State :=
  let t := ((({ s.afresh with badCores := i.badCores, mem := s.mem, poison := s.poison }).mapCores).boot i).zeroStacks i
  { t.cutBy i with nextCold := t.power == .failed || StartInput.early i }

def execColdStart (i : StartInput) (s : State) : Host.Outcome State Fault Refusal := .next (s.coldStart i)

/-- Registers that a warm reset keeps: the remap table and the system interrupt queues (24 R416, R417; DEDUCED, log 44). -/
def warmKeeps (n : Nat) : Bool := decide (0x800 ≤ n % 4096 ∧ n % 4096 < 0xA00) || decide (0x220 ≤ n % 4096 ∧ n % 4096 ≤ 0x223)

/-- Retired cores, which hold no block now, are mapped to spares (24 R410). -/
def State.remapRetired (s : State) : State :=
  if s.retiredU.isEmpty then s
  else ((List.range 4096).filter fun c => s.isRetired 1 (dieOf c) (s.physCore c)).foldl State.coreEmptied s

/-- WARM_RESET: stack contents, repair maps and poison stay, keys, digests and registrations go; taken as cold where the
next start must be cold (24 R416, R417). -/
def State.warmReset (s : State) (i : StartInput) : State :=
  if s.nextCold then s.coldStart i
  else (((({ s.afresh with
    mem := s.mem
    poison := s.poison
    dieReg := s.dieReg.filter fun e => warmKeeps e.1
    retiredU := s.retiredU
    badCores := s.badCores
    worst := s.worst } : State).remapRetired).boot i).cutBy i)

def execWarmReset (i : StartInput) (s : State) : Host.Outcome State Fault Refusal := .next (s.warmReset i)

/-- THERMAL_TRIP: the part stops at once, and its next start is cold (24 R417). -/
def execThermalTrip (_ : Nat) (s : State) : Host.Outcome State Fault Refusal :=
  .next { s with power := .stopped, nextCold := true, running := [] }

/-! ### Attestation (24 R419) -/

/-- The part number. -/
def partNumber : List Byte := ("DKC-4096-M768".toList).map fun c => BitVec.ofNat 8 c.toNat

/-- A signature with one of the part's keys; the bytes that it is made random with are free (DESIGN CHOICE, log 7). -/
def partSign (key : Nat) (m : List Byte) : List Byte := dsaSign (Config.secretSeed key) (Config.signBytes key) m

/-- The attestation key's public part, signed with the identity key. -/
def State.endorsement (s : State) : List Byte :=
  let pub := dsaPublic (Config.secretSeed (s.starts + 1))
  pub ++ partSign 0 pub

/-- The identity certificate: the identity key's public part, signed with the root key (its layout: DESIGN CHOICE, log 7). -/
def identityCert : List Byte :=
  let body := Config.certHead ++ dsaPublic (Config.secretSeed 0)
  body ++ dsaSign Config.rootSeed (Config.signBytes 0) body

/-- What a quote says: two of one start differ in their nonces alone, so HEALTH is that of the start (24 R419; DEDUCED, log 101). -/
def State.quoteBody (s : State) (nonce : List Byte) : List Byte :=
  s.measures.flatten ++ nonce ++ partNumber ++ bytesOfNat 8 s.healthAt.toNat ++ identityCert

/-- ATTESTATION_QUOTE: the report and its signature; a nonce has 32 bytes. -/
def State.quote (s : State) (nonce : List Byte) : State :=
  if nonce.length ≠ 32 then s
  else
    let body := s.quoteBody nonce
    { s with quotes := s.quotes ++ [body ++ partSign (s.starts + 1) body] }

def execAttestationQuote (nonce : List Byte) (s : State) : Host.Outcome State Fault Refusal := .next (s.quote nonce)

end Sys2Proof.Machine
end

