-- ==== Sys2Proof/Machine/Issue.lean ====
section
/-! DEFINITION. The issue slot of a core, the instruction cache, results that land later, and the overrun stop (05 R124-R129,
06 R176, R177, 19 R332, 20 R355, R356, 22 R377). -/

namespace Sys2Proof.Machine

open Sys2Proof

/-! ### Ready waves (01 R46, 05 R127, R128) -/

/-- The block's waves may issue: it stands neither between slices nor in a save, and a chosen action waits for a handler. -/
def Block.mayIssue (b : Block) : Bool :=
  b.offered.isNone && (b.inHandler || (b.stopping.isNone && !b.saving))

/-- The clause header's address of the group that selection picks. -/
def Wave.nextHeader (w : Wave) : Option (Pick × W64) := w.select.map fun p => (p, w.pcAt (lowLane p.lanes))

/-- A wait mask is satisfied: every flag it names is zero. -/
def Wave.maskMet (w : Wave) (h : W64) : Bool := (List.range 12).all fun k => !(headerMask h).getLsbD k || w.kget k == 0

def State.privOf (s : State) (b : Block) : Bool := ((s.launchOf b).map Launch.priv).getD false

/-- The wave is ready for an issue slot. -/
def State.waveReady (s : State) (id : WaveId) (b : Block) (w : Wave) : Bool :=
  !decide (id ∈ s.running) && w.live != 0 && !w.overrun && !w.overrunDue s.clock && !s.sliceOver b && w.reissue.isEmpty && b.mayIssue &&
  (match w.wait with
  | some wt => s.waitDone id b w wt
  | none =>
    if w.inClause then true
    else match w.nextHeader with
      | none => false
      | some (_, a) => match s.fetchFor id a with
        | .fill => false
        | .fault _ => true
        | .word h => headerIllegal h (s.privOf b) || w.maskMet h)

/-- Ready waves of a core, in ascending slot and wave. -/
def State.readyWaves (s : State) (core : Nat) : List (WaveId × Block × Wave) :=
  (s.coreBlocks core).flatMap fun b => b.waves.filterMap fun e =>
    let id : WaveId := ⟨core, b.slot, e.1⟩
    if s.waveReady id b e.2 then some (id, b, e.2) else none

/-- The wave that the next slot serves: every 16th slot the one that waited longest, else the highest priority (20 R356); a
wave at its yield point only when no other is ready (05 R127). -/
def State.nextWave (s : State) (core : Nat) : Option (WaveId × Block × Wave) :=
  let all := s.readyWaves core
  let other := all.filter fun x => !x.2.2.yielding
  let from_ := if other.isEmpty then all else other
  let waited := fun (x : WaveId × Block × Wave) => x.2.2.since.getD s.clock
  if spGet 0 s.slots core % 16 = 15 then minBy waited from_
  else firstBy (fun x => [127 - s.wpri x.1, waited x]) from_

/-- No wave of the core stands in its slot. -/
def State.slotIdle (s : State) (core : Nat) : Bool := s.running.all fun r => r.core != core

/-! ### CLAUSE_ISSUE -/

/-- Every wave of a core has passed its yield point. -/
def State.clearYields (s : State) (core : Nat) : State :=
  { s with blocks := s.blocks.map fun e =>
      if e.1 / 16 = core then (e.1, { e.2 with waves := e.2.waves.map fun w => (w.1, { w.2 with yielding := false }) }) else e }

/-- The record of a cause raised at a clause header (05 R129, R214). -/
def Wave.headerRec (w : Wave) (cause : Nat) (a : W64) (lanes : BitVec 32) : CauseRec :=
  { cause := cause, also := 0, pc := a, addr := a, lanes := lanes, index := 0, code := 0, origin := 0, resume := 0, seq := w.accesses }

/-- A wave's fetch of a word has used its line, or has failed. -/
def State.touchFor (s : State) (id : WaveId) (a : W64) : State :=
  match (s.block? id).bind s.launchOf with
  | none => s
  | some l => s.touchLine id.core l.asid l.tenant (a.toNat / 64)

def State.fetchFails (s : State) (id : WaveId) (a : W64) : State :=
  match (s.block? id).bind s.launchOf with
  | none => s
  | some l => s.fetchFailed l.asid a

/-- A wave starts a clause: selection, the header's checks, the clause (05 R124, R129, 01 R19-R22); an instruction that
TRET has skipped is passed (08 R235). -/
def State.startClause (s : State) (id : WaveId) (priv : Bool) (p : Pick) (a : W64) : State :=
  let s := s.modWave id fun w => { w with group := p.lanes, rotated := p.rotated, groupLen := p.count }
  match s.fetchFor id a with
  | .fill => s.leave id
  | .fault c => ((s.fetchFails id a).raise id ((s.wave id).headerRec c a p.lanes)).leave id
  | .word h =>
    if headerIllegal h priv then (s.raise id ((s.wave id).headerRec cILLEGAL_CLAUSE a p.lanes)).leave id
    else
      let s := s.touchFor id a
      let skip := (s.wave id).skipAt == some (a + 8)
      let s := s.modWave id fun w =>
        { (w.setPcs fun l => if p.lanes.getLsbD l then a + 8 else w.pcAt l) with
          clause := ⟨h, a, 0⟩, trivet := [], trivSet := [], skipAt := if skip then none else w.skipAt
          last := (lanesOf p.lanes).foldl (fun m l => spSet 0 m l w.issues) w.last }
      if skip then s.advance id else s

/-- The slot's count grows and its wave takes it; the first issue of a slice starts its count (08 R228). -/
def State.takeSlot (s : State) (id : WaveId) (slice : Bool) : State :=
  let s := (s.clearYields id.core).modWave id fun w => { w with since := none }
  let s := if slice then s.modBlock id fun b => b.resumeSlice s.clock else s
  { s with
    slots := spSet 0 s.slots id.core (spGet 0 s.slots id.core + 1)
    running := s.running ++ [id], cur := id }

/-- CLAUSE_ISSUE: a free slot starts or resumes a clause of the chosen wave; register-space errors are met first (24 R409). -/
def State.clauseIssue (s : State) (core : Nat) : State :=
  let s := s.registerErrors core
  if !s.slotIdle core then s
  else match s.nextWave core with
    | none => s
    | some (id, b, w) =>
      let s := s.takeSlot id (s.sliceOf b != 0)
      if w.inClause then s
      else match w.nextHeader with
        | none => s.leave id
        | some (p, a) => s.startClause id (s.privOf b) p a

def execClauseIssue (core : Nat) (s : State) : Host.Outcome State Fault Refusal := .next (s.clauseIssue core)

/-! ### The instruction cache (22 R377) -/

/-- What a wave fetches next: its word in a clause, else the header of the group it would issue. -/
def Wave.wants (w : Wave) : Option W64 := if w.inClause then some w.wordAddr else w.nextHeader.map Prod.snd

/-- Waves of a core and address space that fetch from a line: name, address and whether in the slot. -/
def State.fetchers (s : State) (core asid line : Nat) : List (WaveId × W64 × Bool) :=
  (s.coreBlocks core).flatMap fun b => match s.launchOf b with
    | none => []
    | some l => if l.asid ≠ asid then [] else b.waves.filterMap fun e => match e.2.wants with
      | none => none
      | some a =>
        let id : WaveId := ⟨core, b.slot, e.1⟩
        if a.toNat / 64 = line ∧ e.2.live ≠ 0 then some (id, a, decide (id ∈ s.running)) else none

/-- The wave a fetch is for: the one in its slot whose word the core cannot take yet, else one whose line is to be filled. -/
def State.fetcher (s : State) (core asid line : Nat) : Option (WaveId × W64 × Bool) :=
  let all := s.fetchers core asid line
  let mine := all.find? fun x => x.2.2 && (match s.fetchFor x.1 x.2.1 with
    | .word _ => false
    | _ => true)
  match mine with
  | some x => some x
  | none => all.find? fun x => s.fetchFor x.1 x.2.1 == .fill

/-- The record of a fault of an instruction word at its own index (08 R214, 19 R335). -/
def Wave.wordRec (w : Wave) (cause : Nat) (a : W64) : CauseRec :=
  { cause := cause, also := 0, pc := a, addr := a, lanes := w.active, index := w.clause.next, code := 0, origin := 0, resume := 0,
    seq := w.accesses }

/-- ICACHE_FILL: the line is read from home and held; a fetch that fails raises its cause in the running wave. -/
def State.icacheFill (s : State) (core asid line : Nat) : State :=
  match s.fetcher core asid line with
  | none => s
  | some (id, a, running) => match s.fetchFor id a with
    | .word _ => s
    | .fault c => if running then ((s.fetchFails id a).raise id ((s.wave id).wordRec c a)).leave id else s
    | .fill => match s.block? id with
      | none => s
      | some b => match s.launchOf b with
        | none => s
        | some l => match s.translate asid l.tenant a.toNat [rEXEC] with
          | .error _ => s
          | .ok pa => (s.hold asid l.tenant a.toNat [rEXEC]).insertLine ⟨core, asid, l.tenant, line, s.readBytes (pa / 64 * 64) 64⟩

def execIcacheFill (core asid line : Nat) (s : State) : Host.Outcome State Fault Refusal := .next (s.icacheFill core asid line)

/-! ### Results that land later (05 R128, R132, 06 R176, R177) -/

/-- One of the results in flight that have not landed lands: its flags go to NSTAT and its completion flag counts down.
Results of unlike latency land in any order (05 R128, R132; free, DESIGN CHOICE, log 1). -/
def Wave.landNth (w : Wave) (n : Nat) : Wave :=
  let left := (List.range w.inflight.length).filter fun k => (w.inflight[k]?).any fun p => !p.landed
  match left[n % left.length]?.bind fun k => (w.inflight[k]?).map fun p => (k, p) with
  | none => w
  | some (k, p) =>
    { (w.flagDown p.sig) with
      nstat := w.nstat ||| p.flags
      inflight := (w.inflight.set k { p with landed := true }).filter fun x => !(x.landed && x.short == 0) }

def execFixedLatencyWriteback (id : WaveId) (s : State) : Host.Outcome State Fault Refusal :=
  .next (s.modWave id fun w => w.landNth (Config.choose s.tick))

/-- SFOLD at a stamp: it takes the value whose number it awaits; with no further VFOLD in flight it is illegal, in a save's wait once the
block is restored (21 R363). While its wave's handler runs a suspended SFOLD compares nothing: the number that it awaits may pass
(06 R177, 08 R421; DESIGN CHOICE, log 103). -/
def State.sfoldTest (s : State) (id : WaveId) : State :=
  let w := s.wave id
  match w.wait with
  | some (.sfold n d sig) =>
    if w.foldSeq = n then
      (s.modWave id fun w => { ((w.giveS s.tick d w.fold).flagDown sig) with wait := none }).advance id
    else if w.foldq.isEmpty then
      let r : CauseRec := { cause := cILLEGAL_OP, also := 0, pc := w.wordAddr, addr := 0, lanes := w.active, index := w.clause.next,
                            code := 0, origin := 0, resume := 0, seq := w.accesses }
      let s := s.modWave id fun w => { (w.flagDown sig) with wait := none }
      if s.stands id && w.saved.isNone then s.raiseLater id r else s.raise id r
    else s
  | _ => s

/-- VFOLD_STAMP: the oldest VFOLD writes the fold register, and its number grows. -/
def State.stamp (s : State) (id : WaveId) : State :=
  match (s.wave id).foldq with
  | [] => s
  | (x, fl, sig) :: rest =>
    (s.modWave id fun w => { (w.flagDown sig) with
      fold := x, foldSeq := w.foldSeq + 1, foldq := rest, nstat := w.nstat ||| BitVec.ofNat 32 fl }).sfoldTest id

def execVfoldStamp (id : WaveId) (s : State) : Host.Outcome State Fault Refusal := .next (s.stamp id)

/-! ### TRAP_OVERRUN (19 R332) -/

/-- The wave stops; a record of kind 1 holds TCAUSE at handler entry. -/
def State.overrun (s : State) (id : WaveId) : State :=
  let w := s.wave id
  if !w.overrunDue s.clock then s
  else
    let s := (s.setCauses id (causeBit cTRAP_OVERRUN)).modWave id fun w => { w with overrun := true, hpast := true, hcyc := 65536 }
    let s := s.leave id
    let tenant := ((s.block? id).bind fun b => (s.launchOf b).map Launch.tenant).getD 0
    s.interrupt (dieOf id.core) 1 tenant (locOf id.core id.slot) id.wave ((w.saved.map Saved.entry).getD 0)

def execTrapOverrun (id : WaveId) (s : State) : Host.Outcome State Fault Refusal := .next (s.overrun id)

end Sys2Proof.Machine
end

