-- ==== Sys2Proof/Machine/Fabric.lean ====
section
/-! DEFINITION. Crossbars, links and the Blunik fabric: packets enter with the header of 23 R393 and the class of 23 R395, move by grants, flits, switches and escape moves, and are
accepted in sequence (23 R386-R401). -/

namespace Sys2Proof.Machine

open Sys2Proof

/-! ### Port lanes (23 R386, R387) -/

def noPort : PortQueues := ⟨[[], [], [], []], [[], [], [], []], [0, 0, 0, 0], [], 0, 0, [], []⟩

/-- A die-to-die port, of 70 lanes. -/
def wide (port : Nat) : Bool := decide (192 ≤ port ∧ port < 208)

/-- The I/O port of its die's crossbar at which a Blunik port hangs (PRESUMED, log 41). -/
def bluAt (p : Nat) : Nat := 208 + p % 9 % 4

/-- Flits of a packet on a die, of 128 bytes; its header counts those of 64 bytes, which Blunik carries (23 R386, R393). -/
def dieFlits (p : Packet) : Nat := (p.flits + 1) / 2

/-- The key of a lane of a port. -/
def laneKey (die port lane : Nat) : Nat := (die * 256 + port) * 128 + lane

def State.lane (s : State) (k : Nat) : PortQueues := spGet noPort s.ports k
def State.modLane (s : State) (k : Nat) (f : PortQueues → PortQueues) : State := { s with ports := spSet noPort s.ports k (f (s.lane k)) }

/-- A packet takes its place in its class's normal channel, or in its escape channel of four; `none` where that is full. A
head waits from `now`. -/
def PortQueues.accept (q : PortQueues) (now : Nat) (p : Packet) : Option PortQueues :=
  let c := p.cls % 4
  if p.esc then
    (if 4 ≤ (q.escape.getD c []).length then none else some { q with escape := q.escape.modify c fun l => l ++ [p] })
  else some { q with
    normal := q.normal.modify c fun l => l ++ [p]
    since := if (q.normal.getD c []).isEmpty then q.since.set c now else q.since }

/-- A head packet of a class leaves: the next head waits from now; one granted in the normal way ends the moves of R400. -/
def PortQueues.leave (q : PortQueues) (now cls : Nat) (esc : Bool) : PortQueues :=
  if esc then { q with escape := q.escape.modify cls List.tail }
  else { q with normal := q.normal.modify cls List.tail, since := q.since.set cls now, moving := q.moving.filter (· != cls) }

/-- A packet enters a die through a port; a wide port takes it on a lane that is free (DESIGN CHOICE, log 1). -/
def State.enter (s : State) (die port : Nat) (p : Packet) : Option State :=
  let k := laneKey die port (if wide port then Config.choose s.tick % 70 else 0)
  ((s.lane k).accept s.dclk p).map fun q => { s with ports := spSet noPort s.ports k q }

/-! ### Routes (23 R388-R390) -/

def State.ownFab (s : State) : Nat := (s.pkgR 0x4B2).toNat % 65536

/-- The destination's crossbar port, named by the low bits of the packet's tag (PRESUMED, log 41). -/
def dstPortOf (p : Packet) : Nat :=
  let t := p.tag % 256
  if t < 192 ∨ (208 ≤ t ∧ t < 212) then t else 0

/-- The first working Blunik port from a number on, wrapping after 17 (24 R410). -/
def State.bluFrom (s : State) (c : Nat) : Nat :=
  (((List.range 18).map fun i => (c + i) % 18).find? fun i => !s.isRetired 4 0 i).getD (c % 18)

/-- The Blunik port of the default route: the destination's number mod 18, or the next working one (23 R390, 24 R410). -/
def State.bluPort (s : State) (p : Packet) : Nat := s.bluFrom (p.dstFab % 18)

/-- The plane of the next working port after a retired one (24 R410). -/
def State.nextPlane (s : State) (plane : Nat) : Nat := s.bluFrom (plane + 1)

/-- Where a packet goes from a die: out by a boundary, out by a Blunik port of the die, or to its destination's port. -/
inductive Hop where
  | boundary (dir : Nat)
  | blunik (p : Nat)
  | arrive
  deriving DecidableEq, Repr

/-- The boundary of the default route from one die to another: across the rows first, then along the row, then the I/O
die; where its link is retired, another one that leads nearer (23 R390; PRESUMED, log 41). -/
def State.wayTo (s : State) (d t : Nat) : Option Nat :=
  let l := s.hops t 10
  let here := l.getD d 99
  let good := (s.reaches d).filter fun e => decide (l.getD e.2 99 < here)
  let order := if d < 8 then (if t < 8 ∧ t / 4 ≠ d / 4 then [2, 0, 1, 3] else [0, 1, 3, 2])
    else (if t < 8 ∧ 4 ≤ t then [1, 0] else [0, 1])
  order.find? fun dir => good.any fun e => e.1 == dir

/-- The default route (23 R390); with no working path the die's own port answers, and no access hangs (24 R413). -/
def State.defaultHop (s : State) (d : Nat) (p : Packet) : Hop :=
  if p.dstFab = s.ownFab then
    (if p.dstDie = d then .arrive else ((s.wayTo d p.dstDie).map Hop.boundary).getD .arrive)
  else
    let b := s.bluPort p
    let io := if b < 9 then 8 else 9
    if d = io then .blunik b else ((s.wayTo d io).map Hop.boundary).getD .arrive

/-- What a turn means at a die, `none` where it is unusable (23 R389). -/
def State.turnHop (s : State) (d turn : Nat) : Option Hop :=
  if d < 8 then
    (if 1 ≤ turn ∧ turn ≤ 4 ∧ (s.workPorts d (turn - 1)).isEmpty = false then some (.boundary (turn - 1)) else none)
  else if turn < 9 then
    let p := turn + (if d = 8 then 0 else 9)
    if s.isRetired 4 0 p then none else some (.blunik p)
  else if turn < 11 then
    (if (s.workPorts d (turn - 9)).isEmpty then none else some (.boundary (turn - 9)))
  else none

/-- The next hop of a packet at a die, the packet as it leaves, and whether it detours (23 R390). -/
def State.route (s : State) (d : Nat) (p : Packet) : Hop × Packet × Bool :=
  if p.dstFab = s.ownFab ∧ p.dstDie = d then (.arrive, p, false)
  else match (if p.esc then [] else p.turns) with
    | [] => (s.defaultHop d p, { p with turns := [] }, false)
    | t :: rest => match s.turnHop d t with
      | some h => (h, { p with turns := rest }, false)
      | none => (s.defaultHop d p, { p with turns := [] }, true)

/-- The output port of a hop: one flow takes one of a boundary's working ports (23 R388, 24 R410). -/
def State.hopPort (s : State) (d : Nat) (p : Packet) : Hop → Nat
  | .arrive => dstPortOf p
  | .blunik b => bluAt b
  | .boundary dir =>
    let l := s.workPorts d dir
    l.getD ((p.srcPort + dstPortOf p) % l.length) 256

/-! ### Links (23 R394) -/

def noLink : Link := ⟨0, [], 0, 0, 0, false, false⟩
def State.link (s : State) (x : Nat) : Link := spGet noLink s.links x
def State.modLink (s : State) (x : Nat) (f : Link → Link) : State := { s with links := spSet noLink s.links x (f (s.link x)) }

/-- A flit travels: whether its CRC is good on arrival is free (DESIGN CHOICE, log 45). -/
def State.wire (s : State) (x : Nat) (f : Flit) : State :=
  s.push (.linkFlitReceive x { f with crcOk := Config.freeBit s.tick (x * 1024 + f.seq) })

/-- Send a flit: it is kept until acknowledged, and its trailer acknowledges the opposite direction. -/
def State.sendFlit (s : State) (x : Nat) (p : Option Packet) : State :=
  let back := (s.link (reverseLink x)).expectSeq
  let f : Flit := ⟨(s.link x).nextSeq, (back + 1023) % 1024, true, false, true, p⟩
  (s.modLink x fun l => { l with nextSeq := (l.nextSeq + 1) % 1024, sent := l.sent ++ [f] }).wire x f

/-- Room for n flits among 512 unacknowledged ones, on a link that works. -/
def State.linkRoom (s : State) (x n : Nat) : Bool :=
  !(s.link x).retrain && !(s.link x).retired && decide ((s.link x).sent.length + n ≤ 512)

/-- Flits of a packet on a directed link: between dies, or of Blunik. -/
def flitsOn (x : Nat) (p : Packet) : Nat := if x < 160 then dieFlits p else p.flits

/-- Send a packet, whole in its last flit. -/
def State.sendPacket (s : State) (x : Nat) (p : Packet) : State :=
  ((List.range (flitsOn x p - 1)).foldl (fun (s : State) _ => s.sendFlit x none) s).sendFlit x (some p)

/-- Unacknowledged flits up to a sequence are released, and NAKs in succession count anew. -/
def Link.acknowledge (l : Link) (seq : Nat) : Link :=
  if l.sent.any fun f => f.seq == seq then
    { l with sent := l.sent.filter fun f => decide (512 ≤ (seq + 1024 - f.seq) % 1024), naks := 0 }
  else l

/-- Send again, in order, from a sequence. -/
def State.replay (s : State) (x seq : Nat) : State :=
  ((s.link x).sent.filter fun f => decide ((f.seq + 1024 - seq) % 1024 < 512)).foldl (fun (s : State) f => s.wire x f) s

/-! ### Blunik switches (23 R392) -/

def switchKey (plane tier sw : Nat) : Nat := (plane * 4 + tier) * 1024 + sw
/-- The key of one of the 64 ports of a switch. -/
def switchPort (k port : Nat) : Nat := k * 64 + port
/-- The channels of a switch's port. -/
def State.switch (s : State) (k : Nat) : PortQueues := spGet noPort s.switches k
def State.modSwitch (s : State) (k : Nat) (f : PortQueues → PortQueues) : State :=
  { s with switches := spSet noPort s.switches k (f (s.switch k)) }

/-- A packet enters a switch by a port. -/
def State.enterSwitch (s : State) (k : Nat) (p : Packet) : Option State :=
  ((s.switch k).accept s.dclk p).map fun q => { s with switches := spSet noPort s.switches k q }

/-- Where a switch of a tier sends a packet: the tier and number of the next switch, tier 0 for the destination package. -/
def switchHop (tier sw dst : Nat) : Nat × Nat :=
  if tier = 1 then (if dst / 32 = sw then (0, dst) else (2, sw / 32 * 32 + dst % 32))
  else if tier = 2 then (if dst / 1024 = sw / 32 then (1, dst / 32) else (3, sw % 32 * 32 + dst / 32 % 32))
  else (2, dst / 1024 * 32 + sw / 32)

/-- The port by which a packet enters the next switch, from a switch of a tier: an up port where it comes down, else the down port of
the switch below (23 R392). -/
def switchFrom (tier sw next : Nat) : Nat := if next < tier then 32 + sw % 32 else if tier = 1 then sw % 32 else sw / 32

/-- The down port of this package at its tier-1 switch of a plane. -/
def State.ownSwitch (s : State) (plane : Nat) : Nat := switchPort (switchKey plane 1 (s.ownFab / 32)) (s.ownFab % 32)

/-- The receiver of a directed link takes a packet: a die's port, or a tier-1 switch. -/
def State.takePacket (s : State) (x : Nat) (p : Packet) : Option State :=
  if x < 160 then s.enter (x / 16) (192 + x % 16) p
  else if x < 178 then s.enter (if x - 160 < 9 then 8 else 9) (bluAt (x - 160)) p
  else s.enterSwitch (s.ownSwitch (x - 178)) p

/-- The sender's end takes a packet back; `none` where its escape channel is full. -/
def State.backTo (s : State) (x : Nat) (p : Packet) : Option State :=
  if x < 160 then (match farPort (x / 16) (192 + x % 16) with
    | none => none
    | some e => s.enter e.1 e.2 p)
  else if x < 178 then s.enterSwitch (s.ownSwitch (s.nextPlane (x - 160))) p
  else s.enter (if x - 178 < 9 then 8 else 9) (bluAt (x - 178)) p

/-- A packet of a retired link is put back, to go by the default route; it is never lost: where its escape channel is full it
starts again in its normal channel (23 R394; DEDUCED, log 87). -/
def State.putBack (s : State) (x : Nat) (p : Packet) : State :=
  let p := { p with turns := [] }
  match s.backTo x p with
  | some t => t
  | none => (s.backTo x { p with esc := false }).getD s

/-! ### CROSSBAR_GRANT -/

/-- Input lanes with packets at a die: port and lane. -/
def State.inputs (s : State) (die : Nat) : List (Nat × Nat) :=
  s.ports.filterMap fun e => if e.1 / 32768 = die then some (e.1 / 128 % 256, e.1 % 128) else none

/-- A head packet: its lane, class, and whether it heads an escape channel. -/
structure Head where
  port : Nat
  lane : Nat
  cls  : Nat
  esc  : Bool
  p    : Packet
  deriving DecidableEq, Repr

/-- Heads of an input lane that sends nothing now. -/
def State.heads (s : State) (die : Nat) (i : Nat × Nat) : List Head :=
  let q := s.lane (laneKey die i.1 i.2)
  if s.dclk < q.sending then []
  else (List.range 4).flatMap fun c =>
    (match (q.escape.getD c []).head? with
      | some p => [(⟨i.1, i.2, c, true, p⟩ : Head)]
      | none => []) ++
    (match (q.normal.getD c []).head? with
      | some p => [(⟨i.1, i.2, c, false, p⟩ : Head)]
      | none => [])

/-- The key of a packet's flow (23 R393). -/
def flowOf (p : Packet) : Nat :=
  ((((p.srcFab * 16 + p.srcDie) * 256 + p.srcPort) * 65536 + p.dstFab) * 16 + p.dstDie) * 4 + p.cls

/-- Whether a class is ordered (23 R395). -/
def ordered (cls : Nat) : Bool := cls == 0 || cls == 3

/-- The pseudo-channel and the class of a request that a packet brings. -/
def asksFor (p : Packet) : Option (Nat × Nat) :=
  match p.load with
  | .request (some pc) r => some (pc, r.cls)
  | _ => none

/-- Packets of an ordered flow that have left the crossbar ahead of their sequence: the reorder buffer takes them. -/
def State.early (s : State) (q : PortQueues) : Nat :=
  q.hold.length + (q.output.filter fun p => ordered p.cls && p.seq != spGet 0 s.flows (flowOf p)).length

/-- A destination port whose reorder buffer of 256 is full, with the early packets on their way to it, holds an early packet
back in its normal channel (23 R401). -/
def State.heldEarly (s : State) (die : Nat) (h : Head) : Bool :=
  !h.esc && ordered h.p.cls && h.p.seq != spGet 0 s.flows (flowOf h.p) &&
    decide (256 ≤ s.early (s.lane (laneKey die (dstPortOf h.p) 0)))

/-- Requests of a class that stand in a pseudo-channel's queue or have left the crossbar for it. -/
def State.asked (s : State) (die port : Nat) (a : Nat × Nat) : Nat :=
  let q := s.lane (laneKey die port 0)
  ((s.channel a.1).queues.getD a.2 []).length +
  ((q.hold ++ q.output).filter fun p => asksFor p == some a).length +
  (s.agenda.filter fun i => match i with
    | .channelRequestArrive pc r => (pc, r.cls) == a
    | _ => false).length

/-- A request that finds its queue of 32 full waits in its virtual channel (23 R403). -/
def State.heldFull (s : State) (die : Nat) (h : Head) : Bool :=
  (asksFor h.p).any fun a => decide (32 ≤ s.asked die (dstPortOf h.p) a)

/-- The directed link that a hop leaves by from a die's output port, if it leaves the die. -/
def hopLink (die port : Nat) : Hop → Option Nat
  | .arrive => none
  | .blunik b => some (bluOut b)
  | .boundary _ => (farPort die port).map fun e => linkInto e.1 e.2

/-- The link of a hop has room for a packet. -/
def State.outRoom (s : State) (die port : Nat) (h : Hop) (p : Packet) : Bool :=
  match hopLink die port h with
  | some x => s.linkRoom x (flitsOn x p)
  | none => h == .arrive

/-- A head asks for an output port: its hop, the packet as it leaves and whether it detours. -/
def State.wants (s : State) (die port : Nat) (h : Head) : Option (Hop × Packet × Bool) :=
  let r := s.route die h.p
  if s.hopPort die h.p r.1 == port && !(r.1 == .arrive && (s.heldEarly die h || s.heldFull die h)) && s.outRoom die port r.1 r.2.1 then some r else none

/-- The number of an input at an output: lanes of wide ports count one by one at a wide output only. -/
def inputNo (out : Nat) (h : Head) : Nat := if wide out then h.port * 128 + h.lane else h.port

/-- Heads for an output: of the escape channels where there are any, else of the normal ones. -/
def State.asking (s : State) (die port : Nat) : List Head :=
  let all := ((s.inputs die).flatMap fun i => s.heads die i).filter fun h => (s.wants die port h).isSome
  let esc := all.filter Head.esc
  if esc.isEmpty then all else esc

/-- The order in which an output's inputs were last granted, oldest first: input i's crosspoint holds the bit of input j when
i has not been granted since j (23 R387). Inputs never granted come first. -/
def State.grantAge (s : State) (out i : Nat) : Nat := (((spGet [] s.lrg out).idxOf? i).map (· + 1)).getD 0

/-- An output lane that takes a packet now: a wide output has 70. -/
def State.outLane (s : State) (die port : Nat) : Option Nat :=
  (List.range (if wide port then 70 else 1)).find? fun l => decide ((s.lane (laneKey die port l)).busy ≤ s.dclk)

/-- The packet leaves the crossbar: onto its link, or to its destination's port. -/
def State.depart (s : State) (die port lane : Nat) (h : Hop) (p : Packet) : State :=
  match hopLink die port h with
  | some x => s.sendPacket x p
  | none => s.modLane (laneKey die port lane) fun q => { q with output := q.output ++ [p] }

/-- Grant a head to an output: whole packets, one flit a cycle; the crosspoint's bits follow. -/
def State.grant (s : State) (die port lane : Nat) (h : Head) (hop : Hop) (p : Packet) (det : Bool) : State :=
  let out := die * 256 + port
  let i := inputNo port h
  let s := { s with lrg := spSet [] s.lrg out ((spGet [] s.lrg out).filter (· != i) ++ [i]) }
  let s := s.modLane (laneKey die h.port h.lane) fun q => { q.leave s.dclk h.cls h.esc with sending := s.dclk + dieFlits p }
  let s := s.modLane (laneKey die port lane) fun q => { q with busy := s.dclk + dieFlits p }
  let s := if det then s.countDie die 0x331 1 else s
  s.depart die port lane hop p

/-- CROSSBAR_GRANT: an output grants the head whose input it has granted least recently; among one input's heads the choice
is free (DESIGN CHOICE, log 1). -/
def State.crossbarGrant (s : State) (die port : Nat) : State :=
  match s.outLane die port with
  | none => s
  | some lane =>
    let all := s.asking die port
    match minBy (fun h => s.grantAge (die * 256 + port) (inputNo port h)) all with
    | none => s
    | some h =>
      let same := all.filter fun x => inputNo port x == inputNo port h
      let pick := same.getD (Config.choose s.tick % same.length) h
      match s.wants die port pick with
      | none => s
      | some (hop, p, det) => s.grant die port lane pick hop p det

def execCrossbarGrant (die port : Nat) (s : State) : Host.Outcome State Fault Refusal := .next (s.crossbarGrant die port)

/-! ### SWITCH_FORWARD -/

/-- A head packet of a switch: its port and class, and whether it heads an escape channel. -/
structure SwitchHead where
  port : Nat
  cls  : Nat
  esc  : Bool
  p    : Packet
  deriving DecidableEq, Repr

/-- The head packets of a port. -/
def PortQueues.heads (q : PortQueues) (port : Nat) : List SwitchHead :=
  (List.range 4).flatMap fun c =>
    ((q.escape.getD c []).head?.toList.map fun p => ⟨port, c, true, p⟩) ++
    ((q.normal.getD c []).head?.toList.map fun p => ⟨port, c, false, p⟩)

/-- The heads of a switch that it may forward: an output takes those of escape channels first. -/
def State.switchHeads (s : State) (plane tier sw : Nat) : List SwitchHead :=
  let all := (List.range 64).flatMap fun q => (s.switch (switchPort (switchKey plane tier sw) q)).heads q
  all.filter fun h => h.esc || !all.any fun x => x.esc && switchHop tier sw x.p.dstFab == switchHop tier sw h.p.dstFab

/-- The packet goes on from a switch: to another switch, to this package, or out of the model to another package (DESIGN CHOICE,
log 13). A plane whose port is retired does not reach this package: the packet goes on in the plane of the next working port
(24 R410). -/
def State.switchOut (s : State) (plane tier sw : Nat) (p : Packet) : Option State :=
  let n := switchHop tier sw p.dstFab
  if n.1 = 0 then
    (if p.dstFab ≠ s.ownFab then some s
     else if s.isRetired 4 0 plane then
       (if s.isRetired 4 0 (s.nextPlane plane) then none else s.enterSwitch (s.ownSwitch (s.nextPlane plane)) p)
     else if s.linkRoom (bluInto plane) (flitsOn (bluInto plane) p) then some (s.sendPacket (bluInto plane) p) else none)
  else s.enterSwitch (switchPort (switchKey plane n.1 n.2) (switchFrom tier sw n.1)) p

/-- SWITCH_FORWARD: a switch forwards a head packet up or down its plane; which of its heads goes first is free (DESIGN CHOICE, log 1). -/
def State.switchForward (s : State) (plane tier sw : Nat) : State :=
  if 18 ≤ plane ∨ tier = 0 ∨ 4 ≤ tier ∨ 1024 ≤ sw then s
  else
    let hs := s.switchHeads plane tier sw
    match hs[Config.choose s.tick % hs.length]? with
    | none => s
    | some h => ((s.modSwitch (switchPort (switchKey plane tier sw) h.port) fun q => q.leave s.dclk h.cls h.esc).switchOut
        plane tier sw h.p).getD s

def execSwitchForward (plane tier sw : Nat) (s : State) : Host.Outcome State Fault Refusal := .next (s.switchForward plane tier sw)

/-! ### ESCAPE_MOVE (23 R400) -/

/-- A class's normal head is due to move: it has waited 16,384 cycles, or heads keep moving after one. -/
def PortQueues.moves (q : PortQueues) (now cls : Nat) : Bool :=
  !(q.normal.getD cls []).isEmpty && decide ((q.escape.getD cls []).length < 4) &&
    (decide (cls ∈ q.moving) || decide (q.since.getD cls 0 + 16384 ≤ now))

/-- The move: the packet is marked and leaves its turns. -/
def PortQueues.move (q : PortQueues) (now cls : Nat) : PortQueues :=
  match (q.normal.getD cls []).head? with
  | none => q
  | some p => { q with
      normal := q.normal.modify cls List.tail
      escape := q.escape.modify cls fun l => l ++ [{ p with esc := true, turns := [] }]
      since := q.since.set cls now
      moving := if cls ∈ q.moving then q.moving else q.moving ++ [cls] }

/-- ESCAPE_MOVE, at a lane of a die's port or, with a number from 16 on, at a port of the switch of that key; a die counts it. -/
def State.escapeMove (s : State) (die port cls : Nat) : State :=
  if 4 ≤ cls then s
  else if 16 ≤ die then
    let k := switchPort (die - 16) (port % 64)
    if (s.switch k).moves s.dclk cls then s.modSwitch k fun q => q.move s.dclk cls else s
  else match (List.range 70).find? fun l => (s.lane (laneKey die port l)).moves s.dclk cls with
    | none => s
    | some l => (s.modLane (laneKey die port l) fun q => q.move s.dclk cls).countDie die 0x330 1

def execEscapeMove (die port cls : Nat) (s : State) : Host.Outcome State Fault Refusal := .next (s.escapeMove die port cls)

/-! ### Packets to be sent (23 R393, R395, R403) -/

/-- The traffic of the table of 23 R395; an instruction fetch and an access to a Frond's owner core are like a load (DESIGN CHOICE,
log 46). -/
inductive Traffic where
  | load | atomic | sealedLine | engine | walk | fetch | frond
  | response | ack
  | reduction | collective
  | message | phaser | stageQueue | sieve | close
  deriving DecidableEq, Repr

/-- The traffic class (23 R395). -/
def Traffic.cls : Traffic → Nat
  | .load | .atomic | .sealedLine | .engine | .walk | .fetch | .frond => 0
  | .response | .ack => 1
  | .reduction | .collective => 2
  | .message | .phaser | .stageQueue | .sieve | .close => 3

/-- The kind of a packet, numbered in the order in which 23 R393 names them (DESIGN CHOICE, log 46). -/
def Traffic.kind : Traffic → Nat
  | .load | .atomic | .sealedLine | .engine | .walk | .fetch | .frond => 0
  | .response => 1
  | .ack => 2
  | .reduction | .collective => 3
  | .close => 4
  | .message | .phaser | .stageQueue | .sieve => 5

/-- The service class and the deadline budget of a request (23 R403). -/
def Traffic.service : Traffic → Nat × Nat
  | .walk => (3, 512)
  | .fetch => (2, 1024)
  | .engine => (1, 0)
  | _ => (1, 4096)

/-- A port of a die of a package. -/
structure Place where
  fab  : Nat
  die  : Nat
  port : Nat
  deriving DecidableEq, Repr

/-- A packet to be sent: its traffic, both ends, its phase tag, the deterministic bit of its launch, the bytes beside its header,
and what it brings. -/
structure Sending where
  traffic : Traffic
  src     : Place
  dst     : Place
  phase   : Bool
  det     : Bool
  bytes   : Nat := 0
  load    : Carried := .other
  deriving DecidableEq, Repr

/-- Flits of 64 bytes of a packet with its 16-byte header, 1 to 5 (23 R393). -/
def flitsFor (bytes : Nat) : Nat := min 5 ((16 + bytes + 63) / 64)

/-- The header of a packet, on the default route, without its sequence (23 R390, R393). -/
def Sending.header (x : Sending) : Packet :=
  { dstFab := x.dst.fab, srcFab := x.src.fab, dstDie := x.dst.die, srcDie := x.src.die, srcPort := x.src.port, seq := 0
    cls := x.traffic.cls, phase := x.phase, esc := false, det := x.det, flits := flitsFor x.bytes, turns := []
    kind := x.traffic.kind, tag := x.dst.port, load := x.load }

/-- A packet enters its source port with its flow's next sequence number (23 R393). -/
def State.send (s : State) (x : Sending) : State :=
  let p := x.header
  let n := spGet 0 s.flowsSent (flowOf p)
  match s.enter x.src.die x.src.port { p with seq := n } with
  | none => s
  | some t => { t with flowsSent := spSet 0 t.flowsSent (flowOf p) ((n + 1) % 65536) }

def State.sendAll (s : State) (xs : List Sending) : State := xs.foldl State.send s

/-! ### Places -/

/-- The cluster port of a core: 128 clusters of a die with four cores each (23 R386). -/
def State.clusterPort (s : State) (core : Nat) : Place := ⟨s.ownFab, dieOf core, core % 512 / 4⟩

/-- The memory port of a physical address's pseudo-channel, an I/O port for host memory (23 R386; which one, PRESUMED, log 41). -/
def State.homePort (s : State) (pa : Nat) : Place :=
  if hostBit ≤ pa then ⟨s.ownFab, 8, 208⟩
  else ⟨s.ownFab, s.pcOf pa / 128, 128 + s.pcOf pa % 128 / 2⟩

/-- The fabric address of a package of a tenant's group (23 R407). -/
def State.fabOf (s : State) (tenant package : Nat) : Nat :=
  if package = s.ownPackage tenant then s.ownFab
  else s.readNat (((s.pkgR (0x4E0 + 2 * tenant)).extractLsb' 6 46).toNat * 64 + 2 * package) 2

/-- The port of a package that takes what is for the package as a whole (PRESUMED, log 41). -/
def State.packagePort (s : State) (tenant package : Nat) : Place := ⟨s.fabOf tenant package, 8, 208⟩

/-- The home of a window (23 R396). -/
def State.windowPort (s : State) (win : Nat) : Place :=
  let home := s.pkgR (0x4C1 + 2 * win)
  s.packagePort (home.extractLsb' 24 4).toNat (home.extractLsb' 0 16).toNat

/-- A request of a core for a line at home: the bytes that go with it, those that are to come back, and whether it writes. For memory
that no working path reaches the requesting die's memory port answers (24 R413). -/
def State.request (s : State) (t : Traffic) (core pa out back : Nat) (write phase det : Bool) : Sending :=
  let lost := s.unreachable pa
  let pc := if hostBit ≤ pa || lost then none else some (s.pcOf pa)
  { traffic := t, src := s.clusterPort core, phase := phase, det := det, bytes := out
    dst := if lost then { s.homePort pa with die := dieOf core } else s.homePort pa
    load := .request pc
      { cls := t.service.1, budget := t.service.2, die := dieOf core, port := core % 512 / 4, bank := s.bankOf pa, tag := 0,
        line := pa / 64, write := write, back := back, phase := phase, det := det } }

/-- The answer to a request: its data, or an acknowledgement (23 R395, R399). -/
def State.answer (s : State) (src : Place) (r : ChanReq) (miss : Bool) : Sending :=
  { traffic := if r.back = 0 then .ack else .response, src := src, dst := ⟨s.ownFab, r.die, r.port⟩, phase := r.phase, det := r.det
    bytes := r.back, load := .answer miss }

/-! ### PACKET_DELIVER (23 R401) -/

/-- A request takes an entry of its class's queue of 32 with its deadline; one that finds it full waits (23 R403). -/
def State.requestArrive (s : State) (pc : Nat) (r : ChanReq) : State :=
  if 1024 ≤ pc ∨ 4 ≤ r.cls then s
  else if 32 ≤ ((s.channel pc).queues.getD r.cls []).length then s.push (.channelRequestArrive pc r)
  else
    let due := s.cclk + (if r.budget = 0 then 65535 else r.budget)
    s.modChannel pc fun c => { c with queues := c.queues.modify r.cls fun q => q ++ [(r, s.cclk, due)] }

/-- A packet is accepted at a port of a die: a request takes its entry at its pseudo-channel, so that those of a flow do in order, or is answered where no channel holds its
memory; an answer with a miss bit is counted at the port that asked (23 R403, R404); what any other packet brings acts by a step of
its own (DESIGN CHOICE, log 46). -/
def State.acceptPacket (s : State) (die port : Nat) (p : Packet) : State :=
  match p.load with
  | .other => s
  | .request (some pc) r => s.requestArrive pc r
  | .request none r => s.send (s.answer ⟨s.ownFab, die, port⟩ r false)
  | .answer miss => if miss then s.countDie die (0x240 + port) 1 else s

/-- Early packets whose turn has come are accepted: each accepted one moves its flow on by one. -/
def State.releaseEarly : Nat → State → Nat → Nat → State
  | 0, s, _, _ => s
  | n + 1, s, die, port =>
    let k := laneKey die port 0
    match (s.lane k).hold.find? fun p => p.seq == spGet 0 s.flows (flowOf p) with
    | none => s
    | some p =>
      State.releaseEarly n ({ s.modLane k fun q => { q with hold := q.hold.erase p } with
        flows := spSet 0 s.flows (flowOf p) ((p.seq + 1) % 65536) }.acceptPacket die port p) die port

/-- PACKET_DELIVER: a packet of an unordered class is accepted; of an ordered flow the expected one is, with those that wait
behind it, and an early one waits in the reorder buffer. -/
def State.packetDeliver (s : State) (die port : Nat) : State :=
  let k := laneKey die port 0
  match (s.lane k).output with
  | [] => s
  | p :: rest =>
    let s := s.modLane k fun q => { q with output := rest }
    if !ordered p.cls then s.acceptPacket die port p
    else if p.seq = spGet 0 s.flows (flowOf p) then
      State.releaseEarly (s.lane k).hold.length
        ({ s with flows := spSet 0 s.flows (flowOf p) ((p.seq + 1) % 65536) }.acceptPacket die port p) die port
    else s.modLane k fun q => { q with hold := q.hold ++ [p] }

def execPacketDeliver (die port : Nat) (s : State) : Host.Outcome State Fault Refusal := .next (s.packetDeliver die port)

/-! ### Links at work (23 R394) -/

/-- An accepted flit: what it acknowledges is released; a NAK in it goes to the sender; a packet's end is acknowledged in a
flit of the opposite direction. -/
def State.acceptFlit (s : State) (x : Nat) (f : Flit) : State :=
  let r := reverseLink x
  let s := s.modLink x fun l => { l with expectSeq := (l.expectSeq + 1) % 1024 }
  let s := if f.ackValid then s.modLink r fun l => l.acknowledge f.acked else s
  let s := if f.nak then s.push (.linkNak r ((f.acked + 1) % 1024)) else s
  if f.packet.isSome && s.linkRoom r 1 then s.sendFlit r none else s

/-- LINK_FLIT_RECEIVE: a flit with a good CRC and the expected sequence is accepted; any other is discarded and the expected
sequence named in one NAK. A packet whose channel is full waits. -/
def State.flitReceive (s : State) (x : Nat) (f : Flit) : State :=
  let l := s.link x
  if 196 ≤ x ∨ l.retrain = true ∨ l.retired = true then s
  else if f.crcOk && f.seq == l.expectSeq then
    match f.packet with
    | none => s.acceptFlit x f
    | some p => match s.takePacket x p with
      | none => s.push (.linkFlitReceive x f)
      | some t => t.acceptFlit x f
  else
    let s := if f.crcOk then s else s.countLink x 0
    s.pushOnce (.linkNak x l.expectSeq)

def execLinkFlitReceive (x : Nat) (f : Flit) (s : State) : Host.Outcome State Fault Refusal := .next (s.flitReceive x f)

/-- LINK_NAK: the sender sends again from the named sequence; after eight NAKs in succession for one sequence the link
retrains, and whether that succeeds is free (DESIGN CHOICE, log 45). -/
def State.linkNak (s : State) (x seq : Nat) : State :=
  let l := s.link x
  if 196 ≤ x ∨ l.retrain = true ∨ l.retired = true ∨ (l.sent.any fun f => f.seq == seq) = false then s
  else
    let n := if l.nakSeq = seq then l.naks + 1 else 1
    let s := s.modLink x fun l => { l.acknowledge ((seq + 1023) % 1024) with naks := n, nakSeq := seq }
    let s := (s.countLink (reverseLink x) 16).countLinkError (reverseLink x) 6
    if 8 ≤ n then
      ((s.modLink x fun l => { l with retrain := true }).countLink (reverseLink x) 32).push (.linkRetrainEnd x (Config.freeBit s.tick x))
    else s.replay x seq

def execLinkNak (x seq : Nat) (s : State) : Host.Outcome State Fault Refusal := .next (s.linkNak x seq)

/-- LINK_RETRAIN_END: the replay resumes, or the link is retired and its unacknowledged packets go by the default route from
the last sequence accepted on. -/
def State.retrainEnd (s : State) (x : Nat) (ok : Bool) : State :=
  let l := s.link x
  if !l.retrain then s
  else if ok then (s.modLink x fun l => { l with retrain := false, naks := 0 }).replay x l.nakSeq
  else
    let left := l.sent.filter fun f => decide ((f.seq + 1024 - l.expectSeq) % 1024 < 512)
    let s := s.modLink x fun l => { l with retrain := false, retired := true, sent := [] }
    let s := (s.countLink (reverseLink x) 48).countLinkError (reverseLink x) 7
    left.foldl (fun (s : State) f => match f.packet with
      | none => s
      | some p => s.putBack x p) s

def execLinkRetrainEnd (x : Nat) (ok : Bool) (s : State) : Host.Outcome State Fault Refusal := .next (s.retrainEnd x ok)

end Sys2Proof.Machine
end

