-- ==== Sys2Proof/Machine/Channels.lean ====
section
/-! DEFINITION. Pseudo-channels: refreshes, request queues and slots, the buses that two of them share, array errors that a
Sieve meets, and transfers of the stack interface that fail (11 R289, R294, 23 R403-R406). -/

namespace Sys2Proof.Machine

open Sys2Proof

/-! ### Refreshes (11 R294) -/

/-- BANK_REFRESH: a bank whose refresh is due starts it. -/
def State.bankRefresh (s : State) (pc bank : Nat) : State :=
  let c := s.channel pc
  if 1024 ≤ pc ∨ 32 ≤ bank ∨ (spFind c.refresh bank).isSome ∨ s.cclk < spGet 0 c.lastRef bank + 3900 then s
  else s.modChannel pc fun c => { c with refresh := spPut c.refresh bank s.cclk, lastRef := spSet 0 c.lastRef bank s.cclk }

def execBankRefresh (pc bank : Nat) (s : State) : Host.Outcome State Fault Refusal := .next (s.bankRefresh pc bank)

/-- REFRESH_END: after 240 channel cycles the bank is free. -/
def State.refreshEnd (s : State) (pc bank : Nat) : State :=
  match spFind (s.channel pc).refresh bank with
  | none => s
  | some t => if s.cclk < t + 240 then s else s.modChannel pc fun c => { c with refresh := spDel c.refresh bank }

def execRefreshEnd (pc bank : Nat) (s : State) : Host.Outcome State Fault Refusal := .next (s.refreshEnd pc bank)

/-! ### Requests and slots (23 R403, R404) -/

/-- CHANNEL_REQUEST_ARRIVE. -/
def execChannelRequestArrive (pc : Nat) (r : ChanReq) (s : State) : Host.Outcome State Fault Refusal :=
  .next (s.requestArrive pc r)

/-- A request is ready to issue: its bank is not refreshing, and it writes no line that a scan holds (11 R293, R294). -/
def State.readyReq (s : State) (pc : Nat) (r : ChanReq) : Bool :=
  (spFind (s.channel pc).refresh r.bank).isNone && !(r.write && s.sieveHeld r.line)

/-- Requests of a class that are ready to issue, oldest first. -/
def State.readyIn (s : State) (pc cls : Nat) : List (ChanReq × Nat × Nat) :=
  ((s.channel pc).queues.getD cls []).filter fun e => s.readyReq pc e.1

/-- The request of the next slot: in slots 0 to 3 of 32 the oldest ready one of that class where there is one, since R404's bound
leaves out only the refreshes and holds of the request itself; else the highest class, the earliest deadline, the earliest arrival
(23 R404; DEDUCED, log 42). -/
def State.slotChoice (s : State) (pc : Nat) : Option (ChanReq × Nat × Nat) :=
  let k := (s.channel pc).slot % 32
  match (if k < 4 then (s.readyIn pc k).head? else none) with
  | some e => some e
  | none => firstBy (fun (e : ChanReq × Nat × Nat) => [3 - e.1.cls, e.2.2, e.2.1])
      ((List.range 4).flatMap fun i => s.readyIn pc (3 - i))

/-! ### The row bus and the column bus (23 R405) -/

/-- The other pseudo-channel of the channel. -/
def twin (pc : Nat) : Nat := if pc % 2 = 0 then pc + 1 else pc - 1

/-- A side's command is pending: it was chosen in an earlier cycle. -/
def BusSide.asks (b : BusSide) (now : Nat) : Bool := b.pending.any fun t => decide (t < now)

/-- The bus grants a pseudo-channel's pending command: neither side has been granted in this cycle, and of two pending commands the
one whose side was granted longer ago is granted, first the even pseudo-channel's. -/
def State.busGrants (s : State) (pc : Nat) (side : Channel → BusSide) : Bool :=
  let a := side (s.channel pc)
  let b := side (s.channel (twin pc))
  a.asks s.cclk && a.granted != some s.cclk && b.granted != some s.cclk && (!b.asks s.cclk || (match a.granted, b.granted with
  | some x, some y => decide (x < y)
  | some _, none => false
  | none, some _ => true
  | none, none => pc % 2 == 0))

/-- A request is chosen for the slot: its row command goes ahead where its row is not open, which is free (DESIGN CHOICE, log 102),
else its column command is pending. -/
def State.chooseSlot (s : State) (pc : Nat) (e : ChanReq × Nat × Nat) : State :=
  s.modChannel pc fun c =>
    if Config.freeBit s.tick pc then { c with chosen := some e, row := { c.row with pending := some s.cclk } }
    else { c with chosen := some e, col := { c.col with pending := some s.cclk } }

/-- The pseudo-channel's place in its channel's die: the memory port that answers. -/
def State.channelPort (s : State) (pc : Nat) : Place := ⟨s.ownFab, pc / 128, 128 + pc % 128 / 2⟩

/-- The chosen request's column command issues: it is served and answered, with a miss bit after its deadline. -/
def State.serve (s : State) (pc : Nat) (e : ChanReq × Nat × Nat) : State :=
  (s.modChannel pc fun c => { c with
      queues := c.queues.map fun q => q.erase e
      slot := c.slot + 1
      chosen := none
      col := { pending := none, granted := some s.cclk } }).send (s.answer (s.channelPort pc) e.1 (decide (e.2.2 < s.cclk)))

/-- COLUMN_SLOT: the pseudo-channel chooses a request, has its row command granted, or its column command, which serves it. A chosen
request whose bank refreshes or whose line a scan holds is given up. -/
def State.columnSlot (s : State) (pc : Nat) : State :=
  let s := s.arrayErrors pc
  match (s.channel pc).chosen with
  | none => (match s.slotChoice pc with
    | none => s
    | some e => s.chooseSlot pc e)
  | some e =>
    if !s.readyReq pc e.1 then s.modChannel pc fun c =>
      { c with chosen := none, row := { c.row with pending := none }, col := { c.col with pending := none } }
    else if s.busGrants pc Channel.row then s.modChannel pc fun c =>
      { c with row := { pending := none, granted := some s.cclk }, col := { c.col with pending := some s.cclk } }
    else if s.busGrants pc Channel.col then s.serve pc e
    else s

def execColumnSlot (pc : Nat) (s : State) : Host.Outcome State Fault Refusal := .next (s.columnSlot pc)

/-! ### SIEVE_PARTIAL_SEND (11 R289, 24 R409) -/

/-- The rows that a Sieve has read, the one that stopped it among them. -/
def Scan.rowsMet (k : Scan) (sieve : Nat) (f : Fold) : List (Nat × Nat) :=
  k.rowsRead sieve f ++ (match f.poison with
  | none => []
  | some p =>
    let j := 32 * p.1 + p.2.1
    [if p.2.2.1 then (k.vBase + keyOffset k.vStride j, k.rowBytes k.vSlot) else (k.kBase + keyOffset k.kStride j, k.rowBytes k.kSlot)])

/-- A Sieve ends its fold and sends its partial; the array errors of the rows that it has read count from then on (24 R409). -/
def State.sievePartial (s : State) (n sieve : Nat) : State :=
  let t := s.sieveSend n sieve
  match s.scanAt n with
  | none => t
  | some k => if t = s then s
    else
      let rows := k.rowsMet sieve (s.sieveFold k sieve)
      t.meetErrors fun e => rows.any fun r => decide (r.1 / 8 ≤ e.addr / 8) && decide (e.addr < r.1 + r.2)

def execSievePartialSend (n sieve : Nat) (s : State) : Host.Outcome State Fault Refusal := .next (s.sievePartial n sieve)

/-! ### Stack interface (23 R406) -/

/-- What reads memory next: accesses by their walks and at their homes, tile nodes, engine operations, fetches. -/
def State.readSteps (s : State) : List (State → State) :=
  (s.blocks.flatMap fun e =>
    (e.2.waves.flatMap fun w =>
      let id : WaveId := ⟨e.2.core, e.2.slot, w.1⟩
      w.2.log.flatMap fun x =>
        [fun s => s.translationWalk id x.1, fun s => s.loadResponse id x.1, fun s => s.atomicAtHome id x.1]) ++
    [fun s => s.tileStep e.2.core e.2.slot]) ++
  (s.ops.map fun o => fun s => s.engineReturnLand o.1) ++
  s.running.filterMap fun id => ((s.block? id).bind s.launchOf).map fun l =>
    fun s => s.icacheFill id.core l.asid ((s.wave id).wordAddr.toNat / 64)

/-- A read meets poison in an 8-byte unit this once. -/
def State.underPoison (s : State) (pa : Nat) (f : State → State) : State :=
  if s.poisoned pa then f s
  else
    let t := f (s.addPoison pa)
    { t with poison := t.poison.filter (· != s.memKey pa / 8) }

/-- An abandoned read returns poison of the link class: a read in progress that meets the unit fails with MEM_POISON, memory stands
(23 R406). -/
def State.readLost (s : State) (pa : Nat) : State :=
  let hit := s.readSteps.filter fun f => decide (s.underPoison pa f ≠ f s)
  match hit[Config.choose s.tick % max 1 hit.length]? with
  | none => s
  | some f => s.underPoison pa f

/-- An abandoned write is lost: later reads of its line return poison, until a unit is written whole (23 R406, 04 R420). -/
def State.writeLost (s : State) (pa : Nat) : State :=
  (List.range 8).foldl (fun (s : State) i => s.addPoison (pa / 64 * 64 + 8 * i)) s

/-- STACK_CRC_ERROR: a burst that failed is retried up to four times, then after retraining four times more; the transfer is
then abandoned, the pseudo-channel marked failed and retired, and it goes on serving (24 R410). Whether a retry fails is free
(DESIGN CHOICE, log 45). -/
def State.stackCrcError (s : State) (pc : Nat) (b : Burst) : State :=
  if 1024 ≤ pc then s
  else if b.failures < 9 then
    let s := s.countPc pc 0
    if Config.freeBit s.tick b.addr then s.push (.stackCrcError pc { b with failures := b.failures + 1 }) else s
  else
    let s := (s.countPc pc 16).modChannel pc fun c => { c with failed := true }
    let s := if b.read then s.readLost (b.addr / 8 * 8) else s.writeLost b.addr
    s.countError 5 (pc / 128) pc

def execStackCrcError (pc : Nat) (b : Burst) (s : State) : Host.Outcome State Fault Refusal := .next (s.stackCrcError pc b)

end Sys2Proof.Machine
end

