-- ==== Sys2Proof/Machine/Dispatch.lean ====
section
/-! DEFINITION. One arm per instruction: its meaning. -/

namespace Sys2Proof.Machine

open Sys2Proof

def exec (i : Instr) (s : State) : Host.Outcome State Fault Refusal :=
  match i with
  | .illegal w => Sys2Proof.Machine.execIllegal w s
  | .vadd f => Sys2Proof.Machine.execVadd f s
  | .vsub f => Sys2Proof.Machine.execVsub f s
  | .vmul f => Sys2Proof.Machine.execVmul f s
  | .vmulhi f => Sys2Proof.Machine.execVmulhi f s
  | .vmad f => Sys2Proof.Machine.execVmad f s
  | .vdiv f => Sys2Proof.Machine.execVdiv f s
  | .vrem f => Sys2Proof.Machine.execVrem f s
  | .vmin f => Sys2Proof.Machine.execVmin f s
  | .vmax f => Sys2Proof.Machine.execVmax f s
  | .vabs f => Sys2Proof.Machine.execVabs f s
  | .vneg f => Sys2Proof.Machine.execVneg f s
  | .vfma f => Sys2Proof.Machine.execVfma f s
  | .vaddi f => Sys2Proof.Machine.execVaddi f s
  | .vmuli f => Sys2Proof.Machine.execVmuli f s
  | .vshladd f => Sys2Proof.Machine.execVshladd f s
  | .vand f => Sys2Proof.Machine.execVand f s
  | .vor f => Sys2Proof.Machine.execVor f s
  | .vxor f => Sys2Proof.Machine.execVxor f s
  | .vnot f => Sys2Proof.Machine.execVnot f s
  | .vshl f => Sys2Proof.Machine.execVshl f s
  | .vshr f => Sys2Proof.Machine.execVshr f s
  | .vsar f => Sys2Proof.Machine.execVsar f s
  | .vrot f => Sys2Proof.Machine.execVrot f s
  | .vpopc f => Sys2Proof.Machine.execVpopc f s
  | .vclz f => Sys2Proof.Machine.execVclz f s
  | .vctz f => Sys2Proof.Machine.execVctz f s
  | .vbrev f => Sys2Proof.Machine.execVbrev f s
  | .vbfx f => Sys2Proof.Machine.execVbfx f s
  | .vbfi f => Sys2Proof.Machine.execVbfi f s
  | .vandi f => Sys2Proof.Machine.execVandi f s
  | .vori f => Sys2Proof.Machine.execVori f s
  | .vcmp f => Sys2Proof.Machine.execVcmp f s
  | .vcmpi f => Sys2Proof.Machine.execVcmpi f s
  | .pand f => Sys2Proof.Machine.execPand f s
  | .por f => Sys2Proof.Machine.execPor f s
  | .pxor f => Sys2Proof.Machine.execPxor f s
  | .pnot f => Sys2Proof.Machine.execPnot f s
  | .pmov f => Sys2Proof.Machine.execPmov f s
  | .vprd f => Sys2Proof.Machine.execVprd f s
  | .vsel f => Sys2Proof.Machine.execVsel f s
  | .vmov f => Sys2Proof.Machine.execVmov f s
  | .vmovi f => Sys2Proof.Machine.execVmovi f s
  | .vmovl f => Sys2Proof.Machine.execVmovl f s
  | .vmovh f => Sys2Proof.Machine.execVmovh f s
  | .vclass f => Sys2Proof.Machine.execVclass f s
  | .vexp2 f => Sys2Proof.Machine.execVexp2 f s
  | .vlog2 f => Sys2Proof.Machine.execVlog2 f s
  | .vrcp f => Sys2Proof.Machine.execVrcp f s
  | .vrsq f => Sys2Proof.Machine.execVrsq f s
  | .vrnd f => Sys2Proof.Machine.execVrnd f s
  | .vcvt f => Sys2Proof.Machine.execVcvt f s
  | .vcvti f => Sys2Proof.Machine.execVcvti f s
  | .vpack f => Sys2Proof.Machine.execVpack f s
  | .vunpk f => Sys2Proof.Machine.execVunpk f s
  | .vshfl f => Sys2Proof.Machine.execVshfl f s
  | .vballot f => Sys2Proof.Machine.execVballot f s
  | .vred f => Sys2Proof.Machine.execVred f s
  | .vminidx f => Sys2Proof.Machine.execVminidx f s
  | .vmaxidx f => Sys2Proof.Machine.execVmaxidx f s
  | .vfold f => Sys2Proof.Machine.execVfold f s
  | .vbcst f => Sys2Proof.Machine.execVbcst f s
  | .vtopk f => Sys2Proof.Machine.execVtopk f s
  | .vtopkm f => Sys2Proof.Machine.execVtopkm f s
  | .vsmx f => Sys2Proof.Machine.execVsmx f s
  | .vsmxmLane f => Sys2Proof.Machine.execVsmxmLane f s
  | .vsmxmWave f => Sys2Proof.Machine.execVsmxmWave f s
  | .sample f => Sys2Proof.Machine.execSample f s
  | .vrand f => Sys2Proof.Machine.execVrand f s
  | .nsrd f => Sys2Proof.Machine.execNsrd f s
  | .nsclr f => Sys2Proof.Machine.execNsclr f s
  | .sadd f => Sys2Proof.Machine.execSadd f s
  | .ssub f => Sys2Proof.Machine.execSsub f s
  | .smul f => Sys2Proof.Machine.execSmul f s
  | .smulhi f => Sys2Proof.Machine.execSmulhi f s
  | .sdiv f => Sys2Proof.Machine.execSdiv f s
  | .srem f => Sys2Proof.Machine.execSrem f s
  | .smin f => Sys2Proof.Machine.execSmin f s
  | .smax f => Sys2Proof.Machine.execSmax f s
  | .sand f => Sys2Proof.Machine.execSand f s
  | .sor f => Sys2Proof.Machine.execSor f s
  | .sxor f => Sys2Proof.Machine.execSxor f s
  | .snot f => Sys2Proof.Machine.execSnot f s
  | .sshl f => Sys2Proof.Machine.execSshl f s
  | .sshr f => Sys2Proof.Machine.execSshr f s
  | .ssar f => Sys2Proof.Machine.execSsar f s
  | .spopc f => Sys2Proof.Machine.execSpopc f s
  | .sclz f => Sys2Proof.Machine.execSclz f s
  | .sctz f => Sys2Proof.Machine.execSctz f s
  | .scmp f => Sys2Proof.Machine.execScmp f s
  | .ssel f => Sys2Proof.Machine.execSsel f s
  | .smov f => Sys2Proof.Machine.execSmov f s
  | .smovi f => Sys2Proof.Machine.execSmovi f s
  | .smovl f => Sys2Proof.Machine.execSmovl f s
  | .smovh f => Sys2Proof.Machine.execSmovh f s
  | .saddi f => Sys2Proof.Machine.execSaddi f s
  | .sfold f => Sys2Proof.Machine.execSfold f s
  | .ld f => Sys2Proof.Machine.execLd f s
  | .st f => Sys2Proof.Machine.execSt f s
  | .ldc f => Sys2Proof.Machine.execLdc f s
  | .stc f => Sys2Proof.Machine.execStc f s
  | .atom f => Sys2Proof.Machine.execAtom f s
  | .red f => Sys2Proof.Machine.execRed f s
  | .ald f => Sys2Proof.Machine.execAld f s
  | .kick f => Sys2Proof.Machine.execKick f s
  | .gath f => Sys2Proof.Machine.execGath f s
  | .fexp f => Sys2Proof.Machine.execFexp f s
  | .frev f => Sys2Proof.Machine.execFrev f s
  | .frd f => Sys2Proof.Machine.execFrd f s
  | .fwr f => Sys2Proof.Machine.execFwr f s
  | .fence f => Sys2Proof.Machine.execFence f s
  | .fwait f => Sys2Proof.Machine.execFwait f s
  | .binit f => Sys2Proof.Machine.execBinit f s
  | .barv f => Sys2Proof.Machine.execBarv f s
  | .bcnt f => Sys2Proof.Machine.execBcnt f s
  | .bwait f => Sys2Proof.Machine.execBwait f s
  | .phreg f => Sys2Proof.Machine.execPhreg f s
  | .phdrop f => Sys2Proof.Machine.execPhdrop f s
  | .phsig f => Sys2Proof.Machine.execPhsig f s
  | .phwait f => Sys2Proof.Machine.execPhwait f s
  | .phadv f => Sys2Proof.Machine.execPhadv f s
  | .evrd f => Sys2Proof.Machine.execEvrd f s
  | .sqreg f => Sys2Proof.Machine.execSqreg f s
  | .sqpushRes f => Sys2Proof.Machine.execSqpushRes f s
  | .sqpushCom f => Sys2Proof.Machine.execSqpushCom f s
  | .sqpopRes f => Sys2Proof.Machine.execSqpopRes f s
  | .sqpopCom f => Sys2Proof.Machine.execSqpopCom f s
  | .sqstat f => Sys2Proof.Machine.execSqstat f s
  | .amsend f => Sys2Proof.Machine.execAmsend f s
  | .cseg f => Sys2Proof.Machine.execCseg f s
  | .nop f => Sys2Proof.Machine.execNop f s
  | .bra f => Sys2Proof.Machine.execBra f s
  | .brany f => Sys2Proof.Machine.execBrany f s
  | .brall f => Sys2Proof.Machine.execBrall f s
  | .brs f => Sys2Proof.Machine.execBrs f s
  | .jmpi f => Sys2Proof.Machine.execJmpi f s
  | .meetLabel f => Sys2Proof.Machine.execMeetLabel f s
  | .meetRegister f => Sys2Proof.Machine.execMeetRegister f s
  | .meetNone f => Sys2Proof.Machine.execMeetNone f s
  | .call f => Sys2Proof.Machine.execCall f s
  | .calli f => Sys2Proof.Machine.execCalli f s
  | .ret f => Sys2Proof.Machine.execRet f s
  | .exit f => Sys2Proof.Machine.execExit f s
  | .launch f => Sys2Proof.Machine.execLaunch f s
  | .launcht f => Sys2Proof.Machine.execLauncht f s
  | .join f => Sys2Proof.Machine.execJoin f s
  | .yield f => Sys2Proof.Machine.execYield f s
  | .trap f => Sys2Proof.Machine.execTrap f s
  | .breakI f => Sys2Proof.Machine.execBreakI f s
  | .tclr f => Sys2Proof.Machine.execTclr f s
  | .tret f => Sys2Proof.Machine.execTret f s
  | .tdesc f => Sys2Proof.Machine.execTdesc f s
  | .tld f => Sys2Proof.Machine.execTld f s
  | .tmma f => Sys2Proof.Machine.execTmma f s
  | .tew f => Sys2Proof.Machine.execTew f s
  | .tmap f => Sys2Proof.Machine.execTmap f s
  | .tred f => Sys2Proof.Machine.execTred f s
  | .tcvt f => Sys2Proof.Machine.execTcvt f s
  | .tforce f => Sys2Proof.Machine.execTforce f s
  | .tst f => Sys2Proof.Machine.execTst f s
  | .tgrow f => Sys2Proof.Machine.execTgrow f s
  | .sqry f => Sys2Proof.Machine.execSqry f s
  | .sapp f => Sys2Proof.Machine.execSapp f s
  | .smrg f => Sys2Proof.Machine.execSmrg f s
  | .xred f => Sys2Proof.Machine.execXred f s
  | .xall f => Sys2Proof.Machine.execXall f s
  | .xgath f => Sys2Proof.Machine.execXgath f s
  | .xbcst f => Sys2Proof.Machine.execXbcst f s
  | .xbar f => Sys2Proof.Machine.execXbar f s
  | .sysrd f => Sys2Proof.Machine.execSysrd f s
  | .syswr f => Sys2Proof.Machine.execSyswr f s
  | .asinv f => Sys2Proof.Machine.execAsinv f s
  | .killb f => Sys2Proof.Machine.execKillb f s
  | .ctxsv f => Sys2Proof.Machine.execCtxsv f s
  | .ctxld f => Sys2Proof.Machine.execCtxld f s
  | .remap f => Sys2Proof.Machine.execRemap f s
  | .wstatWrite w v => Sys2Proof.Machine.execWstatWrite w v s
  | .rpcmdRegister v => Sys2Proof.Machine.execRpcmdRegister v s
  | .rpcmdRemove v => Sys2Proof.Machine.execRpcmdRemove v s
  | .clauseIssue core => Sys2Proof.Machine.execClauseIssue core s
  | .icacheFill core asid line => Sys2Proof.Machine.execIcacheFill core asid line s
  | .translationWalk w entry => Sys2Proof.Machine.execTranslationWalk w entry s
  | .fixedLatencyWriteback w => Sys2Proof.Machine.execFixedLatencyWriteback w s
  | .vfoldStamp w => Sys2Proof.Machine.execVfoldStamp w s
  | .loadResponse w entry => Sys2Proof.Machine.execLoadResponse w entry s
  | .operandLogFault w entry => Sys2Proof.Machine.execOperandLogFault w entry s
  | .atomicAtHome w entry => Sys2Proof.Machine.execAtomicAtHome w entry s
  | .sealedLineApply uid line => Sys2Proof.Machine.execSealedLineApply uid line s
  | .engineReturnLand op => Sys2Proof.Machine.execEngineReturnLand op s
  | .engineComplete op => Sys2Proof.Machine.execEngineComplete op s
  | .frondOwnerAccess w entry => Sys2Proof.Machine.execFrondOwnerAccess w entry s
  | .frondResponse w entry => Sys2Proof.Machine.execFrondResponse w entry s
  | .tileSubtileEval core slot => Sys2Proof.Machine.execTileSubtileEval core slot s
  | .sieveCommandAccept op => Sys2Proof.Machine.execSieveCommandAccept op s
  | .sievePartialSend op sieve => Sys2Proof.Machine.execSievePartialSend op sieve s
  | .sieveRecordLand op sieve => Sys2Proof.Machine.execSieveRecordLand op sieve s
  | .sappApply op => Sys2Proof.Machine.execSappApply op s
  | .bankRefresh pc bank => Sys2Proof.Machine.execBankRefresh pc bank s
  | .refreshEnd pc bank => Sys2Proof.Machine.execRefreshEnd pc bank s
  | .channelRequestArrive pc r => Sys2Proof.Machine.execChannelRequestArrive pc r s
  | .columnSlot pc => Sys2Proof.Machine.execColumnSlot pc s
  | .stackCrcError pc b => Sys2Proof.Machine.execStackCrcError pc b s
  | .crossbarGrant die port => Sys2Proof.Machine.execCrossbarGrant die port s
  | .switchForward plane tier switch => Sys2Proof.Machine.execSwitchForward plane tier switch s
  | .escapeMove die port cls => Sys2Proof.Machine.execEscapeMove die port cls s
  | .packetDeliver die port => Sys2Proof.Machine.execPacketDeliver die port s
  | .linkFlitReceive link f => Sys2Proof.Machine.execLinkFlitReceive link f s
  | .linkNak link seq => Sys2Proof.Machine.execLinkNak link seq s
  | .windowContributionApply group => Sys2Proof.Machine.execWindowContributionApply group s
  | .windowAckReceive group => Sys2Proof.Machine.execWindowAckReceive group s
  | .windowClose tenant tag package => Sys2Proof.Machine.execWindowClose tenant tag package s
  | .collectiveMeet tenant cid => Sys2Proof.Machine.execCollectiveMeet tenant cid s
  | .collectiveComplete op => Sys2Proof.Machine.execCollectiveComplete op s
  | .blockRetire core slot => Sys2Proof.Machine.execBlockRetire core slot s
  | .launchComplete launch => Sys2Proof.Machine.execLaunchComplete launch s
  | .tailStart launch => Sys2Proof.Machine.execTailStart launch s
  | .blockDispatch die => Sys2Proof.Machine.execBlockDispatch die s
  | .ticketSteal die group => Sys2Proof.Machine.execTicketSteal die group s
  | .dispatchAging die launch => Sys2Proof.Machine.execDispatchAging die launch s
  | .blockFlush core slot => Sys2Proof.Machine.execBlockFlush core slot s
  | .blockSave core slot => Sys2Proof.Machine.execBlockSave core slot s
  | .contextWrite core slot => Sys2Proof.Machine.execContextWrite core slot s
  | .drainTimeout core slot => Sys2Proof.Machine.execDrainTimeout core slot s
  | .sliceExpire core slot => Sys2Proof.Machine.execSliceExpire core slot s
  | .sliceContinue core slot => Sys2Proof.Machine.execSliceContinue core slot s
  | .doorbell q wide v => Sys2Proof.Machine.execDoorbell q wide v s
  | .qcfgWrite q v => Sys2Proof.Machine.execQcfgWrite q v s
  | .qstatWrite q v => Sys2Proof.Machine.execQstatWrite q v s
  | .queueRegisterWrite q grp v => Sys2Proof.Machine.execQueueRegisterWrite q grp v s
  | .queueAging q => Sys2Proof.Machine.execQueueAging q s
  | .queueRecordRead => Sys2Proof.Machine.execQueueRecordRead s
  | .queueRecordArrive q pcieError => Sys2Proof.Machine.execQueueRecordArrive q pcieError s
  | .launchArriveDie launch die => Sys2Proof.Machine.execLaunchArriveDie launch die s
  | .pcieMemoryWrite addr bytes => Sys2Proof.Machine.execPcieMemoryWrite addr bytes s
  | .ladleMove die => Sys2Proof.Machine.execLadleMove die s
  | .amArrive core m => Sys2Proof.Machine.execAmArrive core m s
  | .trapOverrun w => Sys2Proof.Machine.execTrapOverrun w s
  | .errorWindowExpire die => Sys2Proof.Machine.execErrorWindowExpire die s
  | .coldStart x => Sys2Proof.Machine.execColdStart x s
  | .warmReset x => Sys2Proof.Machine.execWarmReset x s
  | .thermalTrip die => Sys2Proof.Machine.execThermalTrip die s
  | .attestationQuote nonce => Sys2Proof.Machine.execAttestationQuote nonce s
  | .linkRetrainEnd link ok => Sys2Proof.Machine.execLinkRetrainEnd link ok s

end Sys2Proof.Machine
end

