-- ==== Sys2Proof/Machine/Transit.lean ====
section
/-! DEFINITION. Traffic: the packets that accesses, walks, fetches, engines, windows, messages and commands put into the fabric
(23 R393, R395, R403). A packet's way does not change what its access does (DESIGN CHOICE, log 46). -/

namespace Sys2Proof.Machine

open Sys2Proof

/-! ### Launches and places -/

def Launch.det (l : Launch) : Bool := l.record.detReduce

/-- The deterministic bit of a block's launch (23 R393). -/
def State.detOf (s : State) (uid : Nat) : Bool := ((s.anyBlock uid).bind s.launchOf).any Launch.det

/-- A synchronisation engine, by the die in an object's handle (07 R204, R207; PRESUMED, log 41). -/
def State.syncPort (s : State) (die : Nat) : Place := ⟨s.ownFab, die % 8, 208⟩

/-- The machine after an instruction. -/
def State.after (s : State) (i : Instr) : State :=
  match exec i s with
  | .next t => t
  | _ => s

/-! ### Walks (22 R373, R376) -/

/-- The table entries that a walk reads. -/
def State.walkReads (s : State) (va : Nat) : List (Nat × Bool × Bool) → Nat → List Nat
  | [], _ => []
  | (sh, _, last) :: rest, table =>
    let pa := table + 8 * (va / 2 ^ sh % (if last then 32 else 512))
    let e : W64 := BitVec.ofNat 64 (s.readNat pa 8)
    pa :: (if !e.getLsbD 0 || e.getLsbD 1 || last then [] else s.walkReads va rest (leafAddr e))

/-- The requests of the walks of some addresses: class 3, one for each entry read. -/
def State.walkSends (s : State) (core asid : Nat) (vas : List Nat) (phase det : Bool) : List Sending :=
  let root := s.pkgR (0x500 + asid)
  if !root.getLsbD 0 then []
  else (vas.eraseDups.flatMap fun va => s.walkReads va walkLevels (leafAddr root)).map fun pa =>
    s.request .walk core pa 0 8 false phase det

/-- The walks of a step: of the translations that it comes to hold, and of the addresses whose translation fails and which no held one
serves (22 R376). -/
def State.newWalks (s t : State) (core asid : Nat) (lost : List Nat) (phase det : Bool) : List Sending :=
  ((t.held.filter fun h => !decide (h ∈ s.held)).flatMap fun h => s.walkSends core h.asid [h.va] phase det) ++
  s.walkSends core asid (lost.filter fun va => decide (va < 2 ^ 57) &&
    !s.held.any fun h => h.asid == asid && decide (h.va ≤ va) && decide (va < h.va + h.size)) phase det

/-! ### Accesses, operations, lines -/

/-- Physical lines that lanes of an entry touch. -/
def LogEntry.linesOf (e : LogEntry) (ls : List Nat) : List Nat := (ls.map fun l => physOf e.pages (e.addrAt l).toNat / 64).eraseDups

/-- The packets of an access at its home: the lines it reads or changes, the window it contributes to (04 R104, 23 R397). -/
def State.homeSends (s : State) (l : Launch) (id : WaveId) (e : LogEntry) : List Sending :=
  let tag := e.phase % 2 == 1
  if e.loadReady then (e.linesOf (lanesOf e.left)).map fun x => s.request .load id.core (x * 64) 0 e.bytes false tag l.det
  else if e.atomReady then
    let now := s.atomNow l e
    let plain := now.filter fun ln => (s.windowOf l.tenant (e.addrAt ln)).isNone
    (now.filterMap fun ln => (s.windowOf l.tenant (e.addrAt ln)).map fun win =>
      ({ traffic := .reduction, src := s.clusterPort id.core, dst := s.windowPort win, phase := tag, det := l.det, bytes := 16 } : Sending)) ++
    (e.linesOf plain).map fun x => s.request .atomic id.core (x * 64) e.bytes e.bytes true tag l.det
  else []

/-- The addresses of a logged access whose translation fails: of its lanes, or the one at which an engine operation's re-issue has
failed. -/
def State.entryLost (s t : State) (l : Launch) (id : WaveId) (n : Nat) (e : LogEntry) : List Nat :=
  if e.opcode = 0x107 ∨ e.opcode = 0x108 ∨ 0x2A0 ≤ e.opcode then
    (match spFind (t.wave id).log n with
    | some x => if x.stage = 3 ∧ (x.cause = cPAGE_FAULT ∨ x.cause = cPROT_PAGE ∨ x.cause = cMEM_POISON) then [x.faultAddr.toNat] else []
    | none => [])
  else
    let here := (lanesOf e.left).filter fun ln => !e.isAtomic || (s.windowOf l.tenant (e.addrAt ln)).isNone
    ((here.map fun ln => (e.addrAt ln).toNat).eraseDups).filter fun va => match s.translate l.asid l.tenant va e.rights with
      | .error _ => true
      | .ok _ => false

/-- The packets of a logged access: of its walk, or at its home. -/
def State.entrySends (s : State) (id : WaveId) (n : Nat) (walk : Bool) : List Sending :=
  match s.block? id, spFind (s.wave id).log n with
  | some b, some e => match s.launchOf b with
    | none => []
    | some l =>
      if walk then
        let t := s.translationWalk id n
        if t = s then [] else s.newWalks t id.core l.asid (s.entryLost t l id n e) (e.phase % 2 == 1) l.det
      else s.homeSends l id e
  | _, _ => []

/-- The places of home that an operation reads next, with their bytes: the lines of an ALD's lanes, else the one unit that it reads, if
it has not read it for another row. -/
def State.opReads (s : State) (o : EngineOp) : List (Nat × Nat) :=
  if o.kind = .ald then (match o.entry.bind (spFind (s.wave o.w).log) with
    | none => []
    | some e => (e.linesOf (lanesOf e.lanes)).map fun x => (x * 64, e.bytes))
  else if o.rdSpace ≠ .memory then []
  else
    let u := if o.kind.isColl then o.rd[Config.choose s.tick % max 1 o.rd.length]? else o.nextUnit (Config.choose s.tick)
    (u.toList.filter fun u => (spFind o.buf u.1).isNone).map fun u => (u.2, 8)

/-- The packets of an engine operation's reads (23 R395, R403). -/
def State.opSends (s : State) (n : Nat) : List Sending :=
  match spFind s.ops n with
  | none => []
  | some o => (s.opReads o).map fun x => s.request .engine o.w.core x.1 0 x.2 false (o.phase % 2 == 1) (s.detOf o.uid)

/-- The packets of an engine operation's writes, one for each line. -/
def State.opWrites (s : State) (n : Nat) : List Sending :=
  match spFind s.ops n with
  | none => []
  | some o =>
    if o.status ≠ 0 ∨ o.wrSpace ≠ .memory then []
    else (((o.cells.map fun x => x.1 / 64).eraseDups)).map fun x =>
      s.request .engine o.w.core (x * 64) (o.cells.filter fun c => c.1 / 64 == x).length 0 true (o.phase % 2 == 1) (s.detOf o.uid)

/-- A node that a step has made faulted with a cause of translation: its fault address (09 R265). -/
def nodesLost (b c : Block) : List Nat :=
  c.nodes.filterMap fun n =>
    if n.2.state = 2 ∧ (n.2.cause = cPAGE_FAULT ∨ n.2.cause = cPROT_PAGE) ∧ spFind b.nodes n.1 ≠ some n.2 then some n.2.faultAddr.toNat
    else none

/-- The packets of tile nodes that a step has evaluated: their walks and the units of home that they have read (04 R113, 09 R251). -/
def State.nodeSends (s : State) (core slot : Nat) : List Sending :=
  let t := s.tileStep core slot
  match s.block? ⟨core, slot, 0⟩, t.block? ⟨core, slot, 0⟩ with
  | some b, some c =>
    let got := fun (b : Block) => b.nodes.flatMap fun n => n.2.buf.map Prod.fst
    let tag := b.journal.phase % 2 == 1
    s.newWalks t core (((s.launchOf b).map Launch.asid).getD 0) (nodesLost b c) tag (s.detOf b.uid) ++
    ((((got c).filter fun u => !decide (u ∈ got b)).map (· / 8)).eraseDups).map fun x =>
      s.request .engine core (64 * x) 0 64 false tag (s.detOf b.uid)
  | _, _ => []

/-- Bytes cut into packets of at most 256; none make one packet. -/
def packetsOf (n : Nat) : List Nat := (List.range (max 1 ((n + 255) / 256))).map fun k => min 256 (n - 256 * k)

/-- Collective data to the other packages of an instance (12 R301). -/
def State.collSends (s : State) (tenant cid : Nat) : List Sending :=
  match s.nextColl tenant cid with
  | none => []
  | some o => match o.inst with
    | none => []
    | some i => ((List.range i.count).filter fun k => i.first + k != i.package).flatMap fun k => (packetsOf i.ownLen).map fun n =>
        { traffic := .collective, src := s.clusterPort o.w.core, dst := s.packagePort tenant (i.first + k)
          phase := o.phase % 2 == 1, det := i.det, bytes := n }

/-- Collective data applied at its destination. -/
def State.applySends (s : State) (n : Nat) : List Sending :=
  match spFind s.ops n with
  | none => []
  | some o => match o.inst with
    | none => []
    | some i => (((o.destCells i).map fun x => x.1 / 64).eraseDups).map fun x =>
        s.request .engine o.w.core (x * 64) 64 0 true (o.phase % 2 == 1) i.det

/-- A sealed line drains under the tag of its own phase (04 R117). -/
def State.lineSends (s : State) (uid line : Nat) : List Sending :=
  match s.anyBlock uid with
  | none => []
  | some b => match b.journal.oldestSealed line with
    | none => []
    | some l => [s.request .sealedLine b.core (line * 64) 64 0 true (l.phase % 2 == 1) (s.detOf uid)]

/-! ### Sieves -/

/-- A Sieve command or an append on its way to a pseudo-channel: a request with the descriptor's class and budget, which waits in its
virtual channel where the queue is full (11 R281, 23 R403); it names no bank (DEDUCED, log 42). -/
def State.sieveAsk (s : State) (o : EngineOp) (pc bytes : Nat) : Sending :=
  let tag := o.phase % 2 == 1
  { traffic := .sieve, src := s.clusterPort o.w.core, dst := s.channelPort pc, phase := tag, det := s.detOf o.uid, bytes := bytes
    load := .request (some pc)
      { cls := o.service.1, budget := o.service.2, die := dieOf o.w.core, port := o.w.core % 512 / 4, bank := 32, tag := o.id
        phase := tag, det := s.detOf o.uid } }

/-- A command to a pseudo-channel's Sieves. -/
def State.scanSends (s : State) (n : Nat) : List Sending :=
  match s.scanAt n, spFind s.ops n with
  | some k, some o => if k.accepted then [] else [s.sieveAsk o k.pc (4 * k.d)]
  | _, _ => []

/-- A Sieve's record goes back (11 R288). -/
def State.recordSends (s : State) (n : Nat) : List Sending :=
  match s.scanAt n, spFind s.ops n with
  | some k, some o => [{ traffic := .response, src := s.channelPort k.pc, dst := s.clusterPort o.w.core, phase := o.phase % 2 == 1
                         det := s.detOf o.uid, bytes := recordBytes k.d }]
  | _, _ => []

/-- An append to a pseudo-channel, which acknowledges it (23 R399). -/
def State.appendSends (s : State) (n : Nat) : List Sending :=
  match spFind s.ops n with
  | none => []
  | some o => match o.wr with
    | [] => []
    | u :: _ => [s.sieveAsk o (s.pcOf u.2) o.cells.length]

/-! ### Synchronisation, windows, messages -/

/-- A command of a wave to a synchronisation engine and its reply, once the wave goes on from it (07 R204, R207). -/
def State.objectSends (s : State) (t : Traffic) (i : Instr) (f : F) : List Sending :=
  match s.ctx f.ctl with
  | none => []
  | some c =>
    let w := (s.after i).wave s.cur
    if w.wordAddr == (s.wave s.cur).wordAddr || w.saved != (s.wave s.cur).saved then []
    else
      let port := s.syncPort ((c.scalar f.a).extractLsb' 16 3).toNat
      let tag := c.b.journal.phase % 2 == 1
      [{ traffic := t, src := s.clusterPort s.cur.core, dst := port, phase := tag, det := c.l.det },
       { traffic := .response, src := port, dst := s.clusterPort s.cur.core, phase := tag, det := c.l.det, bytes := 8 }]

/-- Acknowledgements of a window's home in this package to contributions of this package and of others (23 R398). -/
def State.ackSends (s : State) (k : Nat) : List Sending :=
  match spFind s.wingroups k with
  | none => []
  | some g =>
    if !s.homeHere g.window then []
    else g.back.map fun p =>
      { traffic := .ack, src := s.windowPort g.window, phase := g.tag, det := g.det, bytes := if p.ret then 8 else 0
        dst := if s.ownPart g p then s.clusterPort p.w.core
          else s.packagePort ((s.pkgR (0x4C1 + 2 * g.window)).extractLsb' 24 4).toNat p.package }

/-- close(t) of this package goes to each other home of the tenant's windows that has not had it (23 R398). -/
def State.closeSends (s : State) (tenant tag package : Nat) : List Sending :=
  if s.groupSize tenant ≤ package ∨ 2 ≤ tag ∨ package ≠ s.ownPackage tenant ∨ s.mayClose tenant tag = false then []
  else ((s.homesOf tenant).filter fun p => !decide ((tenant, tag, p) ∈ s.closesSent)).map fun p =>
    { traffic := .close, src := ⟨s.ownFab, 8, 208⟩, dst := s.packagePort tenant p, phase := tag == 1, det := true }

/-- Messages whose handler waves a step spawns are acknowledged (23 R399). -/
def State.spawnSends (s : State) (i : Instr) : List Sending :=
  let t := s.after i
  s.msgq.flatMap fun e => (e.2.filter fun m => !decide (m ∈ spGet [] t.msgq e.1)).map fun m =>
    { traffic := .ack, src := s.clusterPort e.1, dst := s.clusterPort m.sender.core, phase := m.phase % 2 == 1, det := s.detOf m.uid }

/-- The messages that a step sends (07 R210): their packets have their flow's next numbers then (23 R393, R401). -/
def State.postedSends (s : State) (i : Instr) : List Sending :=
  ((s.after i).agenda.drop s.agenda.length).filterMap fun x => match x with
    | .amArrive core m => some { traffic := .message, src := s.clusterPort m.sender.core, dst := s.clusterPort core
                                 phase := m.phase % 2 == 1, det := s.detOf m.uid, bytes := 144 }
    | _ => none

/-! ### Fronds (02 R66-R73, 04 R117) -/

/-- Owner cores of an access but for its own, with the lanes they serve. -/
def LogEntry.owners (e : LogEntry) (id : WaveId) : List (Nat × Nat) :=
  let cores := (lanesOf e.lanes).map fun l => (e.ownerWord l).1.core
  ((cores.eraseDups).filter (· != id.core)).map fun c => (c, (cores.filter (· == c)).length)

/-- The requests of a Frond access to its owner cores, the acknowledgements of its writes and the responses to its reads. -/
def State.frondSends (s t : State) (id : WaveId) (n : Nat) : List Sending :=
  match s.block? id, spFind (s.wave id).log n with
  | some b, some e =>
    let tag := e.phase % 2 == 1
    let det := s.detOf b.uid
    let back := fun (tr : Traffic) (bytes : Nat) => (e.owners id).map fun c =>
      ({ traffic := tr, src := s.clusterPort c.1, dst := s.clusterPort id.core, phase := tag, det := det, bytes := bytes * c.2 } : Sending)
    if t = s ∨ e.state ≠ 1 ∨ e.isFrond = false then []
    else if e.stage = 0 then (e.owners id).map fun c =>
      { traffic := .frond, src := s.clusterPort id.core, dst := s.clusterPort c.1, phase := tag, det := det
        bytes := (if e.opcode = 0x112 then 12 else 16) * c.2 }
    else if e.opcode = 0x112 then back .response 4 else back .ack 0
  | _, _ => []

/-! ### Fetches (22 R377, 23 R403) -/

/-- The read of an instruction line from its home, class 2, with its walk, for the block that asks for it. -/
def State.fetchSends (s : State) (i : Instr) (core asid line : Nat) : List Sending :=
  match s.fetcher core asid line with
  | none => []
  | some x => match s.block? x.1 with
    | none => []
    | some b => match s.launchOf b with
      | none => []
      | some l =>
        let tag := b.journal.phase % 2 == 1
        match s.translate asid l.tenant x.2.1.toNat [rEXEC] with
        | .error _ => s.newWalks (s.after i) core asid [x.2.1.toNat] tag l.det
        | .ok pa => s.newWalks (s.after i) core asid [] tag l.det ++ [s.request .fetch core (pa / 64 * 64) 0 64 false tag l.det]

/-- The address at which an instruction's own translation fails. -/
def State.lostOf (s : State) (i : Instr) : Option Nat :=
  match i with
  | .kick f => (s.ctx f.ctl).bind (copyLost f false s)
  | .gath f => (s.ctx f.ctl).bind (copyLost f true s)
  | .tld f => (s.ctx f.ctl).bind (rowsLost (tldReads f) [rREAD] s)
  | .tst f => (s.ctx f.ctl).bind (rowsLost (tstWrites f) [rWRITE] s)
  | .sqry f => (s.ctx f.ctl).bind (baseLost f false rREAD s)
  | .sapp f => (s.ctx f.ctl).bind (baseLost f true rWRITE s)
  | .xred f => (s.ctx f.ctl).bind (collLost f 0 s)
  | .xall f => (s.ctx f.ctl).bind (collLost f 1 s)
  | .xgath f => (s.ctx f.ctl).bind (collLost f 2 s)
  | .xbcst f => (s.ctx f.ctl).bind (collLost f 3 s)
  | .xbar f => (s.ctx f.ctl).bind (collLost f 4 s)
  | .launch f => (s.ctx f.ctl).bind (launchLost f s)
  | .launcht f => (s.ctx f.ctl).bind (launchLost f s)
  | .amsend f => (s.ctx f.ctl).bind (amsendLost f s)
  | .call f => (s.ctx f.ctl).bind fun c => s.headerLost c (callTarget f c)
  | .calli f => (s.ctx f.ctl).bind fun c => s.headerLost c (c.target f.a)
  | _ => none

/-- The walks of an instruction and the reads of the lines that it fills as it reads headers (01 R26), under its block's tag. -/
def State.codeSends (s : State) (i : Instr) : List Sending :=
  let t := s.after i
  match s.block? s.cur with
  | none => []
  | some b => match s.launchOf b with
    | none => []
    | some l =>
      let tag := b.journal.phase % 2 == 1
      s.newWalks t s.cur.core l.asid (s.lostOf i).toList tag l.det ++
      (t.icache.filter fun x => x.core == s.cur.core && !decide (x ∈ s.icache)).filterMap
        fun x => match s.translate x.asid x.tenant (x.line * 64) [rEXEC] with
          | .error _ => none
          | .ok pa => some (s.request .fetch x.core pa 0 64 false tag l.det)

/-- The four lines of the launch record that LAUNCH and LAUNCHT read, where they come to submit it (08 R223). -/
def State.recordReads (s : State) (f : F) : List Sending :=
  match s.ctx f.ctl with
  | none => []
  | some c => if c.part = 0 ∨ c.scalar f.a &&& 63 ≠ 0 then []
    else (List.range 4).filterMap fun k => match s.translate c.l.asid c.l.tenant ((c.scalar f.a).toNat + 64 * k) [rREAD] with
      | .error _ => none
      | .ok pa => some (s.request .load s.cur.core pa 0 64 false (c.b.journal.phase % 2 == 1) c.l.det)

/-! ### The packets of a step -/

/-- The packets that a step puts into the fabric. -/
def State.sends (s : State) (i : Instr) : List Sending :=
  match i with
  | .translationWalk id n => s.entrySends id n true
  | .loadResponse id n => s.entrySends id n false
  | .atomicAtHome id n => s.entrySends id n false
  | .icacheFill core asid line => if s.after i = s then [] else s.fetchSends i core asid line
  | .frondOwnerAccess id n => s.frondSends (s.frondOwnerAccess id n) id n
  | .frondResponse id n => s.frondSends (s.frondResponse id n) id n
  | .sealedLineApply uid line => if s.sealedLineApply uid line = s then [] else s.lineSends uid line
  | .engineReturnLand n => if s.engineReturnLand n = s then [] else s.opSends n
  | .engineComplete n => if s.engineComplete n = s then [] else s.opWrites n
  | .tileSubtileEval core slot => s.nodeSends core slot
  | .sieveCommandAccept n => if s.sieveAccept n = s then [] else s.scanSends n
  | .sievePartialSend n k => if s.sieveSend n k = s then [] else s.recordSends n
  | .sappApply n => if s.sappApply n = s then [] else s.appendSends n
  | .collectiveComplete n => if s.collComplete n = s then [] else s.applySends n
  | .collectiveMeet tenant cid => s.collSends tenant cid
  | .windowAckReceive k => s.ackSends k
  | .windowClose tenant tag package => s.closeSends tenant tag package
  | .contextWrite _ _ => s.postedSends i
  | .blockDispatch _ => s.spawnSends i
  | .phreg f | .phdrop f | .phsig f | .phadv f | .phwait f => s.objectSends .phaser i f
  | .sqreg f | .sqpushRes f | .sqpushCom f | .sqpopRes f | .sqpopCom f | .sqstat f => s.objectSends .stageQueue i f
  | .call _ | .calli _ | .kick _ | .gath _ | .tld _ | .tst _ | .sqry _ | .sapp _ | .xred _ | .xall _ | .xgath _ | .xbcst _ | .xbar _ =>
    s.codeSends i
  | .amsend _ => s.codeSends i ++ s.postedSends i
  | .launch f | .launcht f => s.codeSends i ++ s.recordReads f
  | _ => []

end Sys2Proof.Machine
end

