-- ==== Sys2Proof/Machine/Agents.lean ====
section
/-! DEFINITION. What may move next: a wave in its issue slot, an input or something in transit, or a step of the device that
the state has due. One of them moves in a step; which one is free (DESIGN CHOICE, log 1). -/

namespace Sys2Proof.Machine

open Sys2Proof

/-- Who moves in a step: the item of the agenda at a place, a step of the device, or a wave with its next instruction. -/
inductive Agent where
  | item (k : Nat) (i : Instr)
  | event (i : Instr)
  | wave (id : WaveId)
  deriving DecidableEq, Repr

/-! ### Steps of the device that may be due -/

/-- Steps of a wave: results, accesses, its handler's limit, and the line its next header stands in. -/
def State.waveSteps (s : State) (id : WaveId) (w : Wave) : List Instr :=
  (if w.foldq.isEmpty then [] else [.vfoldStamp id]) ++
  (if w.inflight.all InFlight.landed then [] else [.fixedLatencyWriteback id]) ++
  (if w.handler then [.trapOverrun id] else []) ++
  (w.log.flatMap fun e => if e.2.state ≠ 1 then [] else
    [.translationWalk id e.1, .loadResponse id e.1, .atomicAtHome id e.1, .operandLogFault id e.1, .frondOwnerAccess id e.1,
     .frondResponse id e.1]) ++
  (if id ∈ s.running ∨ w.live = 0 then [] else match w.wants, (s.block? id).bind s.launchOf with
    | some a, some l => if s.fetchFor id a = .fill then [.icacheFill id.core l.asid (a.toNat / 64)] else []
    | _, _ => [])

/-- Sealed lines of a journal. -/
def Block.lineSteps (b : Block) : List Instr :=
  (((b.journal.lines.filter fun l => decide (l.phase < b.journal.phase)).map JLine.line).eraseDups).map fun n => .sealedLineApply b.uid n

/-- Steps of a resident block. -/
def State.blockSteps (s : State) (b : Block) : List Instr :=
  (b.waves.flatMap fun e => s.waveSteps ⟨b.core, b.slot, e.1⟩ e.2) ++ b.lineSteps ++
  [.tileSubtileEval b.core b.slot, .blockRetire b.core b.slot, .blockFlush b.core b.slot, .blockSave b.core b.slot,
   .contextWrite b.core b.slot, .drainTimeout b.core b.slot, .sliceExpire b.core b.slot, .sliceContinue b.core b.slot]

/-- Steps of an engine operation. -/
def EngineOp.steps (o : EngineOp) : List Instr :=
  [.engineReturnLand o.id, .engineComplete o.id, .sappApply o.id, .collectiveComplete o.id] ++
  (match o.scan with
  | none => []
  | some _ => .sieveCommandAccept o.id ::
      (List.range 16).flatMap fun i => [.sievePartialSend o.id i, .sieveRecordLand o.id i]) ++
  (match o.inst with
  | none => []
  | some i => [.collectiveMeet i.tenant i.cid])

/-- Steps of a launch on the dies. -/
def launchSteps (n : Nat) (l : Launch) : List Instr :=
  [.launchComplete n, .tailStart n] ++ (List.range 8).flatMap fun d =>
    .dispatchAging d n :: (List.range l.groups.length).map fun g => .ticketSteal d (n * 65536 + g)

/-- Sends of scans that outlive their operation (11 R288). -/
def State.orphanSteps (s : State) : List Instr := s.orphans.flatMap fun k => (List.range 16).map fun i => .sievePartialSend k.1 i

/-- Steps of the reduction windows: a contribution of another package enters, this package closes a tag for the homes of a
tenant's windows (23 R398). -/
def State.windowSteps (s : State) : List Instr :=
  (if s.winArrivals.isEmpty then [] else [.windowContributionApply s.nextGroup]) ++
  (s.wingroups.flatMap fun g => [.windowContributionApply g.1, .windowAckReceive g.1]) ++
  (List.range 16).flatMap fun w =>
    if !(s.pkgR (0x4C0 + 2 * w)).getLsbD 63 && !(s.wingroups.any fun g => g.2.window == w) then [] else
    let t := ((s.pkgR (0x4C1 + 2 * w)).extractLsb' 24 4).toNat
    [.windowClose t 0 (s.ownPackage t), .windowClose t 1 (s.ownPackage t)]

/-- Steps of a pseudo-channel in use. -/
def channelSteps (pc : Nat) : List Instr :=
  .columnSlot pc :: (List.range 32).flatMap fun b => [.bankRefresh pc b, .refreshEnd pc b]

/-- Refreshes due at pseudo-channels that have not been used (11 R294). -/
def State.idleRefreshes (s : State) : List Instr :=
  if s.cclk < 3900 then []
  else ((List.range 1024).filter fun pc => (spFind s.channels pc).isNone).flatMap fun pc => (List.range 32).map fun b => .bankRefresh pc b

/-- Steps of a lane of a port: outputs that its heads ask for, moves, deliveries. -/
def State.portSteps (s : State) (k : Nat) : List Instr :=
  let die := k / 32768
  let port := k / 128 % 256
  ((s.heads die (port, k % 128)).map fun h => .crossbarGrant die (s.hopPort die h.p (s.route die h.p).1)) ++
  (List.range 4).map (fun c => .escapeMove die port c) ++ [.packetDeliver die port]

/-- Steps of a switch, by the key of one of its ports. -/
def switchSteps (q : Nat) : List Instr :=
  let k := q / 64
  .switchForward (k / 4096) (k / 1024 % 4) (k % 1024) :: (List.range 4).map fun c => .escapeMove (16 + k) (q % 64) c

/-- Steps of the work queues; whether a record read over PCIe fails is free (DESIGN CHOICE, log 45). -/
def State.queueSteps (s : State) : List Instr :=
  (if s.queues.isEmpty then [] else [.queueRecordRead]) ++ s.queues.flatMap fun e =>
    .queueAging e.1 :: (if e.2.reading then [.queueRecordArrive e.1 (Config.freeBit s.tick e.1)] else [])

/-- Every step that the device's state may have due. -/
def State.candidates (s : State) : List Instr :=
  (s.blocks.flatMap fun e => s.blockSteps e.2) ++ (s.saved.flatMap fun c => c.block.lineSteps) ++
  ((((s.blocks.map fun e => e.2.core) ++ s.hwErrors.filterMap fun e => if e.cls ≤ 2 then some e.core else none).eraseDups).map
    fun c => .clauseIssue c) ++ (((s.hwErrors.filter HwError.array).map fun e => s.pcOf e.addr).eraseDups).map (fun pc => .columnSlot pc) ++
  (s.ops.flatMap fun o => o.2.steps) ++ s.orphanSteps ++ (s.launches.flatMap fun l => launchSteps l.1 l.2) ++ s.windowSteps ++
  (List.range 8).flatMap (fun d => [.blockDispatch d, .ladleMove d]) ++ s.queueSteps ++
  (s.channels.flatMap fun c => channelSteps c.1) ++ s.idleRefreshes ++ (s.ports.flatMap fun p => s.portSteps p.1) ++
  (s.switches.flatMap fun k => switchSteps k.1) ++ (List.range 10).map fun d => .errorWindowExpire d

/-- An instruction goes on to a given state. -/
def goesTo (i : Instr) (s t : State) : Bool :=
  match exec i s with
  | .next u => decide (u = t)
  | _ => false

/-- A step is due when it changes the machine. -/
def State.due (s : State) (i : Instr) : Bool := !goesTo i s s

/-! ### The agenda -/

/-- The agenda without an item. -/
def State.without (s : State) (k : Nat) : State := { s with agenda := s.agenda.eraseIdx k }

/-- An item that only waits: it would stand on the agenda again and nothing else would change. -/
def State.waiting (s : State) (k : Nat) (i : Instr) : Bool := goesTo i (s.without k) ((s.without k).push i)

/-- What a part that does not run still takes: a start, and a trip that makes its next start cold (24 R417). -/
def isStart (i : Instr) : Bool :=
  match i with
  | .coldStart _ => true
  | .warmReset _ => true
  | .thermalTrip _ => true
  | _ => false

/-! ### Choosing -/

/-- A wave in its slot may issue: its handler has not run too long, and its block's slice has not passed its budget (19 R332,
08 R228). -/
def State.mayRun (s : State) (id : WaveId) : Bool :=
  !(s.wave id).overrunDue s.clock && !((s.block? id).any s.sliceOver)

/-- Everything that may move: in a part that does not run, starts and trips alone (24 R417). A wave whose handler has run too long
stops first (19 R332). -/
def State.agents (s : State) : List Agent :=
  let items := (List.range s.agenda.length).zip s.agenda
  if s.power ≠ .running then (items.filter fun e => isStart e.2).map fun e => .item e.1 e.2
  else
    ((items.filter fun e => !s.waiting e.1 e.2).map fun e => .item e.1 e.2) ++
    ((s.candidates.filter s.due).map .event) ++ (s.running.filter s.mayRun).map .wave

/-- The one that moves: the only one, or a free choice among several (DESIGN CHOICE, log 1). -/
def State.taken (s : State) : Option Agent :=
  match s.agents with
  | [] => none
  | [a] => some a
  | a :: b :: t => (a :: b :: t)[Config.choose s.tick % (t.length + 2)]?

/-! ### The instruction and the moment -/

/-- The instruction of a wave in its slot: the word at its address, or the fill of a line that is not held or cannot be
fetched (08 R214, 22 R377). -/
def State.waveInstr (s : State) (id : WaveId) : Instr :=
  let a := (s.wave id).wordAddr
  match s.fetchFor id a with
  | .word w => decodeWord w
  | _ => .icacheFill id.core ((((s.block? id).bind s.launchOf).map Launch.asid).getD 0) (a.toNat / 64)

/-- What an agent runs. -/
def State.instrOf (s : State) (a : Agent) : Instr :=
  match a with
  | .item _ i => i
  | .event i => i
  | .wave id => s.waveInstr id

/-- Since when a wave waits for a slot: a wave that is not ready does not wait (20 R356). -/
def State.sinceNow (s : State) (id : WaveId) (b : Block) (w : Wave) : Option Nat :=
  if s.waveReady id b w then (match w.since with
    | none => some s.clock
    | some t => some t)
  else none

/-- Every resident wave's time of waiting is brought up to date. -/
def State.stampReady (s : State) : State :=
  { s with blocks := s.blocks.map fun e => (e.1, { e.2 with
      waves := e.2.waves.map fun w => (w.1, { w.2 with since := s.sinceNow ⟨e.2.core, e.2.slot, w.1⟩ e.2 w.2 }) }) }

/-- Time passes: a core cycle and what else elapses (DESIGN CHOICE, log 2). -/
def State.passTime (s : State) : State :=
  ({ s with tick := s.tick + 1, clock := s.clock + 1 + Config.elapsed s.tick } : State).stampReady

/-- A wave's fetch: it is the current one, and its line has been used last (22 R377). -/
def State.fetched (s : State) (id : WaveId) : State :=
  let t := { s.passTime with cur := id }
  match (s.block? id).bind s.launchOf with
  | none => t
  | some l => t.touchLine id.core l.asid l.tenant ((s.wave id).wordAddr.toNat / 64)

/-- The packets of an instruction have entered the fabric (23 R395). -/
def State.injecting (s : State) (i : Instr) : State := s.sendAll (s.sends i)

/-- The state in which an agent's instruction runs. -/
def State.moment (s : State) (a : Agent) : State :=
  match a with
  | .item k i => (s.without k).passTime.injecting i
  | .event i => s.passTime.injecting i
  | .wave id => (s.fetched id).injecting (s.waveInstr id)

/-! ### A program word to run -/

/-- The address and the header of the clause that a placed word runs in. -/
def fetchBase : Nat := 0
def fetchHeader (op : Nat) : W64 := BitVec.ofNat 64 ((if opcodeClass op = 0 then 1 else opcodeClass op) * 2 ^ 60)

/-- The launch of a placed word: one block, privileged, every word of its record that no rule needs zero. -/
def fetchLaunch : Launch :=
  { record := ⟨0, 0, 0, 0, 0, 0, 0, 0, 0, 1, 0, [], [], false⟩
    host := true, die := 8, entry := 0, gen := 0, tenant := 0, asid := 0, priv := true, prio := 0, fn := 0, queue := 0, group := (0, 1)
    parent := none, parentLoc := 0, demoted := false, isTail := false, started := true, tail := none, reject := 0, groups := []
    total := 1, completed := 0, faulted := 0, killed := 0, firstIdx := none, firstCause := 0, messages := 0, ended := []
    arrivals := [], aged := [], complete := false, order := 0 }

/-- The wave of a placed word: 32 threads at it, inside its clause. -/
def fetchWave (op : Nat) : Wave :=
  { pc := (List.range 32).map fun l => (l, BitVec.ofNat 64 (fetchBase + 8))
    group := BitVec.allOnes 32
    clause := ⟨fetchHeader op, BitVec.ofNat 64 fetchBase, 0⟩ }

def fetchBlock (op : Nat) : Block :=
  { uid := 0, launch := 0, linear := 0, core := 0, slot := 0, place := [(0, 4)], rows := 4, waves := [(0, fetchWave op)], nwaves := 1
    budget := 64, commonLen := 0, tileLen := 0, nbar := 0, ntiles := 0
    journal := ⟨0, 0, 0, [], []⟩ }

/-- The line that holds a placed word, behind its header. -/
def fetchLine (op : Nat) (w : W64) : ILine :=
  ⟨0, 0, 0, 0, bytesOfNat 8 (fetchHeader op).toNat ++ bytesOfNat 8 w.toNat ++ List.replicate 48 0⟩

/-- The machine in which the next step runs a word: its block stands alone on core 0, in its issue slot, and its line is
in the instruction cache (DESIGN CHOICE, log 20). -/
def State.placeWord (s : State) (w : W64) : State :=
  let op := (opcodeOf w).toNat
  { s with
    agenda := [], running := [⟨0, 0, 0⟩], cur := ⟨0, 0, 0⟩, blocks := [(0, fetchBlock op)], launches := [(0, fetchLaunch)]
    nextUid := s.nextUid + 1, nextLaunch := s.nextLaunch + 1
    saved := [], ops := [], orphans := [], winArrivals := [], tileTurn := [], ladleNext := [], locks := [], msgq := [], queues := [], channels := [], deaf := [], ports := [], switches := [], wingroups := [], room := []
    windows := [], errors := [], clock := 0, journals := [(0, 0)]
    icache := [fetchLine op w], power := .running }

end Sys2Proof.Machine
end

