-- ==== Sys2Proof/Machine/Step.lean ====
section
/-! DEFINITION. One step of the machine. -/

namespace Sys2Proof.Machine

open Sys2Proof

/-- One step: an agent's instruction runs; where none may move, time passes. -/
def step (s : State) : Host.Outcome State Fault Refusal :=
  match s.taken with
  | none => .next s.passTime
  | some a => exec (s.instrOf a) (s.moment a)

/-- The state whose next step runs the instruction with these bits; an instruction word has 64. -/
def State.withFetchWord (s : State) (_nbits w : Nat) : State := s.placeWord (BitVec.ofNat 64 w)

end Sys2Proof.Machine
end

