-- ==== Sys2Proof/Safety.lean ====
section
/-! DEFINITION. What counts as a safe run, and the terms that claims use: when an instruction passes every check, and what
a step leaves alone. -/

namespace Sys2Proof.Machine

open Sys2Proof

/-- The canonical form of home memory: addresses strictly rising, no entry equal to what an unlisted address reads as
(zero: 24 R416, DESIGN CHOICE, log 9). -/
def Memory.wf (m : List Host.Cell) : Bool := spWf 0 m

/-- Home memory is in its canonical form: equal memories are equal data. -/
def State.MemoryCanonical (s : State) : Prop := Memory.wf s.mem = true

/-- The machine goes on from a state: neither a fault nor a refusal. -/
def State.GoesOn (s : State) : Prop := ∃ t, step s = .next t

/-- A run of some length from a state on which every step goes on and memory stays canonical. -/
def SafeFor : Nat → State → Prop
  | 0, s => s.MemoryCanonical
  | n + 1, s => s.MemoryCanonical ∧ ∃ t, step s = .next t ∧ SafeFor n t

/-- A safe state: every run from it is safe, however long. -/
def State.Safe (s : State) : Prop := ∀ n, SafeFor n s

/-! ### When an instruction runs -/

/-- What an instruction of the wave in the slot sees, where it is neither held nor fails a check: no wait stands (05 R127),
nothing holds it at issue (05 R128, 07 R184, 19 R338), and none of the checks of 05 R138 finds a cause. -/
def State.clear (s : State) (sp : Spec) (own : Ctx → List Fail) : Option Ctx :=
  match s.ctx sp.ctl with
  | none => none
  | some c =>
    if c.w.wait = none ∧ c.holdUp sp = none ∧ c.encodingCause sp = none ∧ c.stallShort sp = false ∧
        c.boundFails sp ++ c.areaBound sp ++ c.pendFails sp ++ own c = [] then some c
    else none

/-- What an instruction sees when its wave is back in the slot and the wait it stands in is over (08 R421). -/
def State.resumes (s : State) (sp : Spec) (wt : Wait) : Option Ctx :=
  match s.ctx sp.ctl with
  | none => none
  | some c => if c.w.wait = some wt ∧ wt.issued = true ∧ wt ≠ .abandon ∧ wt ≠ .restart ∧ s.waitDone c.id c.b c.w wt = true then some c else none

/-! ### What a step leaves alone -/

/-- Another wave than the one in the slot. -/
def otherWave (s : State) (u : WaveId) : Prop := ¬ (wkey u = wkey s.cur ∧ u.wave = s.cur.wave)

/-- A block without its waves and the count of its retired clauses (21 R359). -/
def Block.shell (b : Block) : Block := { b with waves := [], retired := 0 }

/-- Only the wave in the slot, the count of its block's retired clauses and the occupation of the slot may differ: memory,
every other wave, every area, object and register of the machine are as before. -/
structure OnlyWave (s t : State) : Prop where
  machine : t = { s with blocks := t.blocks, running := t.running }
  others  : ∀ u, otherWave s u → t.wave? u = s.wave? u
  shells  : ∀ u, (t.block? u).map Block.shell = (s.block? u).map Block.shell
  slots   : t.running = s.running ∨ t.running = s.running.filter (· != s.cur)

/-- Only a given wave, the count of its block's retired clauses and the occupation of its slot may differ. -/
def OneWave (id : WaveId) (s t : State) : Prop := OnlyWave { s with cur := id } { t with cur := id }

/-- A wave without what issuing an instruction changes: the program counters, the threads held at a meeting point, the
counts of the group's and of the wave's issues, the clause with its Trivet, the yield marks, results in flight, completion flags. -/
def Wave.still (w : Wave) : Wave :=
  { w with
    pc := [], held := 0, groupLen := 0, rotated := false, clause := ⟨0, 0, 0⟩, trivet := [], trivSet := [], yielding := false
    yieldDue := false, inflight := [], k := [], issues := 0, last := [] }

/-- A wave without its vector registers, predicates and scalars. -/
def Wave.bare (w : Wave) : Wave := { w with v := [], p := [], s := [] }

/-- The active lanes go on to the next word, the others stay (05 R124). -/
def NextWord (s t : State) (c : Ctx) : Prop :=
  ∀ l, l < 32 → (t.wave s.cur).pcAt l = if c.active.getLsbD l then (s.wave s.cur).pcAt l + 8 else (s.wave s.cur).pcAt l

/-- The last of some writes to a register word. -/
def lastWrite (ws : List RegWrite) (r : RegRef) (l : Nat) : Option W64 :=
  (ws.reverse.find? fun x => x.reg == r && x.lane == l).map RegWrite.val

/-- A value as a register of a kind holds it: 32 bits, one bit, 64 bits. -/
def RegRef.fit (r : RegRef) (x : W64) : W64 :=
  match r with
  | .vec _ => (x.extractLsb' 0 32).zeroExtend 64
  | .pred _ => if x = 0 then 0 else 1
  | .scal _ => x

/-- A word that exists: a lane of a vector register or predicate, or a scalar. -/
def RegRef.word (r : RegRef) (l : Nat) : Prop :=
  match r with
  | .scal _ => l = 0
  | _ => l < 32

/-- What a register word holds after an instruction that writes some words: the last value written to it, unless an
earlier result in flight that no stall field covers stands there (05 R133, DESIGN CHOICE, log 3); else what it held. -/
def Ctx.after (c : Ctx) (w : Wave) (ws : List RegWrite) (r : RegRef) (l : Nat) : W64 :=
  match lastWrite ws r l with
  | none => w.regGet r l
  | some x => if c.keeps r l (r.key l) then w.regGet r l else r.fit x

/-- What a fixed-latency instruction does: the register words it writes and no others; the next word in the active lanes;
its result in flight with its latency, flag and the NSTAT bits it will set; its completion flag one up (05 R128, R132). -/
structure FixedOutcome (s t : State) (c : Ctx) (sp : Spec) (ws : List RegWrite) (flags : W32) : Prop where
  frame  : OnlyWave s t
  rest   : (t.wave s.cur).still.bare = (s.wave s.cur).still.bare
  regs   : ∀ r l, r.word l → (t.wave s.cur).regGet r l = (c.writer sp).after (s.wave s.cur) ws r l
  next   : NextWord s t c
  flight : ((t.wave s.cur).inflight.getLast?.map fun p => (p.short, p.sig, p.flags, p.landed)) =
             some (sp.lat, sp.ctl.sig.toNat, flags, false)
  flag   : ∀ n, n < 12 → (t.wave s.cur).kget n = (s.wave s.cur).kget n + if sp.ctl.sig.toNat = n then 1 else 0

/-- An instruction is a fixed-latency one that writes given words wherever it passes every check. -/
def FixedResult (i : Instr) (sp : Spec) (own : Ctx → List Fail) (ws : Ctx → List RegWrite) (flags : Ctx → W32) : Prop :=
  ∀ s c, s.clear sp own = some c → ∃ t, exec i s = .next t ∧ FixedOutcome s t c sp (ws c) (flags c)

/-- One 32-bit result per participating lane with its NSTAT bits (06 R151). -/
def LaneResult (i : Instr) (sp : Spec) (d : BitVec 10) (own : Ctx → List Fail) (val : Ctx → Nat → Fl W32) : Prop :=
  FixedResult i sp own (fun c => c.laneWrites d fun l => (val c l).val) (fun c => gatherFlags c.part fun l => (val c l).flags)

/-- One 32-bit result per participating lane that sets no NSTAT bit. -/
def PureResult (i : Instr) (sp : Spec) (d : BitVec 10) (val : Ctx → Nat → W32) : Prop :=
  FixedResult i sp noFails (fun c => c.laneWrites d (val c)) (fun _ => 0)

/-- One bit per participating lane into a predicate. -/
def PredResult (i : Instr) (sp : Spec) (d : BitVec 10) (val : Ctx → Nat → Bool) : Prop :=
  FixedResult i sp noFails (fun c => c.predWrites d (val c)) (fun _ => 0)

/-- One 64-bit result where a lane participates (06 R152). -/
def ScalarResult (i : Instr) (sp : Spec) (d : Nat) (own : Ctx → List Fail) (val : Ctx → W64) : Prop :=
  FixedResult i sp own (fun c => if c.part = 0 then [] else [⟨.scal d, 0, val c⟩]) (fun _ => 0)

/-! ### Instructions that complete with an effect of their own -/

/-- A wave without its scalars. -/
def Wave.noScalars (w : Wave) : Wave := { w with s := [] }

/-- Whether an earlier fixed-latency result that no stall field covers stands in a scalar that a result of variable latency
would write (05 R133, DESIGN CHOICE, log 3). -/
def Ctx.lateKeeps (c : Ctx) (n : Nat) : Bool :=
  !c.ordered && (c.w.inflight.any fun p => !p.landed && p.short != 0 && p.regs.any fun o => o.reg == .scal n) &&
    Config.freeBit c.tick (80000 + n)

/-- A scalar after a result is written to a destination, if there is one. -/
def Ctx.given (c : Ctx) (w : Wave) (d : Option (Nat × W64)) (n : Nat) : W64 :=
  match d with
  | none => w.sget n
  | some (k, x) => if n = k ∧ c.lateKeeps n = false then x else w.sget n

/-- What an instruction with an effect of its own does: `u` is the machine with that effect; beside it, a scalar result, the
next word in the active lanes and `up` on the instruction's flag, only the wave's control state and the occupation of its
slot differ. -/
structure DoneOutcome (s t : State) (c : Ctx) (u : State) (d : Option (Nat × W64)) (sig up : Nat) : Prop where
  machine : OnlyWave u t
  rest    : (t.wave s.cur).still.noScalars = (u.wave s.cur).still.noScalars
  scal    : ∀ n, (t.wave s.cur).sget n = c.given (s.wave s.cur) d n
  next    : NextWord s t c
  flag    : ∀ n, n < 12 → (t.wave s.cur).kget n = (s.wave s.cur).kget n + if sig = n then up else 0

/-- An instruction with an immediate effect: wherever it passes every check and a lane participates it has the effect and
its result; where no lane participates it has none (06 R152). -/
def ActResult (i : Instr) (sp : Spec) (own : State → Ctx → List Fail) (when : State → Ctx → Prop)
    (eff : State → Ctx → State) (dst : State → Ctx → Option (Nat × W64)) : Prop :=
  ∀ s c, s.clear sp (own s) = some c →
    (c.part ≠ 0 → when s c → ∃ t, exec i s = .next t ∧ DoneOutcome s t c (eff s c) (dst s c) sp.ctl.sig.toNat 0) ∧
    (c.part = 0 → ∃ t, exec i s = .next t ∧ DoneOutcome s t c s none sp.ctl.sig.toNat 0)

/-- An instruction that waits holds its wave: it leaves its slot with its flag one up, and nothing else changes. -/
def HoldResult (i : Instr) (sp : Spec) (own : State → Ctx → List Fail) (wt : Ctx → Wait) : Prop :=
  ∀ s c, s.clear sp (own s) = some c → c.part ≠ 0 → s.waitDone c.id c.b c.w (wt c) = false →
    ∃ t, exec i s = .next t ∧ OnlyWave s t ∧ (t.wave s.cur).wait = some (wt c) ∧ s.cur ∉ t.running ∧
      (∀ l, (t.wave s.cur).pcAt l = (s.wave s.cur).pcAt l) ∧
      (∀ r l, (t.wave s.cur).regGet r l = (s.wave s.cur).regGet r l) ∧
      ∀ n, n < 12 → (t.wave s.cur).kget n = (s.wave s.cur).kget n + if sp.ctl.sig.toNat = n then 1 else 0

/-- An instruction whose wait is over completes: its flag counts down and nothing else changes. -/
def ResumeResult (i : Instr) (sp : Spec) (isWait : Wait → Prop) : Prop :=
  ∀ s wt c, isWait wt → s.resumes sp wt = some c → ∃ t, exec i s = .next t ∧ OnlyWave s t ∧ (t.wave s.cur).wait = none ∧
    (∀ r l, (t.wave s.cur).regGet r l = (s.wave s.cur).regGet r l) ∧ NextWord s t c ∧
    ∀ n, n < 12 → (t.wave s.cur).kget n = (s.wave s.cur).kget n - if sp.ctl.sig.toNat = n then 1 else 0

/-! ### Instructions that take an operand-log entry -/

/-- A wave without its operand log, its count of accesses and its pending words. -/
def Wave.noLog (w : Wave) : Wave := { w with log := [], accesses := 0, pend := [] }

/-- What an instruction that takes an entry of the operand log does (07 R184, R185): the entry, the count, pending
destination words, its flag one up, the next word; no register and nothing else of the machine changes. -/
structure LogOutcome (s t u : State) (c : Ctx) (sp : Spec) (k : Nat) (e : LogEntry) : Prop where
  machine : OnlyWave u t
  rest    : (t.wave s.cur).still.noLog = (s.wave s.cur).still.noLog
  entry   : ∀ j, spFind (t.wave s.cur).log j = if j = k then some e else spFind (s.wave s.cur).log j
  count   : (t.wave s.cur).accesses = (s.wave s.cur).accesses + 1
  pend    : ∀ d, spGet false (t.wave s.cur).pend d = (decide (d ∈ e.dests) || spGet false (s.wave s.cur).pend d)
  next    : NextWord s t c
  flag    : ∀ n, n < 12 → (t.wave s.cur).kget n = (s.wave s.cur).kget n + if sp.ctl.sig.toNat = n then 1 else 0

/-- An access that goes through the operand log: wherever it passes every check it takes the lowest free entry; where no
lane participates it has no effect. -/
def LogResult (i : Instr) (sp : Spec) (own : State → Ctx → List Fail) (when : Ctx → Prop) (eff : State → Ctx → State)
    (e : State → Ctx → LogEntry) : Prop :=
  ∀ s c, s.clear sp (own s) = some c →
    (c.part ≠ 0 → when c → ∃ t k, exec i s = .next t ∧ c.w.logFree = some k ∧ LogOutcome s t (eff s c) c sp k (e s c)) ∧
    (c.part = 0 → ∃ t, exec i s = .next t ∧ DoneOutcome s t c s none sp.ctl.sig.toNat 0)

/-! ### Transfers, calls and exceptions -/

/-- A wave without its meeting registers. -/
def Wave.noMeet (w : Wave) : Wave := { w with meet := [] }

/-- Whether a thread stands at its meeting point after an instruction: held before, or active and moved there (01 R20). -/
def arrives (c : Ctx) (w v : Wave) (l : Nat) : Bool :=
  w.held.getLsbD l || (c.active.getLsbD l && v.meetAt l != meetNone && v.pcAt l == v.meetAt l)

/-- The threads held after an instruction: those that have arrived while a live thread of their value has not (01 R20, R21). -/
def Meets (c : Ctx) (w v : Wave) : Prop :=
  ∀ l, l < 32 → (v.held.getLsbD l = true ↔
    arrives c w v l = true ∧ ∃ k, k < 32 ∧ v.meetAt k = v.meetAt l ∧ arrives c w v k = false ∧ w.exited.getLsbD k = false)

/-- Where the lanes stand: an active lane at its target, else at the next word; any other lane where it was. -/
def Moved (s t : State) (c : Ctx) (go : Nat → Option W64) : Prop :=
  ∀ l, l < 32 → (t.wave s.cur).pcAt l =
    if c.active.getLsbD l then (go l).getD ((s.wave s.cur).pcAt l + 8) else (s.wave s.cur).pcAt l

/-- The meeting registers: those of the participating lanes at a new value. -/
def MeetsAt (s t : State) (c : Ctx) (meet : Nat → Option W64) : Prop :=
  ∀ l, l < 32 → (t.wave s.cur).meetAt l =
    if c.part.getLsbD l then (meet l).getD ((s.wave s.cur).meetAt l) else (s.wave s.cur).meetAt l

/-- What an instruction that moves program counters or sets meeting registers does: no register, flag or other wave changes. -/
structure MoveOutcome (s t : State) (c : Ctx) (meet go : Nat → Option W64) : Prop where
  frame : OnlyWave s t
  rest  : (t.wave s.cur).still.noMeet = (s.wave s.cur).still.noMeet
  flag  : ∀ n, n < 12 → (t.wave s.cur).kget n = (s.wave s.cur).kget n
  pcs   : Moved s t c go
  meets : MeetsAt s t c meet
  held  : Meets c (s.wave s.cur) (t.wave s.cur)

/-- An instruction is a transfer or a setting of meeting registers wherever it passes every check. -/
def MoveResult (i : Instr) (sp : Spec) (own : State → Ctx → List Fail) (meet go : Ctx → Nat → Option W64) : Prop :=
  ∀ s c, s.clear sp (own s) = some c → ∃ t, exec i s = .next t ∧ MoveOutcome s t c (meet c) (go c)

/-- The participating lanes of a transfer go to their targets. -/
def Ctx.jump (c : Ctx) (taken : Bool) (target : Nat → W64) (l : Nat) : Option W64 :=
  if c.part.getLsbD l && taken then some (target l) else none

/-- What a call does: the link words, the meeting register at the return address, the program counter behind the header;
a fixed-latency result; `u` is the machine with the headers read through the instruction cache. -/
structure CallOutcome (s u t : State) (c : Ctx) (sp : Spec) (ws : List RegWrite) (target : Nat → W64) : Prop where
  frame  : OnlyWave u t
  rest   : (t.wave s.cur).still.noMeet.bare = (s.wave s.cur).still.noMeet.bare
  regs   : ∀ r l, r.word l → (t.wave s.cur).regGet r l = (c.writer sp).after (s.wave s.cur) ws r l
  flight : ((t.wave s.cur).inflight.getLast?.map fun p => (p.short, p.sig, p.flags, p.landed)) = some (4, sp.ctl.sig.toNat, 0, false)
  flag   : ∀ n, n < 12 → (t.wave s.cur).kget n = (s.wave s.cur).kget n + if sp.ctl.sig.toNat = n then 1 else 0
  pcs    : Moved s t c (c.jump true fun l => target l + 8)
  meets  : MeetsAt s t c fun _ => some (c.addr + 8)
  held   : Meets c (s.wave s.cur) (t.wave s.cur)

/-- The link words of a call (08 R218): return address and meeting register, low halves first. -/
def Ctx.links (c : Ctx) (d : BitVec 10) : List RegWrite :=
  c.laneWritesN d 4 fun l k =>
    [(c.addr + 8).extractLsb' 0 32, (c.addr + 8).extractLsb' 32 32, (c.w.meetAt l).extractLsb' 0 32,
      (c.w.meetAt l).extractLsb' 32 32].getD k 0

/-- An instruction is a call wherever it passes every check; `first` are its checks before the headers are read. -/
def CallResult (i : Instr) (sp : Spec) (first : Ctx → List Fail) (own : State → Ctx → List Fail) (d : BitVec 10)
    (target : Ctx → Nat → W64) : Prop :=
  ∀ s c, s.clear sp (own s) = some c → ∃ t, exec i s = .next t ∧
    CallOutcome s (s.readHeaders sp first target) t c sp (c.links d) (target c)

/-- A wave without what handler entry writes. -/
def Wave.outside (w : Wave) : Wave :=
  { w with
    pc := [], meet := [], held := 0, group := 0, groupLen := 0, rotated := false, clause := ⟨0, 0, 0⟩, trivet := [], trivSet := []
    wait := none, yieldDue := false, skipAt := none, s := [], tcause := 0, saved := none, handler := false, hstart := 0, hcyc := 0
    hpast := false, record := none, issues := 0, last := [] }

/-- What taking an exception does in a wave whose launch has a handler (08 R233, 19 R335): TCAUSE keeps the cause; s120 to
s125 name it; every live thread stands at the handler, held by nothing; the count of HCYC starts; what TRET restores is
saved; the entry is counted, the slice count stops, and nothing else of the machine changes. -/
structure HandlerEntry (id : WaveId) (s t : State) (r : CauseRec) (entry : W64) : Prop where
  machine : OneWave id ((s.modBlock id fun b => b.pauseSlice s.clock).countCore id.core 0x103 1) t
  slot    : id ∉ t.running
  rest    : (t.wave id).outside = (s.wave id).outside
  tcause  : (t.wave id).tcause = (s.wave id).tcause ||| (causeBit r.cause ||| r.also)
  s120    : (t.wave id).sget 120 = (t.wave id).tcause
  s121    : (t.wave id).sget 121 = r.pc
  s122    : (t.wave id).sget 122 =
              (r.lanes.zeroExtend 64 ||| (BitVec.ofNat 64 (r.index % 16) <<< 32) ||| (r.code.zeroExtend 64 <<< 48))
  s123    : (t.wave id).sget 123 = r.addr
  s124    : (t.wave id).sget 124 = r.origin
  s125    : (t.wave id).sget 125 = BitVec.ofNat 64 r.resume
  others  : ∀ n, n < 120 ∨ 125 < n → (t.wave id).sget n = (s.wave id).sget n
  pcs     : ∀ l, l < 32 → (t.wave id).pcAt l = if (s.wave id).exited.getLsbD l then (s.wave id).pcAt l else entry
  meets   : ∀ l, (t.wave id).meetAt l = meetNone
  free    : (t.wave id).held = 0 ∧ (t.wave id).inClause = false ∧ (t.wave id).wait = none
  runs    : (t.wave id).handler = true ∧ (t.wave id).hcycles t.clock = 0
  saved   : ∃ v, (t.wave id).saved = some v ∧ v.pc = (s.wave id).pc ∧ v.meet = (s.wave id).meet ∧
              v.held = (s.wave id).held ∧ v.clause = (s.wave id).clause ∧ v.trivet = (s.wave id).trivet ∧
              v.high = (List.range 8).map fun i => (s.wave id).sget (120 + i)

/-- What an exception does that terminates its block (01 R43): the block counts as faulted, with the lowest of its causes (01 R41), its journal is
sealed, none of its waves lives, and none stands in a slot. -/
structure BlockFaulted (id : WaveId) (s t : State) (cause : Nat) : Prop where
  block : ∃ b b', s.block? id = some b ∧ t.block? id = some b' ∧
            b'.faulted = lowerCause b.faulted cause ∧ b'.journal.phase = b.journal.phase + 1 ∧
            ∀ k w, spFind b'.waves k = some w → w.live = 0 ∧ w.wait = none ∧ w.handler = false
  slots : ∀ r ∈ t.running, wkey r ≠ wkey id
  mem   : t.mem = s.mem

/-- The cause that an instruction raises is delivered: to the handler where its launch has one and no handler runs; else
its block is faulted, with the lowest bit of TCAUSE, or of TCAUSE at handler entry (08 R232, R237). `u` is the machine in
which the instruction has issued. -/
def RaisesFrom (i : Instr) (s u : State) (c : Ctx) (r : CauseRec) : Prop :=
  ∃ t, exec i s = .next t ∧
    (c.w.saved = none → c.l.record.handler ≠ 0 → HandlerEntry s.cur u t r c.l.record.handler) ∧
    (c.w.saved = none → c.l.record.handler = 0 → BlockFaulted s.cur u t (lowBit (c.w.tcause ||| (causeBit r.cause ||| r.also)))) ∧
    ∀ v, c.w.saved = some v → BlockFaulted s.cur u t (lowBit v.entry)

/-- The same for an instruction that a check stops before it issues. -/
def Raises (i : Instr) (s : State) (c : Ctx) (r : CauseRec) : Prop := RaisesFrom i s s c r

/-! ### Steps of an access -/

/-- An access of a resident wave: the wave, its block and launch, and the live entry of its log; no re-issue runs. -/
structure Access (s : State) (id : WaveId) (i : Nat) (b : Block) (l : Launch) (w : Wave) (e : LogEntry) : Prop where
  block  : s.block? id = some b
  wave   : s.wave? id = some w
  launch : s.launchOf b = some l
  entry  : spFind w.log i = some e
  live   : e.state = 1
  alone  : w.reissue = []

/-- A wave without what a result that arrives changes. -/
def Wave.arrivals (w : Wave) : Wave := { w with log := [], k := [], pend := [], v := [], inflight := [] }

/-- No result in flight that a stall field has not covered (05 R132, R133). -/
def Wave.covered (w : Wave) : Prop := ∀ p ∈ w.inflight, p.landed = true ∨ p.short = 0

/-- What the arrival of an access's values does (07 R185): the words, their pending bits, its entry freed, its flag one down. -/
structure LandOutcome (id : WaveId) (s t : State) (i : Nat) (e : LogEntry) (ws : List (Nat × W32)) : Prop where
  frame : OneWave id s t
  rest  : (t.wave id).arrivals = (s.wave id).arrivals
  entry : ∀ j, spFind (t.wave id).log j = if j = i then none else spFind (s.wave id).log j
  flag  : ∀ n, n < 12 → (t.wave id).kget n = (s.wave id).kget n - if (ctlOf e.word).sig.toNat = n then 1 else 0
  words : ∀ d, (t.wave id).vget (d / 32) (d % 32) =
            ((ws.reverse.find? fun x => x.1 == d).map Prod.snd).getD ((s.wave id).vget (d / 32) (d % 32))
  pend  : ∀ d, spGet false (t.wave id).pend d = (spGet false (s.wave id).pend d && !(ws.any fun x => x.1 == d))

/-- An entry of the log takes a new form and nothing else of the machine changes but the translations held (22 R376). -/
structure EntryOutcome (id : WaveId) (s t : State) (i : Nat) (e : LogEntry) : Prop where
  frame : OneWave id { s with held := t.held } t
  rest  : { (t.wave id) with log := [] } = { (s.wave id) with log := [] }
  entry : ∀ j, spFind (t.wave id).log j = if j = i then some e else spFind (s.wave id).log j

/-- An access has performed at its home: memory is as given, the entry is freed and the flag is one down, or the entry takes
a new form; no register changes. -/
structure HomeOutcome (id : WaveId) (s t : State) (i : Nat) (e : LogEntry) (after : Option LogEntry) : Prop where
  entry : ∀ j, spFind (t.wave id).log j = if j = i then after else spFind (s.wave id).log j
  flag  : ∀ n, n < 12 → (t.wave id).kget n =
            (s.wave id).kget n - if (ctlOf e.word).sig.toNat = n ∧ after.isNone then 1 else 0
  rest  : { (t.wave id) with log := [], k := [] } = { (s.wave id) with log := [], k := [] }
  waves : ∀ u, ¬ (wkey u = wkey id ∧ u.wave = id.wave) → t.wave? u = s.wave? u

end Sys2Proof.Machine
end

