-- ==== Sys2Proof/Certificates/Slice0/Obligations.lean ====
section
/-! DEFINITION. The obligations: what the numbered rules of spec/ say that an instruction or the machine does. -/

open Sys2Proof Sys2Proof.Machine

/-- VADD, VSUB, VMUL, VMULHI, VMAD, VMIN, VMAX, VABS, VNEG in their integer types and VADDI, VMULI, VSHLADD complete
wherever they pass every check: each participating lane of the destination takes the exact result wrapped modulo 2^32,
or clamped where saturation is named, the result stands in flight with its latency and no NSTAT bit, and nothing else
of the machine changes but the wave's control state.
(R151, R153, R154, 06_vector_scalar_instructions.md.) -/
def Obligations.LaneIntegerArithmetic : Prop :=
  (∀ f : F, isIntType (modType f.m) = true →
    PureResult (.vadd f) (vec3 f (addSubEnc f.m) 4) f.d (fun c l =>
      let x := intVal (modType f.m) 32 (c.lane f.a l 0) + intVal (modType f.m) 32 (c.lane f.b l 0)
      if f.m.getLsbD 3 then clampInt (modType f.m) x else BitVec.ofInt 32 x) ∧
    PureResult (.vsub f) (vec3 f (addSubEnc f.m) 4) f.d (fun c l =>
      let x := intVal (modType f.m) 32 (c.lane f.a l 0) - intVal (modType f.m) 32 (c.lane f.b l 0)
      if f.m.getLsbD 3 then clampInt (modType f.m) x else BitVec.ofInt 32 x) ∧
    PureResult (.vmul f) (vec3 f (mulEnc f.m) 6) f.d (fun c l => c.lane f.a l 0 * c.lane f.b l 0) ∧
    PureResult (.vmulhi f) (vec3 f (intEnc f.m) 6) f.d (fun c l =>
      (BitVec.ofInt 64 (intVal (modType f.m) 32 (c.lane f.a l 0) * intVal (modType f.m) 32 (c.lane f.b l 0))).extractLsb' 32 32) ∧
    PureResult (.vmad f) (vec3d f (intEnc f.m) 6) f.d (fun c l => c.lane f.a l 0 * c.lane f.b l 0 + c.lane f.d l 0) ∧
    PureResult (.vmin f) (vec3 f (minMaxEnc f.m) 4) f.d (fun c l =>
      if intVal (modType f.m) 32 (c.lane f.b l 0) < intVal (modType f.m) 32 (c.lane f.a l 0) then c.lane f.b l 0 else c.lane f.a l 0) ∧
    PureResult (.vmax f) (vec3 f (minMaxEnc f.m) 4) f.d (fun c l =>
      if intVal (modType f.m) 32 (c.lane f.a l 0) < intVal (modType f.m) 32 (c.lane f.b l 0) then c.lane f.b l 0 else c.lane f.a l 0) ∧
    PureResult (.vabs f) (vec2 f ((modType f.m == 1 || isFloatType (modType f.m)) && modHigh f.m == 0) 4) f.d (fun c l =>
      if (c.lane f.a l 0).msb then 0 - c.lane f.a l 0 else c.lane f.a l 0) ∧
    PureResult (.vneg f) (vec2 f (minMaxEnc f.m) 4) f.d (fun c l => 0 - c.lane f.a l 0)) ∧
  (∀ f : F16,
    PureResult (.vaddi f) (vec16 f true 4) f.d (fun c l => c.lane f.a l 0 + f.imm.signExtend 32) ∧
    PureResult (.vmuli f) (vec16 f true 6) f.d (fun c l => c.lane f.a l 0 * f.imm.signExtend 32)) ∧
  (∀ f : F, PureResult (.vshladd f) (vec3 f (modType f.m == 0) 4) f.d (fun c l =>
    c.lane f.a l 0 * BitVec.ofNat 32 (2 ^ (f.m.toNat / 8)) + c.lane f.b l 0))

/-- With no zero divisor in a participating lane, VDIV.u32 or .i32 writes the quotient rounded toward zero and VREM the
remainder with the sign of A, each 40 cycles long and without NSTAT bits, wherever they pass every check; 0x80000000
by 0xFFFFFFFF as .i32 gives 0x80000000 and 0.
(R153, R154, R155.) -/
def Obligations.LaneIntegerDivision : Prop :=
  ∀ f : F, isIntType (modType f.m) = true →
    FixedResult (.vdiv f) (vec3 f (intEnc f.m || (modType f.m == 2 && modeOk f.m)) 40) (divFails f)
      (fun c => c.laneWrites f.d fun l =>
        BitVec.ofInt 32 (Int.tdiv (intVal (modType f.m) 32 (c.lane f.a l 0)) (intVal (modType f.m) 32 (c.lane f.b l 0)))) (fun _ => 0) ∧
    FixedResult (.vrem f) (vec3 f (intEnc f.m) 40) (divFails f)
      (fun c => c.laneWrites f.d fun l =>
        BitVec.ofInt 32 (intVal (modType f.m) 32 (c.lane f.a l 0) - intVal (modType f.m) 32 (c.lane f.b l 0) *
          Int.tdiv (intVal (modType f.m) 32 (c.lane f.a l 0)) (intVal (modType f.m) 32 (c.lane f.b l 0)))) (fun _ => 0)

/-- VAND to VORI complete wherever they pass every check with modifier zero (VBFX: the type): each participating lane
takes the bitwise result, the shifted or rotated word, the count, the reversed word or the field of R157; no NSTAT bit
is set and nothing else changes but the wave's control state.
(R153, R156, R157.) -/
def Obligations.LaneBitOperations : Prop :=
  (∀ f : F,
    PureResult (.vand f) (vec3 f (f.m == 0) 4) f.d (fun c l => c.lane f.a l 0 &&& c.lane f.b l 0) ∧
    PureResult (.vor f) (vec3 f (f.m == 0) 4) f.d (fun c l => c.lane f.a l 0 ||| c.lane f.b l 0) ∧
    PureResult (.vxor f) (vec3 f (f.m == 0) 4) f.d (fun c l => c.lane f.a l 0 ^^^ c.lane f.b l 0) ∧
    PureResult (.vnot f) (vec2 f (f.m == 0) 4) f.d (fun c l => ~~~c.lane f.a l 0) ∧
    PureResult (.vshl f) (vec3 f (f.m == 0) 4) f.d (fun c l => BitVec.ofNat 32 ((c.lane f.a l 0).toNat * 2 ^ (c.lane f.b l 0).toNat)) ∧
    PureResult (.vshr f) (vec3 f (f.m == 0) 4) f.d (fun c l => BitVec.ofNat 32 ((c.lane f.a l 0).toNat / 2 ^ (c.lane f.b l 0).toNat)) ∧
    PureResult (.vsar f) (vec3 f (f.m == 0) 4) f.d (fun c l => BitVec.ofInt 32 ((c.lane f.a l 0).toInt / 2 ^ (c.lane f.b l 0).toNat)) ∧
    PureResult (.vrot f) (vec3 f (f.m == 0) 4) f.d (fun c l => (c.lane f.a l 0).rotateLeft ((c.lane f.b l 0).toNat % 32)) ∧
    PureResult (.vpopc f) (vec2 f (f.m == 0) 4) f.d (fun c l =>
      BitVec.ofNat 32 ((List.range 32).countP fun i => (c.lane f.a l 0).getLsbD i)) ∧
    PureResult (.vclz f) (vec2 f (f.m == 0) 4) f.d (fun c l =>
      BitVec.ofNat 32 (((List.range 32).find? fun i => (c.lane f.a l 0).getLsbD (31 - i)).getD 32)) ∧
    PureResult (.vctz f) (vec2 f (f.m == 0) 4) f.d (fun c l =>
      BitVec.ofNat 32 (((List.range 32).find? fun i => (c.lane f.a l 0).getLsbD i).getD 32)) ∧
    PureResult (.vbrev f) (vec2 f (f.m == 0) 4) f.d (fun c l => (c.lane f.a l 0).reverse) ∧
    PureResult (.vbfx f) (vec3 f (intEnc f.m) 4) f.d (fun c l => extractField (modType f.m) (c.lane f.a l 0) (c.lane f.b l 0)) ∧
    PureResult (.vbfi f) (vec3d f (f.m == 0) 4) f.d (fun c l => insertField (c.lane f.d l 0) (c.lane f.a l 0) (c.lane f.b l 0))) ∧
  (∀ f : F16,
    PureResult (.vandi f) (vec16 f true 4) f.d (fun c l => c.lane f.a l 0 &&& f.imm.zeroExtend 32) ∧
    PureResult (.vori f) (vec16 f true 4) f.d (fun c l => c.lane f.a l 0 ||| f.imm.zeroExtend 32))

/-- In a float type VADD, VSUB, VMUL, VFMA and VDIV.f32 write the exact result of the operands, rounded once in the mode
of the modifier into the type, with the NSTAT bits of that operation and rounding; VMIN, VMAX, VABS, VNEG, VRND and
VCLASS set no NSTAT bit; each completes wherever it passes every check.
(R76, R153, R163, R164, R166, R167.) -/
def Obligations.LaneFloatArithmetic : Prop :=
  ∀ f : F, isFloatType (modType f.m) = true →
    LaneResult (.vadd f) (vec3 f (addSubEnc f.m) 6) f.d noFails (fun c l => roundType (modType f.m) (roundMode f.m)
      (xadd (floatVal (modType f.m) (c.lane f.a l (modType f.m))) (floatVal (modType f.m) (c.lane f.b l (modType f.m))))) ∧
    LaneResult (.vsub f) (vec3 f (addSubEnc f.m) 6) f.d noFails (fun c l => roundType (modType f.m) (roundMode f.m)
      (xadd (floatVal (modType f.m) (c.lane f.a l (modType f.m))) (xneg (floatVal (modType f.m) (c.lane f.b l (modType f.m)))))) ∧
    LaneResult (.vmul f) (vec3 f (mulEnc f.m) 6) f.d noFails (fun c l => roundType (modType f.m) (roundMode f.m)
      (xmul (floatVal (modType f.m) (c.lane f.a l (modType f.m))) (floatVal (modType f.m) (c.lane f.b l (modType f.m))))) ∧
    LaneResult (.vfma f) (vec3d f (isFloatType (modType f.m) && modeOk f.m) 6) f.d noFails (fun c l =>
      let p := xmul (floatVal (modType f.m) (c.lane f.a l (modType f.m))) (floatVal (modType f.m) (c.lane f.b l (modType f.m)))
      let r := xadd p.val (floatVal (modType f.m) (c.lane f.d l (modType f.m)))
      roundType (modType f.m) (roundMode f.m)
        ⟨r.val, if floatVal (modType f.m) (c.lane f.d l (modType f.m)) = .nan then 0 else p.flags ||| r.flags⟩) ∧
    (modType f.m = 2 →
      LaneResult (.vdiv f) (vec3 f (intEnc f.m || (modType f.m == 2 && modeOk f.m)) 24) f.d (divFails f) (fun c l =>
        roundType 2 (roundMode f.m) (xdiv (floatVal 2 (c.lane f.a l 2)) (floatVal 2 (c.lane f.b l 2))))) ∧
    PureResult (.vmin f) (vec3 f (minMaxEnc f.m) 6) f.d (fun c l =>
      floatMinMax (modType f.m) false (c.lane f.a l (modType f.m)) (c.lane f.b l (modType f.m))) ∧
    PureResult (.vmax f) (vec3 f (minMaxEnc f.m) 6) f.d (fun c l =>
      floatMinMax (modType f.m) true (c.lane f.a l (modType f.m)) (c.lane f.b l (modType f.m))) ∧
    PureResult (.vabs f) (vec2 f ((modType f.m == 1 || isFloatType (modType f.m)) && modHigh f.m == 0) 6) f.d (fun c l =>
      let a := c.lane f.a l (modType f.m)
      if isNan (modType f.m) a then BitVec.ofNat 32 (canonicalNan (typeFmt (modType f.m)))
      else cutType (modType f.m) a &&& ~~~(if modType f.m = 2 then 0x80000000 else 0x8000)) ∧
    PureResult (.vneg f) (vec2 f (minMaxEnc f.m) 6) f.d (fun c l =>
      let a := c.lane f.a l (modType f.m)
      if isNan (modType f.m) a then BitVec.ofNat 32 (canonicalNan (typeFmt (modType f.m)))
      else cutType (modType f.m) a ^^^ (if modType f.m = 2 then 0x80000000 else 0x8000)) ∧
    PureResult (.vrnd f) (vec2 f (isFloatType (modType f.m) && modeOk f.m) 6) f.d (fun c l =>
      opRnd (modType f.m) (roundMode f.m) (c.lane f.a l (modType f.m))) ∧
    PureResult (.vclass f) (vec2 f (isFloatType (modType f.m) && modHigh f.m == 0) 4) f.d (fun c l =>
      classMask (modType f.m) (c.lane f.a l (modType f.m)))

/-- VEXP2, VLOG2, VRCP and VRSQ write the correctly rounded FP32 function of A; VCVT decodes a code of one format slot and
encodes its exact scaled value once into another; VCVTI converts between the lane types; VPACK and VUNPK move packed
elements; each completes wherever it passes every check, VCVT where both slots pass the checks of R83. (That the
results of VEXP2 and VLOG2 are the correctly rounded ones is the model's reading: it takes them from a fixed number of
bits, without a proof that these always suffice, log 8; that a float special of VCVTI has its source type, FP32 for an
integer source, is its choice, log 100.)
(R153, R165, R168, R169, R170.) -/
def Obligations.LaneFunctionsAndConversions : Prop :=
  ∀ f : F,
    LaneResult (.vexp2 f) (vec2 f (f.m == 2) 18) f.d noFails (fun c l => opExp2 (c.lane f.a l 2)) ∧
    LaneResult (.vlog2 f) (vec2 f (f.m == 2) 18) f.d noFails (fun c l => opLog2 (c.lane f.a l 2)) ∧
    LaneResult (.vrcp f) (vec2 f (f.m == 2) 18) f.d noFails (fun c l => opRcp (c.lane f.a l 2)) ∧
    LaneResult (.vrsq f) (vec2 f (f.m == 2) 18) f.d noFails (fun c l => opRsq (c.lane f.a l 2)) ∧
    LaneResult (.vcvt f) { vec2 f true 6 with fty := 0 } f.d (vcvtFails f) (fun c l =>
      let sd := slotOf (c.l.record.slots.getD (f.m.toNat % 8) 0)
      let ss := slotOf (c.l.record.slots.getD (f.m.toNat / 8) 0)
      let x := slotDecode ss (tensorScale ss) ((c.lane f.a l 0).toNat % 2 ^ slotBits ss)
      let r := slotEncode sd (tensorScale sd) x.val
      ⟨widenCode sd r.val, x.flags ||| r.flags⟩) ∧
    LaneResult (.vcvti f) { vec2 f (decide (modType f.m < 5) && decide (modHigh f.m < 5)) 6 with fty := constType (modHigh f.m) } f.d noFails (fun c l =>
      convertType (modType f.m) (modHigh f.m) (c.lane f.a l (constType (modHigh f.m)))) ∧
    PureResult (.vpack f) (vec3 f (decide (f.m.toNat < 3)) 6) f.d (fun c l =>
      packWords (packWidth f.m) (c.lane f.a l 0) (c.lane f.b l 0)) ∧
    PureResult (.vunpk f) { vec2 f (f.m.toNat % 4 != 3 && decide (f.m.toNat < 16)) 6 with fty := 0 } f.d (fun c l =>
      unpackWord (packWidth f.m) (f.m.toNat / 4 % 2) (f.m.getLsbD 3) (c.lane f.a l 0))

/-- VCMP and VCMPI write the truth of their condition, PAND, POR, PXOR, PNOT and PMOV the logical result, into predicate
pD of each participating lane, and VPRD writes 1 or 0 into a vector register; each completes wherever it passes every
check and sets no NSTAT bit.
(R153, R158, R159, R160.) -/
def Obligations.ComparesAndPredicates : Prop :=
  (∀ f : F,
    PredResult (.vcmp f) (vcmpSpec f) f.d (fun c l =>
      if isFloatType (modType f.m) then
        condFloat (modHigh f.m) (floatVal (modType f.m) (c.lane f.a l (modType f.m))) (floatVal (modType f.m) (c.lane f.b l (modType f.m)))
      else condInt (modHigh f.m) (intVal (modType f.m) 32 (c.lane f.a l 0)) (intVal (modType f.m) 32 (c.lane f.b l 0))) ∧
    PredResult (.pand f) (pred3 f) f.d (fun c l => c.preg f.a.toNat l && c.preg f.b.toNat l) ∧
    PredResult (.por f) (pred3 f) f.d (fun c l => c.preg f.a.toNat l || c.preg f.b.toNat l) ∧
    PredResult (.pxor f) (pred3 f) f.d (fun c l => xor (c.preg f.a.toNat l) (c.preg f.b.toNat l)) ∧
    PredResult (.pnot f) (pnotSpec f) f.d (fun c l => !c.preg f.a.toNat l) ∧
    PredResult (.pmov f) (pmovSpec f) f.d (fun c l => if f.a.toNat < 96 then c.preg f.a.toNat l else f.a == 0x3B0#10) ∧
    PureResult (.vprd f) (vprdSpec f) f.d (fun c l => if c.preg f.a.toNat l then 1 else 0)) ∧
  (∀ f : F16, PredResult (.vcmpi f) (vcmpiSpec f) f.d (fun c l =>
    let a := c.lane f.a l 0
    let b : W32 := (f.imm.extractLsb' 0 13).signExtend 32
    if f.imm.extractLsb' 13 3 = 6#3 then a.ult b
    else if f.imm.extractLsb' 13 3 = 7#3 then !a.ult b
    else condInt (f.imm.extractLsb' 13 3).toNat a.toInt b.toInt))

/-- VMOV copies A, VMOVI writes its 32-bit immediate into v0 to v15, VMOVL and VMOVH write one half of D and keep the
other, in each participating lane; each completes wherever it passes every check.
(R162.) -/
def Obligations.VectorMoves : Prop :=
  (∀ f : F, PureResult (.vmov f) (vec2 f (f.m == 0) 4) f.d (fun c l => c.lane f.a l 0)) ∧
  (∀ f : F32, PureResult (.vmovi f) (vmoviSpec f) (f.d4.zeroExtend 10) (fun _ _ => f.imm)) ∧
  (∀ f : F16,
    PureResult (.vmovl f) (vecImm f 4) f.d (fun c l => (c.lane f.d l 0).extractLsb' 16 16 ++ f.imm) ∧
    PureResult (.vmovh f) (vecImm f 4) f.d (fun c l => f.imm ++ (c.lane f.d l 0).extractLsb' 0 16))

/-- VSEL vD, A, B, pN completes wherever it passes every check: each participating lane of D takes A where pN is set and B
where it is clear, N being the six bits of the modifier.
(R161.) -/
def Obligations.SelectByPredicate : Prop :=
  ∀ f : F, PureResult (.vsel f) { vec3 f true 4 with preds := [f.m.toNat], fty := 0 } f.d (fun c l =>
    if c.preg f.m.toNat l then c.lane f.a l 0 else c.lane f.b l 0)

/-- VSHFL gives each participating lane the A value of the source lane of its mode, or its own where there is none, VBCST
the A value of lane k, and VBALLOT the mask of participating lanes in which a predicate is set, in every participating
lane or once in a scalar; each completes wherever it passes every check, among them that no word read from another
lane is pending.
(R151, R171, R172, R173.) -/
def Obligations.ExchangeOfLanes : Prop :=
  ∀ f : F,
    FixedResult (.vshfl f) (vshflSpec f) (fun c => c.crossPend f.a fun l => shflSrc (modHigh f.m) l (c.lane f.b l 0))
      (fun c => c.laneWrites f.d fun l =>
        let n := (c.lane f.b l 0).toNat
        let src : Int := if modHigh f.m = 0 then n % 32 else if modHigh f.m = 1 then (l : Int) - n
          else if modHigh f.m = 2 then (l : Int) + n else (l ^^^ (n % 32) : Nat)
        c.lane f.a (if 0 ≤ src ∧ src ≤ 31 then src.toNat else l) 0) (fun _ => 0) ∧
    FixedResult (.vbcst f) (vbcstSpec f) (fun c => c.crossPend f.a fun _ => f.m.toNat)
      (fun c => c.laneWrites f.d fun _ => c.lane f.a f.m.toNat 0) (fun _ => 0) ∧
    FixedResult (.vballot f) (vballotSpec f) noFails (fun c =>
      let mask : W32 := maskOf fun l => c.part.getLsbD l && c.preg f.a.toNat l
      if isScal f.d then (if c.part = 0 then [] else [⟨.scal (scalNo f.d), 0, mask.zeroExtend 64⟩])
      else c.laneWrites f.d fun _ => mask) (fun _ => 0)

/-- VRED reduces the A values of the participating lanes, the identity standing for every other lane, into every
participating lane or once into a scalar; VMINIDX and VMAXIDX write the best value and the lowest lane that holds it;
VFOLD puts the same reduction as VRED at the end of the wave's fold tree with its NSTAT bits and flag and writes no
register; each completes wherever it passes every check.
(R87, R174, R175, R176.) -/
def Obligations.LaneReductions : Prop :=
  ∀ f : F,
    FixedResult (.vred f) (vredSpec f) noFails (fun c =>
      let r := (reduce (modHigh f.m) (modType f.m) (lanes32.map fun l => if c.part.getLsbD l then c.lane f.a l (constType (modType f.m))
        else redIdentity (modHigh f.m) (modType f.m))).val
      if isScal f.d then (if c.part = 0 then [] else [⟨.scal (scalNo f.d), 0, r.zeroExtend 64⟩]) else c.laneWrites f.d fun _ => r)
      (fun c => if c.part = 0 then 0 else (vredVal f c).flags) ∧
    FixedResult (.vminidx f) (minIdxSpec f) noFails
      (fun c => c.laneWritesN f.d 2 fun _ k => if k = 0 then minIdxVal f false c 0 else minIdxVal f false c 1) (fun _ => 0) ∧
    FixedResult (.vmaxidx f) (minIdxSpec f) noFails
      (fun c => c.laneWritesN f.d 2 fun _ k => if k = 0 then minIdxVal f true c 0 else minIdxVal f true c 1) (fun _ => 0) ∧
    (∀ s c, s.clear (vfoldSpec f) noFails = some c → ∃ t, exec (.vfold f) s = .next t ∧ OnlyWave s t ∧ NextWord s t c ∧
      (t.wave s.cur).foldq = (s.wave s.cur).foldq ++
        [((vredVal f c).val.zeroExtend 64, if c.part = 0 then 0 else (vredVal f c).flags.toNat, f.ctl.sig.toNat)] ∧
      (t.wave s.cur).fold = (s.wave s.cur).fold ∧ (t.wave s.cur).foldSeq = (s.wave s.cur).foldSeq ∧
      ∀ r l, r.word l → (t.wave s.cur).regGet r l = (s.wave s.cur).regGet r l)

/-- VTOPK and VTOPKM write the rank-ordered top k of their candidates, VSMX the softmax partial and exponentials, VSMXM
the merge of two partials per lane or the fold of all participating lanes, SAMPLE one draw into a scalar and VRAND the
counter-based value of each lane; each completes wherever it passes every check. (What a merge does with a NaN, and
with a -0 met by the identity, and what VSMX does with a NaN or an infinite maximum, where the rules leave it open, is
the model's reading: log 74 and 64.)
(R91, R267, R268, R269, R271, R272, R274, R275.) -/
def Obligations.TokenGeneration : Prop :=
  ∀ f : F,
    FixedResult (.vtopk f) (vtopkSpec f) noFails
      (fun c => c.candWrites f.d (topK (f.m.toNat + 1) ((lanesOf c.part).map fun l => (c.lane f.a l 2, c.lane f.b l 0)))) (fun _ => 0) ∧
    FixedResult (.vtopkm f) (vtopkmSpec f) (fun c => c.wholePend (vecNo f.d) 2 lanes32 ++ c.wholePend (vecNo f.a) 2 lanes32)
      (fun c => c.candWrites f.d (topK (f.m.toNat + 1)
        ((lanes32.map fun l => (c.vreg (vecNo f.d) l, c.vreg (vecNo f.d + 1) l)) ++
         (lanes32.map fun l => (c.vreg (vecNo f.a) l, c.vreg (vecNo f.a + 1) l))))) (fun _ => 0) ∧
    FixedResult (.vsmx f) (vsmxSpec f) noFails
      (fun c =>
        let r := softmaxOf c.part fun l => mul32 (c.lane f.a l 2) (c.lane f.b l 2)
        c.laneWritesN f.d 3 fun l k => if k = 0 then r.1 else if k = 1 then r.2.1
          else ((r.2.2.1.find? fun e => e.1 == l).map Prod.snd).getD 0)
      (fun c => if c.part = 0 then 0 else (softmaxOf c.part fun l => mul32 (c.lane f.a l 2) (c.lane f.b l 2)).2.2.2) ∧
    FixedResult (.vsmxmLane f) (vsmxmSpec f) noFails
      (fun c => (lanesOf c.part).flatMap fun l =>
        let r := mergeP (c.partialAt (vecNo f.d) l) (c.partialAt (vecNo f.a) l)
        [⟨.vec (vecNo f.d), l, r.val.mu.zeroExtend 64⟩, ⟨.vec (vecNo f.d + 1), l, r.val.lam.zeroExtend 64⟩])
      (fun c => gatherFlags c.part fun l => (mergeP (c.partialAt (vecNo f.d) l) (c.partialAt (vecNo f.a) l)).flags) ∧
    FixedResult (.vsmxmWave f) (vsmxmWaveSpec f) noFails
      (fun c =>
        let r := (lanesOf c.part).foldl (fun (p : Fl Partial) l =>
          ⟨(mergeP p.val (c.partialAt (vecNo f.a) l)).val, p.flags ||| (mergeP p.val (c.partialAt (vecNo f.a) l)).flags⟩) ⟨zeroPartial, 0⟩
        c.laneWritesN f.d 2 fun _ k => if k = 0 then r.val.mu else r.val.lam)
      (fun c => ((lanesOf c.part).foldl (fun (p : Fl Partial) l =>
        ⟨(mergeP p.val (c.partialAt (vecNo f.a) l)).val, p.flags ||| (mergeP p.val (c.partialAt (vecNo f.a) l)).flags⟩) ⟨zeroPartial, 0⟩).flags) ∧
    ScalarResult (.sample f) (sampleSpec f) (scalNo f.d) (sampleFails f) (fun c =>
      sampleDraw ((c.scalar f.b).extractLsb' 0 32) ((c.scalar f.b).extractLsb' 32 32) (c.vreg (vecNo f.a + 2) 0)
        ((List.range (f.m.toNat + 1)).map fun l => (l, (c.vreg (vecNo f.a) l, c.vreg (vecNo f.a + 1) l)))) ∧
    PureResult (.vrand f) (vrandSpec f) f.d (fun c l =>
      let x := randOf (c.lane f.a l 0) ((c.special 0x09 l 0 false).extractLsb' 0 32) (c.scalar f.b)
      if f.m = 1 then (rnd32 ⟨dyadic false (x.toNat / 256) (-24), 0⟩).val else x)

/-- The scalar opcodes 0x080 to 0x098 but for SDIV and SREM execute once for the wave where a lane participates, and write
the result of their type, extended to 64 bits, into sD alone; each completes wherever it passes every check, three
cycles long, five for SMUL and SMULHI.
(R152, R153, R179.) -/
def Obligations.ScalarArithmetic : Prop :=
  (∀ f : F,
    ScalarResult (.sadd f) (sc3 f (scEnc f.m) 3) (scalNo f.d) noFails (fun c =>
      scWrap (modType f.m) (scVal (modType f.m) (c.scalar f.a) + scVal (modType f.m) (c.scalar f.b))) ∧
    ScalarResult (.ssub f) (sc3 f (scEnc f.m) 3) (scalNo f.d) noFails (fun c =>
      scWrap (modType f.m) (scVal (modType f.m) (c.scalar f.a) - scVal (modType f.m) (c.scalar f.b))) ∧
    ScalarResult (.smul f) (sc3 f (scEnc f.m) 5) (scalNo f.d) noFails (fun c =>
      scWrap (modType f.m) (scVal (modType f.m) (c.scalar f.a) * scVal (modType f.m) (c.scalar f.b))) ∧
    ScalarResult (.smulhi f) (sc3 f (scEnc f.m) 5) (scalNo f.d) noFails (fun c =>
      scWrap (modType f.m) (scVal (modType f.m) (c.scalar f.a) * scVal (modType f.m) (c.scalar f.b) /
        (if modType f.m < 2 then 2 ^ 32 else 2 ^ 64))) ∧
    ScalarResult (.smin f) (sc3 f (scEnc f.m) 3) (scalNo f.d) noFails (fun c =>
      scWrap (modType f.m) (min (scVal (modType f.m) (c.scalar f.a)) (scVal (modType f.m) (c.scalar f.b)))) ∧
    ScalarResult (.smax f) (sc3 f (scEnc f.m) 3) (scalNo f.d) noFails (fun c =>
      scWrap (modType f.m) (max (scVal (modType f.m) (c.scalar f.a)) (scVal (modType f.m) (c.scalar f.b)))) ∧
    ScalarResult (.sand f) (sc3 f (f.m == 0) 3) (scalNo f.d) noFails (fun c => c.scalar f.a &&& c.scalar f.b) ∧
    ScalarResult (.sor f) (sc3 f (f.m == 0) 3) (scalNo f.d) noFails (fun c => c.scalar f.a ||| c.scalar f.b) ∧
    ScalarResult (.sxor f) (sc3 f (f.m == 0) 3) (scalNo f.d) noFails (fun c => c.scalar f.a ^^^ c.scalar f.b) ∧
    ScalarResult (.snot f) (sc2 f (f.m == 0) 3) (scalNo f.d) noFails (fun c => ~~~c.scalar f.a) ∧
    ScalarResult (.sshl f) (sc3 f (f.m == 0) 3) (scalNo f.d) noFails (fun c =>
      BitVec.ofNat 64 ((c.scalar f.a).toNat * 2 ^ (c.scalar f.b).toNat)) ∧
    ScalarResult (.sshr f) (sc3 f (f.m == 0) 3) (scalNo f.d) noFails (fun c =>
      BitVec.ofNat 64 ((c.scalar f.a).toNat / 2 ^ (c.scalar f.b).toNat)) ∧
    ScalarResult (.ssar f) (sc3 f (f.m == 0) 3) (scalNo f.d) noFails (fun c =>
      BitVec.ofInt 64 ((c.scalar f.a).toInt / 2 ^ (c.scalar f.b).toNat)) ∧
    ScalarResult (.spopc f) (sc2 f (f.m == 0) 3) (scalNo f.d) noFails (fun c =>
      BitVec.ofNat 64 ((List.range 64).countP fun i => (c.scalar f.a).getLsbD i)) ∧
    ScalarResult (.sclz f) (sc2 f (f.m == 0) 3) (scalNo f.d) noFails (fun c =>
      BitVec.ofNat 64 (((List.range 64).find? fun i => (c.scalar f.a).getLsbD (63 - i)).getD 64)) ∧
    ScalarResult (.sctz f) (sc2 f (f.m == 0) 3) (scalNo f.d) noFails (fun c =>
      BitVec.ofNat 64 (((List.range 64).find? fun i => (c.scalar f.a).getLsbD i).getD 64)) ∧
    ScalarResult (.scmp f) (sc3 f (isScalarType (modType f.m) && decide (modHigh f.m < 6)) 3) (scalNo f.d) noFails (fun c =>
      if condInt (modHigh f.m) (scVal (modType f.m) (c.scalar f.a)) (scVal (modType f.m) (c.scalar f.b)) then 1 else 0) ∧
    ScalarResult (.ssel f) { sc3 f (f.m == 0) 3 with scals := [scalNo f.d] } (scalNo f.d) noFails (fun c =>
      if c.sreg (scalNo f.d) ≠ 0 then c.scalar f.a else c.scalar f.b) ∧
    ScalarResult (.smov f) (sc2 f (f.m == 0) 3) (scalNo f.d) noFails (fun c => c.scalar f.a)) ∧
  (∀ f : F32, ScalarResult (.smovi f) (smoviSpec f) f.d4.toNat noFails (fun _ => f.imm.signExtend 64)) ∧
  (∀ f : F16,
    ScalarResult (.smovl f) (scImm f) (scalNo f.d) noFails (fun c =>
      (c.sreg (scalNo f.d)).extractLsb' 48 16 ++ f.imm ++ (c.sreg (scalNo f.d)).extractLsb' 0 32) ∧
    ScalarResult (.smovh f) (scImm f) (scalNo f.d) noFails (fun c => f.imm ++ (c.sreg (scalNo f.d)).extractLsb' 0 48) ∧
    ScalarResult (.saddi f) (scalarSpec 1 f.ctl true [f.a] (some f.d) 3) (scalNo f.d) noFails (fun c =>
      c.scalar f.a + f.imm.signExtend 64))

/-- SDIV writes the quotient rounded toward zero and SREM the remainder with the sign of A of the type, extended to 64
bits, 40 cycles long, wherever they pass every check, among them that the divisor is not zero where a lane
participates.
(R152, R153, R179, R180.) -/
def Obligations.ScalarDivision : Prop :=
  ∀ f : F,
    ScalarResult (.sdiv f) (sc3 f (scEnc f.m) 40) (scalNo f.d) (scDivFails f) (fun c =>
      scWrap (modType f.m) (Int.tdiv (scVal (modType f.m) (c.scalar f.a)) (scVal (modType f.m) (c.scalar f.b)))) ∧
    ScalarResult (.srem f) (sc3 f (scEnc f.m) 40) (scalNo f.d) (scDivFails f) (fun c =>
      scWrap (modType f.m) (scVal (modType f.m) (c.scalar f.a) - scVal (modType f.m) (c.scalar f.b) *
        Int.tdiv (scVal (modType f.m) (c.scalar f.a)) (scVal (modType f.m) (c.scalar f.b))))

/-- SFOLD whose number stands in the fold register writes the fold register into sD, and NSRD and NSCLR, once every
earlier setter of NSTAT has completed, write NSTAT zero-extended into sD or clear the bits named by A[5:0], wherever
they pass every check.
(R152, R177, R178.) -/
def Obligations.FoldAndNumberStatus : Prop :=
  (∀ f : F, ActResult (.sfold f) (sfoldSpec f) (fun _ => sfoldFails f)
    (fun s c => (s.wave s.cur).foldSeq = (c.scalar f.a).extractLsb' 0 16)
    (fun s _ => s) (fun s _ => some (scalNo f.d, (s.wave s.cur).fold))) ∧
  (∀ (f : F) (s : State) (c : Ctx), s.clear (nsrdSpec f) noFails = some c → s.waitDone c.id c.b c.w .nstat = true →
    ∃ t, exec (.nsrd f) s = .next t ∧ FixedOutcome s t c (nsrdSpec f)
      (if c.part = 0 then [] else [⟨.scal (scalNo f.d), 0, (s.wave s.cur).nstat.zeroExtend 64⟩]) 0) ∧
  (∀ (f : F) (s : State) (c : Ctx), s.clear (nsclrSpec f) noFails = some c → s.waitDone c.id c.b c.w .nstat = true →
    ∃ t, exec (.nsclr f) s = .next t ∧ DoneOutcome s t c
      (if c.part = 0 then s else s.modWave s.cur fun w =>
        { w with nstat := w.nstat &&& ~~~((c.scalar f.a).extractLsb' 0 6).zeroExtend 32 }) none f.ctl.sig.toNat 0)

/-- FENCE writes at once a token with the count of the wave's accesses, the scope, lowered to the policy's, and the
demotion bit; at scope die or wider it seals the journal and keeps the seal for its token, and a demotion is counted
and marks the wave. FWAIT whose accesses have performed completes and changes nothing. FENCE at scope die or wider is
stated where the wave has no lazy load to force first.
(R107, R109, R200, R201.) -/
def Obligations.FencesAndTokens : Prop :=
  (∀ f : F, ActResult (.fence f) (fenceSpec f) (fun s => fenceFails f s)
    (fun _ c => 3 ≤ f.m.toNat → c.publishDemand = [])
    (fun s c =>
      let scope := min f.m.toNat (s.policyScope c.l.fn)
      let s := if scope < f.m.toNat then (s.countDemotion c.l.fn).modWave s.cur fun w => { w with demoted := true } else s
      if 3 ≤ scope then
        (s.modWave s.cur fun w => { w with fences := w.fences ++ [(c.w.accesses, c.b.journal.phase)] }).modBlock s.cur
          fun b => b.sealBy s.cur.wave
      else s)
    (fun s c => some (scalNo f.d,
      let scope := min f.m.toNat (s.policyScope c.l.fn)
      BitVec.ofNat 64 (c.w.accesses % 2 ^ 48 + scope * 2 ^ 48 + if scope < f.m.toNat then 2 ^ 51 else 0)))) ∧
  (∀ f : F, ActResult (.fwait f) (fwaitSpec f) (fun _ => fwaitFails f)
    (fun s c => s.fwaitDone c.b c.w (c.scalar f.a) = true) (fun s _ => s) (fun _ _ => none))

/-- BINIT sets a barrier object to its expected count, BARV of a wave whose earlier accesses have performed arrives and
returns the phase before it, BCNT adds to the byte count, both completing the phase when the arrived count equals the
expected one and the byte count is zero, and BWAIT at another phase than A completes; nothing else changes.
(R152, R202, R203.) -/
def Obligations.BarrierObjects : Prop :=
  ∀ f : F,
    ActResult (.binit f) (binitSpec f) (fun _ => barFails f fun c => (c.scalar f.a).extractLsb' 0 16 == 0) (fun _ _ => True)
      (fun s c => s.modBlock s.cur fun b => b.setBar f.m.toNat ⟨(c.scalar f.a).extractLsb' 0 16, 0, 0, 0, false⟩) (fun _ _ => none) ∧
    ActResult (.barv f) (barvSpec f) (fun _ => barFails f (barvIllegal f)) (fun s c => s.performed c.b c.w c.w.accesses = true)
      (fun s c => s.modBlock s.cur fun b => b.setBar f.m.toNat
        (let x := c.b.bar f.m.toNat
         let y : Barrier := { x with arrived := x.arrived + 1, mask := x.mask ||| (1#32 <<< s.cur.wave) }
         if y.expected ≠ 0 ∧ y.arrived = y.expected ∧ y.bytes = 0 then { y with arrived := 0, mask := 0, phase := !y.phase } else y))
      (fun _ c => some (scalNo f.d, if (c.b.bar f.m.toNat).phase then 1 else 0)) ∧
    ActResult (.bcnt f) (bcntSpec f) (fun _ => barFails f fun c => (c.b.bar f.m.toNat).expected == 0) (fun _ _ => True)
      (fun s c => s.modBlock s.cur fun b => b.setBar f.m.toNat
        (let x := c.b.bar f.m.toNat
         let y : Barrier := { x with bytes := x.bytes + (c.scalar f.a).extractLsb' 0 32 }
         if y.expected ≠ 0 ∧ y.arrived = y.expected ∧ y.bytes = 0 then { y with arrived := 0, mask := 0, phase := !y.phase } else y))
      (fun _ _ => none) ∧
    ActResult (.bwait f) (bwaitSpec f) (fun _ => barFails f fun c => (c.b.bar f.m.toNat).expected == 0)
      (fun _ c => (c.b.bar f.m.toNat).phase ≠ (c.scalar f.a).getLsbD 0) (fun s _ => s) (fun _ _ => none)

/-- PHREG makes the wave a member at the current phase and returns the phase, or the code of a wave that is one already or
of a full table; PHDROP drops the wave; PHWAIT on a phase that has passed completes. (That the code of a member comes
before that of a full table is the model's reading, since R206 gives no order: log 58; that a wave which has dropped
is a member until it leaves is its choice: log 95.)
(R204, R205, R206.) -/
def Obligations.PhaserMembership : Prop :=
  ∀ f : F,
    ActResult (.phreg f) (phregSpec f) (fun s c => s.phaserStop c (c.scalar f.a) fun _ => true) (fun _ _ => True)
      (fun s c =>
        let k := objectOf (c.scalar f.a)
        let p := s.phaser k
        if (p.member c.b s.cur.wave).isSome ∨ 262144 ≤ s.memberships (k / 65536) then s
        else s.setPhaser k { p with members := p.members ++
          [⟨c.b.launch, c.b.linear, s.cur.wave, f.m.getLsbD 0, f.m.getLsbD 1, p.phase.toNat, false⟩] })
      (fun s c =>
        let k := objectOf (c.scalar f.a)
        let p := s.phaser k
        some (scalNo f.d, if (p.member c.b s.cur.wave).isSome then 0x8000000000000002
          else if 262144 ≤ s.memberships (k / 65536) then 0x8000000000000001 else p.phase.zeroExtend 64)) ∧
    ActResult (.phdrop f) (phdropSpec f) (fun s c => s.phaserStop c (c.scalar f.a) Option.isSome) (fun _ _ => True)
      (fun s c => s.setPhaser (objectOf (c.scalar f.a)) ((s.phaser (objectOf (c.scalar f.a))).drop c.b s.cur.wave)) (fun _ _ => none) ∧
    ActResult (.phwait f) (phwaitSpec f)
      (fun s c => s.phaserStop c (c.scalar f.a) fun m => match m with
        | none => false
        | some m => m.waits)
      (fun s c => phasePassed (s.phaser (objectOf (c.scalar f.a))).phase ((c.scalar f.b).extractLsb' 0 32) = true)
      (fun s _ => s) (fun _ _ => none)

/-- PHSIG and PHADV seal the journal; where the publish point is reached at once and the member may signal, the signal
counts, PHSIG returns the phase it signals, and PHADV, where that phase then passes, returns the one after it. Stated
where the wave has no lazy load to force first.
(R99, R205, R206.) -/
def Obligations.PhaserSignals : Prop :=
  ∀ (f : F) (adv : Bool),
    ActResult (if adv then .phadv f else .phsig f) (phsigSpec f) (fun s c => s.phaserStop c (c.scalar f.a) (sigRights adv))
      (fun s c => c.publishDemand = [] ∧ s.sealReached (c.b.sealBy s.cur.wave) c.w c.b.journal.phase c.w.accesses = true ∧
        ∃ m, (s.phaser (objectOf (c.scalar f.a))).member c.b s.cur.wave = some m ∧
          (s.phaser (objectOf (c.scalar f.a))).maySignal m = true ∧
          (adv = true → phasePassed ((s.phaser (objectOf (c.scalar f.a))).signal c.b s.cur.wave).phase (BitVec.ofNat 32 m.count) = true))
      (fun s c => (s.modBlock s.cur fun b => b.sealBy s.cur.wave).setPhaser (objectOf (c.scalar f.a))
        ((s.phaser (objectOf (c.scalar f.a))).signal c.b s.cur.wave))
      (fun s c => some (scalNo f.d,
        let n : BitVec 32 := match (s.phaser (objectOf (c.scalar f.a))).member c.b s.cur.wave with
          | none => 0
          | some m => BitVec.ofNat 32 m.count
        if adv then (n + 1).zeroExtend 64 else n.zeroExtend 64))

/-- SQREG registers or releases the ring with the object and returns its status; SQPUSH.res and SQPOP.res reserve the slot
at the push position or the oldest filled slot, or return a code; SQPUSH.com of a wave whose earlier FWRs have
performed marks its slot filled and SQPOP.com frees one; each takes the stage of its side for its block. (The order in
which the failure codes of a registration and of a reservation are tested is the model's choice: log 95.)
(R207, R208, R322.) -/
def Obligations.StageQueues : Prop :=
  ∀ f : F,
    ActResult (.sqreg f) (sqregSpec f) (fun s c => s.queueStop c (c.scalar f.a) fun _ => true) (fun _ _ => True)
      (fun s c => s.setStageq (objectOf (c.scalar f.a))
        ((s.stageq (objectOf (c.scalar f.a))).register (c.sreg (scalNo f.d)) (c.scalar f.b) c.l.tenant).1)
      (fun s c => some (scalNo f.d,
        ((s.stageq (objectOf (c.scalar f.a))).register (c.sreg (scalNo f.d)) (c.scalar f.b) c.l.tenant).2)) ∧
    ActResult (.sqpushRes f) (sqresSpec f) (fun s c => s.queueStop c (c.scalar f.a) StageQueue.registered) (fun _ _ => True)
      (fun s c => (s.setStageq (objectOf (c.scalar f.a)) ((s.stageq (objectOf (c.scalar f.a))).reservePush (c.b.launch, c.b.linear)).1).modBlock
        s.cur fun b => { b with stage := some (s.stageq (objectOf (c.scalar f.a))).producer })
      (fun s c => some (scalNo f.d, ((s.stageq (objectOf (c.scalar f.a))).reservePush (c.b.launch, c.b.linear)).2)) ∧
    ActResult (.sqpushCom f) (sqcomSpec f true) (fun s => sqpushComFails f s)
      (fun _ c => (c.w.log.all fun e => e.2.opcode != 0x113 || decide (c.w.accesses ≤ e.2.seq)) = true)
      (fun s c => (s.setStageq (objectOf (c.scalar f.a))
        ((s.stageq (objectOf (c.scalar f.a))).commitPush ((c.scalar f.b).extractLsb' 0 3).toNat (f.m.getLsbD 1))).modBlock
        s.cur fun b => { b with stage := some (s.stageq (objectOf (c.scalar f.a))).producer })
      (fun _ _ => none) ∧
    ActResult (.sqpopRes f) (sqresSpec f) (fun s c => s.queueStop c (c.scalar f.a) StageQueue.registered) (fun _ _ => True)
      (fun s c => (s.setStageq (objectOf (c.scalar f.a)) ((s.stageq (objectOf (c.scalar f.a))).reservePop (c.b.launch, c.b.linear)).1).modBlock
        s.cur fun b => { b with stage := some (s.stageq (objectOf (c.scalar f.a))).consumer })
      (fun s c => some (scalNo f.d, ((s.stageq (objectOf (c.scalar f.a))).reservePop (c.b.launch, c.b.linear)).2)) ∧
    ActResult (.sqpopCom f) (sqcomSpec f false)
      (fun s c => s.queueStop c (c.scalar f.a) fun q => q.registered && q.stateAt (sqcomSlot f c) == some .popping) (fun _ _ => True)
      (fun s c => (s.setStageq (objectOf (c.scalar f.a))
        ((s.stageq (objectOf (c.scalar f.a))).setSlot ((c.scalar f.b).extractLsb' 0 3).toNat .free none)).modBlock
        s.cur fun b => { b with stage := some (s.stageq (objectOf (c.scalar f.a))).consumer })
      (fun _ _ => none)

/-- SQSTAT writes the counts of filled slots, of slots reserved for pushing and for popping, the number of slots, and the
three state bits of the object into sD, and changes nothing else.
(R209.) -/
def Obligations.StageQueueStatus : Prop :=
  ∀ f : F, ActResult (.sqstat f) (sqresSpec f) (fun s c => s.queueStop c (c.scalar f.a) fun _ => true) (fun _ _ => True)
    (fun s _ => s)
    (fun s c => some (scalNo f.d,
      let q := s.stageq (objectOf (c.scalar f.a))
      BitVec.ofNat 64 ((q.slots.filter fun e => e.1 == .filled).length + (q.slots.filter fun e => e.1 == .pushing).length * 2 ^ 4 +
        (q.slots.filter fun e => e.1 == .popping).length * 2 ^ 8 + q.slots.length * 2 ^ 12 +
        (if q.eos = [] then 0 else 2 ^ 16) + (if q.eosPopped then 2 ^ 17 else 0) + (if q.registered then 2 ^ 18 else 0))))

/-- FREV completes wherever it passes every check: the generation of the issuing wave grows by one, modulo 256, and
nothing else changes.
(R198.) -/
def Obligations.FrondGenerations : Prop :=
  ∀ f : F, ActResult (.frev f) (frevSpec f) (fun _ => noFails) (fun _ _ => True)
    (fun s _ => { s with frondGen := spSet 0 s.frondGen (wfull s.cur) (spGet 0 s.frondGen (wfull s.cur) + 1) }) (fun _ _ => none)

/-- FEXP writes into sD its parameter word completed with the wave's generation in bits [63:56], logical core in [55:44],
block slot in [43:40], wave number in [39:35] and tenant in [34:31], wherever it passes every check; nothing else
changes.
(R66, R197.) -/
def Obligations.FrondHandles : Prop :=
  ∀ f : F, ActResult (.fexp f) (fexpSpec f) (fun _ => fexpFails f) (fun _ _ => True) (fun s _ => s)
    (fun s c => some (scalNo f.d,
      spGet 0 s.frondGen (wfull s.cur) ++ BitVec.ofNat 12 s.cur.core ++ BitVec.ofNat 4 s.cur.slot ++ BitVec.ofNat 5 s.cur.wave ++
        BitVec.ofNat 4 c.l.tenant ++ (c.scalar f.a).extractLsb' 0 31))

/-- AMSEND to a core with room, while no earlier phase of its block uses the tag of its message, puts its message on its
way to the core, with the handler, the budget of its header, the argument, 128 bytes of the common area, the tenant,
address space, privilege, launch and phase of its block and the priority of its wave up to 126, counts it in its
launch and leaves its flag up until the spawn; CSEG carves a segment behind the last one and returns its base, or a
code.
(R60, R63, R117, R210.) -/
def Obligations.MessagesAndSegments : Prop :=
  (∀ (f : F) (s : State) (c : Ctx), s.clear (amsendSpec f) (amsendFails f s) = some c →
    (c.part ≠ 0 → (spGet [] s.msgq (amCore (c.scalar f.b))).length < 64 → s.tagFree c.b c.b.journal.phase = true →
      ∃ t m, exec (.amsend f) s = .next t ∧
        DoneOutcome s t c ((s.modLaunch c.b.launch fun l => { l with messages := l.messages + 1 }).push (.amArrive ((c.scalar f.b).extractLsb' 0 12).toNat m))
          none f.ctl.sig.toNat 1 ∧
        m.handler = c.scalar f.a ∧ m.arg = (c.scalar f.b).extractLsb' 32 16 ∧ m.sender = s.cur ∧ m.launch = c.b.launch ∧ m.uid = c.b.uid ∧
        m.tenant = c.l.tenant ∧ m.asid = c.l.asid ∧ m.priv = c.l.priv ∧ m.priority = min 126 (if c.w.handler then 127 else c.b.prio) ∧
        m.phase = c.b.journal.phase ∧ m.sig = f.ctl.sig.toNat ∧ m.level = 0 ∧ m.since = s.clock ∧
        (∀ w, s.peek s.cur.core c.l.asid c.l.tenant (c.scalar f.a) = .ok w → m.budget = headerBudget w) ∧
        m.payload = (List.range 32).map fun i => BitVec.ofNat 32 (natOfBytes ((List.range 4).map fun j =>
          spGet 0 c.b.common (((c.scalar f.b).extractLsb' 16 16).toNat * 128 + 4 * i + j)))) ∧
    (c.part = 0 → ∃ t, exec (.amsend f) s = .next t ∧ DoneOutcome s t c s none f.ctl.sig.toNat 0)) ∧
  (∀ f : F16, ActResult (.cseg f) (csegSpec f) (fun _ => noFails) (fun _ _ => True)
    (fun s _ => s.modBlock s.cur fun b => (b.carve (f.imm.extractLsb' 0 13).toNat (f.imm.extractLsb' 13 3).toNat).1)
    (fun _ c => some (scalNo f.d, (c.b.carve (f.imm.extractLsb' 0 13).toNat (f.imm.extractLsb' 13 3).toNat).2)))

/-- FWAIT, BWAIT, PHWAIT and BARV whose wait is not over hold their wave: it leaves its slot at the same word with its
flag one up, and no register and nothing else of the machine changes.
(R127, R186.) -/
def Obligations.WaitsHoldTheWave : Prop :=
  ∀ f : F,
    HoldResult (.fwait f) (fwaitSpec f) (fun _ => fwaitFails f) (fun c => .fwait (c.scalar f.a)) ∧
    HoldResult (.bwait f) (bwaitSpec f) (fun _ => barFails f fun c => (c.b.bar f.m.toNat).expected == 0)
      (fun c => .bwait f.m.toNat ((c.scalar f.a).getLsbD 0)) ∧
    HoldResult (.barv f) (barvSpec f) (fun _ => barFails f (barvIllegal f)) (fun _ => .arrive f.m.toNat) ∧
    HoldResult (.phwait f) (phwaitSpec f)
      (fun s c => s.phaserStop c (c.scalar f.a) fun m => match m with
        | none => false
        | some m => m.waits)
      (fun c => .phwait (objectOf (c.scalar f.a)) ((c.scalar f.b).extractLsb' 0 32))

/-- FWAIT, BWAIT and PHWAIT back in the slot with their wait over complete: the wait is gone, the active lanes go on, the
flag counts down, and nothing else changes.
(R186, R421.) -/
def Obligations.WaitsThatEnd : Prop :=
  ∀ f : F,
    ResumeResult (.fwait f) (fwaitSpec f) (fun wt => ∃ t, wt = .fwait t) ∧
    ResumeResult (.bwait f) (bwaitSpec f) (fun wt => ∃ n p, wt = .bwait n p) ∧
    ResumeResult (.phwait f) (phwaitSpec f) (fun wt => ∃ k p, wt = .phwait k p)

/-- LDC writes the bytes of the common or tile area at each participating lane's offset, extended by their width, into its
destination registers 8 cycles long; STC writes the lanes' register bytes into the area in ascending lane order; each
completes wherever it passes every check and changes nothing else.
(R61, R188.) -/
def Obligations.AreaAccesses : Prop :=
  ∀ f : F,
    (∀ (s : State) (c : Ctx), s.clear (ldcSpec f) (areaFails f false) = some c →
      (c.part ≠ 0 → ∃ t, exec (.ldc f) s = .next t ∧ FixedOutcome s t c (ldcSpec f) (c.laneWritesN f.d (regsOf (accessBytes f.m)) fun l k =>
        loadedWord f.m ((List.range (accessBytes f.m)).map fun i =>
          spGet 0 (if f.m.getLsbD 3 then c.b.tile else c.b.common) ((c.lane f.a l 0 + c.lane f.b l 0).toNat + i)) k) 0) ∧
      (c.part = 0 → ∃ t, exec (.ldc f) s = .next t ∧ DoneOutcome s t c s none f.ctl.sig.toNat 0)) ∧
    ActResult (.stc f) (stcSpec f) (fun _ => areaFails f true) (fun _ _ => True)
      (fun s c => s.modBlock s.cur fun b => (lanesOf c.part).foldl (fun b l =>
        b.setArea (f.m.getLsbD 3) (c.lane f.a l 0 + c.lane f.b l 0).toNat (storedBytes (accessBytes f.m) fun k => c.laneReg f.d k l)) b)
      (fun _ _ => none)

/-- LD, ST, ATOM and RED wherever they pass every check take the lowest free entry of the operand log with the word, the
address and the data of each participating lane, make the destination words of LD and ATOM pending and count their
flag up; .rel first seals the journal, which is stated where no lazy load is to be forced first; memory, registers and
every other wave stay as they are. (That the entry is the lowest free one is the model's choice: R184 and R185 say
only one entry, log 99.)
(R182, R183, R184, R185, R187, R189.) -/
def Obligations.MemoryAccessesAreLogged : Prop :=
  ∀ f : F,
    LogResult (.ld f) (ldSpec f) (fun s c => s.lockFails c (c.memAddr f (f.m.getLsbD 3)) (accessBytes f.m) false ++
        c.addressFails (c.memAddr f (f.m.getLsbD 3)) (accessBytes f.m)) (fun _ => True) (fun s _ => s)
      (fun s c => { c.logEntry 0x100 f [(f.b, 1)] with
        addrs := (lanesOf c.part).map fun l => (l, c.scalar f.a +
          (if f.m.getLsbD 3 then (c.lane f.b l 0).signExtend 64 else (c.lane f.b l 0).zeroExtend 64))
        dests := c.destWords f.d (regsOf (accessBytes f.m)), unchecked := s.untranslated c (c.memAddr f (f.m.getLsbD 3)) }) ∧
    LogResult (.st f) (stSpec f) (fun s c => s.storeFails c (c.memAddr f (f.m.getLsbD 3)) (accessBytes f.m)) (fun _ => True) (fun s _ => s)
      (fun s c => { c.logEntry 0x101 f [(f.b, 1), (f.d, regsOf (accessBytes f.m))] with
        addrs := (lanesOf c.part).map fun l => (l, c.scalar f.a +
          (if f.m.getLsbD 3 then (c.lane f.b l 0).signExtend 64 else (c.lane f.b l 0).zeroExtend 64))
        data := c.dataWords f.d (regsOf (accessBytes f.m)), dRegs := c.fieldRegs f.d
        unchecked := s.untranslated c (c.memAddr f (f.m.getLsbD 3)) }) ∧
    LogResult (.atom f) (atomSpec f) (fun s c => s.atomFails f c) (fun c => f.m.getLsbD 1 = true → c.publishDemand = [])
      (fun s _ => if f.m.getLsbD 1 then s.modBlock s.cur fun b => b.sealBy s.cur.wave else s)
      (fun s c => { c.logEntry 0x104 f [(f.b, 1), (f.d, atomData f.m)] with
        addrs := (lanesOf c.part).map fun l => (l, c.scalar f.a + (c.lane f.b l 0).zeroExtend 64)
        data := c.dataWords f.d (atomData f.m), dRegs := c.fieldRegs f.d
        dests := c.destWords f.d (if atomWide f.m then 2 else 1), unchecked := s.untranslated c (c.memAddr f false)
        sealNo := if f.m.getLsbD 1 then some c.b.journal.phase else none
        phase := if f.m.getLsbD 1 then c.b.journal.phase + 1 else c.b.journal.phase }) ∧
    LogResult (.red f) (redSpec f) (fun s c => s.atomFails f c) (fun c => f.m.getLsbD 1 = true → c.publishDemand = [])
      (fun s _ => if f.m.getLsbD 1 then s.modBlock s.cur fun b => b.sealBy s.cur.wave else s)
      (fun s c => { c.logEntry 0x105 f [(f.b, 1), (f.d, atomData f.m)] with
        addrs := (lanesOf c.part).map fun l => (l, c.scalar f.a + (c.lane f.b l 0).zeroExtend 64)
        data := c.dataWords f.d (atomData f.m), dRegs := c.fieldRegs f.d, unchecked := s.untranslated c (c.memAddr f false)
        sealNo := if f.m.getLsbD 1 then some c.b.journal.phase else none
        phase := if f.m.getLsbD 1 then c.b.journal.phase + 1 else c.b.journal.phase })

/-- FRD and FWR wherever they pass the checks of the accessing core take the lowest free entry of the operand log with the
handle and index of each participating lane, FWR with its datum, FRD with its destination words pending; no register
and nothing else of the machine changes. (That the entry is the lowest free one is the model's choice: log 99.)
(R184, R185, R199.) -/
def Obligations.FrondAccessesAreLogged : Prop :=
  ∀ f : F,
    LogResult (.frd f) (frondSpec f false) (fun _ => frondFails f) (fun _ => True) (fun s _ => s)
      (fun _ c => { c.logEntry 0x112 f ((f.b, 1) :: if isVec f.a then [(f.a, 2)] else []) with
        data := (lanesOf c.part).flatMap fun l => [(4 * l, c.target f.a l), (4 * l + 1, (c.lane f.b l 0).zeroExtend 64)]
        dests := c.destWords f.d 1 }) ∧
    LogResult (.fwr f) (frondSpec f true) (fun _ => frondFails f) (fun _ => True) (fun s _ => s)
      (fun _ c => { c.logEntry 0x113 f ([(f.b, 1), (f.d, 1)] ++ if isVec f.a then [(f.a, 2)] else []) with
        data := (lanesOf c.part).flatMap fun l => [(4 * l, c.target f.a l), (4 * l + 1, (c.lane f.b l 0).zeroExtend 64),
          (4 * l + 2, (c.lane f.d l 0).zeroExtend 64)]
        dRegs := c.fieldRegs f.d })

/-- Wherever they pass every check, BRA takes every participating lane to its label, BRANY and BRALL where the predicate
is set in one or in all of them, BRS where its scalar is zero or is not, JMPI and RET each to its register target; any
other active lane goes on to the next word, a lane that reaches its meeting point is held until its fellows arrive,
and nothing else changes.
(R20, R21, R212, R213, R214, R215, R220.) -/
def Obligations.Branches : Prop :=
  (∀ f : F32,
    MoveResult (.bra f) (branchSpec f) (fun _ => noFails) (fun _ _ => none) (fun c => c.jump true fun _ => c.addr + 8 * f.imm.signExtend 64) ∧
    MoveResult (.brany f) (voteSpec f) (fun _ => noFails) (fun _ _ => none) (fun c =>
      c.jump ((List.range 32).any fun k => c.part.getLsbD k && c.preg (f.imm.extractLsb' 25 7).toNat k)
        fun _ => c.addr + 8 * (f.imm.extractLsb' 0 25).signExtend 64) ∧
    MoveResult (.brall f) (voteSpec f) (fun _ => noFails) (fun _ _ => none) (fun c =>
      c.jump ((List.range 32).all fun k => !c.part.getLsbD k || c.preg (f.imm.extractLsb' 25 7).toNat k)
        fun _ => c.addr + 8 * (f.imm.extractLsb' 0 25).signExtend 64) ∧
    MoveResult (.brs f) (brsSpec f) (fun _ => noFails) (fun _ _ => none) (fun c =>
      c.jump ((c.sreg f.d4.toNat == 0) == f.imm.getLsbD 31) fun _ => c.addr + 8 * (f.imm.extractLsb' 0 31).signExtend 64)) ∧
  (∀ f : F,
    MoveResult (.jmpi f) (jumpSpec f) (fun _ c => c.targetFails f.a) (fun _ _ => none) (fun c => c.jump true (c.target f.a)) ∧
    MoveResult (.ret f) (jumpSpec f) (fun _ c => c.targetFails f.a) (fun _ _ => none) (fun c => c.jump true (c.target f.a)))

/-- Wherever they pass every check, MEET with a label sets the meeting register of each participating lane to the label's
address, or to none where the offset is zero, MEET vN to the register pair, MEET none to none; then each lane goes on
and the test for arrival sees the new value; nothing else changes.
(R20, R21, R216.) -/
def Obligations.MeetingRegisters : Prop :=
  (∀ f : F32,
    MoveResult (.meetLabel f) (meetLabelSpec f) (fun _ => noFails)
      (fun c _ => some (if f.imm.extractLsb' 0 31 = 0 then meetNone else c.addr + 8 * (f.imm.extractLsb' 0 31).signExtend 64))
      (fun _ _ => none) ∧
    MoveResult (.meetRegister f) (meetRegSpec f) (fun _ => meetRegFails f) (fun c l => some (c.target (f.d4.zeroExtend 10) l))
      (fun _ _ => none) ∧
    MoveResult (.meetNone f) (meetNoneSpec f) (fun _ => noFails) (fun _ _ => some meetNone) (fun _ _ => none)) ∧
  (∀ f : F, MoveResult (.nop f) (bareSpec f false) (fun _ => noFails) (fun _ _ => none) (fun _ _ => none))

/-- Wherever they pass every check, among them the header's validity and the register budget, CALL and CALLI write the
return address and the meeting register into the four link registers of each participating lane, set its meeting
register to the return address and take it to the word behind the header; the link words are a result of latency 4;
nothing else changes.
(R217, R218, R219.) -/
def Obligations.Calls : Prop :=
  (∀ f : F32, CallResult (.call f) (callSpec f) noFails (fun s c => s.headerFails c fun _ => c.addr + 8 * f.imm.signExtend 64)
    (f.d4.zeroExtend 10) (fun c _ => c.addr + 8 * f.imm.signExtend 64)) ∧
  (∀ f : F, CallResult (.calli f) (calliSpec f) (fun c => c.targetFails f.a) (fun s c => c.targetFails f.a ++ s.headerFails c (c.target f.a)) f.d
    (fun c => c.target f.a))

/-- Wherever it passes every check EXIT runs. Without a participating lane it only goes on. Where threads of the wave stay
live, it ends exactly the participating ones, and held are then those others that stand at their meeting point while a
live thread of their value has not arrived: it holds no thread that it ends, releases every meeting point that all
others have reached, and lets every other held thread be. Where the wave's last threads exit outside a handler, the
wave leaves its slot: with every other wave of the block exited the journal is sealed; with every other live wave
waiting in YIELD, none of which issues accesses again, those waits are over and the slice ends; otherwise nothing else
changes. In a handler the last exit terminates the block as faulted with the lowest cause of its entry.
(R20, R21, R99, R221, R229, R237.) -/
def Obligations.ThreadsExit : Prop :=
  ∀ (f : F) (s : State) (c : Ctx), s.clear (bareSpec f true) noFails = some c →
    (c.part = 0 → ∃ t, exec (.exit f) s = .next t ∧ MoveOutcome s t c (fun _ => none) (fun _ => none)) ∧
    (c.part ≠ 0 → ~~~((s.wave s.cur).exited ||| c.part) ≠ 0 → ∃ t, exec (.exit f) s = .next t ∧ OnlyWave s t ∧
      (t.wave s.cur).exited = (s.wave s.cur).exited ||| c.part ∧
      { (t.wave s.cur).still with exited := 0 } = { (s.wave s.cur).still with exited := 0 } ∧
      (∀ n, n < 12 → (t.wave s.cur).kget n = (s.wave s.cur).kget n) ∧ Moved s t c (fun _ => none) ∧
      ∀ l, l < 32 → ((t.wave s.cur).held.getLsbD l = true ↔ c.part.getLsbD l = false ∧
        arrives c (s.wave s.cur) (t.wave s.cur) l = true ∧
        ∃ k, k < 32 ∧ (t.wave s.cur).meetAt k = (t.wave s.cur).meetAt l ∧ arrives c (s.wave s.cur) (t.wave s.cur) k = false ∧
          (s.wave s.cur).exited.getLsbD k = false ∧ c.part.getLsbD k = false)) ∧
    (c.part ≠ 0 → ~~~((s.wave s.cur).exited ||| c.part) = 0 → (s.wave s.cur).saved = none →
      (∀ e ∈ c.b.waves, e.1 = s.cur.wave → ~~~(e.2.exited ||| c.part) = 0) →
      ((∀ e ∈ c.b.waves, e.1 ≠ s.cur.wave → e.2.live = 0) →
        ∃ t, exec (.exit f) s = .next t ∧ OnlyWave (s.modBlock s.cur Block.sealJournal) t ∧ s.cur ∉ t.running ∧
          (t.wave s.cur).live = 0) ∧
      ((∃ e ∈ c.b.waves, e.1 ≠ s.cur.wave ∧ e.2.live ≠ 0 ∧ (e.2.yieldSig = none ∨ e.2.reissue ≠ [])) →
        ∃ t, exec (.exit f) s = .next t ∧ OnlyWave s t ∧ s.cur ∉ t.running ∧ (t.wave s.cur).live = 0) ∧
      ((∃ e ∈ c.b.waves, e.1 ≠ s.cur.wave ∧ e.2.live ≠ 0) →
        (∀ e ∈ c.b.waves, e.1 ≠ s.cur.wave → e.2.live ≠ 0 → e.2.yieldSig.isSome = true ∧ e.2.reissue = []) →
        ∃ t b', exec (.exit f) s = .next t ∧ t.block? s.cur = some b' ∧ b'.offered = some s.clock ∧ (t.wave s.cur).live = 0 ∧
          s.cur ∉ t.running ∧ t.mem = s.mem ∧
          ∀ k w, spFind c.b.waves k = some w → k ≠ s.cur.wave → w.live ≠ 0 → (t.wave ⟨s.cur.core, s.cur.slot, k⟩).wait = none)) ∧
    (∀ v, c.part ≠ 0 → ~~~((s.wave s.cur).exited ||| c.part) = 0 → (s.wave s.cur).saved = some v →
      ∃ t, exec (.exit f) s = .next t ∧ BlockFaulted s.cur s t (lowBit v.entry))

/-- In a launch without a slice YIELD goes on and marks that its clause, if it goes on, ends in a yield point, and the
yield point itself where it has ended; in a sliced launch of which another live wave does not stand in YIELD it holds
its wave, its flag one up; nothing else changes. A handler may not yield.
(R127, R229, R237.) -/
def Obligations.YieldPoints : Prop :=
  ∀ (f : F) (s : State) (c : Ctx), s.clear (bareSpec f false) Ctx.noHandler = some c → c.part ≠ 0 →
    (c.l.record.slice = 0 → ∃ t, exec (.yield f) s = .next t ∧ MoveOutcome s t c (fun _ => none) (fun _ => none) ∧
      (if (t.wave s.cur).inClause = true then (t.wave s.cur).yieldDue = true else (t.wave s.cur).yielding = true)) ∧
    (c.l.record.slice ≠ 0 → (∃ e ∈ c.b.waves, e.1 ≠ s.cur.wave ∧ e.2.live ≠ 0 ∧ ∀ g, e.2.wait ≠ some (.yield g)) →
      ∃ t, exec (.yield f) s = .next t ∧ OnlyWave s t ∧ (t.wave s.cur).wait = some (.yield f.ctl.sig.toNat) ∧ s.cur ∉ t.running ∧
        (∀ l, (t.wave s.cur).pcAt l = (s.wave s.cur).pcAt l) ∧
        ∀ n, n < 12 → (t.wave s.cur).kget n = (s.wave s.cur).kget n + if f.ctl.sig.toNat = n then 1 else 0)

/-- TRAP and BREAK with a participating lane raise TRAP_INSTR and BREAK with the active lanes, their immediate as the code
in s122 and resumption 2 in s125, and take the exception; TCLR clears the bits of its operand in TCAUSE and changes
nothing else.
(R231, R233, R234, R335.) -/
def Obligations.SoftwareTraps : Prop :=
  (∀ (f : F16) (s : State) (c : Ctx), s.clear (trapSpec f) noFails = some c →
    (c.part ≠ 0 →
      RaisesFrom (.trap f) s (s.issue c (trapSpec f)) c ⟨26, 0, c.addr, 0, c.active, c.idx, f.imm, 0, 2, c.w.accesses, false⟩ ∧
      RaisesFrom (.breakI f) s (s.issue c (trapSpec f)) c ⟨27, 0, c.addr, 0, c.active, c.idx, f.imm, 0, 2, c.w.accesses, false⟩) ∧
    (c.part = 0 → (∃ t, exec (.trap f) s = .next t ∧ MoveOutcome s t c (fun _ => none) (fun _ => none)) ∧
      ∃ t, exec (.breakI f) s = .next t ∧ MoveOutcome s t c (fun _ => none) (fun _ => none))) ∧
  (∀ f : F, ActResult (.tclr f) (tclrSpec f) (fun _ => noFails) (fun _ _ => True)
    (fun s c => s.modWave s.cur fun w => { w with tcause := w.tcause &&& ~~~c.scalar f.a }) (fun _ _ => none))

/-- With TCAUSE zero, no faulted access to issue again, no wait to abandon and 0 in s125, TRET restores the program
counters, the meeting registers, the held threads but those that have exited or are released (R21), the clause with
its Trivet and s120 to s127 as they were at handler entry, ends the handler, leaves its slot, and changes no other
register, no memory and no other wave.
(R235, R421.) -/
def Obligations.ReturnFromHandler : Prop :=
  ∀ (f : F) (s : State) (c : Ctx) (v : Saved), s.clear (tretSpec f) tretFails = some c → c.part ≠ 0 →
    (s.wave s.cur).saved = some v → v.high.length = 8 → (s.wave s.cur).tcause = 0 → c.sreg 125 = 0 →
    (s.wave s.cur).faultedEntries = [] → (∀ g, v.wait ≠ some (.yield g)) →
    ∃ t, exec (.tret f) s = .next t ∧ t.mem = s.mem ∧ s.cur ∉ t.running ∧ (∀ u, otherWave s u → t.wave? u = s.wave? u) ∧
      (t.wave s.cur).pc = v.pc ∧ (t.wave s.cur).meet = v.meet ∧
      (∀ l, l < 32 → ((t.wave s.cur).held.getLsbD l = true ↔ v.held.getLsbD l = true ∧ (s.wave s.cur).exited.getLsbD l = false ∧
        ∃ k, k < 32 ∧ (t.wave s.cur).meetAt k = (t.wave s.cur).meetAt l ∧ (s.wave s.cur).exited.getLsbD k = false ∧
          v.held.getLsbD k = false)) ∧
      (t.wave s.cur).clause = v.clause ∧ (t.wave s.cur).trivet = v.trivet ∧ (t.wave s.cur).wait = v.wait ∧
      (t.wave s.cur).saved = none ∧ (t.wave s.cur).handler = false ∧
      (∀ i, i < 8 → (t.wave s.cur).sget (120 + i) = v.high.getD i 0) ∧
      (∀ n, n < 120 ∨ 127 < n → (t.wave s.cur).sget n = (s.wave s.cur).sget n) ∧
      (t.wave s.cur).v = (s.wave s.cur).v ∧ (t.wave s.cur).x = (s.wave s.cur).x ∧ (t.wave s.cur).p = (s.wave s.cur).p ∧
      ∀ n, n < 12 → (t.wave s.cur).kget n = (s.wave s.cur).kget n

/-- Where TCAUSE is not zero TRET enters the handler again: s120 shows TCAUSE, every live thread stands at the handler and
is held by nothing, the wave stays in its handler with the same saved program counters, and memory and every other
wave stay as they are.
(R235, R237.) -/
def Obligations.ReturnWithCausesLeft : Prop :=
  ∀ (f : F) (s : State) (c : Ctx) (v : Saved), s.clear (tretSpec f) tretFails = some c → c.part ≠ 0 →
    (s.wave s.cur).saved = some v → (s.wave s.cur).tcause ≠ 0 →
    ∃ t, exec (.tret f) s = .next t ∧ t.mem = s.mem ∧ s.cur ∉ t.running ∧ (∀ u, otherWave s u → t.wave? u = s.wave? u) ∧
      (t.wave s.cur).sget 120 = (s.wave s.cur).tcause ∧ (t.wave s.cur).tcause = (s.wave s.cur).tcause ∧
      (∀ l, l < 32 → (t.wave s.cur).pcAt l =
        if (s.wave s.cur).exited.getLsbD l then (t.wave s.cur).pcAt l else c.l.record.handler) ∧
      (t.wave s.cur).held = 0 ∧ (t.wave s.cur).inClause = false ∧ (t.wave s.cur).handler = (s.wave s.cur).handler ∧
      (t.wave s.cur).saved.map Saved.pc = some v.pc ∧ t.coreR s.cur.core 0x103 = satAdd (s.coreR s.cur.core 0x103) 1

/-- An instruction word whose code no instruction has, in a clause that passes no other check first, raises ILLEGAL_OP, or
ILLEGAL_CLAUSE where its class is not the clause's; a class-8 header in an unprivileged block, a reserved bit, class 0
or above 8 or an all-zero header make a clause illegal.
(R126, R129, R144, R233.) -/
def Obligations.EncodingCauses : Prop :=
  (∀ (w : W64) (s : State) (c : Ctx), s.ctx (ctlOf w) = some c → c.w.wait = none →
    (opcodeClass (opcodeOf w).toNat = 0 ∨ opcodeClass (opcodeOf w).toNat = headerClass c.w.clause.header →
      Raises (.illegal w) s c ⟨0, 0, c.addr, 0, c.active, c.idx, 0, 0, 0, c.w.accesses, false⟩) ∧
    (opcodeClass (opcodeOf w).toNat ≠ 0 → opcodeClass (opcodeOf w).toNat ≠ headerClass c.w.clause.header →
      Raises (.illegal w) s c ⟨1, 0, c.addr, c.w.clause.base, c.active, c.idx, 0, 0, 0, c.w.accesses, false⟩)) ∧
  (∀ (h : W64) (priv : Bool), headerIllegal h priv = true ↔
    h = 0 ∨ headerClass h = 0 ∨ 9 ≤ headerClass h ∨ h.extractLsb' 42 2 ≠ 0 ∨ h.extractLsb' 0 40 ≠ 0 ∨ (headerClass h = 8 ∧ priv = false))

/-- VDIV in an integer type and VREM whose only failing check is a zero divisor in some participating lanes raise ARITH
with exactly those lanes, at the instruction's own address, with resumption 0, and take the exception.
(R155, R138, R335, R337.) -/
def Obligations.ArithmeticCause : Prop :=
  ∀ (f : F) (s : State) (c : Ctx), isIntType (modType f.m) = true → s.clear (vec3 f (intEnc f.m) 40) noFails = some c →
    s.clear (vec3 f (intEnc f.m || (modType f.m == 2 && modeOk f.m)) 40) noFails = some c →
    (maskOf fun l => c.part.getLsbD l && c.lane f.b l 0 == 0) ≠ 0 →
    Raises (.vdiv f) s c ⟨24, causeBit 24, c.addr, 0, maskOf fun l => c.part.getLsbD l && c.lane f.b l 0 == 0, c.idx, 0, 0, 0,
      c.w.accesses, false⟩ ∧
    Raises (.vrem f) s c ⟨24, causeBit 24, c.addr, 0, maskOf fun l => c.part.getLsbD l && c.lane f.b l 0 == 0, c.idx, 0, 0, 0,
      c.w.accesses, false⟩

/-- Wherever they pass every check, LAUNCH with a free entry of its die's table accepts the record at its operand as a
launch of its block, at no higher priority than its own, in its own tenant and address space, and returns its handle;
LAUNCHT makes it the tail of its launch and returns 0; a full table or a second tail gives a code and starts nothing.
(R223, R224, R225, R343.) -/
def Obligations.LaunchingChildren : Prop :=
  ∀ (f : F) (s : State) (c : Ctx) (r : Record), s.clear (launchSpec f) (launchFails f s) = some c → c.part ≠ 0 →
    s.readRecord c.l.asid c.l.tenant (c.scalar f.a) = .ok r →
    (s.freeEntry (dieOf s.cur.core) = none →
      ∃ t, exec (.launch f) s = .next t ∧ DoneOutcome s t c s (some (scalNo f.d, 1#64 <<< 63 ||| 1)) f.ctl.sig.toNat 0) ∧
    (∀ e, s.freeEntry (dieOf s.cur.core) = some e → s.rejectReason r c.l.asid c.l.tenant 1 = 0 →
      ∃ t l, exec (.launch f) s = .next t ∧
        DoneOutcome s t c ((s.acceptLaunch r (c.source s (dieOf s.cur.core) e false)).sendToDies s.nextLaunch)
          (some (scalNo f.d, BitVec.ofNat 64 (s.cur.slot * 2 ^ 35 + s.cur.core * 2 ^ 23 +
            (spGet 0 s.devGen (devKey (dieOf s.cur.core) e)).toNat * 2 ^ 15 + dieOf s.cur.core * 2 ^ 12 + e))) f.ctl.sig.toNat 0 ∧
        t.launch? s.nextLaunch = some l ∧ l.record = r ∧ l.parent = some (c.b.launch, c.b.linear) ∧ l.host = false ∧
        l.tenant = c.l.tenant ∧ l.asid = c.l.asid ∧ l.priv = c.l.priv ∧ l.prio = min r.priority c.l.prio ∧ l.entry = e ∧
        l.started = true ∧ l.completed = 0 ∧ t.nextLaunch = s.nextLaunch + 1) ∧
    (c.l.tail.isSome = true →
      ∃ t, exec (.launcht f) s = .next t ∧ DoneOutcome s t c s (some (scalNo f.d, 1#64 <<< 63 ||| 2)) f.ctl.sig.toNat 0) ∧
    (∀ e, c.l.tail = none → s.freeEntry c.l.home = some e → c.b.launch ≠ s.nextLaunch →
      ∃ t l, exec (.launcht f) s = .next t ∧
        DoneOutcome s t c ((s.acceptLaunch r (c.source s c.l.home e true)).modLaunch c.b.launch fun l =>
          { l with tail := some s.nextLaunch }) (some (scalNo f.d, 0)) f.ctl.sig.toNat 0 ∧
        t.launch? s.nextLaunch = some l ∧ l.record = r ∧ l.isTail = true ∧ l.started = false ∧ l.die = c.l.home ∧ l.entry = e ∧
        (t.launch? c.b.launch).bind Launch.tail = some s.nextLaunch)

/-- JOIN whose handle names a complete child of its block, with no faulted block among the child's or the cause masked,
writes the counts of faulted and completed blocks into sD and the status word into s(D+1), frees the child's entry,
which advances its generation, and changes nothing else; an incomplete child holds the wave.
(R224, R226.) -/
def Obligations.JoiningChildren : Prop :=
  ∀ (f : F) (s : State) (c : Ctx) (n : Nat) (l : Launch), s.clear (joinSpec f) (joinFails f s) = some c → c.part ≠ 0 →
    s.joinTarget c (c.scalar f.a) = some (n, l) → s.launch? n = some l →
    (l.complete = true → (l.faulted = 0 ∨ f.m.getLsbD 0 = true ∨ c.w.tmask.getLsbD 25 = true) →
      ∃ t, exec (.join f) s = .next t ∧ OnlyWave (s.dropLaunch n) t ∧ NextWord s t c ∧
        (t.wave s.cur).still.noScalars = (s.wave s.cur).still.noScalars ∧
        (∀ k, (t.wave s.cur).sget k =
          if k = scalNo f.d + 1 then c.given (s.wave s.cur) (some (k, l.statusWord)) k
          else c.given (s.wave s.cur) (some (scalNo f.d, BitVec.ofNat 64 (l.faulted * 2 ^ 32 + l.completed))) k) ∧
        (∀ k, k < 12 → (t.wave s.cur).kget k = (s.wave s.cur).kget k) ∧
        t.launch? n = none ∧ (l.entry < 4096 → l.host = false →
          spGet 0 t.devGen (devKey l.die l.entry) = spGet 0 s.devGen (devKey l.die l.entry) + 1)) ∧
    (l.complete = false →
      ∃ t, exec (.join f) s = .next t ∧ OnlyWave s t ∧ (t.wave s.cur).wait = some (.join n l.gen) ∧ s.cur ∉ t.running ∧
        (∀ k, (t.wave s.cur).sget k = (s.wave s.cur).sget k) ∧
        ∀ k, k < 12 → (t.wave s.cur).kget k = (s.wave s.cur).kget k + if f.ctl.sig.toNat = k then 1 else 0)

/-- An LD whose lanes all translate goes on to its home once its request may be sent, and one with a failing lane goes
back with its fault; a load that performs lands its bytes, the newest of the journal's and home's, in its destination
words, one of 16 bytes after it has taken one of its two units, clears their pending bits, frees its entry and counts
its flag down; an atomic at home writes the new value once and keeps the old one for its return; a fault on its way
enters the handler with the record of R335 and marks the entry faulted. (That the words of all lanes land in one step
is the model's reading: log 19; the resumption of a fault met by an access that is issued again, or untranslated at
issue, is that of its row: R335, R336.)
(R96, R184, R185, R187, R189, R190, R335, R338, R374.) -/
def Obligations.AccessSteps : Prop :=
  ∀ (s : State) (id : WaveId) (i : Nat) (b : Block) (l : Launch) (w : Wave) (e : LogEntry), Access s id i b l w e →
    (e.opcode = 0x100 → e.stage = 0 →
      ((∀ k ∈ lanesOf (e.lanes &&& ~~~e.done), ∃ p, s.walkLane id.core l e k = .ok p) →
        (s.sendable l b w e = true →
          ∃ t p, exec (.translationWalk id i) s = .next t ∧ EntryOutcome id s t i { e with stage := 1, pages := p }) ∧
        (s.sendable l b w e = false → ∃ t, exec (.translationWalk id i) s = .next t ∧ EntryOutcome id s t i e)) ∧
      ((∃ k ∈ lanesOf (e.lanes &&& ~~~e.done), ∃ x, s.walkLane id.core l e k = .error x) →
        ∃ t e', exec (.translationWalk id i) s = .next t ∧ EntryOutcome id s t i e' ∧ e'.stage = 3 ∧ e'.state = 1 ∧ e'.faultLanes ≠ 0)) ∧
    (e.opcode = 0x100 → e.stage = 1 → s.poisonFails e = [] → s.journalFails b e = [] → w.covered →
      (e.bytes = 16 → e.data = [] → ∃ t u, exec (.loadResponse id i) s = .next t ∧ u < 2 ∧ EntryOutcome id s t i { e with
        data := (lanesOf e.lanes).map fun k => (2 * k + u, BitVec.ofNat 64 (natOfBytes ((List.range 8).map fun n =>
          (s.journalByte b.journal (physOf e.pages (e.addrAt k).toNat + (8 * u + n))).getD
            (s.readByte (physOf e.pages (e.addrAt k).toNat + (8 * u + n)))))) }) ∧
      (e.bytes ≠ 16 ∨ e.data ≠ [] →
        ∃ t, exec (.loadResponse id i) s = .next t ∧ LandOutcome id s t i e (e.dests.zip ((lanesOf e.lanes).flatMap fun k =>
          (List.range (regsOf e.bytes)).map fun q => loadedWord e.fields.m ((List.range e.bytes).map fun n =>
            match spFind e.data (2 * k + n / 8) with
            | some x => x.extractLsb' (8 * (n % 8)) 8
            | none => (s.journalByte b.journal (physOf e.pages (e.addrAt k).toNat + n)).getD
                (s.readByte (physOf e.pages (e.addrAt k).toNat + n))) q)))) ∧
    (e.opcode = 0x104 → e.stage = 2 → w.covered →
      ∃ t, exec (.loadResponse id i) s = .next t ∧ LandOutcome id s t i e (e.dests.zip ((lanesOf e.lanes).flatMap fun k =>
        (List.range (regsOf e.bytes)).map fun q => ((spFind e.old k).getD 0).extractLsb' (32 * q) 32))) ∧
    (∀ k, e.atomReady = true → lanesOf (e.lanes &&& ~~~e.done) = [k] →
      s.windowOf l.tenant (e.addrAt k) = none → s.sieveHeld (physOf e.pages (e.addrAt k).toNat / 64) = false → s.poisonFails e = [] →
      ∃ t, exec (.atomicAtHome id i) s = .next t ∧
        t.mem = (s.writeBytes (physOf e.pages (e.addrAt k).toNat) (bytesOfNat e.bytes (atomNew (atomOp e.fields.m)
          (BitVec.ofNat 64 (s.readNat (physOf e.pages (e.addrAt k).toNat) e.bytes)) fun q => (spFind e.data (k * 4 + q)).getD 0).toNat)).mem ∧
        HomeOutcome id s t i e (if e.opcode = 0x104 then some { e with
          stage := 2, done := e.done ||| (1#32 <<< k), begun := true
          old := spPut e.old k (BitVec.ofNat 64 (s.readNat (physOf e.pages (e.addrAt k).toNat) e.bytes)) } else none)) ∧
    (e.stage = 3 → w.handler = false → w.saved = none → w.past = [] → w.live ≠ 0 → b.stopping = none → b.saving = false → w.wait = none → l.record.handler ≠ 0 →
      ∃ t, exec (.operandLogFault id i) s = .next t ∧
        HandlerEntry id (s.modEntry id i fun e => { e with state := 2 }) t
          ⟨e.cause, e.causes, e.addr, e.faultAddr, e.faultLanes, e.index, 0, 0, logResume e.cause, e.seq, true⟩ l.record.handler)

/-- SEALED_LINE_APPLY of a block's oldest sealed line of a physical line, outside the lines a scan holds, behind the
stores and accesses that go before it and with no traffic of another phase under its tag, writes the bytes of its
mask, as the block's part of the journal pools holds them, at home and no others and removes the line from the
journal; every wave of the block keeps its registers. (The places of the pools from which the bytes and the mask are
read are the model's choice: log 14; so is that a byte in a poisoned unit of the pools is not carried home: log 89.)
(R94, R95, R99, R101.) -/
def Obligations.SealedLines : Prop :=
  ∀ (s : State) (uid line : Nat) (b : Block) (j : JLine), s.blockOfUid uid = some b → b.journal.oldestSealed line = some j →
    s.sieveHeld line = false → s.sealedHeld b j = false → s.tagFree b j.phase = true →
    ∃ t b', exec (.sealedLineApply uid line) s = .next t ∧
      t.mem = (s.writeRun (line * 64) ((List.range 64).map fun i =>
        if (s.readByte (s.jmask b.journal j.place + i / 8)).getLsbD (i % 8) && !s.jpoisoned b.journal j i then
          some (s.readByte (s.jdata b.journal j.place + i))
        else none)).mem ∧
      t.blockOfUid uid = some b' ∧ b'.waves = b.waves ∧ b'.journal.phase = b.journal.phase ∧
      (∀ x, x ∈ b'.journal.lines ↔ x ∈ b.journal.lines ∧ ¬ (x.line = line ∧ x.phase = j.phase)) ∧
      t.launches = s.launches ∧ t.ops = s.ops ∧ t.locks = s.locks

/-- Behind no older access of its wave that it must follow, and with no traffic of another phase under its tag, an FRD
whose lanes pass checks 1 to 7 reads the owner's word of each lane, and the values then land in the reader's
destination words and clear their pending bits; an FWR of one lane, to a word of another wave without a fixed-latency
write in flight, makes the word pending and keeps the tag of its allocation, and while that tag holds its value then
lands in the owner's register, clears the pending bit and frees the entry; nothing else of the owner changes. (That
one step serves all lanes of an FRD, whatever waves own the words, is the model's choice: log 83.)
(R68, R69, R70, R72, R73, R117, R199.) -/
def Obligations.FrondSteps : Prop :=
  ∀ (s : State) (id : WaveId) (i : Nat) (b : Block) (l : Launch) (w : Wave) (e : LogEntry), Access s id i b l w e →
    (e.opcode = 0x112 → e.stage = 0 → s.tagFree b e.phase = true → w.olderFrond e = false → s.publishHeld b w e.seq = false →
      (∀ k ∈ lanesOf e.lanes, s.frondCause e id l.tenant k = none) →
      ∃ t, exec (.frondOwnerAccess id i) s = .next t ∧ EntryOutcome id s t i { e with
        stage := 2, old := (lanesOf e.lanes).map fun k => (k, (s.ownerRead e k).zeroExtend 64) }) ∧
    (e.opcode = 0x112 → e.stage = 2 → w.covered →
      ∃ t, exec (.frondResponse id i) s = .next t ∧ LandOutcome id s t i e (e.dests.zip ((lanesOf e.lanes).map fun k =>
        ((spFind e.old k).getD 0).extractLsb' 0 32))) ∧
    (∀ k o ob, e.opcode = 0x113 → e.stage = 0 → s.tagFree b e.phase = true → w.olderFrond e = false → s.publishHeld b w e.seq = false → lanesOf e.lanes = [k] →
      e.ownerWord k = o → s.frondCause e id l.tenant k = none → (s.wave o.1).unlanded o.2.1 o.2.2 = false →
      ¬ (wkey o.1 = wkey id ∧ o.1.wave = id.wave) → s.block? o.1 = some ob → (s.wave? o.1).isSome = true →
      spFind e.data (4 * k + 3) = none →
      ∃ t e', exec (.frondOwnerAccess id i) s = .next t ∧ spFind (t.wave id).log i = some e' ∧ e'.stage = 1 ∧ e'.state = 1 ∧
        spFind e'.data (4 * k + 3) = some (BitVec.ofNat 64 ob.uid) ∧ spFind e'.old k = some (BitVec.ofNat 64 ob.gen) ∧
        (∀ d, spGet false (t.wave o.1).pend d = (decide (d = o.2.1 * 32 + o.2.2) || spGet false (s.wave o.1).pend d)) ∧
        { (t.wave o.1) with pend := [] } = { (s.wave o.1) with pend := [] } ∧ t.mem = s.mem) ∧
    (∀ k o ob, e.opcode = 0x113 → e.stage = 1 → w.olderFrond e = false → s.publishHeld b w e.seq = false → lanesOf e.lanes = [k] → e.ownerWord k = o →
      ¬ (wkey o.1 = wkey id ∧ o.1.wave = id.wave) → s.block? o.1 = some ob → (s.wave? o.1).isSome = true →
      BitVec.ofNat 64 ob.uid = (spFind e.data (4 * k + 3)).getD 0 → BitVec.ofNat 64 ob.gen = (spFind e.old k).getD 0 →
      ∃ t, exec (.frondOwnerAccess id i) s = .next t ∧
        (t.wave o.1).vget o.2.1 o.2.2 = ((spFind e.data (4 * k + 2)).getD 0).extractLsb' 0 32 ∧
        spGet false (t.wave o.1).pend (o.2.1 * 32 + o.2.2) = false ∧
        { (t.wave o.1) with v := [], pend := [] } = { (s.wave o.1) with v := [], pend := [] } ∧
        spFind (t.wave id).log i = none ∧ t.mem = s.mem)

/-- The contributions of a group whose window is at home here are merged and applied in one write to the value at their
address; the acknowledgement ends the group and, of a RED whose every lane has performed with it, the entry;
contributions in the fixed order enter the collection of their tag; a contribution of another package whose address
translates at home joins a group there, and one whose address does not is kept with that failure and without an
effect; the close of one package is kept until every package of the group has closed, and then, while this package may
close the tag and no scan holds a line, the collections at home here are applied, one of them as one write of its
contributions in ascending source package; the own close goes to every other home of the tenant's windows.
(Contributions of another package as a list that joins a group, and what a home in another package answers, are the
model's choices: log 82 and 12; that a package may close before it has contributed, and the home then waits until it
may close again, is its reading: log 98; so is that a group keeps the address it has translated to: log 110.)
(R106, R304, R305, R379, R396, R397, R398.) -/
def Obligations.ReductionWindows : Prop :=
  (∀ (s : State) (k : Nat) (g : WinGroup), spFind s.wingroups k = some g →
    (g.applied = false → g.det = false → (∃ p ∈ g.parts, p.stage = 0) → s.homeHere g.window = true → s.windowHeld g = false →
      ∃ t g', exec (.windowContributionApply k) s = .next t ∧ spFind t.wingroups k = some g' ∧ g'.applied = true ∧ g'.parts = g.parts ∧
        t.mem = (s.applyWindow g (mergeParts g.oper (g.parts.map Contribution.value))).1.mem ∧
        g'.value = (s.applyWindow g (mergeParts g.oper (g.parts.map Contribution.value))).2 ∧
        t.blocks = s.blocks ∧ t.ops = s.ops ∧ t.launches = s.launches) ∧
    (g.applied = false → g.det = true → (∃ p ∈ g.parts, p.stage = 0) →
      ∃ t g', exec (.windowContributionApply k) s = .next t ∧ spFind t.wingroups k = some g' ∧ g'.applied = false ∧
        g'.parts.map Contribution.value = g.parts.map Contribution.value ∧ (∀ p ∈ g'.parts, p.stage ≠ 0) ∧
        t = { s with wingroups := t.wingroups }) ∧
    (g.applied = true → ∃ t, exec (.windowAckReceive k) s = .next t ∧ spFind t.wingroups k = none ∧ t.mem = s.mem ∧
      ∀ j, j ≠ k → spFind t.wingroups j = spFind s.wingroups j) ∧
    (∀ p b l w e, g.applied = true → g.parts = [p] → p.stage < 2 → s.ownPart g p = true →
      Access s p.w p.entry b l w e → b.uid = p.uid → e.opcode = 0x105 → e.lanes &&& ~~~(e.done ||| (1#32 <<< p.lane)) = 0 →
      ∃ t, exec (.windowAckReceive k) s = .next t ∧ spFind (t.wave p.w).log p.entry = none ∧
        ∀ n, n < 12 → (t.wave p.w).kget n = w.kget n - if (ctlOf e.word).sig.toNat = n then 1 else 0)) ∧
  (∀ (s : State) (k : Nat) (g : WinGroup) (rest : List WinGroup), spFind s.wingroups k = none → s.winArrivals = g :: rest →
    s.homeHere g.window = true →
    (∀ c, s.translate ((s.pkgR (0x4C1 + 2 * g.window)).extractLsb' 16 8).toNat ((s.pkgR (0x4C1 + 2 * g.window)).extractLsb' 24 4).toNat
        g.addr.toNat [rREAD, rWRITE] = .error c →
      ∃ t, exec (.windowContributionApply k) s = .next t ∧
        spFind t.wingroups s.nextGroup = some { g with applied := true, failed := some c } ∧
        t = { s with winArrivals := rest, wingroups := t.wingroups, nextGroup := s.nextGroup + 1, held := t.held }) ∧
    (∀ pa, s.translate ((s.pkgR (0x4C1 + 2 * g.window)).extractLsb' 16 8).toNat ((s.pkgR (0x4C1 + 2 * g.window)).extractLsb' 24 4).toNat
        g.addr.toNat [rREAD, rWRITE] = .ok pa →
      ∃ t j y, exec (.windowContributionApply k) s = .next t ∧ t.winArrivals = rest ∧ (j, y) ∈ t.wingroups ∧ y.pa = pa ∧
        y.addr = g.addr ∧ y.oper = g.oper ∧ (∀ p ∈ g.parts, p ∈ y.parts) ∧
        t = { s with winArrivals := rest, wingroups := t.wingroups, nextGroup := t.nextGroup, held := t.held })) ∧
  (∀ (s : State) (tenant tag package : Nat), package < s.groupSize tenant → tag < 2 →
      (package = s.ownPackage tenant → s.mayClose tenant tag = true) →
      ((∃ w ∈ s.windowsOf tenant, s.homeHere w = true) →
        (∃ q, q < s.groupSize tenant ∧ q ≠ package ∧ (tenant, tag, q) ∉ s.closes) →
        ∃ t, exec (.windowClose tenant tag package) s = .next t ∧
          (∀ c, c ∈ t.closes ↔ c ∈ s.closes ∨ c = (tenant, tag, package)) ∧
          (package ≠ s.ownPackage tenant → t = { s with closes := t.closes })) ∧
      ((∃ w ∈ s.windowsOf tenant, s.homeHere w = true) ∨ s.collectionsHere tenant tag ≠ [] ∧ package ≠ s.ownPackage tenant →
        (∀ q, q < s.groupSize tenant → q ≠ package → (tenant, tag, q) ∈ s.closes) →
        s.settled (s.collectionsHere tenant tag) = true → (∀ x ∈ s.collectionsHere tenant tag, s.windowHeld x.2 = false) →
        ∃ t, exec (.windowClose tenant tag package) s = .next t ∧
          (∀ c, c ∈ t.closes ↔ (c ∈ s.closes ∨ c = (tenant, tag, package)) ∧ ¬ (c.1 = tenant ∧ c.2.1 = tag)) ∧
          (∀ x ∈ s.collectionsHere tenant tag, ∃ y, spFind t.wingroups x.1 = some y ∧ y.applied = true) ∧
          ∀ k g, s.collectionsHere tenant tag = [(k, g)] → spFind s.wingroups k = some g → package ≠ s.ownPackage tenant →
            t.mem = (s.applyWindow g (mergeParts g.oper ((sortBy Contribution.package g.parts).map Contribution.value))).1.mem) ∧
      (package = s.ownPackage tenant →
        ∃ t, exec (.windowClose tenant tag package) s = .next t ∧ (∀ p ∈ s.homesOf tenant, (tenant, tag, p) ∈ t.closesSent) ∧
          ∀ x ∈ s.collections tenant tag, s.homeHere x.2.window = false →
            ∃ y, spFind t.wingroups x.1 = some y ∧ y.applied = true) ∧
      ((∀ w ∈ s.windowsOf tenant, s.homeHere w = false) → s.collectionsHere tenant tag = [] →
        ∃ t, exec (.windowClose tenant tag package) s = .next t ∧ t.closes = s.closes ∧ (package ≠ s.ownPackage tenant → t = s)))

/-- ALD takes an operand-log entry with its addresses and pending destination words; KICK and GATH, whose descriptor and
ranges pass every check and find range-lock entries, take an entry with their operation, which holds their locks and
pending words; EVRD takes the oldest event record or all ones; one read of a copy to an area lands its eight bytes
there and clears their pending bits; a copy that has read and landed everything ends: its locks go, its byte credit is
made, its record is posted and its flag counts down.
(R70, R110, R111, R193, R194, R195, R196.) -/
def Obligations.RequestEngine : Prop :=
  (∀ f : F,
    LogResult (.ald f) (aldSpec f) (fun _ => aldFails f) (fun _ => True) (fun s _ => s)
      (fun _ c => { c.logEntry 0x106 f [(f.b, 1)] with
        addrs := (lanesOf c.part).map fun l => (l, c.scalar f.a + (c.lane f.b l 0).zeroExtend 64)
        dests := c.destWords f.d (regsOf (4 * 2 ^ (f.m.toNat % 4))) }) ∧
    ActResult (.evrd f) (evrdSpec f) (fun _ => noFails) (fun _ _ => True)
      (fun s _ => s.modBlock s.cur fun b => { b with events := b.events.drop 1 })
      (fun _ c => some (scalNo f.d, c.b.events.headD 0xFFFFFFFFFFFFFFFF))) ∧
  (∀ (f : F) (gath : Bool) (s : State) (c : Ctx) (k : Copy) (pages : List (Nat × Nat) × List (Nat × Nat)) (i : Nat),
    s.clear (copySpec f) (copyFails f gath) = some c → c.part ≠ 0 →
    c.b.copyOf c.l.record gath ((c.scalar f.a).extractLsb' 0 32).toNat = .ok k → s.copyPages c.l k = .ok pages →
    k.locks ≤ s.lockFree s.cur.core → c.w.logFree = some i →
    ∃ t, exec (if gath then .gath f else .kick f) s = .next t ∧
      LogOutcome s t (s.startCopy s.cur c.b c.l k pages f.ctl.sig.toNat i s.nextOp) c (copySpec f) i
        { c.logEntry (if gath then 0x108 else 0x107) f [] with
          stage := 1, op := some s.nextOp, no := s.nextOp, desc := c.b.commonBytes ((c.scalar f.a).extractLsb' 0 32).toNat 64
          list := if gath then c.b.gathList (c.b.commonBytes ((c.scalar f.a).extractLsb' 0 32).toNat 64) else [] } ∧
      ∃ o, spFind t.ops s.nextOp = some o ∧ o.w = s.cur ∧ o.uid = c.b.uid ∧ o.credit = k.rows.length * k.bytes ∧
        o.barrier = k.barrier ∧ o.entry = some i ∧ o.rd.length = k.rows.length * (k.bytes / 8)) ∧
  (∀ (s : State) (n a off : Nat) (o : EngineOp) (b : Block), spFind s.ops n = some o → o.id = n → o.kind = .kick → o.rd = [(0, a)] →
    o.wr = [(0, off)] → spFind o.buf 0 = none → o.rdSpace = .memory → o.wrSpace = .common → s.opHeld o = false → s.block? o.w = some b →
    s.poisoned a = false →
    ∃ t b' o', exec (.engineReturnLand n) s = .next t ∧ t.block? o.w = some b' ∧ spFind t.ops n = some o' ∧ o'.rd = [] ∧ o'.wr = [] ∧
      (∀ x, spGet 0 b'.common x = if off ≤ x ∧ x < off + 8 then s.readByte (a + (x - off)) else spGet 0 b.common x) ∧
      b'.waves = b.waves ∧ b'.tile = b.tile ∧ t.mem = s.mem ∧ t.locks = s.locks) ∧
  (∀ (s : State) (n : Nat) (o : EngineOp) (b : Block), spFind s.ops n = some o → o.id = n → o.kind.copies = true → o.rd = [] → o.wr = [] →
    o.status = 0 → o.wrSpace ≠ .memory → s.opHeld o = false → s.block? o.w = some b → b.uid = o.uid → o.scan = none →
    (o.post = true → b.events.length < 16) →
    ∃ t b', exec (.engineComplete n) s = .next t ∧ spFind t.ops n = none ∧ (∀ k ∈ t.locks, k.owner ≠ n) ∧ t.block? o.w = some b' ∧
      b'.events = (if o.post then b.events ++ [o.event] else b.events) ∧ b'.bars = (b.credit o.barrier o.credit).bars ∧ t.mem = s.mem ∧
      (o.entry = none → ∀ m, m < 12 → (t.wave o.w).kget m = (s.wave o.w).kget m - if o.sig = m then 1 else 0) ∧
      ∀ i e, o.entry = some i → spFind (s.wave o.w).log i = some e → (s.wave o.w).reissue = [] →
        spFind (t.wave o.w).log i = none ∧
        ∀ m, m < 12 → (t.wave o.w).kget m = (s.wave o.w).kget m - if (ctlOf e.word).sig.toNat = m then 1 else 0)

/-- Behind no other forcing and with their own demand met, TDESC writes a tile's descriptor, wholly valid and without
producer; TMMA, TEW, TMAP, TRED, TCVT append their node at the lowest free slot in place of a superseded one, TLD with
its lock and translated rows; TFORCE has no further effect, and with a demand left it holds its wave; TST starts its
store under its lock, and with an empty mask does nothing; TGROW carves rows or returns a code; one evaluation writes
the subtile's bytes, sets its valid bits and its flags, and frees the node when the tile is whole. (A node takes the
lowest free slot: R313, where R246 and R249 name none: log 66; where the rows of TGROW lie is the model's reading: log
30.)
(R64, R238, R242, R246, R247, R248, R250, R251, R258, R259, R261, R313.) -/
def Obligations.TileInstructions : Prop :=
  (∀ f : F,
    ActResult (.tdesc f) (tdescSpec f) (fun _ => tileFails [tileD f] (tdescOwn f))
      (fun _ c => c.tilesBusy = false ∧ c.b.demandMet (c.b.redefine (tileD f)) = true)
      (fun s c => s.modBlock s.cur fun b =>
        let b := b.modTile (tileD f) fun t => { t with w0 := c.scalar f.a, w1 := c.scalar f.b, producer := none, valid := BitVec.allOnes 64 }
        b.modTile (tileD f) fun t => { t with readers := b.readerMask c.l.record (tileD f) })
      (fun _ _ => none) ∧
    (∀ x ∈ ([(0x202, .tmma f, appendSpec f true (decide (f.m.toNat ≤ 1))), (0x203, .tew f, appendSpec f true (decide (f.m.toNat ≤ 4))),
        (0x204, .tmap f, appendSpec f false (decide (f.m.toNat ≤ 4))), (0x205, .tred f, appendSpec f false (decide (f.m.toNat ≤ 7))),
        (0x206, .tcvt f, appendSpec f false (f.m == 0))] : List (Nat × Instr × Spec)),
      ActResult x.2.1 x.2.2 (fun s => tileFails (appendTiles x.1 f) fun c => appendOwn x.1 f s c)
        (fun _ c => c.tilesBusy = false ∧
          c.b.demandMet (c.b.fullDemand (c.b.appendForces c.l.record x.1 f (c.prm f))) = true ∧
          ((c.b.tileAt (tileD f)).producer ≠ none ∨ c.b.freeNodeSlot ≠ none))
        (fun s c => (match (c.b.tileAt (tileD f)).producer with
            | some q => s.freeNode s.cur q
            | none => s).modBlock s.cur fun b => b.append c.l.record (b.freeNodeSlot.getD 0)
          { origin := c.addr, index := c.idx, wave := s.cur.wave, op := x.1, modifier := f.m, dest := tileD f
            selfRead := selfReads x.1 (tileD f) f.m (opSources x.1 f.a f.b (c.prm f)), state := 1, cause := 0xFF, a := f.a, b := f.b
            prm := c.prm f, memAddr := 0, memPitch := 0, seq := 0, faultAddr := 0, pages := [], lock := none, since := c.w.accesses })
        (fun _ _ => none)) ∧
    (∀ (s : State) (c : Ctx) (pages : List (Nat × Nat)) (q : Nat),
      s.clear (tldSpec f) (tileFails (appendTiles 0x201 f) fun c => appendOwn 0x201 f s c) = some c → c.part ≠ 0 → c.tilesBusy = false →
      s.translateRows c.l.asid c.l.tenant (tldRows (c.b.geo c.l.record (tileD f)) (c.memPair f)) [rREAD] = .ok pages →
      s.lockFree s.cur.core ≠ 0 → c.b.demandMet (c.b.fullDemand (c.b.appendForces c.l.record 0x201 f 0)) = true →
      (c.b.tileAt (tileD f)).producer = none → c.b.freeNodeSlot = some q →
      ∃ t b' n, exec (.tld f) s = .next t ∧ t.block? s.cur = some b' ∧ b'.node? q = some n ∧ n.op = 0x201 ∧ n.state = 1 ∧
        n.dest = tileD f ∧ n.memAddr = c.sreg (scalNo f.a) ∧ n.memPitch = c.sreg (scalNo f.a + 1) ∧ n.pages = pages ∧
        n.lock = some s.nextOp ∧ (b'.tileAt (tileD f)).producer = some q ∧
        (b'.tileAt (tileD f)).valid = ~~~(c.b.geo c.l.record (tileD f)).extent ∧
        t.locks = s.locks ++ [⟨s.cur.core, s.nextOp, false, s.rowLines c.l pages (tldRows (c.b.geo c.l.record (tileD f)) (c.memPair f))⟩] ∧
        t.nextOp = s.nextOp + 1 ∧ t.mem = s.mem ∧ NextWord s t c ∧ (t.wave s.cur).still = (s.wave s.cur).still ∧
        ∀ u, otherWave s u → t.wave? u = s.wave? u) ∧
    ActResult (.tforce f) (tforceSpec f) (fun _ => tileFails [tileD f] fun _ => none)
      (fun _ c => c.tilesBusy = false ∧
        c.b.demandMet [(tileD f, c.scalar f.a &&& (c.b.geo c.l.record (tileD f)).extent)] = true)
      (fun s _ => s) (fun _ _ => none) ∧
    (∀ (s : State) (c : Ctx), s.clear (tforceSpec f) (tileFails [tileD f] fun _ => none) = some c → c.part ≠ 0 → c.tilesBusy = false →
      c.b.demandMet [(tileD f, c.scalar f.a &&& (c.b.geo c.l.record (tileD f)).extent)] = false →
      ∃ t, exec (.tforce f) s = .next t ∧ OnlyWave s t ∧ s.cur ∉ t.running ∧
        (t.wave s.cur).wait = some (.force [(tileD f, c.scalar f.a &&& (c.b.geo c.l.record (tileD f)).extent)] none [] c.reading)) ∧
    (∀ (s : State) (c : Ctx) (pages : List (Nat × Nat)),
      s.clear (tstSpec f) (tileFails [tileD f] fun c => tstOwn f s c) = some c → c.part ≠ 0 → c.tilesBusy = false →
      (c.tstMask f = 0 → ∃ t, exec (.tst f) s = .next t ∧ DoneOutcome s t c s none f.ctl.sig.toNat 0) ∧
      (c.tstMask f ≠ 0 → s.translateRows c.l.asid c.l.tenant (storeRows (c.memPair f) (c.tstRuns f)) [rWRITE] = .ok pages →
        s.lockFree s.cur.core ≠ 0 → c.b.demandMet [(tileD f, c.tstMask f)] = true →
        ∃ t o, exec (.tst f) s = .next t ∧ spFind t.ops s.nextOp = some o ∧ o.kind = .tst ∧ o.w = s.cur ∧ o.unit = 1 ∧
          o.rd.length = o.wr.length ∧ o.rd.map Prod.snd = ((c.tstRuns f).flatMap fun x => (List.range x.2.2.1).map fun j =>
            (c.b.geo c.l.record (tileD f)).base + x.1 * (c.b.geo c.l.record (tileD f)).pitch + x.2.1 + j) ∧
          t.locks = s.locks ++ [⟨s.cur.core, s.nextOp, true, s.rowLines c.l pages (storeRows (c.memPair f) (c.tstRuns f))⟩] ∧
          t.nextOp = s.nextOp + 1 ∧ t.mem = s.mem ∧ NextWord s t c ∧ (t.wave s.cur).still = (s.wave s.cur).still ∧
          (∀ n, n < 12 → (t.wave s.cur).kget n = (s.wave s.cur).kget n + if f.ctl.sig.toNat = n then 1 else 0) ∧
          ∀ u, otherWave s u → t.wave? u = s.wave? u))) ∧
  (∀ f : F16, ActResult (.tgrow f) (tgrowSpec f) (fun _ => Ctx.convergence) (fun _ _ => True)
    (fun s c => if tgrowRows f = 0 ∨ c.b.extents.length = 4 ∨ s.freeRows s.cur.core < tgrowRows f then s
      else s.modBlock s.cur fun b => { b with
        place := b.place ++ s.placeRows s.cur.core (tgrowRows f), extents := b.extents ++ [(b.rowsHeld, tgrowRows f)]
        tileLen := b.tileLen + 512 * tgrowRows f })
    (fun s c => some (scalNo f.d,
      if tgrowRows f = 0 then BitVec.ofNat 64 c.b.tileLen
      else if c.b.extents.length = 4 then 1#64 <<< 63 ||| 2
      else if s.freeRows s.cur.core < tgrowRows f then 1#64 <<< 63 ||| 1
      else BitVec.ofNat 64 (c.b.tileLen + 512 * tgrowRows f)))) ∧
  (∀ (s : State) (core slot w tile k q : Nat) (b b' : Block) (l : Launch) (wv : Wave) (d : List (Nat × W64)) (n : Node) (fl : W32),
    s.block? ⟨core, slot, 0⟩ = some b → s.launchOf b = some l → b.forcer = some (w, wv, d) →
    b.firstEval l.record 65 d = some (tile, k) → (b.tileAt tile).producer = some q → b.node? q = some n →
    n.dest = tile → (n.op = 0x201 → n.lock.isSome = true) → s.nodeBlocked b n = false → s.tileNext core = some slot →
    (if n.op = 0x201 then s.loadSubtile b l.record n k else b.computeSubtile l.record n k) = .ok (b', fl) →
    ∃ t bt, exec (.tileSubtileEval core slot) s = .next t ∧ t.block? ⟨core, slot, 0⟩ = some bt ∧ bt.tile = b'.tile ∧
      ((b'.tileAt tile).valid ||| (b.geo l.record tile).validBy k ≠ BitVec.allOnes 64 →
        (bt.tileAt tile).valid = (b'.tileAt tile).valid ||| (b.geo l.record tile).validBy k ∧
        (bt.tileAt tile).producer = (b'.tileAt tile).producer) ∧
      ((b'.tileAt tile).valid ||| (b.geo l.record tile).validBy k = BitVec.allOnes 64 → bt.node? q = none) ∧
      (t.wave ⟨core, slot, w⟩).nstat = (s.wave ⟨core, slot, w⟩).nstat ||| fl ∧ t.mem = s.mem)

/-- A valid SQRY with keys, a free log entry and two free lock entries starts its scan, a valid SAPP its append, each with
its log entry, two locks, pending words of the common area and the service class and budget of its requests; a SQRY of
no key completes at once, and one that is rejected does so with SIEVE_REJECT, which enters the handler; SMRG writes
the words of its merge and sets its NSTAT bits; a command enters its pseudo-channel's queue, each Sieve of the oldest,
none of whose banks is under refresh, sends the record of its fold, a record lands in the common area, the last one
ends the operation, and SAPP writes its rows at home between scans and ends. (That SMRG sets the NSTAT bits of its
merges is the model's reading, R290 speaking of the division alone: log 67; what a merge or a fold does with a NaN,
and with a -0 met by the identity, is its reading too: log 74.)
(R91, R281, R282, R284, R285, R286, R287, R288, R290, R291, R293, R294.) -/
def Obligations.SieveQueries : Prop :=
  (∀ (f : F) (s : State) (c : Ctx) (x : SieveDesc) (i : Nat), s.clear (sqrySpec f) (sqryFails f s) = some c → c.part ≠ 0 →
    c.descAt ((c.scalar f.a).extractLsb' 0 32).toNat false = .ok x → s.sieveReject c.l x false = none → x.n ≠ 0 →
    c.w.logFree = some i → 2 ≤ s.lockFree s.cur.core →
    ∃ t o k, exec (.sqry f) s = .next t ∧ spFind t.ops s.nextOp = some o ∧ o.scan = some k ∧ k.accepted = false ∧
      k.n = x.n ∧ k.d = x.d ∧ k.record = x.record ∧ k.sent = [] ∧ k.scale = x.scale ∧
      k.query = ((List.range x.d).map fun i => c.vreg (vecNo f.b + i / 32) (i % 32)) ∧ o.entry = some i ∧
      o.service = (x.cls, x.budget) ∧ o.credit = 16 * recordBytes x.d ∧ t.nextOp = s.nextOp + 1 ∧ t.locks.length = s.locks.length + 2 ∧
      t = { s with blocks := t.blocks, running := t.running, ops := t.ops, nextOp := t.nextOp, locks := t.locks, held := t.held } ∧
      (∀ u, otherWave s u → t.wave? u = s.wave? u) ∧
      (t.block? s.cur).map Block.cpend = some (c.b.markUnits .common
        ((List.range (2 * recordBytes x.d)).map fun i => (i, x.record + 8 * i)) true).cpend ∧
      LogOutcome s t t c (sqrySpec f) i { c.logEntry 0x280 f [] with
        stage := 1, op := some s.nextOp, no := s.nextOp, bRegs := [] }) ∧
  (∀ (f : F) (s : State) (c : Ctx) (x : SieveDesc), s.clear (sqrySpec f) (sqryFails f s) = some c → c.part ≠ 0 →
    c.descAt ((c.scalar f.a).extractLsb' 0 32).toNat false = .ok x → s.sieveReject c.l x false = none → x.n = 0 →
    ∃ t, exec (.sqry f) s = .next t ∧
      DoneOutcome s t c ((s.modBlock s.cur fun b => (b.emptyRecords x 0).credit x.barrier (16 * recordBytes x.d)).postNow s.cur c.b
        { x.op s.nextOp .sqry s.cur c.b 15 with status := 1 }) none f.ctl.sig.toNat 0) ∧
  (∀ (f : F) (s : State) (c : Ctx) (x : SieveDesc) (code : Nat) (a : W64), s.clear (sqrySpec f) (sqryFails f s) = some c → c.part ≠ 0 →
    c.descAt ((c.scalar f.a).extractLsb' 0 32).toNat false = .ok x → s.sieveReject c.l x false = some (code, a) →
    c.w.saved = none → c.w.past = [] → c.w.handler = false → c.w.live ≠ 0 → c.w.reissue = [] → c.b.stopping = none →
    c.b.saving = false → c.l.record.handler ≠ 0 →
    ∃ t, exec (.sqry f) s = .next t ∧ HandlerEntry s.cur (s.sqryAtOnce c f x code) t
      (((s.sqryAtOnce c f x code).wave s.cur).nextRec cSIEVE_REJECT a) c.l.record.handler) ∧
  (∀ (f : F) (s : State) (c : Ctx) (x : SieveDesc) (i : Nat), s.clear (sappSpec f) (fun c => c.stop (sappOwn f s c)) = some c →
    c.part ≠ 0 → c.descAt ((c.scalar f.a).extractLsb' 0 32).toNat true = .ok x → c.w.logFree = some i → 2 ≤ s.lockFree s.cur.core →
    ∃ t o, exec (.sapp f) s = .next t ∧ spFind t.ops s.nextOp = some o ∧ o.kind = .sapp ∧ o.entry = some i ∧ o.service = (x.cls, x.budget) ∧
      o.credit = x.kBytes + x.vBytes ∧ o.wr.length = o.rd.length ∧ o.rdSpace = .common ∧ o.wrSpace = .memory ∧
      t.nextOp = s.nextOp + 1 ∧ t.locks.length = s.locks.length + 2 ∧
      t = { s with blocks := t.blocks, running := t.running, ops := t.ops, nextOp := t.nextOp, locks := t.locks, held := t.held } ∧
      (∀ u, otherWave s u → t.wave? u = s.wave? u) ∧
      (t.block? s.cur).map Block.cpend = some (c.b.markUnits .common o.rd true).cpend ∧
      LogOutcome s t t c (sappSpec f) i { c.logEntry 0x281 f [] with stage := 1, op := some s.nextOp, no := s.nextOp }) ∧
  (∀ (f : F) (s : State) (c : Ctx), s.clear (smrgSpec f) (smrgFails f) = some c → c.part ≠ 0 → c.w.covered →
    ((rangeFrom (vecNo f.d) (c.smrgDim f / 32 + 3)).all fun r => !c.w.logHolds r) = true →
    ∃ t, exec (.smrg f) s = .next t ∧ OnlyWave s t ∧ NextWord s t c ∧
      { (t.wave s.cur).still with v := [], pend := [], nstat := 0 } = { (s.wave s.cur).still with v := [], pend := [], nstat := 0 } ∧
      (t.wave s.cur).nstat = ((s.wave s.cur).nstat ||| (c.smrgResult f).2) ∧
      ∀ d, (t.wave s.cur).vget (d / 32) (d % 32) = (((c.smrgResult f).1.reverse.find? fun x => x.1 == d).map Prod.snd).getD
        ((s.wave s.cur).vget (d / 32) (d % 32))) ∧
  (∀ (s : State) (n : Nat) (o : EngineOp) (k : Scan), spFind s.ops n = some o → o.id = n → o.scan = some k →
    (k.accepted = false → s.opHeld o = false → (s.sieveQueue k.pc).length < 16 →
      ∃ t o', exec (.sieveCommandAccept n) s = .next t ∧ spFind t.ops n = some o' ∧ o'.scan = some { k with accepted := true } ∧
        (t.channel k.pc).sieveq = s.sieveQueue k.pc ++ [n] ∧ t = { s with ops := t.ops, channels := t.channels }) ∧
    (∀ sieve, k.accepted = true → sieve < 16 → (∀ e ∈ k.sent, e.1 ≠ sieve) → (s.sieveQueue k.pc).head? = some n →
      s.sievePaused k sieve = false → (∀ e ∈ s.hwErrors, e.array = false) →
      ∃ t o' k', exec (.sievePartialSend n sieve) s = .next t ∧ spFind t.ops n = some o' ∧ o'.scan = some k' ∧
        k'.sent = k.sent ++ [(sieve, (s.sieveFold k sieve).record k.d sieve (s.correctedIn k sieve (s.sieveFold k sieve)))] ∧
        k'.landed = k.landed ∧ t = { s with ops := t.ops, channels := t.channels, orphans := t.orphans } ∧
        (k.sent.length = 15 → n ∉ (t.channel k.pc).sieveq)) ∧
    (∀ sieve bs b, k.sent.find? (fun e => e.1 == sieve) = some (sieve, bs) → sieve ∉ k.landed → s.block? o.w = some b →
      k.landed.length ≠ 15 →
      ∃ t b' o' k', exec (.sieveRecordLand n sieve) s = .next t ∧ t.block? o.w = some b' ∧ spFind t.ops n = some o' ∧
        o'.scan = some k' ∧ k'.landed = k.landed ++ [sieve] ∧ b'.waves = b.waves ∧ t.mem = s.mem ∧
        ∀ a, spGet 0 b'.common a =
          if k.record + sieve * recordBytes k.d ≤ a ∧ a < k.record + sieve * recordBytes k.d + bs.length then
            bs.getD (a - (k.record + sieve * recordBytes k.d)) 0 else spGet 0 b.common a) ∧
    (k.landed.length = 15 → ∀ sieve bs b, k.sent.find? (fun e => e.1 == sieve) = some (sieve, bs) → sieve ∉ k.landed →
      s.block? o.w = some b → (o.post = true → b.events.length < 16) →
      ∃ t, exec (.sieveRecordLand n sieve) s = .next t ∧ spFind t.ops n = none ∧ t.mem = s.mem)) ∧
  (∀ (s : State) (n : Nat) (o : EngineOp) (b : Block), spFind s.ops n = some o → o.id = n → o.kind = .sapp → o.rd = [] → o.status = 0 →
    s.opHeld o = false → s.betweenScans (s.pcOf ((o.wr.head?.map Prod.snd).getD 0)) = true →
    (o.cells.all fun x => !s.sieveHeld (x.1 / 64)) = true → s.block? o.w = some b → (o.post = true → b.events.length < 16) →
    ∃ t, exec (.sappApply n) s = .next t ∧ t.mem = (s.writeCells o.cells).mem ∧ spFind t.ops n = none ∧ ∀ k ∈ t.locks, k.owner ≠ n)

/-- XRED, XALL, XGATH, XBCST and XBAR, whose descriptor and ranges pass every check and find a log entry and lock entries,
start their instance under the number of their collective id; with .rep the journal is sealed (stated where no lazy
load is to be forced first); instances that agree meet in the combined bytes of all participants, those that disagree
in a mismatch; completion writes the destination at home and the status word, and ends the operation; that of a
mismatch writes bit 55 and no destination, posts status 2 and raises ILLEGAL_OP; that of a .rep collective writes the
word of the agreement and ends the operation, or is withheld with DIVERGED or NO_QUORUM in every live wave of its
block; the agreement goes by the value that a strict majority of the participants holds. (Stated where the event
record, if one is posted, has room.)
(R295, R296, R297, R298, R300, R301, R302, R303, R307, R308.) -/
def Obligations.Collectives : Prop :=
  (∀ (f : F) (s : State) (c : Ctx) (x : CollDesc) (p : CollPages) (i : Nat),
    ∀ y ∈ ([(0, 0x2A0, .xred f), (1, 0x2A1, .xall f), (2, 0x2A2, .xgath f), (3, 0x2A3, .xbcst f), (4, 0x2A4, .xbar f)] :
      List (Nat × BitVec 10 × Instr)),
    s.clear (collSpec f) (collFails f y.1 s) = some c → c.part ≠ 0 →
    c.b.collAt c.l ((c.scalar f.a).extractLsb' 0 32).toNat y.1 = .ok x → s.collPages c.l y.1 x = .ok p → c.w.logFree = some i →
    x.locks c.l y.1 ≤ s.lockFree s.cur.core → (f.m.getLsbD 0 = true → c.publishDemand = []) →
    ∃ t o, exec y.2.2 s = .next t ∧ spFind t.ops s.nextOp = some o ∧ o.kind = .coll y.1 ∧ o.entry = some i ∧
      o.inst.map Instance.cid = some x.cid ∧ o.rd.length = (x.srcBytes y.1 (x.part c.l) + 7) / 8 ∧ o.credit = x.credit y.1 ∧
      t.instances.length = s.instances.length + 1 ∧ t.nextOp = s.nextOp + 1 ∧
      t = { s with blocks := t.blocks, running := t.running, ops := t.ops, nextOp := t.nextOp, locks := t.locks, held := t.held, instances := t.instances } ∧
      (f.m.getLsbD 0 = false → (∀ u, otherWave s u → t.wave? u = s.wave? u) ∧
        LogOutcome s t t c (collSpec f) i { c.logEntry y.2.1 f [] with
          stage := 1, op := some s.nextOp, no := s.nextOp, desc := c.b.commonBytes ((c.scalar f.a).extractLsb' 0 32).toNat 64 }) ∧
      (f.m.getLsbD 0 = true → (t.block? s.cur).map (fun b => b.journal.phase) = some (c.b.journal.phase + 1))) ∧
  (∀ (s : State) (tenant cid : Nat) (o : EngineOp) (i : Instance), s.nextColl tenant cid = some o → spFind s.ops o.id = some o →
    o.inst = some i → s.contributed o = true → allArrived (i :: s.collPeers i) = true →
    ∃ t o', exec (.collectiveMeet tenant cid) s = .next t ∧ spFind t.ops o.id = some o' ∧ t = { s with ops := t.ops } ∧
      (((s.collPeers i).all i.agrees) = false → o'.status = 5 ∧ o'.inst = o.inst) ∧
      (((s.collPeers i).all i.agrees) = true → o'.status = 4 ∧ o'.inst.map Instance.data = some (collResult i.code i.oper i.root s.tick i.det
        ((sortBy Instance.package ({ i with data := o.dataBytes (if i.code = 3 ∧ i.package - i.first ≠ i.root ∨ i.code = 4 then 0
          else i.elements * collWidth i.oper) } :: s.collPeers i)).map Instance.data)))) ∧
  (∀ (s : State) (n : Nat) (o : EngineOp) (i : Instance) (b : Block), spFind s.ops n = some o → o.id = n → o.inst = some i → i.rep = false →
    o.status = 4 → (∀ x ∈ o.destCells i, s.sieveHeld (x.1 / 64) = false) → s.block? o.w = some b →
    (o.post = true → b.events.length < 16) →
    ∃ t b', exec (.collectiveComplete n) s = .next t ∧ t.mem = (s.writeCells (o.destCells i)).mem ∧ spFind t.ops n = none ∧
      (∀ k ∈ t.locks, k.owner ≠ n) ∧ t.block? o.w = some b' ∧
      ∀ j, j < 8 → spGet 0 b'.common ((o.wr.head?.map Prod.snd).getD 0 + j) = (bytesOfNat 8 0xFFFF).getD j 0) ∧
  (∀ (s : State) (n code : Nat) (o : EngineOp) (i : Instance) (b : Block), spFind s.ops n = some o → o.id = n → o.inst = some i →
    o.kind = .coll code → o.status = 5 → o.entry.isSome = true → s.block? o.w = some b → b.uid = o.uid → (s.wave? o.w).isSome = true →
    (o.post = true → b.events.length < 16) →
    ∃ t b', exec (.collectiveComplete n) s = .next t ∧ t.mem = s.mem ∧ spFind t.ops n = none ∧ (∀ k ∈ t.locks, k.owner ≠ n) ∧
      t.block? o.w = some b' ∧ b'.events = (if o.post then b.events ++ [eventRecord 2 o.w.wave 5 o.tag] else b.events) ∧
      (∀ j, j < 8 → spGet 0 b'.common ((o.wr.head?.map Prod.snd).getD 0 + j) = (bytesOfNat 8 (2 ^ 55 + 0xFFFF)).getD j 0) ∧
      (t.wave o.w).tcause.getLsbD cILLEGAL_OP = true) ∧
  (∀ (s : State) (n : Nat) (o : EngineOp) (i : Instance) (b : Block), spFind s.ops n = some o → o.id = n → o.inst = some i → i.rep = true →
    o.status = 4 → o.faulted = false → (∀ x ∈ o.destCells i, s.sieveHeld (x.1 / 64) = false) → s.opsBefore o = false →
    s.block? o.w = some b → b.core = o.w.core → b.slot = o.w.slot → (o.post = true → b.events.length < 16) →
    ∀ a, a = agreement { i with digest := spGet 0 (s.writeCells (o.destCells i)).digests i.tenant } (s.collPeers i) →
    ∃ t b', exec (.collectiveComplete n) s = .next t ∧ t.block? o.w = some b' ∧
      (∀ j, j < 8 → spGet 0 b'.common ((o.wr.head?.map Prod.snd).getD 0 + j) = (bytesOfNat 8 a.1).getD j 0) ∧
      (a.2 = none → t.mem = (s.writeCells (o.destCells i)).mem ∧ spFind t.ops n = none ∧ ∀ k ∈ t.locks, k.owner ≠ n) ∧
      (∀ cause, a.2 = some cause → b'.events = b.events ∧
        (∃ o', spFind t.ops n = some o' ∧ o'.status = 3 ∧ o'.entry = o.entry) ∧
        ∀ k w, spFind b.waves k = some w → w.live ≠ 0 → (t.wave ⟨o.w.core, o.w.slot, k⟩).tcause.getLsbD cause = true)) ∧
  (∀ (own : Instance) (peers : List Instance),
    ((∀ x ∈ peers, x.digest = own.digest) → agreement own peers = (2 ^ 51 + (peers.length + 1) * 2 ^ 16 + 0xFFFF, none)) ∧
    (∀ d, (own :: peers).length < 2 * ((own :: peers).filter fun x => x.digest == d).length →
      (agreement own peers).2 = if own.digest = d then none else some cDIVERGED) ∧
    ((∀ d, 2 * ((own :: peers).filter fun x => x.digest == d).length ≤ (own :: peers).length) →
      (agreement own peers).2 = some cNO_QUORUM))

/-- SYSRD returns the register that a valid selector names, SYSWR writes a value that the register accepts; ASINV discards
the held translations and instruction lines of its address spaces and waits for what has used them; KILLB of an empty
slot returns a code, of a block kills it, drops its operations, journal lines and nodes and waits until the slot is
free; REMAP maps a core or returns a code; CTXSV starts the save of a block, CTXLD places an accepted context and
returns its slot; the registration steps keep RPCMD and the digest. (That KILLB drops operations at once, that ASINV
waits for engine operations and nodes as well, the details of REMAP, and the physical areas of CTXSV and CTXLD are the
model's readings: log 21, 33, 34 and 35; what a context shows of a block of which nothing is kept: log 38.)
(R326, R327, R328, R330, R334, R363, R368, R376, R382, R411.) -/
def Obligations.SystemInstructions : Prop :=
  (∀ f : F,
    ActResult (.sysrd f) (sysrdSpec f) (fun s c => c.illegalIf (!selectorOk s c (c.scalar f.a))) (fun _ _ => True) (fun s _ => s)
      (fun s c => some (scalNo f.d, s.sysRead c (c.scalar f.a))) ∧
    ActResult (.syswr f) (syswrSpec f) (fun s c => c.illegalIf (syswrBad s c (c.scalar f.a) (c.scalar f.b))) (fun _ _ => True)
      (fun s c => s.sysWrite c (c.scalar f.a) (c.scalar f.b)) (fun _ _ => none) ∧
    ActResult (.asinv f) (asinvSpec f) (fun _ c => c.illegalIf (c.scalar f.a >>> 9 != 0))
      (fun s c => s.waitDone c.id c.b c.w (s.translationUsers (c.scalar f.a)) = true)
      (fun s c => { s with
        held := s.held.filter fun h => !((c.scalar f.a).getLsbD 8 || h.asid == ((c.scalar f.a).extractLsb' 0 8).toNat)
        icache := s.icache.filter fun i => !((c.scalar f.a).getLsbD 8 || i.asid == ((c.scalar f.a).extractLsb' 0 8).toNat) })
      (fun _ _ => none) ∧
    ResumeResult (.asinv f) (asinvSpec f) (fun wt => ∃ a b, wt = .asinv a b) ∧
    ActResult (.killb f) (killbSpec f) (fun _ c => c.illegalIf (c.scalar f.a >>> 16 != 0))
      (fun s c => s.block? ⟨((c.scalar f.a).extractLsb' 0 12).toNat, ((c.scalar f.a).extractLsb' 12 4).toNat, 0⟩ = none)
      (fun s _ => s) (fun _ _ => some (scalNo f.d, 1#64 <<< 63 ||| 1)) ∧
    ActResult (.remap f) (remapSpec f) (fun _ c => c.illegalIf (c.scalar f.a >>> 12 != 0 || c.scalar f.b >>> 10 != 0)) (fun _ _ => True)
      (fun s c => (s.remap (c.scalar f.a).toNat (c.scalar f.b).toNat).1)
      (fun s c => some (scalNo f.d, (s.remap (c.scalar f.a).toNat (c.scalar f.b).toNat).2))) ∧
  (∀ (f : F) (s : State) (c : Ctx) (core slot : Nat) (b : Block),
    s.clear (killbSpec f) (fun c => c.illegalIf (c.scalar f.a >>> 16 != 0)) = some c → c.part ≠ 0 →
    ((c.scalar f.a).extractLsb' 0 12).toNat = core → ((c.scalar f.a).extractLsb' 12 4).toNat = slot →
    s.block? ⟨core, slot, 0⟩ = some b → blockKey core slot ≠ wkey s.cur →
    ∃ t b', exec (.killb f) s = .next t ∧ (t.wave s.cur).wait = some (.slotFree core slot b.uid) ∧ s.cur ∉ t.running ∧
      t.block? ⟨core, slot, 0⟩ = some b' ∧ b'.killed = true ∧ b'.gen = b.gen + 1 ∧ b'.nodes = [] ∧ b'.journal.lines = [] ∧
      (∀ k w, spFind b'.waves k = some w → w.live = 0 ∧ w.tcause.getLsbD 29 = true ∧ w.log = []) ∧
      (∀ e ∈ t.ops, e.2.uid ≠ b.uid) ∧ t.mem = s.mem) ∧
  (∀ (f : F) (s : State) (c : Ctx) (core slot uid : Nat), s.resumes (killbSpec f) (.slotFree core slot uid) = some c →
    ∃ t, exec (.killb f) s = .next t ∧ OnlyWave s t ∧ (t.wave s.cur).wait = none ∧ NextWord s t c ∧
      ∀ n, (t.wave s.cur).sget n = c.given (s.wave s.cur) (some (scalNo f.d, 0)) n) ∧
  (∀ (f : F) (s : State) (c : Ctx) (core slot : Nat) (b : Block),
    s.clear (ctxSpec f) (fun c => c.illegalIf (c.scalar f.a >>> 16 != 0 || !areaOk (c.scalar f.b))) = some c → c.part ≠ 0 →
    ((c.scalar f.a).extractLsb' 0 12).toNat = core → ((c.scalar f.a).extractLsb' 12 4).toNat = slot →
    s.block? ⟨core, slot, 0⟩ = some b → b.inHandler = false →
    ∃ t, exec (.ctxsv f) s = .next t ∧
      OnlyWave (s.modBlock ⟨core, slot, 0⟩ fun b => { b with stopping := some true, saveTo := b.saveTo ++ [(c.scalar f.b).toNat] }) t ∧
      (t.wave s.cur).wait = some (.context core slot b.uid) ∧ s.cur ∉ t.running) ∧
  (∀ (f : F) (s : State) (c : Ctx) (bytes : Nat), s.resumes (ctxSpec f) (.written bytes) = some c →
    ∃ t, exec (.ctxsv f) s = .next t ∧ OnlyWave s t ∧ (t.wave s.cur).wait = none ∧ NextWord s t c ∧
      ∀ n, (t.wave s.cur).sget n = c.given (s.wave s.cur) (some (scalNo f.d, BitVec.ofNat 64 bytes)) n) ∧
  (∀ (f : F) (s : State) (c : Ctx), s.clear (ctxSpec f) (fun c => c.illegalIf (!areaOk (c.scalar f.a) || c.scalar f.b >>> 12 != 0)) = some c →
    c.part ≠ 0 →
    (s.acceptContext (c.scalar f.a).toNat none = none →
      ∃ t, exec (.ctxld f) s = .next t ∧ DoneOutcome s t c s (some (scalNo f.d, 1#64 <<< 63 ||| 2)) f.ctl.sig.toNat 0) ∧
    (∀ a slot, s.acceptContext (c.scalar f.a).toNat none = some a → s.restoreRoom a (c.scalar f.b).toNat = true →
      s.freeSlot (c.scalar f.b).toNat = some slot →
      ∃ t b', exec (.ctxld f) s = .next t ∧ t.block? ⟨(c.scalar f.b).toNat, slot, 0⟩ = some b' ∧ b'.core = (c.scalar f.b).toNat ∧
        b'.slot = slot ∧ b'.retired = getNat a.bytes 0x14 4 ∧ NextWord s t c ∧
        ((∀ k, a.kept = some k → k.block.journal.die = dieOf (c.scalar f.b).toNat) → t.mem = s.mem) ∧
        ∀ n, (t.wave s.cur).sget n = c.given (s.wave s.cur) (some (scalNo f.d, BitVec.ofNat 64 slot)) n)) ∧
  (∀ (s : State) (w : WaveId) (v : W64) (x : Wave), s.wave? w = some x → v >>> 5 = 0 → x.overrun = false →
    ∃ t, exec (.wstatWrite w v) s = .next t ∧ (t.wave w).demoted = v.getLsbD 3 ∧ (t.wave w).overrun = v.getLsbD 4 ∧
      (v.getLsbD 4 = true → w ∉ t.running) ∧ { (t.wave w) with demoted := false, overrun := false, hcyc := 0 } =
        { x with demoted := false, overrun := false, hcyc := 0 } ∧ t.mem = s.mem) ∧
  (∀ (s : State) (v : W64), s.rpBad v = false →
    (rpOp v = 1 → ∃ t, exec (.rpcmdRegister v) s = .next t ∧ t.pkgR 0x480 = v ∧
      t.replicas = s.replicas ++ [⟨rpPage v, rpSize v, rpTenant v, (s.pkgR 0x481).toNat⟩] ∧
      t = { s with replicas := t.replicas, digests := t.digests, pkgReg := t.pkgReg }) ∧
    (rpOp v = 2 → ∃ t r, exec (.rpcmdRemove v) s = .next t ∧ t.pkgR 0x480 = v ∧ s.replicas.find? (rpIs v) = some r ∧
      t.replicas = s.replicas.filter (· != r) ∧ t = { s with replicas := t.replicas, digests := t.digests, pkgReg := t.pkgReg }))

/-- CLAUSE_ISSUE puts the chosen wave into the free slot and, at a clause boundary, reads its header and moves the lanes
of the selected group behind it; a fill puts the 64 bytes of home into the cache; a result in flight sets its NSTAT
bits and counts its flag down; VFOLD_STAMP writes the fold register and its number; a handler at 65,536 cycles is
stopped with TRAP_OVERRUN.
(R19, R124, R128, R176, R332, R355, R356, R377.) -/
def Obligations.IssueSteps : Prop :=
  (∀ (s : State) (core : Nat) (id : WaveId) (b : Block) (w : Wave) (p : Pick) (a h : W64), s.registerErrors core = s →
    s.slotIdle core = true → s.nextWave core = some (id, b, w) → s.block? id = some b → s.wave? id = some w → w.inClause = false →
    w.nextHeader = some (p, a) → s.fetchFor id a = .word h → headerIllegal h (s.privOf b) = false → s.sliceOf b = 0 →
    w.skipAt ≠ some (a + 8) →
    ∃ t, exec (.clauseIssue core) s = .next t ∧ t.running = s.running ++ [id] ∧ t.cur = id ∧ (t.wave id).clause = ⟨h, a, 0⟩ ∧
      (∀ l, l < 32 → (t.wave id).pcAt l = if p.lanes.getLsbD l then a + 8 else w.pcAt l) ∧ (t.wave id).group = p.lanes ∧
      (∀ r l, (t.wave id).regGet r l = w.regGet r l) ∧ t.mem = s.mem ∧
      spGet 0 t.slots id.core = spGet 0 s.slots id.core + 1) ∧
  (∀ (s : State) (core asid line : Nat) (id : WaveId) (a : W64) (r : Bool) (b : Block) (l : Launch) (pa : Nat),
    s.fetcher core asid line = some (id, a, r) → s.fetchFor id a = .fill → s.block? id = some b → s.launchOf b = some l →
    s.translate asid l.tenant a.toNat [rEXEC] = .ok pa →
    ∃ t, exec (.icacheFill core asid line) s = .next t ∧
      (⟨core, asid, l.tenant, line, s.readBytes (pa / 64 * 64) 64⟩ : ILine) ∈ t.icache ∧ t = { s with held := t.held, icache := t.icache }) ∧
  (∀ (s : State) (id : WaveId) (w : Wave), s.wave? id = some w → (∃ p ∈ w.inflight, p.landed = false) →
    ∃ t, ∃ p ∈ w.inflight, p.landed = false ∧ exec (.fixedLatencyWriteback id) s = .next t ∧ OneWave id s t ∧ (t.wave id).nstat = w.nstat ||| p.flags ∧
      (∀ n, n < 12 → (t.wave id).kget n = w.kget n - if p.sig = n then 1 else 0) ∧
      { (t.wave id) with nstat := 0, k := [], inflight := [] } = { w with nstat := 0, k := [], inflight := [] }) ∧
  (∀ (s : State) (id : WaveId) (w : Wave) (x : W64) (fl sig : Nat) (rest : List (W64 × Nat × Nat)), s.wave? id = some w →
    w.foldq = (x, fl, sig) :: rest → w.wait = none →
    ∃ t, exec (.vfoldStamp id) s = .next t ∧ OneWave id s t ∧ (t.wave id).fold = x ∧ (t.wave id).foldSeq = w.foldSeq + 1 ∧
      (t.wave id).foldq = rest ∧ (t.wave id).nstat = w.nstat ||| BitVec.ofNat 32 fl ∧
      (∀ n, n < 12 → (t.wave id).kget n = w.kget n - if sig = n then 1 else 0) ∧ (t.wave id).v = w.v ∧ (t.wave id).s = w.s) ∧
  (∀ (s : State) (id : WaveId) (w : Wave), s.wave? id = some w → w.handler = true → w.overrun = false → w.hpast = false →
    65536 ≤ w.hcycles s.clock →
    ∃ t, exec (.trapOverrun id) s = .next t ∧ (t.wave id).overrun = true ∧ (t.wave id).tcause = w.tcause ||| causeBit 28 ∧
      id ∉ t.running ∧ (t.wave id).hcycles t.clock = 65536 ∧ (t.wave id).pc = w.pc ∧ (t.wave id).s = w.s ∧
      ∀ u, ¬ (wkey u = wkey id ∧ u.wave = id.wave) → t.wave? u = s.wave? u)

/-- A doorbell that its queue takes moves the tail, any other sets overrun; QCFG takes a value whose every field is valid
and zeroes head and tail as it enables, QSTAT and QGRP a value without a reserved bit, QBASE any; a queue that has
aged gains one level; the engine reads the queue that is next in turn; a record that arrives advances the head and,
where it breaks no rule, becomes a launch of the queue's tenant, address space, privilege and cap, and a failed read
sets fetch error instead; a launch arrives at a die, once no scan holds a line of its fix-ups; one that is done, and
whose record no scan holds, writes its completion record and, from the host, as a tail or with its parent gone,
leaves; a tail starts after its launch is complete, and a rejected one ends there; a write over PCIe changes stack
memory at home, or waits while a scan holds one of its lines. (That a value wider than 32 bits sets overrun and that a
record of a disabled queue is accepted are the model's readings: log 61; so is that QBASE, QGRP and QCFG are stored
while the queue is enabled: log 40.)
(R41, R101, R225, R340, R341, R342, R343, R345, R318.) -/
def Obligations.QueueSteps : Prop :=
  (∀ (s : State) (q : Nat) (wide : Bool) (v : W64), q < 4096 →
    ∃ t, exec (.doorbell q wide v) s = .next t ∧ t = { s with queues := t.queues } ∧
      (∀ k, k ≠ q → t.queue k = s.queue k) ∧
      ((s.queue q).cfg.getLsbD 7 = true ∧ (s.queue q).stat.getLsbD 42 = false ∧
          (v.extractLsb' 0 32 - (s.queue q).head).toNat ≤ 2 ^ ((s.queue q).cfg.extractLsb' 8 5).toNat ∧ (wide = true → v >>> 32 = 0) →
        (t.queue q).tail = v.extractLsb' 0 32 ∧ (t.queue q).head = (s.queue q).head ∧ (t.queue q).stat = (s.queue q).stat) ∧
      (¬ ((s.queue q).cfg.getLsbD 7 = true ∧ (s.queue q).stat.getLsbD 42 = false ∧
          (v.extractLsb' 0 32 - (s.queue q).head).toNat ≤ 2 ^ ((s.queue q).cfg.extractLsb' 8 5).toNat ∧ (wide = true → v >>> 32 = 0)) →
        t.queue q = { (s.queue q) with stat := (s.queue q).stat ||| (1#64 <<< 41) })) ∧
  (∀ (s : State) (q : Nat) (v : W64), q < 4096 →
    (∃ t, exec (.qstatWrite q v) s = .next t ∧ t = { s with queues := t.queues } ∧ (∀ k, k ≠ q → t.queue k = s.queue k) ∧
      t.queue q = if v >>> 43 = 0 then { (s.queue q) with stat := v } else s.queue q) ∧
    (∃ t, exec (.qcfgWrite q v) s = .next t ∧ t = { s with queues := t.queues } ∧ (∀ k, k ≠ q → t.queue k = s.queue k) ∧
      t.queue q = if qcfgBad v then s.queue q
        else if v.getLsbD 7 = true ∧ (s.queue q).cfg.getLsbD 7 = false then { (s.queue q) with cfg := v, head := 0, tail := 0 }
        else { (s.queue q) with cfg := v }) ∧
    (∀ grp, ∃ t, exec (.queueRegisterWrite q grp v) s = .next t ∧ t = { s with queues := t.queues } ∧ (∀ k, k ≠ q → t.queue k = s.queue k) ∧
      t.queue q = if grp = true ∧ v >>> 32 ≠ 0 then s.queue q
        else if grp then { (s.queue q) with grp := v } else { (s.queue q) with base := v }) ∧
    (s.queueAges q = true → ∃ t, exec (.queueAging q) s = .next t ∧ t = { s with queues := t.queues } ∧
      t.queue q = { (s.queue q) with prio := (s.queue q).prio + 1, since := (s.queue q).since + 65536 })) ∧
  (∀ (s : State) (q : Nat), s.nextQueue = some q → s.mayRead = true →
    ∃ t, exec .queueRecordRead s = .next t ∧ t = { s with queues := t.queues, lastQueue := q, nextRead := s.clock + 128 } ∧
      t.queue q = { (s.queue q) with reading := true }) ∧
  (∀ (s : State) (q : Nat), (s.queue q).reading = true →
    (∀ err, (err = true ∧ (s.queue q).base.getLsbD 63 = false) ∨ s.poisonIn (s.queue q).recordAt 256 ≠ none →
      ∃ t, exec (.queueRecordArrive q err) s = .next t ∧ t = { s with queues := t.queues } ∧
        t.queue q = { (s.queue q) with reading := false, stat := (s.queue q).stat ||| (1#64 <<< 42) }) ∧
    (∀ e r, s.poisonIn (s.queue q).recordAt 256 = none → r = recordOf (wordsOf 32 (s.readBytes (s.queue q).recordAt 256)) →
      s.freeHostEntry = some e →
      s.rejectReason r ((s.queue q).cfg.extractLsb' 40 8).toNat
        ((s.pkgR (0x400 + ((s.queue q).cfg.extractLsb' 0 6).toNat)).extractLsb' 8 4).toNat ((s.queue q).grp.extractLsb' 16 16).toNat = 0 →
      ∃ t l, exec (.queueRecordArrive q false) s = .next t ∧ (t.queue q).head = (s.queue q).head + 1 ∧ (t.queue q).reading = false ∧
        t.launch? s.nextLaunch = some l ∧ l.record = r ∧ l.host = true ∧ l.entry = e ∧ l.queue = q ∧ l.started = true ∧
        l.tenant = ((s.pkgR (0x400 + ((s.queue q).cfg.extractLsb' 0 6).toNat)).extractLsb' 8 4).toNat ∧
        l.asid = ((s.queue q).cfg.extractLsb' 40 8).toNat ∧ l.priv = (s.queue q).cfg.getLsbD 6 ∧
        l.prio = min r.priority ((s.queue q).cfg.extractLsb' 16 8).toNat ∧ t.nextLaunch = s.nextLaunch + 1) ∧
    (∀ e r, s.poisonIn (s.queue q).recordAt 256 = none → r = recordOf (wordsOf 32 (s.readBytes (s.queue q).recordAt 256)) →
      s.freeHostEntry = some e →
      s.rejectReason r ((s.queue q).cfg.extractLsb' 40 8).toNat
        ((s.pkgR (0x400 + ((s.queue q).cfg.extractLsb' 0 6).toNat)).extractLsb' 8 4).toNat ((s.queue q).grp.extractLsb' 16 16).toNat ≠ 0 →
      ∃ t, exec (.queueRecordArrive q false) s = .next t ∧ (t.queue q).head = (s.queue q).head + 1 ∧ (t.queue q).reading = false ∧
        t.nextLaunch = s.nextLaunch + 1 ∧ t.blocks = s.blocks)) ∧
  (∀ (s : State) (n : Nat) (l : Launch), s.launch? n = some l →
    (∀ die, die ∈ l.dies → (∀ a ∈ l.arrivals, a.1 ≠ die) → s.fixupsHeld l = false →
      ∃ t l', exec (.launchArriveDie n die) s = .next t ∧ t = { s with launches := t.launches } ∧ t.launch? n = some l' ∧
        l'.arrivals = l.arrivals ++ [(die, s.clock)] ∧ l'.record = l.record ∧ l'.total = l.total) ∧
    (l.done = true → s.recordHeld l = false → l.host = true →
      ∃ t, exec (.launchComplete n) s = .next t ∧ t.launch? n = none ∧ t.mem = (s.writeCompletion l).mem ∧
        spGet 0 t.hostGen l.entry = spGet 0 s.hostGen l.entry + 1 ∧ t.blocks = s.blocks) ∧
    (l.done = true → s.recordHeld l = false → l.host = false → l.isTail = true ∨ s.parentGone l = true →
      ∃ t, exec (.launchComplete n) s = .next t ∧ t.launch? n = none ∧ t.mem = (s.writeCompletion l).mem ∧ t.blocks = s.blocks) ∧
    (l.done = true → s.recordHeld l = false → l.host = false → l.isTail = false → s.parentGone l = false →
      ∃ t, exec (.launchComplete n) s = .next t ∧ t.launch? n = some { l with complete := true } ∧ t.mem = (s.writeCompletion l).mem ∧
        t.blocks = s.blocks) ∧
    (∀ p i, l.isTail = true → l.started = false → l.parent = some (p, i) → (∀ x, s.launch? p = some x → x.complete = true) →
      l.reject = 0 → l.entry < 4096 →
      ∃ t l', exec (.tailStart n) s = .next t ∧ t.launch? n = some l' ∧ l'.started = true ∧ l'.entry = 4096 ∧ l'.record = l.record ∧
        spGet 0 t.devGen (devKey l.die l.entry) = spGet 0 s.devGen (devKey l.die l.entry) + 1 ∧ t.mem = s.mem) ∧
    (∀ p i, l.isTail = true → l.started = false → l.host = false → l.parent = some (p, i) → (∀ x, s.launch? p = some x → x.complete = true) →
      l.reject ≠ 0 → s.recordHeld l = false →
      ∃ t, exec (.tailStart n) s = .next t ∧ t.launch? n = none ∧ t.mem = (s.writeCompletion l).mem ∧ t.blocks = s.blocks)) ∧
  (∀ (s : State) (addr : Nat) (bytes : List Byte), addr + bytes.length ≤ stackBytes →
    (∀ i, i < (addr % 64 + bytes.length + 63) / 64 → s.sieveHeld (addr / 64 + i) = false) →
    ∃ t, exec (.pcieMemoryWrite addr bytes) s = .next t ∧ t.mem = (s.writeBytes addr bytes).mem ∧ t.blocks = s.blocks ∧
      t.launches = s.launches ∧ t.ops = s.ops) ∧
  (∀ (s : State) (addr i : Nat) (bytes : List Byte), addr + bytes.length ≤ stackBytes → i < (addr % 64 + bytes.length + 63) / 64 →
    s.sieveHeld (addr / 64 + i) = true →
    exec (.pcieMemoryWrite addr bytes) s = .next { s with agenda := s.agenda ++ [.pcieMemoryWrite addr bytes] })

/-- Where a die has no block to evict, clears no core and its first candidate has room, a dispatcher cycle places it on
the chosen core: the next index of a group with its waves at the record's entry and the argument in s0, a message as
its handler wave, or a saved block from its context; a thief behind no other split takes the upper half of a range;
aging adds a level; a block that may retire leaves its slot and is counted in its launch; a flushed one leaves too, is
counted at its die and is a ticket of its group again; a save stops a block, one that stands between slices with a new
slice, and once its operations have ended its lazy loads are demanded and then, none left, its context, with its
header and check, is written to a slot of its die or where CTXSV asked for it; a victim whose drain has lasted 2^20
cycles is saved, flushed or drained again; a slice that ends by its budget sets BUDGET in the waves that live and do
not yield, and one that continues, where no candidate of a higher rank lacks a core, starts anew; the Ladle, 128
cycles after its last move, moves a pool block; a message behind no earlier one of its sender's flow takes the last
place of its core. (That aging is kept per placement group and die is the model's reading: log 63; so is which journal
a block takes: log 14.)
(R18, R29, R38, R41, R45, R228, R323, R347, R354, R361, R362, R363.) -/
def Obligations.BlockSteps : Prop :=
  (∀ (s : State) (die core slot n uid : Nat) (c : Waiter) (l : Launch) (g : Group) (q : Nat × Nat × Nat × Nat), s.evacuate die = s →
    s.dieWorks die = true → spFind s.room die = none → s.hungry die = none → s.bestCand die (s.clearedBy die) (fun _ => false) = some (c, core) →
    c.kind = .fresh → s.launch? c.launch = some l → l.groups[c.key % 65536]? = some g → g.nextRange die = some q →
    s.freeSlot core = some slot → s.freeJournal (dieOf core) = some n → s.dclk ≤ c.deadline → uid = s.nextUid →
    ∃ t b, exec (.blockDispatch die) s = .next t ∧ t.block? ⟨core, slot, 0⟩ = some b ∧ b.uid = uid ∧ b.launch = c.launch ∧
      b.linear = q.2.1 ∧ b.nwaves = l.record.waves ∧ b.budget = l.record.budget ∧ b.journal = ⟨n, dieOf core, 0, [], []⟩ ∧
      (∀ k, k < l.record.waves → ∃ w, spFind b.waves k = some w ∧ (∀ j, j < 32 → w.pcAt j = l.record.entry) ∧
        w.sget 0 = l.record.arg ∧ (∀ j, j ≠ 0 → w.sget j = 0) ∧ w.exited = 0 ∧ ∀ r j, w.vget r j = 0) ∧
      t.nextUid = s.nextUid + 1 ∧ t.mem = s.mem) ∧
  (∀ (s : State) (die core slot n : Nat) (c : Waiter) (m : Message) (rest : List Message), s.evacuate die = s →
    s.dieWorks die = true → spFind s.room die = none → s.hungry die = none →
    s.bestCand die (s.clearedBy die) (fun _ => false) = some (c, core) → c.kind = .message → spGet [] s.msgq core = m :: rest →
    s.freeSlot core = some slot → s.freeJournal (dieOf core) = some n → s.dclk ≤ c.deadline →
    ∃ t b w, exec (.blockDispatch die) s = .next t ∧ t.block? ⟨core, slot, 0⟩ = some b ∧ b.uid = s.nextUid ∧ b.launch = m.launch ∧
      b.nwaves = 1 ∧ b.budget = m.budget ∧ b.sender = some (m.uid, m.launch) ∧ spFind b.waves 0 = some w ∧
      (∀ j, j < 32 → w.pcAt j = m.handler + 8) ∧ w.sget 1 = m.arg.zeroExtend 64 ∧ (∀ j, j < 32 → w.vget 0 j = m.payload.getD j 0) ∧
      spGet [] t.msgq core = rest ∧ t.mem = s.mem) ∧
  (∀ (s : State) (die core slot : Nat) (c : Waiter) (k : SavedSlot) (a : Accepted), s.evacuate die = s →
    s.dieWorks die = true → spFind s.room die = none → s.hungry die = none →
    s.bestCand die (s.clearedBy die) (fun _ => false) = some (c, core) → c.kind = .saved →
    s.saved.find? (fun k => k.block.uid == c.key) = some k → s.slotContext k = some a → s.freeSlot core = some slot → s.dclk ≤ c.deadline →
    ∃ t b, exec (.blockDispatch die) s = .next t ∧ t.block? ⟨core, slot, 0⟩ = some b ∧ b.uid = k.block.uid ∧
      b.retired = getNat a.bytes 0x14 4 ∧ (∀ x ∈ t.saved, x.block.uid ≠ k.block.uid) ∧
      (k.block.journal.die = dieOf core → t.mem = s.mem)) ∧
  (∀ (s : State) (die key : Nat) (l : Launch) (g : Group) (q : Nat × Nat × Nat × Nat), s.stealGroup die key = some (l, g) →
    s.stealFrom l g die = some q → s.stealWaits die key q = false →
    ∃ t l' g', exec (.ticketSteal die key) s = .next t ∧ t = { s with launches := t.launches } ∧ t.launch? (key / 65536) = some l' ∧
      l'.groups[key % 65536]? = some g' ∧
      g'.ranges.getLast? = some (die, q.2.2.1 - (q.2.2.1 - q.2.1 + 1) / 2, q.2.2.1, q.2.2.2)) ∧
  (∀ (s : State) (die n i level since : Nat) (l : Launch), s.launch? n = some l → l.live die = true → die < 8 →
    l.aged = [(agedKey i die, level, since)] → agesNow s.clock l.prio level since = true →
    ∃ t l', exec (.dispatchAging die n) s = .next t ∧ t.launch? n = some l' ∧ l'.aged = [(agedKey i die, level + 1, since + 65536)] ∧
      t.blocks = s.blocks ∧ t.mem = s.mem) ∧
  (∀ (s : State) (core slot : Nat) (b : Block), s.block? ⟨core, slot, 0⟩ = some b → b.core = core → b.slot = slot →
    (∀ e ∈ s.launches, e.1 = b.launch → e.2.host = true ∨ e.2.parent ≠ some (b.launch, b.linear)) →
    (s.mayRetire b = true →
      ∃ t, exec (.blockRetire core slot) s = .next t ∧ t.block? ⟨core, slot, 0⟩ = none ∧ (∀ r ∈ t.running, wkey r ≠ blockKey core slot) ∧
        (∀ e ∈ t.ops, e.2.uid ≠ b.uid) ∧ (b.journal.die, b.journal.num) ∉ t.journals ∧ t.mem = s.mem ∧
        (∀ k, k < 32 → spGet 0 t.frondGen (wfull ⟨core, slot, k⟩) = spGet 0 s.frondGen (wfull ⟨core, slot, k⟩) + 1) ∧
        ∀ l, b.sender = none → s.launch? b.launch = some l → ∃ l', t.launch? b.launch = some l' ∧
          l'.completed = l.completed + (if b.killed = false ∧ b.faulted = none then 1 else 0) ∧
          l'.faulted = l.faulted + (if b.killed = false ∧ b.faulted ≠ none then 1 else 0) ∧
          l'.killed = l.killed + if b.killed then 1 else 0) ∧
    (s.actionDue b false = true →
      ∃ t, exec (.blockFlush core slot) s = .next t ∧ t.block? ⟨core, slot, 0⟩ = none ∧ (∀ e ∈ t.ops, e.2.uid ≠ b.uid) ∧ t.mem = s.mem ∧
        t.dieR (dieOf core) 0x233 = satAdd (s.dieR (dieOf core) 0x233) 1 ∧
        ∀ l g, s.launch? b.launch = some l → l.groups[b.group]? = some g → ∃ l' g', t.launch? b.launch = some l' ∧
          l'.groups[b.group]? = some g' ∧ g'.pinDie = g.pinDie ∧ g'.pinCore = g.pinCore ∧
          g'.ranges = g.ranges ++ [(dieOf core, b.linear, b.linear + 1, b.deadline.getD noDeadline)]) ∧
    (s.actionDue b true = true →
      ∃ t b', exec (.blockSave core slot) s = .next t ∧ t = { s with blocks := t.blocks } ∧ t.block? ⟨core, slot, 0⟩ = some b' ∧
        b'.saving = true ∧ b'.waves = b.waves ∧ b'.tile = b.tile ∧ b'.common = b.common ∧
        (b.offered ≠ none → b'.offered = none ∧ b'.sliceUsed = 0 ∧ b'.expired = false)) ∧
    (∀ l i, s.launchOf b = some l → b.saving = true → b.inHandler = false → b.demand = [] → s.opsEnded b = true → b.saveTo = [] →
      (∀ e ∈ b.nodes, ¬ (e.2.op = 0x201 ∧ e.2.state = 1)) → s.contextSlot (dieOf core) = some i →
      s.heldIn ((s.dieR (dieOf core) 0x230).toNat + 2097152 * i) b.contextSize = false →
      ∃ t k, exec (.contextWrite core slot) s = .next t ∧ t.block? ⟨core, slot, 0⟩ = none ∧
        t.mem = (s.writeBytes ((s.dieR (dieOf core) 0x230).toNat + 2097152 * i) (s.contextBytes b l)).mem ∧
        k ∈ t.saved ∧ k.die = dieOf core ∧ k.slot = some i ∧ k.block.uid = b.uid ∧
        t.dieR (dieOf core) 0x232 = satAdd (s.dieR (dieOf core) 0x232) 1) ∧
    (∀ l a, s.launchOf b = some l → b.saving = true → b.inHandler = false → b.demand = [] → s.opsEnded b = true → b.saveTo = [a] →
      (∀ e ∈ b.nodes, ¬ (e.2.op = 0x201 ∧ e.2.state = 1)) → s.heldIn a b.contextSize = false →
      ∃ t k, exec (.contextWrite core slot) s = .next t ∧ t.block? ⟨core, slot, 0⟩ = none ∧
        t.mem = (s.writeBytes a (s.contextBytes b l)).mem ∧ k ∈ t.saved ∧ k.slot = none ∧ k.block.uid = b.uid) ∧
    (∀ l e, s.launchOf b = some l → b.saving = true → b.inHandler = false → b.demand = [] → s.opsEnded b = true →
      e ∈ b.nodes → e.2.op = 0x201 → e.2.state = 1 →
      ∃ t b', exec (.contextWrite core slot) s = .next t ∧ t = { s with blocks := t.blocks } ∧ t.block? ⟨core, slot, 0⟩ = some b' ∧
        b'.demand = b.fullDemand (b.nodes.filterMap fun e => if e.2.op = 0x201 ∧ e.2.state = 1 then some e.1 else none) ∧
        b'.waves = b.waves ∧ b'.nodes = b.nodes) ∧
    (∀ t0, b.draining = some t0 → t0 + 1048576 ≤ s.clock → s.exempt b = false → b.stopping = none →
      ∃ t b', exec (.drainTimeout core slot) s = .next t ∧ t = { s with blocks := t.blocks } ∧ t.block? ⟨core, slot, 0⟩ = some b' ∧
        b'.drained = true ∧ b'.waves = b.waves ∧
        (s.actionFor b 2 false = .save → b'.stopping = some true ∧ b'.draining = none) ∧
        (s.actionFor b 2 false = .flush → b'.stopping = some false ∧ b'.draining = none) ∧
        (s.actionFor b 2 false = .drain → b'.stopping = none ∧ b'.draining = some s.clock)) ∧
    (s.sliceDue b = true →
      ∃ t b', exec (.sliceExpire core slot) s = .next t ∧ t.block? ⟨core, slot, 0⟩ = some b' ∧ b'.expired = true ∧ t.mem = s.mem ∧
        ∀ k w, spFind b.waves k = some w → w.live ≠ 0 → w.yieldSig = none → (t.wave ⟨core, slot, k⟩).tcause.getLsbD 19 = true) ∧
    (∀ t0, b.offered = some t0 → t0 / 2 < s.dclk →
      (∀ x ∈ s.cands (dieOf core), lexLess x.rank2 [1000 - b.prio, (s.sliceDeadline b t0).getD noDeadline] = true →
        (s.chosenCore x (s.clearedBy (dieOf core))).isNone = false) →
      ∃ t b', exec (.sliceContinue core slot) s = .next t ∧ t = { s with blocks := t.blocks } ∧ t.block? ⟨core, slot, 0⟩ = some b' ∧
        b'.offered = none ∧ b'.sliceUsed = 0 ∧ b'.sliceFrom = none ∧ b'.expired = false ∧ b'.waves = b.waves)) ∧
  (∀ (s : State) (die k stage : Nat) (high : Bool) (b : Block), (s.readyRings die).nextMove die = some (k, stage, high, b) →
    spGet 0 s.ladleNext die ≤ s.dclk → s.block? ⟨b.core, b.slot, 0⟩ = some b →
    ∃ t b', exec (.ladleMove die) s = .next t ∧ t = { s with blocks := t.blocks, stageqs := t.stageqs, ladleNext := t.ladleNext } ∧
      spGet 0 t.ladleNext die = s.dclk + 128 ∧
      t.block? ⟨b.core, b.slot, 0⟩ = some b' ∧ b'.stage = some stage ∧ b'.events = b.events ++ [BitVec.ofNat 64 (6 * 65536 + stage)] ∧
      (t.stageq k).moves = ((s.readyRings die).stageq k).moves.erase (b.uid, high)) ∧
  (∀ (s : State) (core : Nat) (m : Message), (spGet [] s.msgq core).length < 64 → s.messageBehind core m = false →
    ∃ t, exec (.amArrive core m) s = .next t ∧ t = { s with msgq := t.msgq } ∧
      spGet [] t.msgq core = spGet [] s.msgq core ++ [{ m with level := 0, since := s.clock, came := s.clock }])

/-- A bank refreshes when it is due and is free after 240 channel cycles; a request takes a place in its class's queue
with its deadline; a column slot chooses a request, gives it up where it is no longer ready, has its row command
granted, or its column command, which serves it; a burst that fails counts at its pseudo-channel, and a write that is
abandoned at last marks it failed; a new error window starts the die's counts at zero; a cold start leaves no block,
launch, operation or lock and stacks of zeros, keeps host memory, and fails where firmware does not verify; one that a
reset cuts before step 6 has ended makes the next start cold; a warm reset keeps memory, poison and, where no unit is
retired, the remap table; a thermal trip stops the part; a quote of a 32-byte nonce is added. (That every package
register is at its default after a warm reset, that a start is one step and keeps host memory, that it may be cut by
an input, which request a slot chooses, when a row command goes first, how a quote is laid out, and that HEALTH is
quoted as the start left it are the model's choices and readings: log 44, 48, 42, 102, 7 and 101.)
(R403, R404, R405, R406, R409, R416, R417, R418, R419.) -/
def Obligations.PartSteps : Prop :=
  (∀ (s : State) (pc bank : Nat), pc < 1024 → bank < 32 → spFind (s.channel pc).refresh bank = none →
    spGet 0 (s.channel pc).lastRef bank + 3900 ≤ s.cclk →
    ∃ t, exec (.bankRefresh pc bank) s = .next t ∧ t = { s with channels := t.channels } ∧
      spFind (t.channel pc).refresh bank = some s.cclk ∧ (t.channel pc).queues = (s.channel pc).queues) ∧
  (∀ (s : State) (pc bank t0 : Nat), spFind (s.channel pc).refresh bank = some t0 → t0 + 240 ≤ s.cclk →
    ∃ t, exec (.refreshEnd pc bank) s = .next t ∧ t = { s with channels := t.channels } ∧ spFind (t.channel pc).refresh bank = none) ∧
  (∀ (s : State) (pc : Nat) (r : ChanReq), pc < 1024 → r.cls < (s.channel pc).queues.length → r.cls < 4 →
    ((s.channel pc).queues.getD r.cls []).length < 32 →
    ∃ t, exec (.channelRequestArrive pc r) s = .next t ∧ t = { s with channels := t.channels } ∧
      (t.channel pc).queues.getD r.cls [] = (s.channel pc).queues.getD r.cls [] ++
        [(r, s.cclk, s.cclk + if r.budget = 0 then 65535 else r.budget)]) ∧
  (∀ (s : State) (pc : Nat) (e : ChanReq × Nat × Nat), s.arrayErrors pc = s →
    ((s.channel pc).chosen = none → s.slotChoice pc = some e →
      ∃ t, exec (.columnSlot pc) s = .next t ∧ t = { s with channels := t.channels } ∧ (t.channel pc).chosen = some e ∧
        ((t.channel pc).row.pending = some s.cclk ∨ (t.channel pc).col.pending = some s.cclk) ∧
        (t.channel pc).slot = (s.channel pc).slot ∧ (t.channel pc).queues = (s.channel pc).queues) ∧
    ((s.channel pc).chosen = some e → s.readyReq pc e.1 = false →
      ∃ t, exec (.columnSlot pc) s = .next t ∧ t = { s with channels := t.channels } ∧ (t.channel pc).chosen = none ∧
        (t.channel pc).row.pending = none ∧ (t.channel pc).col.pending = none ∧ (t.channel pc).queues = (s.channel pc).queues) ∧
    ((s.channel pc).chosen = some e → s.readyReq pc e.1 = true → s.busGrants pc Channel.row = true →
      ∃ t, exec (.columnSlot pc) s = .next t ∧ t = { s with channels := t.channels } ∧ (t.channel pc).chosen = some e ∧
        (t.channel pc).row = ⟨none, some s.cclk⟩ ∧ (t.channel pc).col.pending = some s.cclk) ∧
    ((s.channel pc).chosen = some e → s.readyReq pc e.1 = true → s.busGrants pc Channel.row = false → s.busGrants pc Channel.col = true →
      ∃ t, exec (.columnSlot pc) s = .next t ∧ (t.channel pc).slot = (s.channel pc).slot + 1 ∧ (t.channel pc).chosen = none ∧
        (t.channel pc).col = ⟨none, some s.cclk⟩ ∧ (t.channel pc).queues = (s.channel pc).queues.map (fun q => q.erase e) ∧
        t = { s with channels := t.channels, ports := t.ports, flowsSent := t.flowsSent })) ∧
  (∀ (s : State) (pc : Nat) (b : Burst), pc < 1024 →
    (b.failures < 9 → ∃ t, exec (.stackCrcError pc b) s = .next t ∧ t.mem = s.mem ∧ t.blocks = s.blocks ∧
      t.dieR (pc / 128) (0x380 + pc % 128) = satField (s.dieR (pc / 128) (0x380 + pc % 128)) 0) ∧
    (9 ≤ b.failures → b.read = false → ∃ t, exec (.stackCrcError pc b) s = .next t ∧ (t.channel pc).failed = true ∧ t.blocks = s.blocks)) ∧
  (∀ (s : State) (die : Nat), spGet 0 s.windows die ≠ s.windowNow die →
    ∃ t, exec (.errorWindowExpire die) s = .next t ∧ t = { s with errors := t.errors, windows := t.windows } ∧
      spGet 0 t.windows die = s.windowNow die ∧ (∀ e ∈ t.errors, e.1 / 4096 % 16 ≠ die) ∧
      ∀ e ∈ s.errors, e.1 / 4096 % 16 ≠ die → e ∈ t.errors) ∧
  (∀ (s : State) (x : StartInput),
    (∀ n, x.cut = some n → n ≤ 6 → ∃ t, exec (.coldStart x) s = .next t ∧ t.power ≠ .running ∧ t.nextCold = true) ∧
    (StartInput.ends x 2 = true → measure x.images 0 noMeasures = none →
      ∃ t, exec (.coldStart x) s = .next t ∧ t.power = .failed ∧ t.nextCold = true ∧ t.blocks = [] ∧ t.launches = []) ∧
    (∀ ms, (∀ n, x.cut = some n → 6 < n) → measure x.images 0 noMeasures = some ms → x.badStacks = [] → x.badLinks = [] →
      ∃ t, exec (.coldStart x) s = .next t ∧ t.measures = ms ∧ t.blocks = [] ∧ t.launches = [] ∧ t.ops = [] ∧ t.locks = [] ∧
        t.running = [] ∧ t.poison = [] ∧ t.retiredU = [] ∧ (∀ a, a < stackBytes → spGet 0 t.mem a = 0) ∧
        (∀ a, stackBytes ≤ a → spGet 0 t.mem a = spGet 0 s.mem a) ∧ t.queues = [] ∧ t.quotes = s.quotes ∧ t.starts = s.starts + 1) ∧
    (∀ ms, s.nextCold = false → (∀ n, x.cut = some n → 6 < n) → measure x.images 0 noMeasures = some ms → x.badStacks = [] → x.badLinks = [] →
      ∃ t, exec (.warmReset x) s = .next t ∧ t.measures = ms ∧ t.mem = s.mem ∧ t.poison = s.poison ∧ t.retiredU = s.retiredU ∧
        t.blocks = [] ∧ t.launches = [] ∧ t.replicas = [] ∧ t.digests = [] ∧ t.held = [] ∧ t.icache = [] ∧
        (s.retiredU = [] → ∀ d i, i < 512 → t.dieR d (0x800 + i) = s.dieR d (0x800 + i)) ∧ ∀ n, t.pkgR n = pkgDefault n)) ∧
  (∀ (s : State) (die : Nat), ∃ t, exec (.thermalTrip die) s = .next t ∧ t.power = .stopped ∧ t.nextCold = true ∧ t.running = [] ∧
    t = { s with power := t.power, nextCold := t.nextCold, running := t.running }) ∧
  (∀ (s : State) (nonce : List Byte), nonce.length = 32 → ∃ t q, exec (.attestationQuote nonce) s = .next t ∧ t = { s with quotes := s.quotes ++ [q] } ∧
    (∃ rest, q = s.measures.flatten ++ nonce ++ rest))

/-- An output that one head asks for grants it and remembers the grant, and a packet for a port of the die appears at its
output; a switch lets a packet for another package leave; a head that has waited 16,384 cycles moves to the escape
channel of its port without its turns; a packet of an unordered class, and the expected one of an ordered flow, is
accepted, a request taking its entry at its pseudo-channel and a missed deadline being counted, an early one waits; a
good flit in sequence is accepted, a bad one is counted as a CRC error of its link and named in a NAK; the eighth NAK
in succession retrains a link, and a failed retraining retires it. (That the reorder buffer's bound is kept where a
packet is granted to the port and not where it is delivered, that a NAK is an agenda item of its own, and that the
receiving end counts, are the model's readings: log 51, 50 and 53.)
(R387, R392, R394, R395, R400, R401, R403, R408.) -/
def Obligations.FabricSteps : Prop :=
  (∀ (s : State) (die port lane : Nat) (h : Head) (p : Packet) (det : Bool), s.outLane die port = some lane → s.asking die port = [h] →
    s.wants die port h = some (.arrive, p, det) → wide port = false → port < 212 →
    ∃ t, exec (.crossbarGrant die port) s = .next t ∧
      spGet [] t.lrg (die * 256 + port) = (spGet [] s.lrg (die * 256 + port)).filter (· != inputNo port h) ++ [inputNo port h] ∧
      (t.lane (laneKey die port lane)).output = (s.lane (laneKey die port lane)).output ++ [p] ∧ t.mem = s.mem ∧ t.blocks = s.blocks ∧
      t.links = s.links ∧ t.switches = s.switches) ∧
  (∀ (s : State) (plane tier sw : Nat) (h : SwitchHead), plane < 18 → 1 ≤ tier → tier < 4 → sw < 1024 →
    s.switchHeads plane tier sw = [h] → (switchHop tier sw h.p.dstFab).1 = 0 → h.p.dstFab ≠ s.ownFab →
    ∃ t, exec (.switchForward plane tier sw) s = .next t ∧ t = { s with switches := t.switches } ∧
      t.switch (switchPort (switchKey plane tier sw) h.port) =
        (s.switch (switchPort (switchKey plane tier sw) h.port)).leave s.dclk h.cls h.esc) ∧
  (∀ (s : State) (key port k c : Nat) (p : Packet), c < 4 → port < 64 → k = switchPort key port → (s.switch k).moves s.dclk c = true →
    ((s.switch k).normal.getD c []).head? = some p → c < (s.switch k).escape.length →
    ∃ t, exec (.escapeMove (16 + key) port c) s = .next t ∧ t = { s with switches := t.switches } ∧
      (t.switch k).normal.getD c [] = ((s.switch k).normal.getD c []).tail ∧
      (t.switch k).escape.getD c [] = (s.switch k).escape.getD c [] ++ [{ p with esc := true, turns := [] }]) ∧
  (∀ (s : State) (die port : Nat) (p : Packet) (rest : List Packet), (s.lane (laneKey die port 0)).output = p :: rest →
    (∀ u, (p.load = .other ∨ p.load = .answer false) ∧ u = s ∨ (∃ pc r, p.load = .request (some pc) r ∧ u = s.requestArrive pc r) →
      (ordered p.cls = false → ∃ t, exec (.packetDeliver die port) s = .next t ∧ t = { u with ports := t.ports } ∧
        (t.lane (laneKey die port 0)).output = rest ∧ (t.lane (laneKey die port 0)).hold = (s.lane (laneKey die port 0)).hold) ∧
      (ordered p.cls = true → p.seq = spGet 0 s.flows (flowOf p) → (s.lane (laneKey die port 0)).hold = [] →
        ∃ t, exec (.packetDeliver die port) s = .next t ∧ t = { u with ports := t.ports, flows := t.flows } ∧
          (t.lane (laneKey die port 0)).output = rest ∧ spGet 0 t.flows (flowOf p) = (p.seq + 1) % 65536)) ∧
    (p.load = .answer true → ordered p.cls = false →
      ∃ t, exec (.packetDeliver die port) s = .next t ∧ (t.lane (laneKey die port 0)).output = rest ∧
        t.dieR die (0x240 + port) = satAdd (s.dieR die (0x240 + port)) 1) ∧
    (ordered p.cls = true → p.seq ≠ spGet 0 s.flows (flowOf p) →
      ∃ t, exec (.packetDeliver die port) s = .next t ∧ t = { s with ports := t.ports } ∧
        (t.lane (laneKey die port 0)).output = rest ∧ (t.lane (laneKey die port 0)).hold = (s.lane (laneKey die port 0)).hold ++ [p])) ∧
  (∀ (s : State) (x : Nat) (f : Flit), x < 196 → (s.link x).retrain = false → (s.link x).retired = false →
    (f.crcOk = true → f.seq = (s.link x).expectSeq → f.packet = none → f.ackValid = false → f.nak = false →
      ∃ t, exec (.linkFlitReceive x f) s = .next t ∧ t = { s with links := t.links } ∧
        t.link x = { (s.link x) with expectSeq := ((s.link x).expectSeq + 1) % 1024 }) ∧
    (f.crcOk = false → ∃ t, exec (.linkFlitReceive x f) s = .next t ∧ Instr.linkNak x (s.link x).expectSeq ∈ t.agenda ∧
      (x < 160 → t.dieR (x / 16) (0x320 + x % 16) = satField (s.dieR (x / 16) (0x320 + x % 16)) 0) ∧
      (160 ≤ x → t.pkgR (0x4A0 + (x - 160) % 18) = satField (s.pkgR (0x4A0 + (x - 160) % 18)) 0) ∧
      t = { s with agenda := t.agenda, dieReg := t.dieReg, pkgReg := t.pkgReg })) ∧
  (∀ (s : State) (x seq : Nat), x < 196 → (s.link x).retrain = false → (s.link x).retired = false →
    (∃ f ∈ (s.link x).sent, f.seq = seq) → (s.link x).nakSeq = seq → 7 ≤ (s.link x).naks →
    ∃ t ok, exec (.linkNak x seq) s = .next t ∧ (t.link x).retrain = true ∧ Instr.linkRetrainEnd x ok ∈ t.agenda) ∧
  (∀ (s : State) (x : Nat), (s.link x).retrain = true →
    (∃ t, exec (.linkRetrainEnd x true) s = .next t ∧ (t.link x).retrain = false ∧ (t.link x).naks = 0 ∧ t.mem = s.mem) ∧
    ((∀ f ∈ (s.link x).sent, f.packet = none) →
      ∃ t, exec (.linkRetrainEnd x false) s = .next t ∧ (t.link x).retired = true ∧ (t.link x).retrain = false ∧ (t.link x).sent = []))

/-- The worked words of the spec decode to the instructions that they stand for, field by field: VADD with a saturating,
an indirect, a scalar, a Trivet and a special operand and with control fields, VADDI, VMOVI, VCMP, VSEL, SADD, LD,
FEXP, FENCE, SQPUSH.com, BRA, MEET with a register, TMMA with a map, SQRY, XRED and SYSRD; fewer than eight bytes are
no word.
(R130, R131, R140, R143, R216.) -/
def Obligations.DecodeWords : Prop :=
  decode (bytesOfNat 8 0x0043CFE0040200C9) = .ok (.vadd ⟨⟨0, 15, 0, 127, 0⟩, 1, 2, 3, 9⟩, []) ∧
  decodeWord 0x0043CFE01E230241 = .vadd ⟨⟨0, 15, 0, 127, 0⟩, 7, 0x223, 9, 1⟩ ∧
  decodeWord 0x0043CFE01C05A301 = .vadd ⟨⟨0, 15, 0, 127, 0⟩, 7, 5, 0x28C, 1⟩ ∧
  decodeWord 0x0043CFE01F010241 = .vadd ⟨⟨0, 15, 0, 127, 0⟩, 7, 0x301, 9, 1⟩ ∧
  decodeWord 0x0043CFE01C05E041 = .vadd ⟨⟨0, 15, 0, 127, 0⟩, 7, 5, 0x381, 1⟩ ∧
  decodeWord 0x004C90B01C050241 = .vadd ⟨⟨3, 2, 1, 5, 1⟩, 7, 5, 9, 1⟩ ∧
  decodeWord 0x0343CFE01C0503E8 = .vaddi ⟨⟨0, 15, 0, 127, 0⟩, 7, 5, 1000⟩ ∧
  decodeWord 0x0A83CFE33F800000 = .vmovi ⟨⟨0, 15, 0, 127, 0⟩, 3, 0x3F800000⟩ ∧
  decodeWord 0x0803CFE00C0AE012 = .vcmp ⟨⟨0, 15, 0, 127, 0⟩, 3, 10, 0x380, 0x12⟩ ∧
  decodeWord 0x0A03CFE02C0501A8 = .vsel ⟨⟨0, 15, 0, 127, 0⟩, 11, 5, 6, 40⟩ ∧
  decodeWord 0x2003CFEA2A8BA305 = .sadd ⟨⟨0, 15, 0, 127, 0⟩, 0x28A, 0x28B, 0x28C, 5⟩ ∧
  decodeWord 0x40004FE02A840084 = .ld ⟨⟨0, 1, 0, 127, 0⟩, 10, 0x284, 2, 4⟩ ∧
  decodeWord 0x4403CFEA22890000 = .fexp ⟨⟨0, 15, 0, 127, 0⟩, 0x288, 0x289, 0, 0⟩ ∧
  decodeWord 0x6003CFEA08000003 = .fence ⟨⟨0, 15, 0, 127, 0⟩, 0x282, 0, 0, 3⟩ ∧
  decodeWord 0x6343CFE0028DA3C3 = .sqpushCom ⟨⟨0, 15, 0, 127, 0⟩, 0, 0x28D, 0x28F, 3⟩ ∧
  decodeWord 0x7043CFE0FFFFFFFD = .bra ⟨⟨0, 15, 0, 127, 0⟩, 0, 0xFFFFFFFD⟩ ∧
  decodeWord 0x7183CFE680000000 = .meetRegister ⟨⟨0, 15, 0, 127, 0⟩, 6, 0x80000000⟩ ∧
  decodeWord 0x8083CFE008002040 = .tmma ⟨⟨0, 15, 0, 127, 0⟩, 2, 0, 0x81, 0⟩ ∧
  decodeWord 0xA000CFE002850800 = .sqry ⟨⟨0, 3, 0, 127, 0⟩, 0, 0x285, 0x20, 0⟩ ∧
  decodeWord 0xA800CFE002840000 = .xred ⟨⟨0, 3, 0, 127, 0⟩, 0, 0x284, 0, 0⟩ ∧
  decodeWord 0xB003CFEA12850000 = .sysrd ⟨⟨0, 15, 0, 127, 0⟩, 0x284, 0x285, 0, 0⟩ ∧
  decodeWord 0 = .illegal 0 ∧
  ∀ bs : List Byte, bs.length < 8 → decode bs = .error .truncated

/-- For every well-formed instruction that has a word, decoding the eight bytes of its word, whatever stands behind them,
gives that instruction back with every field at every value, and leaves what stands behind; every well-formed
instruction has a word; every 64-bit word encodes back to itself; and a word whose opcode is not assigned decodes to
ILLEGAL.
(R124, R130, R131, R140, R143, R144.) -/
def Obligations.DecodeEncodeAgree : Prop :=
  (∀ (i : Instr) (rest : List Byte), i.wf = true →
    ∃ w, encode i = some w ∧ decode (bytesOfNat 8 w.toNat ++ rest) = .ok (i, rest)) ∧
  (∀ w : W64, encode (decodeWord w) = some w) ∧
  (∀ w : W64, opcodeAssigned (opcodeOf w).toNat = false ↔ decodeWord w = .illegal w)

/-- When a wave in its issue slot is the one that moves and the bytes at its next word, in the line that its core's
instruction cache holds, decode to an instruction, the step is that instruction's run in the state with the wave in
the slot and time passed; a fetch that answers a word without a line is decoded alike. Around it a step changes only
the clock and the step count, the wave in the slot, the waiting times of waves, the order of the cache lines, and the
packets that enter the fabric with the numbers of their flows. A step of the device or an item of the agenda runs with
time passed and its packets sent, the item gone; where nothing may move, only time passes. (Which of several agents
moves, and what time elapses, is free: log 1 and 2.)
(R124, R214, R377, R4.) -/
def Obligations.StepRunsDecoded : Prop :=
  (∀ (s : State) (id : WaveId) (b : Block) (l : Launch) (n : ILine) (i : Instr) (rest : List Byte),
    s.taken = some (.wave id) → s.block? id = some b → s.launchOf b = some l →
    s.heldLine id.core l.asid l.tenant ((s.wave id).wordAddr.toNat / 64) = some n →
    decode (n.data.drop ((s.wave id).wordAddr.toNat % 64)) = .ok (i, rest) →
    step s = exec i (s.moment (.wave id))) ∧
  (∀ (s : State) (id : WaveId) (w : W64), s.taken = some (.wave id) → s.fetchFor id (s.wave id).wordAddr = .word w →
    step s = exec (decodeWord w) (s.moment (.wave id))) ∧
  (∀ (s : State) (id : WaveId), ∃ bl ic po fl, s.moment (.wave id) = { s with
      tick := s.tick + 1, clock := s.clock + 1 + Config.elapsed s.tick, cur := id, blocks := bl, icache := ic, ports := po, flowsSent := fl } ∧
    (∀ x, x ∈ ic ↔ x ∈ s.icache) ∧ bl = (s.passTime).blocks) ∧
  (∀ (s : State) (i : Instr), s.taken = some (.event i) → step s = exec i (s.moment (.event i))) ∧
  (∀ (s : State) (k : Nat) (i : Instr), s.taken = some (.item k i) → step s = exec i (s.moment (.item k i))) ∧
  (∀ (s : State) (i : Instr), ∃ po fl, s.moment (.event i) = { s.passTime with ports := po, flowsSent := fl }) ∧
  (∀ (s : State) (k : Nat) (i : Instr), ∃ po fl, s.moment (.item k i) =
    { ({ s with agenda := s.agenda.eraseIdx k } : State).passTime with ports := po, flowsSent := fl }) ∧
  (∀ s : State, s.taken = none → step s = .next s.passTime)

/-- Every step from every state answers a next state: each instruction and each step of the device has its effect, takes
its cause or waits, and none stops the machine.
(R232, R413.) -/
def Obligations.EveryStepGoesOn : Prop :=
  ∀ s : State, s.GoesOn

/-- If home memory lists its bytes at strictly rising addresses, none of them zero, and a step answers a next state, then
memory of that state has the same form, whatever instruction or device step ran.
(R416, R101, R420.) -/
def Obligations.StepKeepsMemoryCanonical : Prop :=
  ∀ s t : State, s.MemoryCanonical → step s = .next t → t.MemoryCanonical

/-- After reset memory is in its canonical form and every byte reads zero; the remap table maps each logical core to the
physical core of its number; the widest policy stands for the host function and the package's for the others; tenant 0
has every core and no other tenant has one; no block, launch, operation, lock, queue, phaser, held translation or
cache line exists, no unit is poisoned or retired, and every other system register of cores, dies and the package is
zero. (That an unlisted byte of memory, host memory among it, reads zero, and that a register whose reset the spec
does not state is zero, is the model's choice: log 5 and 9.)
(R329, R385, R411, R416.) -/
def Obligations.ResetState : Prop :=
  State.reset.MemoryCanonical ∧ (∀ pa, State.reset.readByte pa = 0) ∧
  (∀ d i, i < 512 → State.reset.dieR d (0x800 + i) = 0x8000 ||| BitVec.ofNat 64 i) ∧
  State.reset.pkgR 0x400 = 6 ∧ (∀ f, 0 < f → f < 64 → State.reset.pkgR (0x400 + f) = 4) ∧
  State.reset.partFirst 0 = 0 ∧ State.reset.partCount 0 = 512 ∧ (∀ t, 0 < t → t < 16 → State.reset.partCount t = 0) ∧
  (∀ core n, State.reset.coreR core n = 0) ∧ (∀ d n, n < 0x800 ∨ 0xA00 ≤ n → State.reset.dieR d n = 0) ∧
  (∀ n, n < 0x400 ∨ (0x440 ≤ n ∧ n ≠ 0x490) → State.reset.pkgR n = 0) ∧ State.reset.pkgR 0x490 = 0x2000000 ∧
  State.reset.blocks = [] ∧ State.reset.saved = [] ∧ State.reset.launches = [] ∧ State.reset.ops = [] ∧ State.reset.locks = [] ∧
  State.reset.queues = [] ∧ State.reset.phasers = [] ∧ State.reset.held = [] ∧ State.reset.icache = [] ∧ State.reset.poison = [] ∧
  State.reset.retiredU = [] ∧ State.reset.power = .running
end

