-- ==== Sys2Proof/Laws/Sparse.lean ====
section
/-! SUPPORT. What reading and writing a sparse map do: a read after a write, and the canonical form that writes keep. -/

namespace Sys2Proof.Machine

open Sys2Proof

variable {α : Type}

/-! ### Reads after writes -/

theorem spGet_eq_spFind (d : α) (m : Sparse α) (k : Nat) : spGet d m k = (spFind m k).getD d := by
  induction m with
  | nil => rfl
  | cons e t ih => simp only [spGet, spFind]; split <;> simp [ih]

theorem spFind_spPut (m : Sparse α) (k j : Nat) (v : α) :
    spFind (spPut m k v) j = if k = j then some v else spFind m j := by
  induction m with
  | nil => simp [spPut, spFind]
  | cons e t ih =>
    obtain ⟨k', v'⟩ := e
    simp only [spPut]
    split
    · simp [spFind]
    · split
      · rename_i h; subst h; simp only [spFind]; split <;> simp_all
      · simp only [spFind, ih]; split <;> split <;> simp_all

theorem spFind_spDel (m : Sparse α) (k j : Nat) :
    spFind (spDel m k) j = if k = j then none else spFind m j := by
  induction m with
  | nil => simp [spDel, spFind]
  | cons e t ih =>
    obtain ⟨k', v'⟩ := e
    simp only [spDel] at ih ⊢
    by_cases hk : k' = k
    · subst hk
      simp only [List.filter_cons, bne_self_eq_false, Bool.false_eq_true, if_false, ih, spFind]
      split <;> simp_all
    · simp only [List.filter_cons, bne_iff_ne.mpr hk, if_true, spFind, ih]
      split <;> split <;> simp_all

/-- A read after a write: the value written at its key, the old value at every other. -/
theorem spGet_spSet [DecidableEq α] (d : α) (m : Sparse α) (k j : Nat) (v : α) :
    spGet d (spSet d m k v) j = if k = j then v else spGet d m j := by
  simp only [spGet_eq_spFind, spSet]
  split
  · rw [spFind_spDel]; split <;> simp_all
  · rw [spFind_spPut]; split <;> simp

@[simp] theorem spGet_spSet_same [DecidableEq α] (d : α) (m : Sparse α) (k : Nat) (v : α) :
    spGet d (spSet d m k v) k = v := by simp [spGet_spSet]

theorem spGet_spSet_other [DecidableEq α] (d : α) (m : Sparse α) {k j : Nat} (v : α) (h : k ≠ j) :
    spGet d (spSet d m k v) j = spGet d m j := by simp [spGet_spSet, h]

/-- Changing a listed value. -/
theorem spFind_spMod (m : Sparse α) (k j : Nat) (f : α → α) :
    spFind (spMod m k f) j = if k = j then (spFind m j).map f else spFind m j := by
  induction m with
  | nil => simp [spMod, spFind]
  | cons e t ih =>
    obtain ⟨k', v'⟩ := e
    simp only [spMod, List.map_cons] at ih ⊢
    by_cases hk : k' = k
    · subst hk; simp only [if_true, spFind, ih]; split <;> simp_all
    · simp only [hk, if_false, spFind, ih]; split <;> split <;> simp_all

/-! ### The canonical form -/

theorem spSorted_iff (m : Sparse α) : spSorted m = true ↔ m.Pairwise (fun a b => a.1 < b.1) := by
  induction m with
  | nil => simp [spSorted]
  | cons e t ih =>
    cases t with
    | nil => simp [spSorted]
    | cons e' t' =>
      obtain ⟨k, v⟩ := e
      obtain ⟨k', v'⟩ := e'
      simp only [spSorted, Bool.and_eq_true, decide_eq_true_eq, ih, List.pairwise_cons (a := (k, v))]
      constructor
      · rintro ⟨h, hp⟩
        refine ⟨fun b hb => ?_, hp⟩
        rcases List.mem_cons.mp hb with rfl | hb
        · exact h
        · exact Nat.lt_trans h ((List.pairwise_cons.mp hp).1 b hb)
      · rintro ⟨h, hp⟩
        exact ⟨h _ (List.mem_cons_self ..), hp⟩

theorem spSorted_filter {m : Sparse α} (h : spSorted m = true) (p : Nat × α → Bool) : spSorted (m.filter p) = true := by
  rw [spSorted_iff] at h ⊢
  exact h.filter p

theorem spWf_iff [DecidableEq α] (d : α) (m : Sparse α) :
    spWf d m = true ↔ m.Pairwise (fun a b => a.1 < b.1) ∧ ∀ e ∈ m, e.2 ≠ d := by
  simp [spWf, spSorted_iff]

theorem spWf_filter [DecidableEq α] {d : α} {m : Sparse α} (h : spWf d m = true) (p : Nat × α → Bool) :
    spWf d (m.filter p) = true := by
  rw [spWf_iff] at h ⊢
  exact ⟨h.1.filter p, fun e he => h.2 e (List.mem_filter.mp he).1⟩

theorem spWf_spDel [DecidableEq α] {d : α} {m : Sparse α} (h : spWf d m = true) (k : Nat) : spWf d (spDel m k) = true :=
  spWf_filter h _

theorem mem_spPut {m : Sparse α} {k : Nat} {v : α} {e : Nat × α} (h : e ∈ spPut m k v) : e = (k, v) ∨ e ∈ m := by
  induction m with
  | nil => simpa [spPut] using h
  | cons e' t ih =>
    obtain ⟨k', v'⟩ := e'
    simp only [spPut] at h
    split at h
    · simpa using h
    · split at h
      · rcases List.mem_cons.mp h with h | h
        · exact .inl h
        · exact .inr (List.mem_cons_of_mem _ h)
      · rcases List.mem_cons.mp h with h | h
        · exact .inr (h ▸ List.mem_cons_self ..)
        · exact (ih h).imp_right (List.mem_cons_of_mem _)

theorem spPut_pairwise {m : Sparse α} (h : m.Pairwise (fun a b => a.1 < b.1)) (k : Nat) (v : α) :
    (spPut m k v).Pairwise (fun a b => a.1 < b.1) := by
  induction m with
  | nil => simp [spPut]
  | cons e t ih =>
    obtain ⟨k', v'⟩ := e
    rw [List.pairwise_cons] at h
    simp only [spPut]
    split
    · rename_i hlt
      refine List.pairwise_cons.mpr ⟨fun b hb => ?_, List.pairwise_cons.mpr h⟩
      rcases List.mem_cons.mp hb with rfl | hb
      · exact hlt
      · exact Nat.lt_trans hlt (h.1 b hb)
    · split
      · rename_i heq
        subst heq
        exact List.pairwise_cons.mpr h
      · rename_i hnlt hne
        refine List.pairwise_cons.mpr ⟨fun b hb => ?_, ih h.2⟩
        rcases mem_spPut hb with rfl | hb
        · exact Nat.lt_of_le_of_ne (Nat.le_of_not_lt hnlt) (Ne.symm hne)
        · exact h.1 b hb

/-- A write keeps the canonical form. -/
theorem spWf_spSet [DecidableEq α] {d : α} {m : Sparse α} (h : spWf d m = true) (k : Nat) (v : α) :
    spWf d (spSet d m k v) = true := by
  unfold spSet
  split
  · exact spWf_spDel h k
  · rename_i hv
    rw [spWf_iff] at h ⊢
    refine ⟨spPut_pairwise h.1 k v, fun e he => ?_⟩
    rcases mem_spPut he with rfl | he
    · exact hv
    · exact h.2 e he

/-! ### Lanes -/

theorem mem_lanes32 {l : Nat} : l ∈ lanes32 ↔ l < 32 := by
  constructor
  · intro h; simp [lanes32] at h; omega
  · intro h; simp [lanes32]; omega

theorem mem_lanesOf {m : BitVec 32} {l : Nat} : l ∈ lanesOf m ↔ m.getLsbD l = true := by
  simp only [lanesOf, List.mem_filter, mem_lanes32, and_iff_right_iff_imp]
  exact fun h => BitVec.lt_of_getLsbD h

theorem lanes32_nodup : lanes32.Nodup := by decide

theorem lanesOf_nodup (m : BitVec 32) : (lanesOf m).Nodup := lanes32_nodup.filter _

end Sys2Proof.Machine
end

