-- ==== Sys2Proof/Laws/State.lean ====
section
/-! SUPPORT. One lemma per field of the state and named update: the fields an update leaves alone. -/

namespace Sys2Proof.Machine

open Sys2Proof

variable (s : State)

section
variable (id : WaveId) (f : Block → Block)

@[simp] theorem State.modBlock_tick : (s.modBlock id f).tick = s.tick := rfl
@[simp] theorem State.modBlock_clock : (s.modBlock id f).clock = s.clock := rfl
@[simp] theorem State.modBlock_cur : (s.modBlock id f).cur = s.cur := rfl
@[simp] theorem State.modBlock_agenda : (s.modBlock id f).agenda = s.agenda := rfl
@[simp] theorem State.modBlock_slots : (s.modBlock id f).slots = s.slots := rfl
@[simp] theorem State.modBlock_running : (s.modBlock id f).running = s.running := rfl
@[simp] theorem State.modBlock_mem : (s.modBlock id f).mem = s.mem := rfl
@[simp] theorem State.modBlock_poison : (s.modBlock id f).poison = s.poison := rfl
@[simp] theorem State.modBlock_saved : (s.modBlock id f).saved = s.saved := rfl
@[simp] theorem State.modBlock_frondGen : (s.modBlock id f).frondGen = s.frondGen := rfl
@[simp] theorem State.modBlock_nextUid : (s.modBlock id f).nextUid = s.nextUid := rfl
@[simp] theorem State.modBlock_launches : (s.modBlock id f).launches = s.launches := rfl
@[simp] theorem State.modBlock_nextLaunch : (s.modBlock id f).nextLaunch = s.nextLaunch := rfl
@[simp] theorem State.modBlock_hostGen : (s.modBlock id f).hostGen = s.hostGen := rfl
@[simp] theorem State.modBlock_devGen : (s.modBlock id f).devGen = s.devGen := rfl
@[simp] theorem State.modBlock_ops : (s.modBlock id f).ops = s.ops := rfl
@[simp] theorem State.modBlock_nextOp : (s.modBlock id f).nextOp = s.nextOp := rfl
@[simp] theorem State.modBlock_orphans : (s.modBlock id f).orphans = s.orphans := rfl
@[simp] theorem State.modBlock_ladleNext : (s.modBlock id f).ladleNext = s.ladleNext := rfl
@[simp] theorem State.modBlock_tileTurn : (s.modBlock id f).tileTurn = s.tileTurn := rfl
@[simp] theorem State.modBlock_locks : (s.modBlock id f).locks = s.locks := rfl
@[simp] theorem State.modBlock_phasers : (s.modBlock id f).phasers = s.phasers := rfl
@[simp] theorem State.modBlock_stageqs : (s.modBlock id f).stageqs = s.stageqs := rfl
@[simp] theorem State.modBlock_coreReg : (s.modBlock id f).coreReg = s.coreReg := rfl
@[simp] theorem State.modBlock_dieReg : (s.modBlock id f).dieReg = s.dieReg := rfl
@[simp] theorem State.modBlock_pkgReg : (s.modBlock id f).pkgReg = s.pkgReg := rfl
@[simp] theorem State.modBlock_journals : (s.modBlock id f).journals = s.journals := rfl
@[simp] theorem State.modBlock_msgq : (s.modBlock id f).msgq = s.msgq := rfl
@[simp] theorem State.modBlock_queues : (s.modBlock id f).queues = s.queues := rfl
@[simp] theorem State.modBlock_lastQueue : (s.modBlock id f).lastQueue = s.lastQueue := rfl
@[simp] theorem State.modBlock_nextRead : (s.modBlock id f).nextRead = s.nextRead := rfl
@[simp] theorem State.modBlock_channels : (s.modBlock id f).channels = s.channels := rfl
@[simp] theorem State.modBlock_ports : (s.modBlock id f).ports = s.ports := rfl
@[simp] theorem State.modBlock_lrg : (s.modBlock id f).lrg = s.lrg := rfl
@[simp] theorem State.modBlock_flows : (s.modBlock id f).flows = s.flows := rfl
@[simp] theorem State.modBlock_flowsSent : (s.modBlock id f).flowsSent = s.flowsSent := rfl
@[simp] theorem State.modBlock_switches : (s.modBlock id f).switches = s.switches := rfl
@[simp] theorem State.modBlock_links : (s.modBlock id f).links = s.links := rfl
@[simp] theorem State.modBlock_wingroups : (s.modBlock id f).wingroups = s.wingroups := rfl
@[simp] theorem State.modBlock_closes : (s.modBlock id f).closes = s.closes := rfl
@[simp] theorem State.modBlock_closesSent : (s.modBlock id f).closesSent = s.closesSent := rfl
@[simp] theorem State.modBlock_winArrivals : (s.modBlock id f).winArrivals = s.winArrivals := rfl
@[simp] theorem State.modBlock_nextGroup : (s.modBlock id f).nextGroup = s.nextGroup := rfl
@[simp] theorem State.modBlock_peers : (s.modBlock id f).peers = s.peers := rfl
@[simp] theorem State.modBlock_instances : (s.modBlock id f).instances = s.instances := rfl
@[simp] theorem State.modBlock_digests : (s.modBlock id f).digests = s.digests := rfl
@[simp] theorem State.modBlock_replicas : (s.modBlock id f).replicas = s.replicas := rfl
@[simp] theorem State.modBlock_held : (s.modBlock id f).held = s.held := rfl
@[simp] theorem State.modBlock_icache : (s.modBlock id f).icache = s.icache := rfl
@[simp] theorem State.modBlock_errors : (s.modBlock id f).errors = s.errors := rfl
@[simp] theorem State.modBlock_windows : (s.modBlock id f).windows = s.windows := rfl
@[simp] theorem State.modBlock_hwErrors : (s.modBlock id f).hwErrors = s.hwErrors := rfl
@[simp] theorem State.modBlock_retiredU : (s.modBlock id f).retiredU = s.retiredU := rfl
@[simp] theorem State.modBlock_badCores : (s.modBlock id f).badCores = s.badCores := rfl
@[simp] theorem State.modBlock_deaf : (s.modBlock id f).deaf = s.deaf := rfl
@[simp] theorem State.modBlock_healthAt : (s.modBlock id f).healthAt = s.healthAt := rfl
@[simp] theorem State.modBlock_worst : (s.modBlock id f).worst = s.worst := rfl
@[simp] theorem State.modBlock_power : (s.modBlock id f).power = s.power := rfl
@[simp] theorem State.modBlock_nextCold : (s.modBlock id f).nextCold = s.nextCold := rfl
@[simp] theorem State.modBlock_starts : (s.modBlock id f).starts = s.starts := rfl
@[simp] theorem State.modBlock_measures : (s.modBlock id f).measures = s.measures := rfl
@[simp] theorem State.modBlock_quotes : (s.modBlock id f).quotes = s.quotes := rfl
@[simp] theorem State.modBlock_msi : (s.modBlock id f).msi = s.msi := rfl
@[simp] theorem State.modBlock_room : (s.modBlock id f).room = s.room := rfl

end

section
variable (id : WaveId) (f : Wave → Wave)

@[simp] theorem State.modWave_tick : (s.modWave id f).tick = s.tick := rfl
@[simp] theorem State.modWave_clock : (s.modWave id f).clock = s.clock := rfl
@[simp] theorem State.modWave_cur : (s.modWave id f).cur = s.cur := rfl
@[simp] theorem State.modWave_agenda : (s.modWave id f).agenda = s.agenda := rfl
@[simp] theorem State.modWave_slots : (s.modWave id f).slots = s.slots := rfl
@[simp] theorem State.modWave_running : (s.modWave id f).running = s.running := rfl
@[simp] theorem State.modWave_mem : (s.modWave id f).mem = s.mem := rfl
@[simp] theorem State.modWave_poison : (s.modWave id f).poison = s.poison := rfl
@[simp] theorem State.modWave_saved : (s.modWave id f).saved = s.saved := rfl
@[simp] theorem State.modWave_frondGen : (s.modWave id f).frondGen = s.frondGen := rfl
@[simp] theorem State.modWave_nextUid : (s.modWave id f).nextUid = s.nextUid := rfl
@[simp] theorem State.modWave_launches : (s.modWave id f).launches = s.launches := rfl
@[simp] theorem State.modWave_nextLaunch : (s.modWave id f).nextLaunch = s.nextLaunch := rfl
@[simp] theorem State.modWave_hostGen : (s.modWave id f).hostGen = s.hostGen := rfl
@[simp] theorem State.modWave_devGen : (s.modWave id f).devGen = s.devGen := rfl
@[simp] theorem State.modWave_ops : (s.modWave id f).ops = s.ops := rfl
@[simp] theorem State.modWave_nextOp : (s.modWave id f).nextOp = s.nextOp := rfl
@[simp] theorem State.modWave_orphans : (s.modWave id f).orphans = s.orphans := rfl
@[simp] theorem State.modWave_ladleNext : (s.modWave id f).ladleNext = s.ladleNext := rfl
@[simp] theorem State.modWave_tileTurn : (s.modWave id f).tileTurn = s.tileTurn := rfl
@[simp] theorem State.modWave_locks : (s.modWave id f).locks = s.locks := rfl
@[simp] theorem State.modWave_phasers : (s.modWave id f).phasers = s.phasers := rfl
@[simp] theorem State.modWave_stageqs : (s.modWave id f).stageqs = s.stageqs := rfl
@[simp] theorem State.modWave_coreReg : (s.modWave id f).coreReg = s.coreReg := rfl
@[simp] theorem State.modWave_dieReg : (s.modWave id f).dieReg = s.dieReg := rfl
@[simp] theorem State.modWave_pkgReg : (s.modWave id f).pkgReg = s.pkgReg := rfl
@[simp] theorem State.modWave_journals : (s.modWave id f).journals = s.journals := rfl
@[simp] theorem State.modWave_msgq : (s.modWave id f).msgq = s.msgq := rfl
@[simp] theorem State.modWave_queues : (s.modWave id f).queues = s.queues := rfl
@[simp] theorem State.modWave_lastQueue : (s.modWave id f).lastQueue = s.lastQueue := rfl
@[simp] theorem State.modWave_nextRead : (s.modWave id f).nextRead = s.nextRead := rfl
@[simp] theorem State.modWave_channels : (s.modWave id f).channels = s.channels := rfl
@[simp] theorem State.modWave_ports : (s.modWave id f).ports = s.ports := rfl
@[simp] theorem State.modWave_lrg : (s.modWave id f).lrg = s.lrg := rfl
@[simp] theorem State.modWave_flows : (s.modWave id f).flows = s.flows := rfl
@[simp] theorem State.modWave_flowsSent : (s.modWave id f).flowsSent = s.flowsSent := rfl
@[simp] theorem State.modWave_switches : (s.modWave id f).switches = s.switches := rfl
@[simp] theorem State.modWave_links : (s.modWave id f).links = s.links := rfl
@[simp] theorem State.modWave_wingroups : (s.modWave id f).wingroups = s.wingroups := rfl
@[simp] theorem State.modWave_closes : (s.modWave id f).closes = s.closes := rfl
@[simp] theorem State.modWave_closesSent : (s.modWave id f).closesSent = s.closesSent := rfl
@[simp] theorem State.modWave_winArrivals : (s.modWave id f).winArrivals = s.winArrivals := rfl
@[simp] theorem State.modWave_nextGroup : (s.modWave id f).nextGroup = s.nextGroup := rfl
@[simp] theorem State.modWave_peers : (s.modWave id f).peers = s.peers := rfl
@[simp] theorem State.modWave_instances : (s.modWave id f).instances = s.instances := rfl
@[simp] theorem State.modWave_digests : (s.modWave id f).digests = s.digests := rfl
@[simp] theorem State.modWave_replicas : (s.modWave id f).replicas = s.replicas := rfl
@[simp] theorem State.modWave_held : (s.modWave id f).held = s.held := rfl
@[simp] theorem State.modWave_icache : (s.modWave id f).icache = s.icache := rfl
@[simp] theorem State.modWave_errors : (s.modWave id f).errors = s.errors := rfl
@[simp] theorem State.modWave_windows : (s.modWave id f).windows = s.windows := rfl
@[simp] theorem State.modWave_hwErrors : (s.modWave id f).hwErrors = s.hwErrors := rfl
@[simp] theorem State.modWave_retiredU : (s.modWave id f).retiredU = s.retiredU := rfl
@[simp] theorem State.modWave_badCores : (s.modWave id f).badCores = s.badCores := rfl
@[simp] theorem State.modWave_deaf : (s.modWave id f).deaf = s.deaf := rfl
@[simp] theorem State.modWave_healthAt : (s.modWave id f).healthAt = s.healthAt := rfl
@[simp] theorem State.modWave_worst : (s.modWave id f).worst = s.worst := rfl
@[simp] theorem State.modWave_power : (s.modWave id f).power = s.power := rfl
@[simp] theorem State.modWave_nextCold : (s.modWave id f).nextCold = s.nextCold := rfl
@[simp] theorem State.modWave_starts : (s.modWave id f).starts = s.starts := rfl
@[simp] theorem State.modWave_measures : (s.modWave id f).measures = s.measures := rfl
@[simp] theorem State.modWave_quotes : (s.modWave id f).quotes = s.quotes := rfl
@[simp] theorem State.modWave_msi : (s.modWave id f).msi = s.msi := rfl
@[simp] theorem State.modWave_room : (s.modWave id f).room = s.room := rfl

end

section
variable (n : Nat) (f : Block → Block)

@[simp] theorem State.modUid_tick : (s.modUid n f).tick = s.tick := rfl
@[simp] theorem State.modUid_clock : (s.modUid n f).clock = s.clock := rfl
@[simp] theorem State.modUid_cur : (s.modUid n f).cur = s.cur := rfl
@[simp] theorem State.modUid_agenda : (s.modUid n f).agenda = s.agenda := rfl
@[simp] theorem State.modUid_slots : (s.modUid n f).slots = s.slots := rfl
@[simp] theorem State.modUid_running : (s.modUid n f).running = s.running := rfl
@[simp] theorem State.modUid_mem : (s.modUid n f).mem = s.mem := rfl
@[simp] theorem State.modUid_poison : (s.modUid n f).poison = s.poison := rfl
@[simp] theorem State.modUid_saved : (s.modUid n f).saved = s.saved := rfl
@[simp] theorem State.modUid_frondGen : (s.modUid n f).frondGen = s.frondGen := rfl
@[simp] theorem State.modUid_nextUid : (s.modUid n f).nextUid = s.nextUid := rfl
@[simp] theorem State.modUid_launches : (s.modUid n f).launches = s.launches := rfl
@[simp] theorem State.modUid_nextLaunch : (s.modUid n f).nextLaunch = s.nextLaunch := rfl
@[simp] theorem State.modUid_hostGen : (s.modUid n f).hostGen = s.hostGen := rfl
@[simp] theorem State.modUid_devGen : (s.modUid n f).devGen = s.devGen := rfl
@[simp] theorem State.modUid_ops : (s.modUid n f).ops = s.ops := rfl
@[simp] theorem State.modUid_nextOp : (s.modUid n f).nextOp = s.nextOp := rfl
@[simp] theorem State.modUid_orphans : (s.modUid n f).orphans = s.orphans := rfl
@[simp] theorem State.modUid_ladleNext : (s.modUid n f).ladleNext = s.ladleNext := rfl
@[simp] theorem State.modUid_tileTurn : (s.modUid n f).tileTurn = s.tileTurn := rfl
@[simp] theorem State.modUid_locks : (s.modUid n f).locks = s.locks := rfl
@[simp] theorem State.modUid_phasers : (s.modUid n f).phasers = s.phasers := rfl
@[simp] theorem State.modUid_stageqs : (s.modUid n f).stageqs = s.stageqs := rfl
@[simp] theorem State.modUid_coreReg : (s.modUid n f).coreReg = s.coreReg := rfl
@[simp] theorem State.modUid_dieReg : (s.modUid n f).dieReg = s.dieReg := rfl
@[simp] theorem State.modUid_pkgReg : (s.modUid n f).pkgReg = s.pkgReg := rfl
@[simp] theorem State.modUid_journals : (s.modUid n f).journals = s.journals := rfl
@[simp] theorem State.modUid_msgq : (s.modUid n f).msgq = s.msgq := rfl
@[simp] theorem State.modUid_queues : (s.modUid n f).queues = s.queues := rfl
@[simp] theorem State.modUid_lastQueue : (s.modUid n f).lastQueue = s.lastQueue := rfl
@[simp] theorem State.modUid_nextRead : (s.modUid n f).nextRead = s.nextRead := rfl
@[simp] theorem State.modUid_channels : (s.modUid n f).channels = s.channels := rfl
@[simp] theorem State.modUid_ports : (s.modUid n f).ports = s.ports := rfl
@[simp] theorem State.modUid_lrg : (s.modUid n f).lrg = s.lrg := rfl
@[simp] theorem State.modUid_flows : (s.modUid n f).flows = s.flows := rfl
@[simp] theorem State.modUid_flowsSent : (s.modUid n f).flowsSent = s.flowsSent := rfl
@[simp] theorem State.modUid_switches : (s.modUid n f).switches = s.switches := rfl
@[simp] theorem State.modUid_links : (s.modUid n f).links = s.links := rfl
@[simp] theorem State.modUid_wingroups : (s.modUid n f).wingroups = s.wingroups := rfl
@[simp] theorem State.modUid_closes : (s.modUid n f).closes = s.closes := rfl
@[simp] theorem State.modUid_closesSent : (s.modUid n f).closesSent = s.closesSent := rfl
@[simp] theorem State.modUid_winArrivals : (s.modUid n f).winArrivals = s.winArrivals := rfl
@[simp] theorem State.modUid_nextGroup : (s.modUid n f).nextGroup = s.nextGroup := rfl
@[simp] theorem State.modUid_peers : (s.modUid n f).peers = s.peers := rfl
@[simp] theorem State.modUid_instances : (s.modUid n f).instances = s.instances := rfl
@[simp] theorem State.modUid_digests : (s.modUid n f).digests = s.digests := rfl
@[simp] theorem State.modUid_replicas : (s.modUid n f).replicas = s.replicas := rfl
@[simp] theorem State.modUid_held : (s.modUid n f).held = s.held := rfl
@[simp] theorem State.modUid_icache : (s.modUid n f).icache = s.icache := rfl
@[simp] theorem State.modUid_errors : (s.modUid n f).errors = s.errors := rfl
@[simp] theorem State.modUid_windows : (s.modUid n f).windows = s.windows := rfl
@[simp] theorem State.modUid_hwErrors : (s.modUid n f).hwErrors = s.hwErrors := rfl
@[simp] theorem State.modUid_retiredU : (s.modUid n f).retiredU = s.retiredU := rfl
@[simp] theorem State.modUid_badCores : (s.modUid n f).badCores = s.badCores := rfl
@[simp] theorem State.modUid_deaf : (s.modUid n f).deaf = s.deaf := rfl
@[simp] theorem State.modUid_healthAt : (s.modUid n f).healthAt = s.healthAt := rfl
@[simp] theorem State.modUid_worst : (s.modUid n f).worst = s.worst := rfl
@[simp] theorem State.modUid_power : (s.modUid n f).power = s.power := rfl
@[simp] theorem State.modUid_nextCold : (s.modUid n f).nextCold = s.nextCold := rfl
@[simp] theorem State.modUid_starts : (s.modUid n f).starts = s.starts := rfl
@[simp] theorem State.modUid_measures : (s.modUid n f).measures = s.measures := rfl
@[simp] theorem State.modUid_quotes : (s.modUid n f).quotes = s.quotes := rfl
@[simp] theorem State.modUid_msi : (s.modUid n f).msi = s.msi := rfl
@[simp] theorem State.modUid_room : (s.modUid n f).room = s.room := rfl

end

section
variable (n : Nat) (f : Launch → Launch)

@[simp] theorem State.modLaunch_tick : (s.modLaunch n f).tick = s.tick := rfl
@[simp] theorem State.modLaunch_clock : (s.modLaunch n f).clock = s.clock := rfl
@[simp] theorem State.modLaunch_cur : (s.modLaunch n f).cur = s.cur := rfl
@[simp] theorem State.modLaunch_agenda : (s.modLaunch n f).agenda = s.agenda := rfl
@[simp] theorem State.modLaunch_slots : (s.modLaunch n f).slots = s.slots := rfl
@[simp] theorem State.modLaunch_running : (s.modLaunch n f).running = s.running := rfl
@[simp] theorem State.modLaunch_mem : (s.modLaunch n f).mem = s.mem := rfl
@[simp] theorem State.modLaunch_poison : (s.modLaunch n f).poison = s.poison := rfl
@[simp] theorem State.modLaunch_blocks : (s.modLaunch n f).blocks = s.blocks := rfl
@[simp] theorem State.modLaunch_saved : (s.modLaunch n f).saved = s.saved := rfl
@[simp] theorem State.modLaunch_frondGen : (s.modLaunch n f).frondGen = s.frondGen := rfl
@[simp] theorem State.modLaunch_nextUid : (s.modLaunch n f).nextUid = s.nextUid := rfl
@[simp] theorem State.modLaunch_nextLaunch : (s.modLaunch n f).nextLaunch = s.nextLaunch := rfl
@[simp] theorem State.modLaunch_hostGen : (s.modLaunch n f).hostGen = s.hostGen := rfl
@[simp] theorem State.modLaunch_devGen : (s.modLaunch n f).devGen = s.devGen := rfl
@[simp] theorem State.modLaunch_ops : (s.modLaunch n f).ops = s.ops := rfl
@[simp] theorem State.modLaunch_nextOp : (s.modLaunch n f).nextOp = s.nextOp := rfl
@[simp] theorem State.modLaunch_orphans : (s.modLaunch n f).orphans = s.orphans := rfl
@[simp] theorem State.modLaunch_ladleNext : (s.modLaunch n f).ladleNext = s.ladleNext := rfl
@[simp] theorem State.modLaunch_tileTurn : (s.modLaunch n f).tileTurn = s.tileTurn := rfl
@[simp] theorem State.modLaunch_locks : (s.modLaunch n f).locks = s.locks := rfl
@[simp] theorem State.modLaunch_phasers : (s.modLaunch n f).phasers = s.phasers := rfl
@[simp] theorem State.modLaunch_stageqs : (s.modLaunch n f).stageqs = s.stageqs := rfl
@[simp] theorem State.modLaunch_coreReg : (s.modLaunch n f).coreReg = s.coreReg := rfl
@[simp] theorem State.modLaunch_dieReg : (s.modLaunch n f).dieReg = s.dieReg := rfl
@[simp] theorem State.modLaunch_pkgReg : (s.modLaunch n f).pkgReg = s.pkgReg := rfl
@[simp] theorem State.modLaunch_journals : (s.modLaunch n f).journals = s.journals := rfl
@[simp] theorem State.modLaunch_msgq : (s.modLaunch n f).msgq = s.msgq := rfl
@[simp] theorem State.modLaunch_queues : (s.modLaunch n f).queues = s.queues := rfl
@[simp] theorem State.modLaunch_lastQueue : (s.modLaunch n f).lastQueue = s.lastQueue := rfl
@[simp] theorem State.modLaunch_nextRead : (s.modLaunch n f).nextRead = s.nextRead := rfl
@[simp] theorem State.modLaunch_channels : (s.modLaunch n f).channels = s.channels := rfl
@[simp] theorem State.modLaunch_ports : (s.modLaunch n f).ports = s.ports := rfl
@[simp] theorem State.modLaunch_lrg : (s.modLaunch n f).lrg = s.lrg := rfl
@[simp] theorem State.modLaunch_flows : (s.modLaunch n f).flows = s.flows := rfl
@[simp] theorem State.modLaunch_flowsSent : (s.modLaunch n f).flowsSent = s.flowsSent := rfl
@[simp] theorem State.modLaunch_switches : (s.modLaunch n f).switches = s.switches := rfl
@[simp] theorem State.modLaunch_links : (s.modLaunch n f).links = s.links := rfl
@[simp] theorem State.modLaunch_wingroups : (s.modLaunch n f).wingroups = s.wingroups := rfl
@[simp] theorem State.modLaunch_closes : (s.modLaunch n f).closes = s.closes := rfl
@[simp] theorem State.modLaunch_closesSent : (s.modLaunch n f).closesSent = s.closesSent := rfl
@[simp] theorem State.modLaunch_winArrivals : (s.modLaunch n f).winArrivals = s.winArrivals := rfl
@[simp] theorem State.modLaunch_nextGroup : (s.modLaunch n f).nextGroup = s.nextGroup := rfl
@[simp] theorem State.modLaunch_peers : (s.modLaunch n f).peers = s.peers := rfl
@[simp] theorem State.modLaunch_instances : (s.modLaunch n f).instances = s.instances := rfl
@[simp] theorem State.modLaunch_digests : (s.modLaunch n f).digests = s.digests := rfl
@[simp] theorem State.modLaunch_replicas : (s.modLaunch n f).replicas = s.replicas := rfl
@[simp] theorem State.modLaunch_held : (s.modLaunch n f).held = s.held := rfl
@[simp] theorem State.modLaunch_icache : (s.modLaunch n f).icache = s.icache := rfl
@[simp] theorem State.modLaunch_errors : (s.modLaunch n f).errors = s.errors := rfl
@[simp] theorem State.modLaunch_windows : (s.modLaunch n f).windows = s.windows := rfl
@[simp] theorem State.modLaunch_hwErrors : (s.modLaunch n f).hwErrors = s.hwErrors := rfl
@[simp] theorem State.modLaunch_retiredU : (s.modLaunch n f).retiredU = s.retiredU := rfl
@[simp] theorem State.modLaunch_badCores : (s.modLaunch n f).badCores = s.badCores := rfl
@[simp] theorem State.modLaunch_deaf : (s.modLaunch n f).deaf = s.deaf := rfl
@[simp] theorem State.modLaunch_healthAt : (s.modLaunch n f).healthAt = s.healthAt := rfl
@[simp] theorem State.modLaunch_worst : (s.modLaunch n f).worst = s.worst := rfl
@[simp] theorem State.modLaunch_power : (s.modLaunch n f).power = s.power := rfl
@[simp] theorem State.modLaunch_nextCold : (s.modLaunch n f).nextCold = s.nextCold := rfl
@[simp] theorem State.modLaunch_starts : (s.modLaunch n f).starts = s.starts := rfl
@[simp] theorem State.modLaunch_measures : (s.modLaunch n f).measures = s.measures := rfl
@[simp] theorem State.modLaunch_quotes : (s.modLaunch n f).quotes = s.quotes := rfl
@[simp] theorem State.modLaunch_msi : (s.modLaunch n f).msi = s.msi := rfl
@[simp] theorem State.modLaunch_room : (s.modLaunch n f).room = s.room := rfl

end

section
variable (n : Nat) (f : EngineOp → EngineOp)

@[simp] theorem State.modOp_tick : (s.modOp n f).tick = s.tick := rfl
@[simp] theorem State.modOp_clock : (s.modOp n f).clock = s.clock := rfl
@[simp] theorem State.modOp_cur : (s.modOp n f).cur = s.cur := rfl
@[simp] theorem State.modOp_agenda : (s.modOp n f).agenda = s.agenda := rfl
@[simp] theorem State.modOp_slots : (s.modOp n f).slots = s.slots := rfl
@[simp] theorem State.modOp_running : (s.modOp n f).running = s.running := rfl
@[simp] theorem State.modOp_mem : (s.modOp n f).mem = s.mem := rfl
@[simp] theorem State.modOp_poison : (s.modOp n f).poison = s.poison := rfl
@[simp] theorem State.modOp_blocks : (s.modOp n f).blocks = s.blocks := rfl
@[simp] theorem State.modOp_saved : (s.modOp n f).saved = s.saved := rfl
@[simp] theorem State.modOp_frondGen : (s.modOp n f).frondGen = s.frondGen := rfl
@[simp] theorem State.modOp_nextUid : (s.modOp n f).nextUid = s.nextUid := rfl
@[simp] theorem State.modOp_launches : (s.modOp n f).launches = s.launches := rfl
@[simp] theorem State.modOp_nextLaunch : (s.modOp n f).nextLaunch = s.nextLaunch := rfl
@[simp] theorem State.modOp_hostGen : (s.modOp n f).hostGen = s.hostGen := rfl
@[simp] theorem State.modOp_devGen : (s.modOp n f).devGen = s.devGen := rfl
@[simp] theorem State.modOp_nextOp : (s.modOp n f).nextOp = s.nextOp := rfl
@[simp] theorem State.modOp_orphans : (s.modOp n f).orphans = s.orphans := rfl
@[simp] theorem State.modOp_ladleNext : (s.modOp n f).ladleNext = s.ladleNext := rfl
@[simp] theorem State.modOp_tileTurn : (s.modOp n f).tileTurn = s.tileTurn := rfl
@[simp] theorem State.modOp_locks : (s.modOp n f).locks = s.locks := rfl
@[simp] theorem State.modOp_phasers : (s.modOp n f).phasers = s.phasers := rfl
@[simp] theorem State.modOp_stageqs : (s.modOp n f).stageqs = s.stageqs := rfl
@[simp] theorem State.modOp_coreReg : (s.modOp n f).coreReg = s.coreReg := rfl
@[simp] theorem State.modOp_dieReg : (s.modOp n f).dieReg = s.dieReg := rfl
@[simp] theorem State.modOp_pkgReg : (s.modOp n f).pkgReg = s.pkgReg := rfl
@[simp] theorem State.modOp_journals : (s.modOp n f).journals = s.journals := rfl
@[simp] theorem State.modOp_msgq : (s.modOp n f).msgq = s.msgq := rfl
@[simp] theorem State.modOp_queues : (s.modOp n f).queues = s.queues := rfl
@[simp] theorem State.modOp_lastQueue : (s.modOp n f).lastQueue = s.lastQueue := rfl
@[simp] theorem State.modOp_nextRead : (s.modOp n f).nextRead = s.nextRead := rfl
@[simp] theorem State.modOp_channels : (s.modOp n f).channels = s.channels := rfl
@[simp] theorem State.modOp_ports : (s.modOp n f).ports = s.ports := rfl
@[simp] theorem State.modOp_lrg : (s.modOp n f).lrg = s.lrg := rfl
@[simp] theorem State.modOp_flows : (s.modOp n f).flows = s.flows := rfl
@[simp] theorem State.modOp_flowsSent : (s.modOp n f).flowsSent = s.flowsSent := rfl
@[simp] theorem State.modOp_switches : (s.modOp n f).switches = s.switches := rfl
@[simp] theorem State.modOp_links : (s.modOp n f).links = s.links := rfl
@[simp] theorem State.modOp_wingroups : (s.modOp n f).wingroups = s.wingroups := rfl
@[simp] theorem State.modOp_closes : (s.modOp n f).closes = s.closes := rfl
@[simp] theorem State.modOp_closesSent : (s.modOp n f).closesSent = s.closesSent := rfl
@[simp] theorem State.modOp_winArrivals : (s.modOp n f).winArrivals = s.winArrivals := rfl
@[simp] theorem State.modOp_nextGroup : (s.modOp n f).nextGroup = s.nextGroup := rfl
@[simp] theorem State.modOp_peers : (s.modOp n f).peers = s.peers := rfl
@[simp] theorem State.modOp_instances : (s.modOp n f).instances = s.instances := rfl
@[simp] theorem State.modOp_digests : (s.modOp n f).digests = s.digests := rfl
@[simp] theorem State.modOp_replicas : (s.modOp n f).replicas = s.replicas := rfl
@[simp] theorem State.modOp_held : (s.modOp n f).held = s.held := rfl
@[simp] theorem State.modOp_icache : (s.modOp n f).icache = s.icache := rfl
@[simp] theorem State.modOp_errors : (s.modOp n f).errors = s.errors := rfl
@[simp] theorem State.modOp_windows : (s.modOp n f).windows = s.windows := rfl
@[simp] theorem State.modOp_hwErrors : (s.modOp n f).hwErrors = s.hwErrors := rfl
@[simp] theorem State.modOp_retiredU : (s.modOp n f).retiredU = s.retiredU := rfl
@[simp] theorem State.modOp_badCores : (s.modOp n f).badCores = s.badCores := rfl
@[simp] theorem State.modOp_deaf : (s.modOp n f).deaf = s.deaf := rfl
@[simp] theorem State.modOp_healthAt : (s.modOp n f).healthAt = s.healthAt := rfl
@[simp] theorem State.modOp_worst : (s.modOp n f).worst = s.worst := rfl
@[simp] theorem State.modOp_power : (s.modOp n f).power = s.power := rfl
@[simp] theorem State.modOp_nextCold : (s.modOp n f).nextCold = s.nextCold := rfl
@[simp] theorem State.modOp_starts : (s.modOp n f).starts = s.starts := rfl
@[simp] theorem State.modOp_measures : (s.modOp n f).measures = s.measures := rfl
@[simp] theorem State.modOp_quotes : (s.modOp n f).quotes = s.quotes := rfl
@[simp] theorem State.modOp_msi : (s.modOp n f).msi = s.msi := rfl
@[simp] theorem State.modOp_room : (s.modOp n f).room = s.room := rfl

end

section
variable (i : Instr)

@[simp] theorem State.push_tick : (s.push i).tick = s.tick := rfl
@[simp] theorem State.push_clock : (s.push i).clock = s.clock := rfl
@[simp] theorem State.push_cur : (s.push i).cur = s.cur := rfl
@[simp] theorem State.push_slots : (s.push i).slots = s.slots := rfl
@[simp] theorem State.push_running : (s.push i).running = s.running := rfl
@[simp] theorem State.push_mem : (s.push i).mem = s.mem := rfl
@[simp] theorem State.push_poison : (s.push i).poison = s.poison := rfl
@[simp] theorem State.push_blocks : (s.push i).blocks = s.blocks := rfl
@[simp] theorem State.push_saved : (s.push i).saved = s.saved := rfl
@[simp] theorem State.push_frondGen : (s.push i).frondGen = s.frondGen := rfl
@[simp] theorem State.push_nextUid : (s.push i).nextUid = s.nextUid := rfl
@[simp] theorem State.push_launches : (s.push i).launches = s.launches := rfl
@[simp] theorem State.push_nextLaunch : (s.push i).nextLaunch = s.nextLaunch := rfl
@[simp] theorem State.push_hostGen : (s.push i).hostGen = s.hostGen := rfl
@[simp] theorem State.push_devGen : (s.push i).devGen = s.devGen := rfl
@[simp] theorem State.push_ops : (s.push i).ops = s.ops := rfl
@[simp] theorem State.push_nextOp : (s.push i).nextOp = s.nextOp := rfl
@[simp] theorem State.push_orphans : (s.push i).orphans = s.orphans := rfl
@[simp] theorem State.push_ladleNext : (s.push i).ladleNext = s.ladleNext := rfl
@[simp] theorem State.push_tileTurn : (s.push i).tileTurn = s.tileTurn := rfl
@[simp] theorem State.push_locks : (s.push i).locks = s.locks := rfl
@[simp] theorem State.push_phasers : (s.push i).phasers = s.phasers := rfl
@[simp] theorem State.push_stageqs : (s.push i).stageqs = s.stageqs := rfl
@[simp] theorem State.push_coreReg : (s.push i).coreReg = s.coreReg := rfl
@[simp] theorem State.push_dieReg : (s.push i).dieReg = s.dieReg := rfl
@[simp] theorem State.push_pkgReg : (s.push i).pkgReg = s.pkgReg := rfl
@[simp] theorem State.push_journals : (s.push i).journals = s.journals := rfl
@[simp] theorem State.push_msgq : (s.push i).msgq = s.msgq := rfl
@[simp] theorem State.push_queues : (s.push i).queues = s.queues := rfl
@[simp] theorem State.push_lastQueue : (s.push i).lastQueue = s.lastQueue := rfl
@[simp] theorem State.push_nextRead : (s.push i).nextRead = s.nextRead := rfl
@[simp] theorem State.push_channels : (s.push i).channels = s.channels := rfl
@[simp] theorem State.push_ports : (s.push i).ports = s.ports := rfl
@[simp] theorem State.push_lrg : (s.push i).lrg = s.lrg := rfl
@[simp] theorem State.push_flows : (s.push i).flows = s.flows := rfl
@[simp] theorem State.push_flowsSent : (s.push i).flowsSent = s.flowsSent := rfl
@[simp] theorem State.push_switches : (s.push i).switches = s.switches := rfl
@[simp] theorem State.push_links : (s.push i).links = s.links := rfl
@[simp] theorem State.push_wingroups : (s.push i).wingroups = s.wingroups := rfl
@[simp] theorem State.push_closes : (s.push i).closes = s.closes := rfl
@[simp] theorem State.push_closesSent : (s.push i).closesSent = s.closesSent := rfl
@[simp] theorem State.push_winArrivals : (s.push i).winArrivals = s.winArrivals := rfl
@[simp] theorem State.push_nextGroup : (s.push i).nextGroup = s.nextGroup := rfl
@[simp] theorem State.push_peers : (s.push i).peers = s.peers := rfl
@[simp] theorem State.push_instances : (s.push i).instances = s.instances := rfl
@[simp] theorem State.push_digests : (s.push i).digests = s.digests := rfl
@[simp] theorem State.push_replicas : (s.push i).replicas = s.replicas := rfl
@[simp] theorem State.push_held : (s.push i).held = s.held := rfl
@[simp] theorem State.push_icache : (s.push i).icache = s.icache := rfl
@[simp] theorem State.push_errors : (s.push i).errors = s.errors := rfl
@[simp] theorem State.push_windows : (s.push i).windows = s.windows := rfl
@[simp] theorem State.push_hwErrors : (s.push i).hwErrors = s.hwErrors := rfl
@[simp] theorem State.push_retiredU : (s.push i).retiredU = s.retiredU := rfl
@[simp] theorem State.push_badCores : (s.push i).badCores = s.badCores := rfl
@[simp] theorem State.push_deaf : (s.push i).deaf = s.deaf := rfl
@[simp] theorem State.push_healthAt : (s.push i).healthAt = s.healthAt := rfl
@[simp] theorem State.push_worst : (s.push i).worst = s.worst := rfl
@[simp] theorem State.push_power : (s.push i).power = s.power := rfl
@[simp] theorem State.push_nextCold : (s.push i).nextCold = s.nextCold := rfl
@[simp] theorem State.push_starts : (s.push i).starts = s.starts := rfl
@[simp] theorem State.push_measures : (s.push i).measures = s.measures := rfl
@[simp] theorem State.push_quotes : (s.push i).quotes = s.quotes := rfl
@[simp] theorem State.push_msi : (s.push i).msi = s.msi := rfl
@[simp] theorem State.push_room : (s.push i).room = s.room := rfl

end

section
variable (core n : Nat) (v : W64)

@[simp] theorem State.setCoreR_tick : (s.setCoreR core n v).tick = s.tick := rfl
@[simp] theorem State.setCoreR_clock : (s.setCoreR core n v).clock = s.clock := rfl
@[simp] theorem State.setCoreR_cur : (s.setCoreR core n v).cur = s.cur := rfl
@[simp] theorem State.setCoreR_agenda : (s.setCoreR core n v).agenda = s.agenda := rfl
@[simp] theorem State.setCoreR_slots : (s.setCoreR core n v).slots = s.slots := rfl
@[simp] theorem State.setCoreR_running : (s.setCoreR core n v).running = s.running := rfl
@[simp] theorem State.setCoreR_mem : (s.setCoreR core n v).mem = s.mem := rfl
@[simp] theorem State.setCoreR_poison : (s.setCoreR core n v).poison = s.poison := rfl
@[simp] theorem State.setCoreR_blocks : (s.setCoreR core n v).blocks = s.blocks := rfl
@[simp] theorem State.setCoreR_saved : (s.setCoreR core n v).saved = s.saved := rfl
@[simp] theorem State.setCoreR_frondGen : (s.setCoreR core n v).frondGen = s.frondGen := rfl
@[simp] theorem State.setCoreR_nextUid : (s.setCoreR core n v).nextUid = s.nextUid := rfl
@[simp] theorem State.setCoreR_launches : (s.setCoreR core n v).launches = s.launches := rfl
@[simp] theorem State.setCoreR_nextLaunch : (s.setCoreR core n v).nextLaunch = s.nextLaunch := rfl
@[simp] theorem State.setCoreR_hostGen : (s.setCoreR core n v).hostGen = s.hostGen := rfl
@[simp] theorem State.setCoreR_devGen : (s.setCoreR core n v).devGen = s.devGen := rfl
@[simp] theorem State.setCoreR_ops : (s.setCoreR core n v).ops = s.ops := rfl
@[simp] theorem State.setCoreR_nextOp : (s.setCoreR core n v).nextOp = s.nextOp := rfl
@[simp] theorem State.setCoreR_orphans : (s.setCoreR core n v).orphans = s.orphans := rfl
@[simp] theorem State.setCoreR_ladleNext : (s.setCoreR core n v).ladleNext = s.ladleNext := rfl
@[simp] theorem State.setCoreR_tileTurn : (s.setCoreR core n v).tileTurn = s.tileTurn := rfl
@[simp] theorem State.setCoreR_locks : (s.setCoreR core n v).locks = s.locks := rfl
@[simp] theorem State.setCoreR_phasers : (s.setCoreR core n v).phasers = s.phasers := rfl
@[simp] theorem State.setCoreR_stageqs : (s.setCoreR core n v).stageqs = s.stageqs := rfl
@[simp] theorem State.setCoreR_dieReg : (s.setCoreR core n v).dieReg = s.dieReg := rfl
@[simp] theorem State.setCoreR_pkgReg : (s.setCoreR core n v).pkgReg = s.pkgReg := rfl
@[simp] theorem State.setCoreR_journals : (s.setCoreR core n v).journals = s.journals := rfl
@[simp] theorem State.setCoreR_msgq : (s.setCoreR core n v).msgq = s.msgq := rfl
@[simp] theorem State.setCoreR_queues : (s.setCoreR core n v).queues = s.queues := rfl
@[simp] theorem State.setCoreR_lastQueue : (s.setCoreR core n v).lastQueue = s.lastQueue := rfl
@[simp] theorem State.setCoreR_nextRead : (s.setCoreR core n v).nextRead = s.nextRead := rfl
@[simp] theorem State.setCoreR_channels : (s.setCoreR core n v).channels = s.channels := rfl
@[simp] theorem State.setCoreR_ports : (s.setCoreR core n v).ports = s.ports := rfl
@[simp] theorem State.setCoreR_lrg : (s.setCoreR core n v).lrg = s.lrg := rfl
@[simp] theorem State.setCoreR_flows : (s.setCoreR core n v).flows = s.flows := rfl
@[simp] theorem State.setCoreR_flowsSent : (s.setCoreR core n v).flowsSent = s.flowsSent := rfl
@[simp] theorem State.setCoreR_switches : (s.setCoreR core n v).switches = s.switches := rfl
@[simp] theorem State.setCoreR_links : (s.setCoreR core n v).links = s.links := rfl
@[simp] theorem State.setCoreR_wingroups : (s.setCoreR core n v).wingroups = s.wingroups := rfl
@[simp] theorem State.setCoreR_closes : (s.setCoreR core n v).closes = s.closes := rfl
@[simp] theorem State.setCoreR_closesSent : (s.setCoreR core n v).closesSent = s.closesSent := rfl
@[simp] theorem State.setCoreR_winArrivals : (s.setCoreR core n v).winArrivals = s.winArrivals := rfl
@[simp] theorem State.setCoreR_nextGroup : (s.setCoreR core n v).nextGroup = s.nextGroup := rfl
@[simp] theorem State.setCoreR_peers : (s.setCoreR core n v).peers = s.peers := rfl
@[simp] theorem State.setCoreR_instances : (s.setCoreR core n v).instances = s.instances := rfl
@[simp] theorem State.setCoreR_digests : (s.setCoreR core n v).digests = s.digests := rfl
@[simp] theorem State.setCoreR_replicas : (s.setCoreR core n v).replicas = s.replicas := rfl
@[simp] theorem State.setCoreR_held : (s.setCoreR core n v).held = s.held := rfl
@[simp] theorem State.setCoreR_icache : (s.setCoreR core n v).icache = s.icache := rfl
@[simp] theorem State.setCoreR_errors : (s.setCoreR core n v).errors = s.errors := rfl
@[simp] theorem State.setCoreR_windows : (s.setCoreR core n v).windows = s.windows := rfl
@[simp] theorem State.setCoreR_hwErrors : (s.setCoreR core n v).hwErrors = s.hwErrors := rfl
@[simp] theorem State.setCoreR_retiredU : (s.setCoreR core n v).retiredU = s.retiredU := rfl
@[simp] theorem State.setCoreR_badCores : (s.setCoreR core n v).badCores = s.badCores := rfl
@[simp] theorem State.setCoreR_deaf : (s.setCoreR core n v).deaf = s.deaf := rfl
@[simp] theorem State.setCoreR_healthAt : (s.setCoreR core n v).healthAt = s.healthAt := rfl
@[simp] theorem State.setCoreR_worst : (s.setCoreR core n v).worst = s.worst := rfl
@[simp] theorem State.setCoreR_power : (s.setCoreR core n v).power = s.power := rfl
@[simp] theorem State.setCoreR_nextCold : (s.setCoreR core n v).nextCold = s.nextCold := rfl
@[simp] theorem State.setCoreR_starts : (s.setCoreR core n v).starts = s.starts := rfl
@[simp] theorem State.setCoreR_measures : (s.setCoreR core n v).measures = s.measures := rfl
@[simp] theorem State.setCoreR_quotes : (s.setCoreR core n v).quotes = s.quotes := rfl
@[simp] theorem State.setCoreR_msi : (s.setCoreR core n v).msi = s.msi := rfl
@[simp] theorem State.setCoreR_room : (s.setCoreR core n v).room = s.room := rfl

end

section
variable (die n : Nat) (v : W64)

@[simp] theorem State.setDieR_tick : (s.setDieR die n v).tick = s.tick := rfl
@[simp] theorem State.setDieR_clock : (s.setDieR die n v).clock = s.clock := rfl
@[simp] theorem State.setDieR_cur : (s.setDieR die n v).cur = s.cur := rfl
@[simp] theorem State.setDieR_agenda : (s.setDieR die n v).agenda = s.agenda := rfl
@[simp] theorem State.setDieR_slots : (s.setDieR die n v).slots = s.slots := rfl
@[simp] theorem State.setDieR_running : (s.setDieR die n v).running = s.running := rfl
@[simp] theorem State.setDieR_mem : (s.setDieR die n v).mem = s.mem := rfl
@[simp] theorem State.setDieR_poison : (s.setDieR die n v).poison = s.poison := rfl
@[simp] theorem State.setDieR_blocks : (s.setDieR die n v).blocks = s.blocks := rfl
@[simp] theorem State.setDieR_saved : (s.setDieR die n v).saved = s.saved := rfl
@[simp] theorem State.setDieR_frondGen : (s.setDieR die n v).frondGen = s.frondGen := rfl
@[simp] theorem State.setDieR_nextUid : (s.setDieR die n v).nextUid = s.nextUid := rfl
@[simp] theorem State.setDieR_launches : (s.setDieR die n v).launches = s.launches := rfl
@[simp] theorem State.setDieR_nextLaunch : (s.setDieR die n v).nextLaunch = s.nextLaunch := rfl
@[simp] theorem State.setDieR_hostGen : (s.setDieR die n v).hostGen = s.hostGen := rfl
@[simp] theorem State.setDieR_devGen : (s.setDieR die n v).devGen = s.devGen := rfl
@[simp] theorem State.setDieR_ops : (s.setDieR die n v).ops = s.ops := rfl
@[simp] theorem State.setDieR_nextOp : (s.setDieR die n v).nextOp = s.nextOp := rfl
@[simp] theorem State.setDieR_orphans : (s.setDieR die n v).orphans = s.orphans := rfl
@[simp] theorem State.setDieR_ladleNext : (s.setDieR die n v).ladleNext = s.ladleNext := rfl
@[simp] theorem State.setDieR_tileTurn : (s.setDieR die n v).tileTurn = s.tileTurn := rfl
@[simp] theorem State.setDieR_locks : (s.setDieR die n v).locks = s.locks := rfl
@[simp] theorem State.setDieR_phasers : (s.setDieR die n v).phasers = s.phasers := rfl
@[simp] theorem State.setDieR_stageqs : (s.setDieR die n v).stageqs = s.stageqs := rfl
@[simp] theorem State.setDieR_coreReg : (s.setDieR die n v).coreReg = s.coreReg := rfl
@[simp] theorem State.setDieR_pkgReg : (s.setDieR die n v).pkgReg = s.pkgReg := rfl
@[simp] theorem State.setDieR_journals : (s.setDieR die n v).journals = s.journals := rfl
@[simp] theorem State.setDieR_msgq : (s.setDieR die n v).msgq = s.msgq := rfl
@[simp] theorem State.setDieR_queues : (s.setDieR die n v).queues = s.queues := rfl
@[simp] theorem State.setDieR_lastQueue : (s.setDieR die n v).lastQueue = s.lastQueue := rfl
@[simp] theorem State.setDieR_nextRead : (s.setDieR die n v).nextRead = s.nextRead := rfl
@[simp] theorem State.setDieR_channels : (s.setDieR die n v).channels = s.channels := rfl
@[simp] theorem State.setDieR_ports : (s.setDieR die n v).ports = s.ports := rfl
@[simp] theorem State.setDieR_lrg : (s.setDieR die n v).lrg = s.lrg := rfl
@[simp] theorem State.setDieR_flows : (s.setDieR die n v).flows = s.flows := rfl
@[simp] theorem State.setDieR_flowsSent : (s.setDieR die n v).flowsSent = s.flowsSent := rfl
@[simp] theorem State.setDieR_switches : (s.setDieR die n v).switches = s.switches := rfl
@[simp] theorem State.setDieR_links : (s.setDieR die n v).links = s.links := rfl
@[simp] theorem State.setDieR_wingroups : (s.setDieR die n v).wingroups = s.wingroups := rfl
@[simp] theorem State.setDieR_closes : (s.setDieR die n v).closes = s.closes := rfl
@[simp] theorem State.setDieR_closesSent : (s.setDieR die n v).closesSent = s.closesSent := rfl
@[simp] theorem State.setDieR_winArrivals : (s.setDieR die n v).winArrivals = s.winArrivals := rfl
@[simp] theorem State.setDieR_nextGroup : (s.setDieR die n v).nextGroup = s.nextGroup := rfl
@[simp] theorem State.setDieR_peers : (s.setDieR die n v).peers = s.peers := rfl
@[simp] theorem State.setDieR_instances : (s.setDieR die n v).instances = s.instances := rfl
@[simp] theorem State.setDieR_digests : (s.setDieR die n v).digests = s.digests := rfl
@[simp] theorem State.setDieR_replicas : (s.setDieR die n v).replicas = s.replicas := rfl
@[simp] theorem State.setDieR_held : (s.setDieR die n v).held = s.held := rfl
@[simp] theorem State.setDieR_icache : (s.setDieR die n v).icache = s.icache := rfl
@[simp] theorem State.setDieR_errors : (s.setDieR die n v).errors = s.errors := rfl
@[simp] theorem State.setDieR_windows : (s.setDieR die n v).windows = s.windows := rfl
@[simp] theorem State.setDieR_hwErrors : (s.setDieR die n v).hwErrors = s.hwErrors := rfl
@[simp] theorem State.setDieR_retiredU : (s.setDieR die n v).retiredU = s.retiredU := rfl
@[simp] theorem State.setDieR_badCores : (s.setDieR die n v).badCores = s.badCores := rfl
@[simp] theorem State.setDieR_deaf : (s.setDieR die n v).deaf = s.deaf := rfl
@[simp] theorem State.setDieR_healthAt : (s.setDieR die n v).healthAt = s.healthAt := rfl
@[simp] theorem State.setDieR_worst : (s.setDieR die n v).worst = s.worst := rfl
@[simp] theorem State.setDieR_power : (s.setDieR die n v).power = s.power := rfl
@[simp] theorem State.setDieR_nextCold : (s.setDieR die n v).nextCold = s.nextCold := rfl
@[simp] theorem State.setDieR_starts : (s.setDieR die n v).starts = s.starts := rfl
@[simp] theorem State.setDieR_measures : (s.setDieR die n v).measures = s.measures := rfl
@[simp] theorem State.setDieR_quotes : (s.setDieR die n v).quotes = s.quotes := rfl
@[simp] theorem State.setDieR_msi : (s.setDieR die n v).msi = s.msi := rfl
@[simp] theorem State.setDieR_room : (s.setDieR die n v).room = s.room := rfl

end

section
variable (n : Nat) (v : W64)

@[simp] theorem State.setPkgR_tick : (s.setPkgR n v).tick = s.tick := rfl
@[simp] theorem State.setPkgR_clock : (s.setPkgR n v).clock = s.clock := rfl
@[simp] theorem State.setPkgR_cur : (s.setPkgR n v).cur = s.cur := rfl
@[simp] theorem State.setPkgR_agenda : (s.setPkgR n v).agenda = s.agenda := rfl
@[simp] theorem State.setPkgR_slots : (s.setPkgR n v).slots = s.slots := rfl
@[simp] theorem State.setPkgR_running : (s.setPkgR n v).running = s.running := rfl
@[simp] theorem State.setPkgR_mem : (s.setPkgR n v).mem = s.mem := rfl
@[simp] theorem State.setPkgR_poison : (s.setPkgR n v).poison = s.poison := rfl
@[simp] theorem State.setPkgR_blocks : (s.setPkgR n v).blocks = s.blocks := rfl
@[simp] theorem State.setPkgR_saved : (s.setPkgR n v).saved = s.saved := rfl
@[simp] theorem State.setPkgR_frondGen : (s.setPkgR n v).frondGen = s.frondGen := rfl
@[simp] theorem State.setPkgR_nextUid : (s.setPkgR n v).nextUid = s.nextUid := rfl
@[simp] theorem State.setPkgR_launches : (s.setPkgR n v).launches = s.launches := rfl
@[simp] theorem State.setPkgR_nextLaunch : (s.setPkgR n v).nextLaunch = s.nextLaunch := rfl
@[simp] theorem State.setPkgR_hostGen : (s.setPkgR n v).hostGen = s.hostGen := rfl
@[simp] theorem State.setPkgR_devGen : (s.setPkgR n v).devGen = s.devGen := rfl
@[simp] theorem State.setPkgR_ops : (s.setPkgR n v).ops = s.ops := rfl
@[simp] theorem State.setPkgR_nextOp : (s.setPkgR n v).nextOp = s.nextOp := rfl
@[simp] theorem State.setPkgR_orphans : (s.setPkgR n v).orphans = s.orphans := rfl
@[simp] theorem State.setPkgR_ladleNext : (s.setPkgR n v).ladleNext = s.ladleNext := rfl
@[simp] theorem State.setPkgR_tileTurn : (s.setPkgR n v).tileTurn = s.tileTurn := rfl
@[simp] theorem State.setPkgR_locks : (s.setPkgR n v).locks = s.locks := rfl
@[simp] theorem State.setPkgR_phasers : (s.setPkgR n v).phasers = s.phasers := rfl
@[simp] theorem State.setPkgR_stageqs : (s.setPkgR n v).stageqs = s.stageqs := rfl
@[simp] theorem State.setPkgR_coreReg : (s.setPkgR n v).coreReg = s.coreReg := rfl
@[simp] theorem State.setPkgR_dieReg : (s.setPkgR n v).dieReg = s.dieReg := rfl
@[simp] theorem State.setPkgR_journals : (s.setPkgR n v).journals = s.journals := rfl
@[simp] theorem State.setPkgR_msgq : (s.setPkgR n v).msgq = s.msgq := rfl
@[simp] theorem State.setPkgR_queues : (s.setPkgR n v).queues = s.queues := rfl
@[simp] theorem State.setPkgR_lastQueue : (s.setPkgR n v).lastQueue = s.lastQueue := rfl
@[simp] theorem State.setPkgR_nextRead : (s.setPkgR n v).nextRead = s.nextRead := rfl
@[simp] theorem State.setPkgR_channels : (s.setPkgR n v).channels = s.channels := rfl
@[simp] theorem State.setPkgR_ports : (s.setPkgR n v).ports = s.ports := rfl
@[simp] theorem State.setPkgR_lrg : (s.setPkgR n v).lrg = s.lrg := rfl
@[simp] theorem State.setPkgR_flows : (s.setPkgR n v).flows = s.flows := rfl
@[simp] theorem State.setPkgR_flowsSent : (s.setPkgR n v).flowsSent = s.flowsSent := rfl
@[simp] theorem State.setPkgR_switches : (s.setPkgR n v).switches = s.switches := rfl
@[simp] theorem State.setPkgR_links : (s.setPkgR n v).links = s.links := rfl
@[simp] theorem State.setPkgR_wingroups : (s.setPkgR n v).wingroups = s.wingroups := rfl
@[simp] theorem State.setPkgR_closes : (s.setPkgR n v).closes = s.closes := rfl
@[simp] theorem State.setPkgR_closesSent : (s.setPkgR n v).closesSent = s.closesSent := rfl
@[simp] theorem State.setPkgR_winArrivals : (s.setPkgR n v).winArrivals = s.winArrivals := rfl
@[simp] theorem State.setPkgR_nextGroup : (s.setPkgR n v).nextGroup = s.nextGroup := rfl
@[simp] theorem State.setPkgR_peers : (s.setPkgR n v).peers = s.peers := rfl
@[simp] theorem State.setPkgR_instances : (s.setPkgR n v).instances = s.instances := rfl
@[simp] theorem State.setPkgR_digests : (s.setPkgR n v).digests = s.digests := rfl
@[simp] theorem State.setPkgR_replicas : (s.setPkgR n v).replicas = s.replicas := rfl
@[simp] theorem State.setPkgR_held : (s.setPkgR n v).held = s.held := rfl
@[simp] theorem State.setPkgR_icache : (s.setPkgR n v).icache = s.icache := rfl
@[simp] theorem State.setPkgR_errors : (s.setPkgR n v).errors = s.errors := rfl
@[simp] theorem State.setPkgR_windows : (s.setPkgR n v).windows = s.windows := rfl
@[simp] theorem State.setPkgR_hwErrors : (s.setPkgR n v).hwErrors = s.hwErrors := rfl
@[simp] theorem State.setPkgR_retiredU : (s.setPkgR n v).retiredU = s.retiredU := rfl
@[simp] theorem State.setPkgR_badCores : (s.setPkgR n v).badCores = s.badCores := rfl
@[simp] theorem State.setPkgR_deaf : (s.setPkgR n v).deaf = s.deaf := rfl
@[simp] theorem State.setPkgR_healthAt : (s.setPkgR n v).healthAt = s.healthAt := rfl
@[simp] theorem State.setPkgR_worst : (s.setPkgR n v).worst = s.worst := rfl
@[simp] theorem State.setPkgR_power : (s.setPkgR n v).power = s.power := rfl
@[simp] theorem State.setPkgR_nextCold : (s.setPkgR n v).nextCold = s.nextCold := rfl
@[simp] theorem State.setPkgR_starts : (s.setPkgR n v).starts = s.starts := rfl
@[simp] theorem State.setPkgR_measures : (s.setPkgR n v).measures = s.measures := rfl
@[simp] theorem State.setPkgR_quotes : (s.setPkgR n v).quotes = s.quotes := rfl
@[simp] theorem State.setPkgR_msi : (s.setPkgR n v).msi = s.msi := rfl
@[simp] theorem State.setPkgR_room : (s.setPkgR n v).room = s.room := rfl

end

section
variable (id : WaveId)

@[simp] theorem State.leave_tick : (s.leave id).tick = s.tick := rfl
@[simp] theorem State.leave_clock : (s.leave id).clock = s.clock := rfl
@[simp] theorem State.leave_cur : (s.leave id).cur = s.cur := rfl
@[simp] theorem State.leave_agenda : (s.leave id).agenda = s.agenda := rfl
@[simp] theorem State.leave_slots : (s.leave id).slots = s.slots := rfl
@[simp] theorem State.leave_mem : (s.leave id).mem = s.mem := rfl
@[simp] theorem State.leave_poison : (s.leave id).poison = s.poison := rfl
@[simp] theorem State.leave_blocks : (s.leave id).blocks = s.blocks := rfl
@[simp] theorem State.leave_saved : (s.leave id).saved = s.saved := rfl
@[simp] theorem State.leave_frondGen : (s.leave id).frondGen = s.frondGen := rfl
@[simp] theorem State.leave_nextUid : (s.leave id).nextUid = s.nextUid := rfl
@[simp] theorem State.leave_launches : (s.leave id).launches = s.launches := rfl
@[simp] theorem State.leave_nextLaunch : (s.leave id).nextLaunch = s.nextLaunch := rfl
@[simp] theorem State.leave_hostGen : (s.leave id).hostGen = s.hostGen := rfl
@[simp] theorem State.leave_devGen : (s.leave id).devGen = s.devGen := rfl
@[simp] theorem State.leave_ops : (s.leave id).ops = s.ops := rfl
@[simp] theorem State.leave_nextOp : (s.leave id).nextOp = s.nextOp := rfl
@[simp] theorem State.leave_orphans : (s.leave id).orphans = s.orphans := rfl
@[simp] theorem State.leave_ladleNext : (s.leave id).ladleNext = s.ladleNext := rfl
@[simp] theorem State.leave_tileTurn : (s.leave id).tileTurn = s.tileTurn := rfl
@[simp] theorem State.leave_locks : (s.leave id).locks = s.locks := rfl
@[simp] theorem State.leave_phasers : (s.leave id).phasers = s.phasers := rfl
@[simp] theorem State.leave_stageqs : (s.leave id).stageqs = s.stageqs := rfl
@[simp] theorem State.leave_coreReg : (s.leave id).coreReg = s.coreReg := rfl
@[simp] theorem State.leave_dieReg : (s.leave id).dieReg = s.dieReg := rfl
@[simp] theorem State.leave_pkgReg : (s.leave id).pkgReg = s.pkgReg := rfl
@[simp] theorem State.leave_journals : (s.leave id).journals = s.journals := rfl
@[simp] theorem State.leave_msgq : (s.leave id).msgq = s.msgq := rfl
@[simp] theorem State.leave_queues : (s.leave id).queues = s.queues := rfl
@[simp] theorem State.leave_lastQueue : (s.leave id).lastQueue = s.lastQueue := rfl
@[simp] theorem State.leave_nextRead : (s.leave id).nextRead = s.nextRead := rfl
@[simp] theorem State.leave_channels : (s.leave id).channels = s.channels := rfl
@[simp] theorem State.leave_ports : (s.leave id).ports = s.ports := rfl
@[simp] theorem State.leave_lrg : (s.leave id).lrg = s.lrg := rfl
@[simp] theorem State.leave_flows : (s.leave id).flows = s.flows := rfl
@[simp] theorem State.leave_flowsSent : (s.leave id).flowsSent = s.flowsSent := rfl
@[simp] theorem State.leave_switches : (s.leave id).switches = s.switches := rfl
@[simp] theorem State.leave_links : (s.leave id).links = s.links := rfl
@[simp] theorem State.leave_wingroups : (s.leave id).wingroups = s.wingroups := rfl
@[simp] theorem State.leave_closes : (s.leave id).closes = s.closes := rfl
@[simp] theorem State.leave_closesSent : (s.leave id).closesSent = s.closesSent := rfl
@[simp] theorem State.leave_winArrivals : (s.leave id).winArrivals = s.winArrivals := rfl
@[simp] theorem State.leave_nextGroup : (s.leave id).nextGroup = s.nextGroup := rfl
@[simp] theorem State.leave_peers : (s.leave id).peers = s.peers := rfl
@[simp] theorem State.leave_instances : (s.leave id).instances = s.instances := rfl
@[simp] theorem State.leave_digests : (s.leave id).digests = s.digests := rfl
@[simp] theorem State.leave_replicas : (s.leave id).replicas = s.replicas := rfl
@[simp] theorem State.leave_held : (s.leave id).held = s.held := rfl
@[simp] theorem State.leave_icache : (s.leave id).icache = s.icache := rfl
@[simp] theorem State.leave_errors : (s.leave id).errors = s.errors := rfl
@[simp] theorem State.leave_windows : (s.leave id).windows = s.windows := rfl
@[simp] theorem State.leave_hwErrors : (s.leave id).hwErrors = s.hwErrors := rfl
@[simp] theorem State.leave_retiredU : (s.leave id).retiredU = s.retiredU := rfl
@[simp] theorem State.leave_badCores : (s.leave id).badCores = s.badCores := rfl
@[simp] theorem State.leave_deaf : (s.leave id).deaf = s.deaf := rfl
@[simp] theorem State.leave_healthAt : (s.leave id).healthAt = s.healthAt := rfl
@[simp] theorem State.leave_worst : (s.leave id).worst = s.worst := rfl
@[simp] theorem State.leave_power : (s.leave id).power = s.power := rfl
@[simp] theorem State.leave_nextCold : (s.leave id).nextCold = s.nextCold := rfl
@[simp] theorem State.leave_starts : (s.leave id).starts = s.starts := rfl
@[simp] theorem State.leave_measures : (s.leave id).measures = s.measures := rfl
@[simp] theorem State.leave_quotes : (s.leave id).quotes = s.quotes := rfl
@[simp] theorem State.leave_msi : (s.leave id).msi = s.msi := rfl
@[simp] theorem State.leave_room : (s.leave id).room = s.room := rfl

end

section
variable (id : WaveId) (wt : Wait)

@[simp] theorem State.hang_tick : (s.hang id wt).tick = s.tick := rfl
@[simp] theorem State.hang_clock : (s.hang id wt).clock = s.clock := rfl
@[simp] theorem State.hang_cur : (s.hang id wt).cur = s.cur := rfl
@[simp] theorem State.hang_agenda : (s.hang id wt).agenda = s.agenda := rfl
@[simp] theorem State.hang_slots : (s.hang id wt).slots = s.slots := rfl
@[simp] theorem State.hang_mem : (s.hang id wt).mem = s.mem := rfl
@[simp] theorem State.hang_poison : (s.hang id wt).poison = s.poison := rfl
@[simp] theorem State.hang_saved : (s.hang id wt).saved = s.saved := rfl
@[simp] theorem State.hang_frondGen : (s.hang id wt).frondGen = s.frondGen := rfl
@[simp] theorem State.hang_nextUid : (s.hang id wt).nextUid = s.nextUid := rfl
@[simp] theorem State.hang_launches : (s.hang id wt).launches = s.launches := rfl
@[simp] theorem State.hang_nextLaunch : (s.hang id wt).nextLaunch = s.nextLaunch := rfl
@[simp] theorem State.hang_hostGen : (s.hang id wt).hostGen = s.hostGen := rfl
@[simp] theorem State.hang_devGen : (s.hang id wt).devGen = s.devGen := rfl
@[simp] theorem State.hang_ops : (s.hang id wt).ops = s.ops := rfl
@[simp] theorem State.hang_nextOp : (s.hang id wt).nextOp = s.nextOp := rfl
@[simp] theorem State.hang_orphans : (s.hang id wt).orphans = s.orphans := rfl
@[simp] theorem State.hang_ladleNext : (s.hang id wt).ladleNext = s.ladleNext := rfl
@[simp] theorem State.hang_tileTurn : (s.hang id wt).tileTurn = s.tileTurn := rfl
@[simp] theorem State.hang_locks : (s.hang id wt).locks = s.locks := rfl
@[simp] theorem State.hang_phasers : (s.hang id wt).phasers = s.phasers := rfl
@[simp] theorem State.hang_stageqs : (s.hang id wt).stageqs = s.stageqs := rfl
@[simp] theorem State.hang_coreReg : (s.hang id wt).coreReg = s.coreReg := rfl
@[simp] theorem State.hang_dieReg : (s.hang id wt).dieReg = s.dieReg := rfl
@[simp] theorem State.hang_pkgReg : (s.hang id wt).pkgReg = s.pkgReg := rfl
@[simp] theorem State.hang_journals : (s.hang id wt).journals = s.journals := rfl
@[simp] theorem State.hang_msgq : (s.hang id wt).msgq = s.msgq := rfl
@[simp] theorem State.hang_queues : (s.hang id wt).queues = s.queues := rfl
@[simp] theorem State.hang_lastQueue : (s.hang id wt).lastQueue = s.lastQueue := rfl
@[simp] theorem State.hang_nextRead : (s.hang id wt).nextRead = s.nextRead := rfl
@[simp] theorem State.hang_channels : (s.hang id wt).channels = s.channels := rfl
@[simp] theorem State.hang_ports : (s.hang id wt).ports = s.ports := rfl
@[simp] theorem State.hang_lrg : (s.hang id wt).lrg = s.lrg := rfl
@[simp] theorem State.hang_flows : (s.hang id wt).flows = s.flows := rfl
@[simp] theorem State.hang_flowsSent : (s.hang id wt).flowsSent = s.flowsSent := rfl
@[simp] theorem State.hang_switches : (s.hang id wt).switches = s.switches := rfl
@[simp] theorem State.hang_links : (s.hang id wt).links = s.links := rfl
@[simp] theorem State.hang_wingroups : (s.hang id wt).wingroups = s.wingroups := rfl
@[simp] theorem State.hang_closes : (s.hang id wt).closes = s.closes := rfl
@[simp] theorem State.hang_closesSent : (s.hang id wt).closesSent = s.closesSent := rfl
@[simp] theorem State.hang_winArrivals : (s.hang id wt).winArrivals = s.winArrivals := rfl
@[simp] theorem State.hang_nextGroup : (s.hang id wt).nextGroup = s.nextGroup := rfl
@[simp] theorem State.hang_peers : (s.hang id wt).peers = s.peers := rfl
@[simp] theorem State.hang_instances : (s.hang id wt).instances = s.instances := rfl
@[simp] theorem State.hang_digests : (s.hang id wt).digests = s.digests := rfl
@[simp] theorem State.hang_replicas : (s.hang id wt).replicas = s.replicas := rfl
@[simp] theorem State.hang_held : (s.hang id wt).held = s.held := rfl
@[simp] theorem State.hang_icache : (s.hang id wt).icache = s.icache := rfl
@[simp] theorem State.hang_errors : (s.hang id wt).errors = s.errors := rfl
@[simp] theorem State.hang_windows : (s.hang id wt).windows = s.windows := rfl
@[simp] theorem State.hang_hwErrors : (s.hang id wt).hwErrors = s.hwErrors := rfl
@[simp] theorem State.hang_retiredU : (s.hang id wt).retiredU = s.retiredU := rfl
@[simp] theorem State.hang_badCores : (s.hang id wt).badCores = s.badCores := rfl
@[simp] theorem State.hang_deaf : (s.hang id wt).deaf = s.deaf := rfl
@[simp] theorem State.hang_healthAt : (s.hang id wt).healthAt = s.healthAt := rfl
@[simp] theorem State.hang_worst : (s.hang id wt).worst = s.worst := rfl
@[simp] theorem State.hang_power : (s.hang id wt).power = s.power := rfl
@[simp] theorem State.hang_nextCold : (s.hang id wt).nextCold = s.nextCold := rfl
@[simp] theorem State.hang_starts : (s.hang id wt).starts = s.starts := rfl
@[simp] theorem State.hang_measures : (s.hang id wt).measures = s.measures := rfl
@[simp] theorem State.hang_quotes : (s.hang id wt).quotes = s.quotes := rfl
@[simp] theorem State.hang_msi : (s.hang id wt).msi = s.msi := rfl
@[simp] theorem State.hang_room : (s.hang id wt).room = s.room := rfl

end

section
variable (n : Nat)

@[simp] theorem State.unlock_tick : (s.unlock n).tick = s.tick := rfl
@[simp] theorem State.unlock_clock : (s.unlock n).clock = s.clock := rfl
@[simp] theorem State.unlock_cur : (s.unlock n).cur = s.cur := rfl
@[simp] theorem State.unlock_agenda : (s.unlock n).agenda = s.agenda := rfl
@[simp] theorem State.unlock_slots : (s.unlock n).slots = s.slots := rfl
@[simp] theorem State.unlock_running : (s.unlock n).running = s.running := rfl
@[simp] theorem State.unlock_mem : (s.unlock n).mem = s.mem := rfl
@[simp] theorem State.unlock_poison : (s.unlock n).poison = s.poison := rfl
@[simp] theorem State.unlock_blocks : (s.unlock n).blocks = s.blocks := rfl
@[simp] theorem State.unlock_saved : (s.unlock n).saved = s.saved := rfl
@[simp] theorem State.unlock_frondGen : (s.unlock n).frondGen = s.frondGen := rfl
@[simp] theorem State.unlock_nextUid : (s.unlock n).nextUid = s.nextUid := rfl
@[simp] theorem State.unlock_launches : (s.unlock n).launches = s.launches := rfl
@[simp] theorem State.unlock_nextLaunch : (s.unlock n).nextLaunch = s.nextLaunch := rfl
@[simp] theorem State.unlock_hostGen : (s.unlock n).hostGen = s.hostGen := rfl
@[simp] theorem State.unlock_devGen : (s.unlock n).devGen = s.devGen := rfl
@[simp] theorem State.unlock_ops : (s.unlock n).ops = s.ops := rfl
@[simp] theorem State.unlock_nextOp : (s.unlock n).nextOp = s.nextOp := rfl
@[simp] theorem State.unlock_orphans : (s.unlock n).orphans = s.orphans := rfl
@[simp] theorem State.unlock_ladleNext : (s.unlock n).ladleNext = s.ladleNext := rfl
@[simp] theorem State.unlock_tileTurn : (s.unlock n).tileTurn = s.tileTurn := rfl
@[simp] theorem State.unlock_phasers : (s.unlock n).phasers = s.phasers := rfl
@[simp] theorem State.unlock_stageqs : (s.unlock n).stageqs = s.stageqs := rfl
@[simp] theorem State.unlock_coreReg : (s.unlock n).coreReg = s.coreReg := rfl
@[simp] theorem State.unlock_dieReg : (s.unlock n).dieReg = s.dieReg := rfl
@[simp] theorem State.unlock_pkgReg : (s.unlock n).pkgReg = s.pkgReg := rfl
@[simp] theorem State.unlock_journals : (s.unlock n).journals = s.journals := rfl
@[simp] theorem State.unlock_msgq : (s.unlock n).msgq = s.msgq := rfl
@[simp] theorem State.unlock_queues : (s.unlock n).queues = s.queues := rfl
@[simp] theorem State.unlock_lastQueue : (s.unlock n).lastQueue = s.lastQueue := rfl
@[simp] theorem State.unlock_nextRead : (s.unlock n).nextRead = s.nextRead := rfl
@[simp] theorem State.unlock_channels : (s.unlock n).channels = s.channels := rfl
@[simp] theorem State.unlock_ports : (s.unlock n).ports = s.ports := rfl
@[simp] theorem State.unlock_lrg : (s.unlock n).lrg = s.lrg := rfl
@[simp] theorem State.unlock_flows : (s.unlock n).flows = s.flows := rfl
@[simp] theorem State.unlock_flowsSent : (s.unlock n).flowsSent = s.flowsSent := rfl
@[simp] theorem State.unlock_switches : (s.unlock n).switches = s.switches := rfl
@[simp] theorem State.unlock_links : (s.unlock n).links = s.links := rfl
@[simp] theorem State.unlock_wingroups : (s.unlock n).wingroups = s.wingroups := rfl
@[simp] theorem State.unlock_closes : (s.unlock n).closes = s.closes := rfl
@[simp] theorem State.unlock_closesSent : (s.unlock n).closesSent = s.closesSent := rfl
@[simp] theorem State.unlock_winArrivals : (s.unlock n).winArrivals = s.winArrivals := rfl
@[simp] theorem State.unlock_nextGroup : (s.unlock n).nextGroup = s.nextGroup := rfl
@[simp] theorem State.unlock_peers : (s.unlock n).peers = s.peers := rfl
@[simp] theorem State.unlock_instances : (s.unlock n).instances = s.instances := rfl
@[simp] theorem State.unlock_digests : (s.unlock n).digests = s.digests := rfl
@[simp] theorem State.unlock_replicas : (s.unlock n).replicas = s.replicas := rfl
@[simp] theorem State.unlock_held : (s.unlock n).held = s.held := rfl
@[simp] theorem State.unlock_icache : (s.unlock n).icache = s.icache := rfl
@[simp] theorem State.unlock_errors : (s.unlock n).errors = s.errors := rfl
@[simp] theorem State.unlock_windows : (s.unlock n).windows = s.windows := rfl
@[simp] theorem State.unlock_hwErrors : (s.unlock n).hwErrors = s.hwErrors := rfl
@[simp] theorem State.unlock_retiredU : (s.unlock n).retiredU = s.retiredU := rfl
@[simp] theorem State.unlock_badCores : (s.unlock n).badCores = s.badCores := rfl
@[simp] theorem State.unlock_deaf : (s.unlock n).deaf = s.deaf := rfl
@[simp] theorem State.unlock_healthAt : (s.unlock n).healthAt = s.healthAt := rfl
@[simp] theorem State.unlock_worst : (s.unlock n).worst = s.worst := rfl
@[simp] theorem State.unlock_power : (s.unlock n).power = s.power := rfl
@[simp] theorem State.unlock_nextCold : (s.unlock n).nextCold = s.nextCold := rfl
@[simp] theorem State.unlock_starts : (s.unlock n).starts = s.starts := rfl
@[simp] theorem State.unlock_measures : (s.unlock n).measures = s.measures := rfl
@[simp] theorem State.unlock_quotes : (s.unlock n).quotes = s.quotes := rfl
@[simp] theorem State.unlock_msi : (s.unlock n).msi = s.msi := rfl
@[simp] theorem State.unlock_room : (s.unlock n).room = s.room := rfl

end

section
variable (u : Nat) (bs : List (Option Byte))

@[simp] theorem State.storeUnit_tick : (s.storeUnit u bs).tick = s.tick := rfl
@[simp] theorem State.storeUnit_clock : (s.storeUnit u bs).clock = s.clock := rfl
@[simp] theorem State.storeUnit_cur : (s.storeUnit u bs).cur = s.cur := rfl
@[simp] theorem State.storeUnit_agenda : (s.storeUnit u bs).agenda = s.agenda := rfl
@[simp] theorem State.storeUnit_slots : (s.storeUnit u bs).slots = s.slots := rfl
@[simp] theorem State.storeUnit_running : (s.storeUnit u bs).running = s.running := rfl
@[simp] theorem State.storeUnit_poison : (s.storeUnit u bs).poison = s.poison := rfl
@[simp] theorem State.storeUnit_blocks : (s.storeUnit u bs).blocks = s.blocks := rfl
@[simp] theorem State.storeUnit_saved : (s.storeUnit u bs).saved = s.saved := rfl
@[simp] theorem State.storeUnit_frondGen : (s.storeUnit u bs).frondGen = s.frondGen := rfl
@[simp] theorem State.storeUnit_nextUid : (s.storeUnit u bs).nextUid = s.nextUid := rfl
@[simp] theorem State.storeUnit_launches : (s.storeUnit u bs).launches = s.launches := rfl
@[simp] theorem State.storeUnit_nextLaunch : (s.storeUnit u bs).nextLaunch = s.nextLaunch := rfl
@[simp] theorem State.storeUnit_hostGen : (s.storeUnit u bs).hostGen = s.hostGen := rfl
@[simp] theorem State.storeUnit_devGen : (s.storeUnit u bs).devGen = s.devGen := rfl
@[simp] theorem State.storeUnit_ops : (s.storeUnit u bs).ops = s.ops := rfl
@[simp] theorem State.storeUnit_nextOp : (s.storeUnit u bs).nextOp = s.nextOp := rfl
@[simp] theorem State.storeUnit_orphans : (s.storeUnit u bs).orphans = s.orphans := rfl
@[simp] theorem State.storeUnit_ladleNext : (s.storeUnit u bs).ladleNext = s.ladleNext := rfl
@[simp] theorem State.storeUnit_tileTurn : (s.storeUnit u bs).tileTurn = s.tileTurn := rfl
@[simp] theorem State.storeUnit_locks : (s.storeUnit u bs).locks = s.locks := rfl
@[simp] theorem State.storeUnit_phasers : (s.storeUnit u bs).phasers = s.phasers := rfl
@[simp] theorem State.storeUnit_stageqs : (s.storeUnit u bs).stageqs = s.stageqs := rfl
@[simp] theorem State.storeUnit_coreReg : (s.storeUnit u bs).coreReg = s.coreReg := rfl
@[simp] theorem State.storeUnit_dieReg : (s.storeUnit u bs).dieReg = s.dieReg := rfl
@[simp] theorem State.storeUnit_pkgReg : (s.storeUnit u bs).pkgReg = s.pkgReg := rfl
@[simp] theorem State.storeUnit_journals : (s.storeUnit u bs).journals = s.journals := rfl
@[simp] theorem State.storeUnit_msgq : (s.storeUnit u bs).msgq = s.msgq := rfl
@[simp] theorem State.storeUnit_queues : (s.storeUnit u bs).queues = s.queues := rfl
@[simp] theorem State.storeUnit_lastQueue : (s.storeUnit u bs).lastQueue = s.lastQueue := rfl
@[simp] theorem State.storeUnit_nextRead : (s.storeUnit u bs).nextRead = s.nextRead := rfl
@[simp] theorem State.storeUnit_channels : (s.storeUnit u bs).channels = s.channels := rfl
@[simp] theorem State.storeUnit_ports : (s.storeUnit u bs).ports = s.ports := rfl
@[simp] theorem State.storeUnit_lrg : (s.storeUnit u bs).lrg = s.lrg := rfl
@[simp] theorem State.storeUnit_flows : (s.storeUnit u bs).flows = s.flows := rfl
@[simp] theorem State.storeUnit_flowsSent : (s.storeUnit u bs).flowsSent = s.flowsSent := rfl
@[simp] theorem State.storeUnit_switches : (s.storeUnit u bs).switches = s.switches := rfl
@[simp] theorem State.storeUnit_links : (s.storeUnit u bs).links = s.links := rfl
@[simp] theorem State.storeUnit_wingroups : (s.storeUnit u bs).wingroups = s.wingroups := rfl
@[simp] theorem State.storeUnit_closes : (s.storeUnit u bs).closes = s.closes := rfl
@[simp] theorem State.storeUnit_closesSent : (s.storeUnit u bs).closesSent = s.closesSent := rfl
@[simp] theorem State.storeUnit_winArrivals : (s.storeUnit u bs).winArrivals = s.winArrivals := rfl
@[simp] theorem State.storeUnit_nextGroup : (s.storeUnit u bs).nextGroup = s.nextGroup := rfl
@[simp] theorem State.storeUnit_peers : (s.storeUnit u bs).peers = s.peers := rfl
@[simp] theorem State.storeUnit_instances : (s.storeUnit u bs).instances = s.instances := rfl
@[simp] theorem State.storeUnit_digests : (s.storeUnit u bs).digests = s.digests := rfl
@[simp] theorem State.storeUnit_replicas : (s.storeUnit u bs).replicas = s.replicas := rfl
@[simp] theorem State.storeUnit_held : (s.storeUnit u bs).held = s.held := rfl
@[simp] theorem State.storeUnit_icache : (s.storeUnit u bs).icache = s.icache := rfl
@[simp] theorem State.storeUnit_errors : (s.storeUnit u bs).errors = s.errors := rfl
@[simp] theorem State.storeUnit_windows : (s.storeUnit u bs).windows = s.windows := rfl
@[simp] theorem State.storeUnit_hwErrors : (s.storeUnit u bs).hwErrors = s.hwErrors := rfl
@[simp] theorem State.storeUnit_retiredU : (s.storeUnit u bs).retiredU = s.retiredU := rfl
@[simp] theorem State.storeUnit_badCores : (s.storeUnit u bs).badCores = s.badCores := rfl
@[simp] theorem State.storeUnit_deaf : (s.storeUnit u bs).deaf = s.deaf := rfl
@[simp] theorem State.storeUnit_healthAt : (s.storeUnit u bs).healthAt = s.healthAt := rfl
@[simp] theorem State.storeUnit_worst : (s.storeUnit u bs).worst = s.worst := rfl
@[simp] theorem State.storeUnit_power : (s.storeUnit u bs).power = s.power := rfl
@[simp] theorem State.storeUnit_nextCold : (s.storeUnit u bs).nextCold = s.nextCold := rfl
@[simp] theorem State.storeUnit_starts : (s.storeUnit u bs).starts = s.starts := rfl
@[simp] theorem State.storeUnit_measures : (s.storeUnit u bs).measures = s.measures := rfl
@[simp] theorem State.storeUnit_quotes : (s.storeUnit u bs).quotes = s.quotes := rfl
@[simp] theorem State.storeUnit_msi : (s.storeUnit u bs).msi = s.msi := rfl
@[simp] theorem State.storeUnit_room : (s.storeUnit u bs).room = s.room := rfl

end

section
variable (id : WaveId)

@[simp] theorem State.endClause_tick : (s.endClause id).tick = s.tick := rfl
@[simp] theorem State.endClause_clock : (s.endClause id).clock = s.clock := rfl
@[simp] theorem State.endClause_cur : (s.endClause id).cur = s.cur := rfl
@[simp] theorem State.endClause_agenda : (s.endClause id).agenda = s.agenda := rfl
@[simp] theorem State.endClause_slots : (s.endClause id).slots = s.slots := rfl
@[simp] theorem State.endClause_mem : (s.endClause id).mem = s.mem := rfl
@[simp] theorem State.endClause_poison : (s.endClause id).poison = s.poison := rfl
@[simp] theorem State.endClause_saved : (s.endClause id).saved = s.saved := rfl
@[simp] theorem State.endClause_frondGen : (s.endClause id).frondGen = s.frondGen := rfl
@[simp] theorem State.endClause_nextUid : (s.endClause id).nextUid = s.nextUid := rfl
@[simp] theorem State.endClause_launches : (s.endClause id).launches = s.launches := rfl
@[simp] theorem State.endClause_nextLaunch : (s.endClause id).nextLaunch = s.nextLaunch := rfl
@[simp] theorem State.endClause_hostGen : (s.endClause id).hostGen = s.hostGen := rfl
@[simp] theorem State.endClause_devGen : (s.endClause id).devGen = s.devGen := rfl
@[simp] theorem State.endClause_ops : (s.endClause id).ops = s.ops := rfl
@[simp] theorem State.endClause_nextOp : (s.endClause id).nextOp = s.nextOp := rfl
@[simp] theorem State.endClause_orphans : (s.endClause id).orphans = s.orphans := rfl
@[simp] theorem State.endClause_ladleNext : (s.endClause id).ladleNext = s.ladleNext := rfl
@[simp] theorem State.endClause_tileTurn : (s.endClause id).tileTurn = s.tileTurn := rfl
@[simp] theorem State.endClause_locks : (s.endClause id).locks = s.locks := rfl
@[simp] theorem State.endClause_phasers : (s.endClause id).phasers = s.phasers := rfl
@[simp] theorem State.endClause_stageqs : (s.endClause id).stageqs = s.stageqs := rfl
@[simp] theorem State.endClause_coreReg : (s.endClause id).coreReg = s.coreReg := rfl
@[simp] theorem State.endClause_dieReg : (s.endClause id).dieReg = s.dieReg := rfl
@[simp] theorem State.endClause_pkgReg : (s.endClause id).pkgReg = s.pkgReg := rfl
@[simp] theorem State.endClause_journals : (s.endClause id).journals = s.journals := rfl
@[simp] theorem State.endClause_msgq : (s.endClause id).msgq = s.msgq := rfl
@[simp] theorem State.endClause_queues : (s.endClause id).queues = s.queues := rfl
@[simp] theorem State.endClause_lastQueue : (s.endClause id).lastQueue = s.lastQueue := rfl
@[simp] theorem State.endClause_nextRead : (s.endClause id).nextRead = s.nextRead := rfl
@[simp] theorem State.endClause_channels : (s.endClause id).channels = s.channels := rfl
@[simp] theorem State.endClause_ports : (s.endClause id).ports = s.ports := rfl
@[simp] theorem State.endClause_lrg : (s.endClause id).lrg = s.lrg := rfl
@[simp] theorem State.endClause_flows : (s.endClause id).flows = s.flows := rfl
@[simp] theorem State.endClause_flowsSent : (s.endClause id).flowsSent = s.flowsSent := rfl
@[simp] theorem State.endClause_switches : (s.endClause id).switches = s.switches := rfl
@[simp] theorem State.endClause_links : (s.endClause id).links = s.links := rfl
@[simp] theorem State.endClause_wingroups : (s.endClause id).wingroups = s.wingroups := rfl
@[simp] theorem State.endClause_closes : (s.endClause id).closes = s.closes := rfl
@[simp] theorem State.endClause_closesSent : (s.endClause id).closesSent = s.closesSent := rfl
@[simp] theorem State.endClause_winArrivals : (s.endClause id).winArrivals = s.winArrivals := rfl
@[simp] theorem State.endClause_nextGroup : (s.endClause id).nextGroup = s.nextGroup := rfl
@[simp] theorem State.endClause_peers : (s.endClause id).peers = s.peers := rfl
@[simp] theorem State.endClause_instances : (s.endClause id).instances = s.instances := rfl
@[simp] theorem State.endClause_digests : (s.endClause id).digests = s.digests := rfl
@[simp] theorem State.endClause_replicas : (s.endClause id).replicas = s.replicas := rfl
@[simp] theorem State.endClause_held : (s.endClause id).held = s.held := rfl
@[simp] theorem State.endClause_icache : (s.endClause id).icache = s.icache := rfl
@[simp] theorem State.endClause_errors : (s.endClause id).errors = s.errors := rfl
@[simp] theorem State.endClause_windows : (s.endClause id).windows = s.windows := rfl
@[simp] theorem State.endClause_hwErrors : (s.endClause id).hwErrors = s.hwErrors := rfl
@[simp] theorem State.endClause_retiredU : (s.endClause id).retiredU = s.retiredU := rfl
@[simp] theorem State.endClause_badCores : (s.endClause id).badCores = s.badCores := rfl
@[simp] theorem State.endClause_deaf : (s.endClause id).deaf = s.deaf := rfl
@[simp] theorem State.endClause_healthAt : (s.endClause id).healthAt = s.healthAt := rfl
@[simp] theorem State.endClause_worst : (s.endClause id).worst = s.worst := rfl
@[simp] theorem State.endClause_power : (s.endClause id).power = s.power := rfl
@[simp] theorem State.endClause_nextCold : (s.endClause id).nextCold = s.nextCold := rfl
@[simp] theorem State.endClause_starts : (s.endClause id).starts = s.starts := rfl
@[simp] theorem State.endClause_measures : (s.endClause id).measures = s.measures := rfl
@[simp] theorem State.endClause_quotes : (s.endClause id).quotes = s.quotes := rfl
@[simp] theorem State.endClause_msi : (s.endClause id).msi = s.msi := rfl
@[simp] theorem State.endClause_room : (s.endClause id).room = s.room := rfl

end

end Sys2Proof.Machine
end

