-- ==== Sys2Proof/Laws/Issue.lean ====
section
/-! SUPPORT. The shared operations of an instruction: what changing a wave does to the records of others, what `run` does
where every check passes, and everything a fixed-latency instruction does. -/

namespace Sys2Proof.Machine

open Sys2Proof

/-! ### Records after a change -/

theorem block?_modBlock (s : State) (id u : WaveId) (f : Block → Block) :
    (s.modBlock id f).block? u = if wkey id = wkey u then (s.block? u).map f else s.block? u :=
  spFind_spMod s.blocks (wkey id) (wkey u) f

theorem block?_modWave (s : State) (id u : WaveId) (f : Wave → Wave) :
    (s.modWave id f).block? u =
      if wkey id = wkey u then (s.block? u).map (fun b => { b with waves := spMod b.waves id.wave f }) else s.block? u :=
  block?_modBlock s id u _

theorem wave?_modWave (s : State) (id u : WaveId) (f : Wave → Wave) :
    (s.modWave id f).wave? u = if wkey id = wkey u ∧ id.wave = u.wave then (s.wave? u).map f else s.wave? u := by
  unfold State.wave?
  rw [block?_modWave]
  cases hb : s.block? u with
  | none => simp
  | some b =>
    by_cases hk : wkey id = wkey u
    · by_cases hw : id.wave = u.wave <;> simp [hk, hw, spFind_spMod]
    · simp [hk]

theorem wave?_of_block (s : State) (id : WaveId) (f : Block → Block) (hf : ∀ b, (f b).waves = b.waves) (u : WaveId) :
    (s.modBlock id f).wave? u = s.wave? u := by
  unfold State.wave?
  rw [block?_modBlock]
  cases s.block? u with
  | none => simp
  | some b => by_cases hk : wkey id = wkey u <;> simp [hk, hf]

@[simp] theorem block?_leave (s : State) (id u : WaveId) : (s.leave id).block? u = s.block? u := rfl
@[simp] theorem wave?_leave (s : State) (id u : WaveId) : (s.leave id).wave? u = s.wave? u := rfl
@[simp] theorem wave_leave (s : State) (id u : WaveId) : (s.leave id).wave u = s.wave u := rfl

theorem wave_eq_of_wave? {s : State} {u : WaveId} {w : Wave} (h : s.wave? u = some w) : s.wave u = w := by
  unfold State.wave; rw [h]; rfl

theorem wave_modWave_self {s : State} {id : WaveId} {w : Wave} (h : s.wave? id = some w) (f : Wave → Wave) :
    (s.modWave id f).wave id = f w :=
  wave_eq_of_wave? (by rw [wave?_modWave]; simp [h])

theorem wave?_modWave_self {s : State} {id : WaveId} {w : Wave} (h : s.wave? id = some w) (f : Wave → Wave) :
    (s.modWave id f).wave? id = some (f w) := by
  rw [wave?_modWave]; simp [h]

/-! ### OnlyWave -/

theorem OnlyWave.refl (s : State) : OnlyWave s s := ⟨rfl, fun _ _ => rfl, fun _ => rfl, .inl rfl⟩

theorem OnlyWave.cur {s t : State} (h : OnlyWave s t) : t.cur = s.cur := by rw [h.machine]

theorem OnlyWave.trans {s t u : State} (h : OnlyWave s t) (k : OnlyWave t u) : OnlyWave s u where
  machine := by rw [k.machine, h.machine]
  others v hv := (k.others v (by unfold otherWave at hv ⊢; rwa [h.cur])).trans (h.others v hv)
  shells v := (k.shells v).trans (h.shells v)
  slots := by
    have hc := h.cur
    rcases k.slots with hk | hk <;> rcases h.slots with hh | hh
    · exact .inl (hk.trans hh)
    · exact .inr (hk.trans hh)
    · exact .inr (by rw [hk, hh, hc])
    · refine .inr ?_
      rw [hk, hh, hc, List.filter_filter]
      simp

theorem OnlyWave.mem {s t : State} (h : OnlyWave s t) : t.mem = s.mem := by rw [h.machine]

theorem onlyWave_modWave (s : State) (f : Wave → Wave) : OnlyWave s (s.modWave s.cur f) where
  machine := rfl
  others u hu := by
    rw [wave?_modWave, if_neg]
    rintro ⟨h1, h2⟩
    exact hu ⟨h1.symm, h2.symm⟩
  shells u := by
    rw [block?_modWave]
    split
    · cases s.block? u <;> rfl
    · rfl
  slots := .inl rfl

theorem onlyWave_leave (s : State) : OnlyWave s (s.leave s.cur) := ⟨rfl, fun _ _ => rfl, fun _ => rfl, .inr rfl⟩

theorem onlyWave_retired (s : State) (g : Nat → Nat) :
    OnlyWave s (s.modBlock s.cur fun b => { b with retired := g b.retired }) where
  machine := rfl
  others u _ := wave?_of_block s s.cur (fun b => { b with retired := g b.retired }) (fun _ => rfl) u
  shells u := by
    rw [block?_modBlock]
    split
    · cases s.block? u <;> rfl
    · rfl
  slots := .inl rfl

theorem onlyWave_endClause (s : State) : OnlyWave s (s.endClause s.cur) := by
  unfold State.endClause
  exact (onlyWave_retired s fun n => min (n + 1) 0xFFFFFFFF).trans
    ((onlyWave_modWave _ _).trans (onlyWave_leave _))

theorem onlyWave_finish (s : State) (go : Nat → Option W64) : OnlyWave s (s.finish s.cur go) := by
  unfold State.finish
  simp only
  split
  · exact (onlyWave_modWave s _).trans (onlyWave_endClause _)
  · exact onlyWave_modWave s _

theorem onlyWave_hang (s : State) (wt : Wait) : OnlyWave s (s.hang s.cur wt) :=
  (onlyWave_modWave s fun w => { w with wait := some wt }).trans (onlyWave_leave _)

/-! ### The wave after an instruction completes -/

/-- What the end of a clause leaves of a wave. -/
def Wave.ended (w : Wave) : Wave :=
  { w with clause := ⟨0, 0, 0⟩, trivet := [], trivSet := [], yieldDue := false
           yielding := w.yielding || w.yieldDue || headerYield w.clause.header }

theorem wave_endClause {s : State} {w : Wave} (h : s.wave? s.cur = some w) : (s.endClause s.cur).wave s.cur = w.ended := by
  unfold State.endClause
  simp only [wave_leave]
  have hb := wave?_of_block s s.cur (fun b => { b with retired := min (b.retired + 1) 0xFFFFFFFF }) (fun _ => rfl) s.cur
  exact wave_modWave_self (hb.trans h) _

/-- The wave after `finish`: the instruction completes, and the clause may end. -/
theorem wave_finish {s : State} {w : Wave} (h : s.wave? s.cur = some w) (go : Nat → Option W64) :
    (s.finish s.cur go).wave s.cur = w.complete go ∨ (s.finish s.cur go).wave s.cur = (w.complete go).ended := by
  unfold State.finish
  simp only
  split
  · exact .inr (wave_endClause (s := s.modWave s.cur _) (wave?_modWave_self h _))
  · exact .inl (wave_modWave_self h _)

@[simp] theorem still_complete (w : Wave) (go : Nat → Option W64) : (w.complete go).still = w.still := rfl
@[simp] theorem still_ended (w : Wave) : w.ended.still = w.still := rfl

theorem spGet_spOf32 {α : Type} [DecidableEq α] (d : α) (f : Nat → α) {l : Nat} (h : l < 32) :
    spGet d (spOf32 d f) l = f l := by
  have key : ∀ ls : List Nat, spGet d (ls.filterMap fun k => if f k = d then none else some (k, f k)) l =
      if l ∈ ls then f l else d := by
    intro ls
    induction ls with
    | nil => rfl
    | cons k t ih =>
      by_cases hk : f k = d
      · rw [List.filterMap_cons_none (by simp [hk]), ih]
        by_cases hl : l = k
        · subst hl; simp [hk]
        · simp [hl]
      · rw [List.filterMap_cons_some (b := (k, f k)) (by simp [hk])]
        simp only [spGet, ih]
        by_cases hl : k = l
        · subst hl; simp
        · simp [hl, Ne.symm hl]
  unfold spOf32
  rw [key, if_pos (mem_lanes32.mpr h)]

theorem pcAt_complete (w : Wave) (go : Nat → Option W64) {l : Nat} (h : l < 32) :
    (w.complete go).pcAt l = if w.active.getLsbD l then (go l).getD (w.pcAt l + 8) else w.pcAt l :=
  spGet_spOf32 0 (fun l => if w.active.getLsbD l then (go l).getD (w.pcAt l + 8) else w.pcAt l) h

/-! ### Issue -/

/-- The context of an instruction is that of the wave in the slot, whose earlier results count its stall off; it reads now, unless a
forcing has kept its reading. -/
theorem ctx_spec {s : State} {ctl : Ctl} {c : Ctx} (h : s.ctx ctl = some c) :
    c.id = s.cur ∧ ∃ w, s.wave? s.cur = some w ∧
      c.w = { w with inflight := w.inflight.map fun p => { p with short := p.short - ctl.stall.toNat } } ∧
      c.active = w.active ∧ s.block? s.cur = some c.b ∧ s.launchOf c.b = some c.l ∧
      (w.wait.bind Wait.kept = none → c.tick = s.tick) := by
  unfold State.ctx at h
  split at h
  · rename_i b w hb hw
    split at h
    · cases h
    · rename_i l hl
      simp only at h
      split at h
      · cases h
      · simp only [Option.some.injEq] at h
        subst h
        cases hk : w.wait.bind Wait.kept with
        | some r => exact ⟨rfl, w, hw, rfl, rfl, hb, hl, fun hn => by rw [hk] at hn; cases hn⟩
        | none =>
          refine ⟨?_, w, hw, ?_, ?_, ?_, ?_, fun _ => ?_⟩ <;> simp only <;> split <;> first | rfl | exact hb | exact hl
  · cases h

/-- What `clear` says. -/
theorem clear_spec {s : State} {sp : Spec} {own : Ctx → List Fail} {c : Ctx} (h : s.clear sp own = some c) :
    s.ctx sp.ctl = some c ∧ c.w.wait = none ∧ c.holdUp sp = none ∧ c.encodingCause sp = none ∧ c.stallShort sp = false ∧
      c.boundFails sp ++ c.areaBound sp ++ c.pendFails sp ++ own c = [] := by
  unfold State.clear at h
  split at h
  · cases h
  · rename_i c' hc
    split at h
    · rename_i hk
      cases h
      exact ⟨hc, hk⟩
    · cases h

/-- Where every check passes, an instruction has its effect. -/
theorem run_clear {s : State} {sp : Spec} {own : Ctx → List Fail} {c : Ctx} (h : s.clear sp own = some c)
    (resume : Ctx → Wait → State → State) (body : Ctx → State → State) : run sp own resume body s = body c s := by
  obtain ⟨hc, hw, hh, he, hs, hf⟩ := clear_spec h
  have hf' : (c.boundFails sp ++ c.areaBound sp ++ c.pendFails sp ++ own c).isEmpty = true := by rw [hf]; rfl
  unfold run
  simp only [hc, hw]
  unfold run.go
  simp only [hh]
  unfold run.check
  simp only [he, hs, Bool.false_eq_true, if_false]
  rw [if_pos hf']

/-- Where the wait it stands in is over, an instruction is resumed. -/
theorem run_resumes {s : State} {sp : Spec} {wt : Wait} {c : Ctx} (h : s.resumes sp wt = some c)
    (own : Ctx → List Fail) (resume : Ctx → Wait → State → State) (body : Ctx → State → State) :
    run sp own resume body s = resume c wt (s.modWave c.id fun w => { w with wait := none }) := by
  unfold State.resumes at h
  split at h
  · cases h
  · rename_i c' hc
    split at h
    · rename_i hk
      cases h
      obtain ⟨hw, hi, ha, hr, hd⟩ := hk
      unfold run
      simp [hc, hw, hi, ha, hr, hd]
    · cases h

/-! ### Register words -/

/-- A predicate bit after one lane of a predicate is written. -/
theorem pget_pset_lane (w : Wave) (n k : Nat) (bits : BitVec 32) {l m : Nat} (hm : m < 32) :
    (w.pset n (1#32 <<< l) bits).pget k m = if n = k ∧ l = m then bits.getLsbD m else w.pget k m := by
  have hs : (1#32 <<< l).getLsbD m = decide (l = m) := by
    simp only [BitVec.getLsbD_shiftLeft, BitVec.getLsbD_one]
    by_cases h : l = m
    · simp [h, hm]
    · simp only [hm, decide_true, Bool.true_and, h, decide_false]
      simp
      omega
  unfold Wave.pget Wave.pmask Wave.pset
  rw [spGet_spSet]
  by_cases hn : n = k
  · subst hn
    simp only [if_true, true_and, BitVec.getLsbD_or, BitVec.getLsbD_and, BitVec.getLsbD_not, hs, hm, decide_true,
      Bool.true_and]
    by_cases h : l = m <;> simp [h, Wave.pmask]
  · simp [hn]

theorem regGet_regSet (w : Wave) (r q : RegRef) (l m : Nat) (x : W64) (hr : r.word l) (hq : q.word m) :
    (w.regSet r l x).regGet q m = if r = q ∧ l = m then r.fit x else w.regGet q m := by
  cases r with
  | vec n =>
    cases q with
    | vec k =>
      simp only [RegRef.word] at hr hq
      simp only [Wave.regSet, Wave.regGet, Wave.vget, Wave.vset, spGet_spSet, RegRef.fit, RegRef.vec.injEq]
      by_cases h : n = k ∧ l = m
      · simp [h]
      · have h' : ¬ n * 32 + l = k * 32 + m := by omega
        simp [h, h']
    | pred k => rw [if_neg (by simp)]; rfl
    | scal k => rw [if_neg (by simp)]; rfl
  | pred n =>
    cases q with
    | vec k => rw [if_neg (by simp)]; rfl
    | pred k =>
      simp only [Wave.regSet, Wave.regGet, pget_pset_lane _ _ _ _ hq, RegRef.fit, RegRef.pred.injEq]
      by_cases h : n = k ∧ l = m
      · obtain ⟨rfl, rfl⟩ := h
        have hl : l < 32 := hr
        by_cases hx : x = 0
        · simp [hx]
        · simp only [hx, if_false, and_self, if_true, BitVec.getLsbD_allOnes, hl, decide_true]
      · simp [h]
    | scal k => rw [if_neg (by simp)]; rfl
  | scal n =>
    cases q with
    | vec k => rw [if_neg (by simp)]; rfl
    | pred k => rw [if_neg (by simp)]; rfl
    | scal k =>
      simp only [RegRef.word] at hr hq
      subst hr hq
      simp only [Wave.regSet, Wave.regGet, Wave.sget, Wave.sset, spGet_spSet, RegRef.fit, RegRef.scal.injEq, and_true]

theorem lastWrite_append (ws : List RegWrite) (x : RegWrite) (r : RegRef) (l : Nat) :
    lastWrite (ws ++ [x]) r l = if x.reg = r ∧ x.lane = l then some x.val else lastWrite ws r l := by
  unfold lastWrite
  rw [List.reverse_append, List.reverse_singleton, List.singleton_append]
  by_cases h : x.reg = r ∧ x.lane = l
  · rw [List.find?_cons_of_pos (by simp [h])]; simp [h]
  · rw [List.find?_cons_of_neg (by simpa using h)]; simp [h]

/-- Register words after some writes: each word that exists. -/
theorem regGet_writeRegs (c : Ctx) (ws : List RegWrite) (w : Wave) (hws : ∀ x ∈ ws, x.reg.word x.lane) (r : RegRef) (l : Nat)
    (hr : r.word l) : (c.writeRegs ws w).regGet r l = c.after w ws r l := by
  induction ws using List.reverseRecOn with
  | nil => rfl
  | append_singleton ws x ih =>
    have ih := ih fun y hy => hws y (List.mem_append_left _ hy)
    have hx : x.reg.word x.lane := hws x (by simp)
    unfold Ctx.writeRegs at ih ⊢
    rw [List.foldl_append, List.foldl_cons, List.foldl_nil]
    unfold Ctx.after at ih ⊢
    rw [lastWrite_append]
    by_cases h : x.reg = r ∧ x.lane = l
    · obtain ⟨rfl, rfl⟩ := h
      by_cases hk : c.keeps x.reg x.lane (x.reg.key x.lane) = true
      · simp only [hk, if_true, and_self]
        rw [ih]
        split
        · rfl
        · simp [hk]
      · simp only [hk, and_self, if_true, Bool.false_eq_true, if_false]
        rw [regGet_regSet _ _ _ _ _ _ hx hr]
        simp
    · simp only [h, if_false]
      split
      · exact ih
      · rw [regGet_regSet _ _ _ _ _ _ hx hr, if_neg h]
        exact ih

/-- Writing register words touches the register files alone. -/
theorem writeRegs_files (c : Ctx) (ws : List RegWrite) (w : Wave) :
    c.writeRegs ws w = { w with
      v := (c.writeRegs ws w).v, p := (c.writeRegs ws w).p, s := (c.writeRegs ws w).s } := by
  induction ws using List.reverseRecOn with
  | nil => rfl
  | append_singleton ws x ih =>
    unfold Ctx.writeRegs at ih ⊢
    rw [List.foldl_append, List.foldl_cons, List.foldl_nil]
    split
    · exact ih
    · generalize List.foldl _ w ws = u at ih ⊢
      rw [ih]
      cases x.reg <;> rfl

/-! ### Fixed-latency instructions -/

theorem wave_modWave_modWave {s : State} {id : WaveId} {w : Wave} (h : s.wave? id = some w) (f g : Wave → Wave) :
    ((s.modWave id f).modWave id g).wave? id = some (g (f w)) :=
  wave?_modWave_self (wave?_modWave_self h f) g

/-- The wave after a fixed-latency instruction has issued. -/
def Ctx.fixedWave (c : Ctx) (sp : Spec) (ws : List RegWrite) (flags : W32) (w : Wave) : Wave :=
  let w1 : Wave := { w with inflight := (c.w.inflight.filter fun p => !(p.landed && p.short == 0)), wait := none }
  let w2 := match sp.held with
    | none => w1
    | some f => { w1 with
        trivet := (lanesOf c.active).foldl (fun t l => spSet 0 t (c.idx % 3 * 32 + l) (c.lane f l sp.fty)) w1.trivet
        trivSet := (w1.trivSet.filter fun t => t.1 % 3 != c.idx % 3) ++ [(c.idx, c.active)] }
  let olds := ws.map fun x => (⟨x.reg, x.lane, w2.regGet x.reg x.lane⟩ : OldReg)
  let w3 := (c.writer sp).writeRegs ws w2
  { (w3.flagUp sp.ctl.sig.toNat) with inflight := w3.inflight ++ [⟨olds, sp.lat, sp.ctl.sig.toNat, flags, false⟩] }

theorem fixed_eq (s : State) (c : Ctx) (sp : Spec) (ws : List RegWrite) (flags : W32) :
    s.fixed c sp ws flags = (s.issue c sp).modWave c.id (fun w =>
      { (((c.writer sp).writeRegs ws w).flagUp sp.ctl.sig.toNat) with
        inflight := ((c.writer sp).writeRegs ws w).inflight ++
          [⟨ws.map fun x => ⟨x.reg, x.lane, w.regGet x.reg x.lane⟩, sp.lat, sp.ctl.sig.toNat, flags, false⟩] }) := by
  rfl

theorem wave?_fixed {s : State} {c : Ctx} {w : Wave} (h : s.wave? c.id = some w) (sp : Spec) (ws : List RegWrite)
    (flags : W32) : (s.fixed c sp ws flags).wave? c.id = some (c.fixedWave sp ws flags w) := by
  rw [fixed_eq]
  unfold State.issue
  rw [wave_modWave_modWave h]
  rfl

theorem kget_flagUp (w : Wave) {sig n : Nat} (hn : n < 12) :
    (w.flagUp sig).kget n = w.kget n + if sig = n then 1 else 0 := by
  unfold Wave.flagUp
  split
  · unfold Wave.kget
    rw [spGet_spSet]
    by_cases h : sig = n <;> simp [h]
  · rename_i h
    have : ¬ sig = n := by omega
    simp [this]

theorem flagUp_moved (w : Wave) (sig : Nat) : w.flagUp sig = { w with k := (w.flagUp sig).k } := by
  unfold Wave.flagUp; split <;> rfl

theorem regGet_flagUp (w : Wave) (sig : Nat) (i : List InFlight) (r : RegRef) (l : Nat) :
    ({ (w.flagUp sig) with inflight := i } : Wave).regGet r l = w.regGet r l := by
  rw [flagUp_moved]; rfl

theorem regGet_fixedWave {c : Ctx} {ws : List RegWrite} (hws : ∀ x ∈ ws, x.reg.word x.lane) (sp : Spec) (flags : W32)
    (w : Wave) {r : RegRef} {l : Nat} (hr : r.word l) : (c.fixedWave sp ws flags w).regGet r l = (c.writer sp).after w ws r l := by
  unfold Ctx.fixedWave
  simp only
  rw [regGet_flagUp, regGet_writeRegs (c.writer sp) ws _ hws r l hr]
  unfold Ctx.after
  cases sp.held <;> rfl

theorem Wave.eta_wait (w : Wave) (hw : w.wait = none) : { w with wait := none } = w := by cases w; cases hw; rfl

theorem rest_flagUp (w : Wave) (sig : Nat) (i : List InFlight) :
    ({ (w.flagUp sig) with inflight := i } : Wave).still.bare = w.still.bare := by rw [flagUp_moved]; rfl

theorem rest_writeRegs (c : Ctx) (ws : List RegWrite) (w : Wave) : (c.writeRegs ws w).still.bare = w.still.bare := by
  rw [writeRegs_files]; rfl

theorem pc_flagUp (w : Wave) (sig : Nat) (i : List InFlight) : ({ (w.flagUp sig) with inflight := i } : Wave).pc = w.pc := by
  rw [flagUp_moved]

theorem pc_writeRegs (c : Ctx) (ws : List RegWrite) (w : Wave) : (c.writeRegs ws w).pc = w.pc := by rw [writeRegs_files]

theorem active_flagUp (w : Wave) (sig : Nat) (i : List InFlight) :
    ({ (w.flagUp sig) with inflight := i } : Wave).active = w.active := by rw [flagUp_moved]; rfl

theorem active_writeRegs (c : Ctx) (ws : List RegWrite) (w : Wave) : (c.writeRegs ws w).active = w.active := by
  rw [writeRegs_files]; rfl

theorem rest_fixedWave {w : Wave} (hw : w.wait = none) (c : Ctx) (ws : List RegWrite) (sp : Spec) (flags : W32) :
    (c.fixedWave sp ws flags w).still.bare = w.still.bare := by
  have h0 : ∀ i, ({ w with inflight := i, wait := none } : Wave).still.bare = w.still.bare := fun i => by
    conv_rhs => rw [← w.eta_wait hw]
    rfl
  unfold Ctx.fixedWave
  simp only
  rw [rest_flagUp, rest_writeRegs]
  cases sp.held <;> exact h0 (c.w.inflight.filter fun p => !(p.landed && p.short == 0))

theorem control_fixedWave (c : Ctx) (ws : List RegWrite) (sp : Spec) (flags : W32) (w : Wave) :
    (c.fixedWave sp ws flags w).pc = w.pc ∧ (c.fixedWave sp ws flags w).active = w.active := by
  unfold Ctx.fixedWave
  simp only
  refine ⟨(pc_flagUp _ _ _).trans ((pc_writeRegs _ _ _).trans ?_), (active_flagUp _ _ _).trans ((active_writeRegs _ _ _).trans ?_)⟩ <;>
    cases sp.held <;> rfl

theorem kget_fixedWave (c : Ctx) (ws : List RegWrite) (sp : Spec) (flags : W32) (w : Wave) {n : Nat} (hn : n < 12) :
    (c.fixedWave sp ws flags w).kget n = w.kget n + if sp.ctl.sig.toNat = n then 1 else 0 := by
  unfold Ctx.fixedWave
  simp only
  rw [show ∀ (u : Wave) (i : List InFlight), ({ u with inflight := i } : Wave).kget n = u.kget n from fun _ _ => rfl,
    kget_flagUp _ hn, writeRegs_files]
  cases sp.held <;> rfl

/-- Everything a fixed-latency instruction does, where its wave stands in the slot without a wait. -/
theorem fixed_outcome {s : State} {c : Ctx} {ctl : Ctl} (hc : s.ctx ctl = some c) (hw : c.w.wait = none) (sp : Spec)
    (ws : List RegWrite) (flags : W32) (hws : ∀ x ∈ ws, x.reg.word x.lane) :
    FixedOutcome s ((s.fixed c sp ws flags).advance c.id) c sp ws flags := by
  obtain ⟨hid, w, hwv, hcw, hact, -, -, -⟩ := ctx_spec hc
  have hwait : w.wait = none := by rw [hcw] at hw; exact hw
  have hfix := wave?_fixed (c := c) (s := s) (w := w) (by rw [hid]; exact hwv) sp ws flags
  rw [hid] at hfix
  have honly : OnlyWave s (s.fixed c sp ws flags) := by
    rw [fixed_eq]
    unfold State.issue
    rw [hid]
    exact (onlyWave_modWave s _).trans (onlyWave_modWave _ _)
  have hsw := wave_eq_of_wave? hwv
  obtain ⟨hpc, hact'⟩ := control_fixedWave c ws sp flags w
  have hkey := wave_finish (s := s.fixed c sp ws flags) hfix fun _ => none
  rw [show (s.fixed c sp ws flags).advance c.id = (s.fixed c sp ws flags).finish s.cur fun _ => none by rw [hid]; rfl]
  have hframe := honly.trans (onlyWave_finish (s.fixed c sp ws flags) fun _ => none)
  have hnext : ∀ l, l < 32 → ((c.fixedWave sp ws flags w).complete fun _ => none).pcAt l =
      if c.active.getLsbD l then w.pcAt l + 8 else w.pcAt l := by
    intro l hl
    rw [pcAt_complete _ _ hl, hact', hact]
    unfold Wave.pcAt
    rw [hpc]
    rfl
  have hlast : (c.fixedWave sp ws flags w).inflight.getLast?.map (fun p => (p.short, p.sig, p.flags, p.landed)) =
      some (sp.lat, sp.ctl.sig.toNat, flags, false) := by
    unfold Ctx.fixedWave
    simp
  rw [show (s.fixed c sp ws flags).cur = s.cur from rfl] at hkey hframe
  rcases hkey with hk | hk
  · exact ⟨hframe, by rw [hk, hsw]; exact rest_fixedWave hwait c ws sp flags,
      fun r l hr => by rw [hk, hsw]; exact regGet_fixedWave hws sp flags w hr,
      fun l hl => by rw [hk, hsw]; exact hnext l hl, by rw [hk]; exact hlast,
      fun n hn => by rw [hk, hsw]; exact kget_fixedWave c ws sp flags w hn⟩
  · exact ⟨hframe, by rw [hk, hsw]; exact rest_fixedWave hwait c ws sp flags,
      fun r l hr => by rw [hk, hsw]; exact regGet_fixedWave hws sp flags w hr,
      fun l hl => by rw [hk, hsw]; exact hnext l hl, by rw [hk]; exact hlast,
      fun n hn => by rw [hk, hsw]; exact kget_fixedWave c ws sp flags w hn⟩

/-- A fixed-latency instruction: wherever it passes every check it has its outcome. -/
theorem fixedResult_of {i : Instr} {sp : Spec} {own : Ctx → List Fail} {ws : Ctx → List RegWrite} {flags : Ctx → W32}
    {resume : Ctx → Wait → State → State} {body : Ctx → State → State}
    (hexec : ∀ s, exec i s = .next (run sp own resume body s))
    (hbody : ∀ s c, s.clear sp own = some c → body c s = (s.fixed c sp (ws c) (flags c)).advance c.id)
    (hws : ∀ c, ∀ x ∈ ws c, x.reg.word x.lane) : FixedResult i sp own ws flags := by
  intro s c hc
  obtain ⟨hctx, hwt, -⟩ := clear_spec hc
  refine ⟨_, by rw [hexec, run_clear hc, hbody s c hc], fixed_outcome hctx hwt sp (ws c) (flags c) (hws c)⟩

end Sys2Proof.Machine
end

