-- ==== Sys2Proof/Laws/Memory.lean ====
section
/-! SUPPORT. Home memory: every operation that stores to it keeps its canonical form, and what a byte reads as after a store. -/

namespace Sys2Proof.Machine

open Sys2Proof

/-- Every fold of steps that keep the canonical form keeps it. -/
theorem memoryCanonical_foldl {β : Type} {g : State → β → State} (l : List β)
    (hg : ∀ t b, t.MemoryCanonical → (g t b).MemoryCanonical) :
    ∀ s : State, s.MemoryCanonical → (l.foldl g s).MemoryCanonical := by
  induction l with
  | nil => exact fun _ h => h
  | cons b t ih => exact fun s h => ih _ (hg s b h)

/-- States with the same memory are canonical together. -/
theorem MemoryCanonical.of_mem_eq {s t : State} (h : s.MemoryCanonical) (e : t.mem = s.mem) : t.MemoryCanonical := by
  unfold State.MemoryCanonical at h ⊢; rw [e]; exact h

theorem storeUnit_canonical {s : State} (h : s.MemoryCanonical) (u : Nat) (bs : List (Option Byte)) :
    (s.storeUnit u bs).MemoryCanonical := by
  have fold : ∀ (l : List (Nat × Option Byte)) (m : List Host.Cell), Memory.wf m = true →
      Memory.wf (l.foldl (fun m e => match e.2 with
        | none => m
        | some b => spSet 0 m (s.memKey (u + e.1)) b) m) = true := by
    intro l
    induction l with
    | nil => exact fun _ hm => hm
    | cons e t ih =>
      intro m hm
      obtain ⟨i, o⟩ := e
      cases o with
      | none => exact ih m hm
      | some b => exact ih _ (spWf_spSet hm _ _)
  exact fold _ _ h

@[simp] theorem withDigest_mem (s : State) (pa : Nat) (f : State → State) : (s.withDigest pa f).mem = (f s).mem := by
  unfold State.withDigest; split <;> rfl

theorem withDigest_canonical {s : State} (pa : Nat) {f : State → State} (h : (f s).MemoryCanonical) :
    (s.withDigest pa f).MemoryCanonical := MemoryCanonical.of_mem_eq h (withDigest_mem s pa f)

theorem writeUnit_canonical {s : State} (h : s.MemoryCanonical) (u : Nat) (bs : List (Option Byte)) :
    (s.writeUnit u bs).MemoryCanonical := by
  unfold State.writeUnit
  split
  · exact h
  · split
    · split
      · exact withDigest_canonical u (storeUnit_canonical h u bs)
      · exact h
    · exact withDigest_canonical u (storeUnit_canonical h u bs)

theorem writeRun_canonical {s : State} (h : s.MemoryCanonical) (pa : Nat) (bs : List (Option Byte)) :
    (s.writeRun pa bs).MemoryCanonical :=
  memoryCanonical_foldl _ (fun _ _ ht => writeUnit_canonical ht _ _) s h

theorem writeBytes_canonical {s : State} (h : s.MemoryCanonical) (pa : Nat) (bs : List Byte) :
    (s.writeBytes pa bs).MemoryCanonical := writeRun_canonical h pa _

@[simp] theorem addPoison_mem (s : State) (pa : Nat) : (s.addPoison pa).mem = s.mem := by
  unfold State.addPoison; simp only; split <;> rfl

@[simp] theorem countDie_mem (s : State) (die n k : Nat) : (s.countDie die n k).mem = s.mem := rfl
@[simp] theorem countCore_mem (s : State) (core n k : Nat) : (s.countCore core n k).mem = s.mem := rfl

theorem writeHome_canonical {s : State} (h : s.MemoryCanonical) (pa : Nat) (bs : List Byte) :
    (s.writeHome pa bs).MemoryCanonical := by
  unfold State.writeHome
  split
  · exact h
  · exact writeBytes_canonical h _ _

theorem interrupt_canonical {s : State} (h : s.MemoryCanonical) (die kind tenant loc wave : Nat) (detail : W64) :
    (s.interrupt die kind tenant loc wave detail).MemoryCanonical := by
  unfold State.interrupt
  simp only
  split
  · exact h
  · exact writeHome_canonical h _ _

/-- A byte of memory after one byte of a sparse map is written: the written value at its own place, else the old one. -/
theorem readByte_of_mem (s t : State) (k : Nat) (b : Byte) (pa : Nat) (hm : t.mem = spSet 0 s.mem k b)
    (hk : t.memKey pa = s.memKey pa) : t.readByte pa = if k = s.memKey pa then b else s.readByte pa := by
  unfold State.readByte; rw [hm, hk]; exact spGet_spSet 0 s.mem k _ b

theorem reset_memoryCanonical_data : Memory.wf State.reset.mem = true := rfl

end Sys2Proof.Machine
end

