-- ==== Sys2Proof/Laws/PerInstr.lean ====
section
/-! SUPPORT. Per instruction: what is well formed has a word. -/

namespace Sys2Proof.Laws.WordForm

open Sys2Proof

/-- A well-formed instruction has a word (05 R130, R140); a step of the device has none and is not well formed. -/
def Statement (i : Instr) : Prop := i.wf = true → (encode i).isSome = true

theorem illegal (w : BitVec 64) : Statement (.illegal w) := fun _ => rfl
theorem vadd (f : F) : Statement (.vadd f) := fun _ => rfl
theorem vsub (f : F) : Statement (.vsub f) := fun _ => rfl
theorem vmul (f : F) : Statement (.vmul f) := fun _ => rfl
theorem vmulhi (f : F) : Statement (.vmulhi f) := fun _ => rfl
theorem vmad (f : F) : Statement (.vmad f) := fun _ => rfl
theorem vdiv (f : F) : Statement (.vdiv f) := fun _ => rfl
theorem vrem (f : F) : Statement (.vrem f) := fun _ => rfl
theorem vmin (f : F) : Statement (.vmin f) := fun _ => rfl
theorem vmax (f : F) : Statement (.vmax f) := fun _ => rfl
theorem vabs (f : F) : Statement (.vabs f) := fun _ => rfl
theorem vneg (f : F) : Statement (.vneg f) := fun _ => rfl
theorem vfma (f : F) : Statement (.vfma f) := fun _ => rfl
theorem vaddi (f : F16) : Statement (.vaddi f) := fun _ => rfl
theorem vmuli (f : F16) : Statement (.vmuli f) := fun _ => rfl
theorem vshladd (f : F) : Statement (.vshladd f) := fun _ => rfl
theorem vand (f : F) : Statement (.vand f) := fun _ => rfl
theorem vor (f : F) : Statement (.vor f) := fun _ => rfl
theorem vxor (f : F) : Statement (.vxor f) := fun _ => rfl
theorem vnot (f : F) : Statement (.vnot f) := fun _ => rfl
theorem vshl (f : F) : Statement (.vshl f) := fun _ => rfl
theorem vshr (f : F) : Statement (.vshr f) := fun _ => rfl
theorem vsar (f : F) : Statement (.vsar f) := fun _ => rfl
theorem vrot (f : F) : Statement (.vrot f) := fun _ => rfl
theorem vpopc (f : F) : Statement (.vpopc f) := fun _ => rfl
theorem vclz (f : F) : Statement (.vclz f) := fun _ => rfl
theorem vctz (f : F) : Statement (.vctz f) := fun _ => rfl
theorem vbrev (f : F) : Statement (.vbrev f) := fun _ => rfl
theorem vbfx (f : F) : Statement (.vbfx f) := fun _ => rfl
theorem vbfi (f : F) : Statement (.vbfi f) := fun _ => rfl
theorem vandi (f : F16) : Statement (.vandi f) := fun _ => rfl
theorem vori (f : F16) : Statement (.vori f) := fun _ => rfl
theorem vcmp (f : F) : Statement (.vcmp f) := fun _ => rfl
theorem vcmpi (f : F16) : Statement (.vcmpi f) := fun _ => rfl
theorem pand (f : F) : Statement (.pand f) := fun _ => rfl
theorem por (f : F) : Statement (.por f) := fun _ => rfl
theorem pxor (f : F) : Statement (.pxor f) := fun _ => rfl
theorem pnot (f : F) : Statement (.pnot f) := fun _ => rfl
theorem pmov (f : F) : Statement (.pmov f) := fun _ => rfl
theorem vprd (f : F) : Statement (.vprd f) := fun _ => rfl
theorem vsel (f : F) : Statement (.vsel f) := fun _ => rfl
theorem vmov (f : F) : Statement (.vmov f) := fun _ => rfl
theorem vmovi (f : F32) : Statement (.vmovi f) := fun _ => rfl
theorem vmovl (f : F16) : Statement (.vmovl f) := fun _ => rfl
theorem vmovh (f : F16) : Statement (.vmovh f) := fun _ => rfl
theorem vclass (f : F) : Statement (.vclass f) := fun _ => rfl
theorem vexp2 (f : F) : Statement (.vexp2 f) := fun _ => rfl
theorem vlog2 (f : F) : Statement (.vlog2 f) := fun _ => rfl
theorem vrcp (f : F) : Statement (.vrcp f) := fun _ => rfl
theorem vrsq (f : F) : Statement (.vrsq f) := fun _ => rfl
theorem vrnd (f : F) : Statement (.vrnd f) := fun _ => rfl
theorem vcvt (f : F) : Statement (.vcvt f) := fun _ => rfl
theorem vcvti (f : F) : Statement (.vcvti f) := fun _ => rfl
theorem vpack (f : F) : Statement (.vpack f) := fun _ => rfl
theorem vunpk (f : F) : Statement (.vunpk f) := fun _ => rfl
theorem vshfl (f : F) : Statement (.vshfl f) := fun _ => rfl
theorem vballot (f : F) : Statement (.vballot f) := fun _ => rfl
theorem vred (f : F) : Statement (.vred f) := fun _ => rfl
theorem vminidx (f : F) : Statement (.vminidx f) := fun _ => rfl
theorem vmaxidx (f : F) : Statement (.vmaxidx f) := fun _ => rfl
theorem vfold (f : F) : Statement (.vfold f) := fun _ => rfl
theorem vbcst (f : F) : Statement (.vbcst f) := fun _ => rfl
theorem vtopk (f : F) : Statement (.vtopk f) := fun _ => rfl
theorem vtopkm (f : F) : Statement (.vtopkm f) := fun _ => rfl
theorem vsmx (f : F) : Statement (.vsmx f) := fun _ => rfl
theorem vsmxmLane (f : F) : Statement (.vsmxmLane f) := fun _ => rfl
theorem vsmxmWave (f : F) : Statement (.vsmxmWave f) := fun _ => rfl
theorem sample (f : F) : Statement (.sample f) := fun _ => rfl
theorem vrand (f : F) : Statement (.vrand f) := fun _ => rfl
theorem nsrd (f : F) : Statement (.nsrd f) := fun _ => rfl
theorem nsclr (f : F) : Statement (.nsclr f) := fun _ => rfl
theorem sadd (f : F) : Statement (.sadd f) := fun _ => rfl
theorem ssub (f : F) : Statement (.ssub f) := fun _ => rfl
theorem smul (f : F) : Statement (.smul f) := fun _ => rfl
theorem smulhi (f : F) : Statement (.smulhi f) := fun _ => rfl
theorem sdiv (f : F) : Statement (.sdiv f) := fun _ => rfl
theorem srem (f : F) : Statement (.srem f) := fun _ => rfl
theorem smin (f : F) : Statement (.smin f) := fun _ => rfl
theorem smax (f : F) : Statement (.smax f) := fun _ => rfl
theorem sand (f : F) : Statement (.sand f) := fun _ => rfl
theorem sor (f : F) : Statement (.sor f) := fun _ => rfl
theorem sxor (f : F) : Statement (.sxor f) := fun _ => rfl
theorem snot (f : F) : Statement (.snot f) := fun _ => rfl
theorem sshl (f : F) : Statement (.sshl f) := fun _ => rfl
theorem sshr (f : F) : Statement (.sshr f) := fun _ => rfl
theorem ssar (f : F) : Statement (.ssar f) := fun _ => rfl
theorem spopc (f : F) : Statement (.spopc f) := fun _ => rfl
theorem sclz (f : F) : Statement (.sclz f) := fun _ => rfl
theorem sctz (f : F) : Statement (.sctz f) := fun _ => rfl
theorem scmp (f : F) : Statement (.scmp f) := fun _ => rfl
theorem ssel (f : F) : Statement (.ssel f) := fun _ => rfl
theorem smov (f : F) : Statement (.smov f) := fun _ => rfl
theorem smovi (f : F32) : Statement (.smovi f) := fun _ => rfl
theorem smovl (f : F16) : Statement (.smovl f) := fun _ => rfl
theorem smovh (f : F16) : Statement (.smovh f) := fun _ => rfl
theorem saddi (f : F16) : Statement (.saddi f) := fun _ => rfl
theorem sfold (f : F) : Statement (.sfold f) := fun _ => rfl
theorem ld (f : F) : Statement (.ld f) := fun _ => rfl
theorem st (f : F) : Statement (.st f) := fun _ => rfl
theorem ldc (f : F) : Statement (.ldc f) := fun _ => rfl
theorem stc (f : F) : Statement (.stc f) := fun _ => rfl
theorem atom (f : F) : Statement (.atom f) := fun _ => rfl
theorem red (f : F) : Statement (.red f) := fun _ => rfl
theorem ald (f : F) : Statement (.ald f) := fun _ => rfl
theorem kick (f : F) : Statement (.kick f) := fun _ => rfl
theorem gath (f : F) : Statement (.gath f) := fun _ => rfl
theorem fexp (f : F) : Statement (.fexp f) := fun _ => rfl
theorem frev (f : F) : Statement (.frev f) := fun _ => rfl
theorem frd (f : F) : Statement (.frd f) := fun _ => rfl
theorem fwr (f : F) : Statement (.fwr f) := fun _ => rfl
theorem fence (f : F) : Statement (.fence f) := fun _ => rfl
theorem fwait (f : F) : Statement (.fwait f) := fun _ => rfl
theorem binit (f : F) : Statement (.binit f) := fun _ => rfl
theorem barv (f : F) : Statement (.barv f) := fun _ => rfl
theorem bcnt (f : F) : Statement (.bcnt f) := fun _ => rfl
theorem bwait (f : F) : Statement (.bwait f) := fun _ => rfl
theorem phreg (f : F) : Statement (.phreg f) := fun _ => rfl
theorem phdrop (f : F) : Statement (.phdrop f) := fun _ => rfl
theorem phsig (f : F) : Statement (.phsig f) := fun _ => rfl
theorem phwait (f : F) : Statement (.phwait f) := fun _ => rfl
theorem phadv (f : F) : Statement (.phadv f) := fun _ => rfl
theorem evrd (f : F) : Statement (.evrd f) := fun _ => rfl
theorem sqreg (f : F) : Statement (.sqreg f) := fun _ => rfl
theorem sqpushRes (f : F) : Statement (.sqpushRes f) := fun _ => rfl
theorem sqpushCom (f : F) : Statement (.sqpushCom f) := fun _ => rfl
theorem sqpopRes (f : F) : Statement (.sqpopRes f) := fun _ => rfl
theorem sqpopCom (f : F) : Statement (.sqpopCom f) := fun _ => rfl
theorem sqstat (f : F) : Statement (.sqstat f) := fun _ => rfl
theorem amsend (f : F) : Statement (.amsend f) := fun _ => rfl
theorem cseg (f : F16) : Statement (.cseg f) := fun _ => rfl
theorem nop (f : F) : Statement (.nop f) := fun _ => rfl
theorem bra (f : F32) : Statement (.bra f) := fun _ => rfl
theorem brany (f : F32) : Statement (.brany f) := fun _ => rfl
theorem brall (f : F32) : Statement (.brall f) := fun _ => rfl
theorem brs (f : F32) : Statement (.brs f) := fun _ => rfl
theorem jmpi (f : F) : Statement (.jmpi f) := fun _ => rfl
theorem meetLabel (f : F32) : Statement (.meetLabel f) := fun _ => rfl
theorem meetRegister (f : F32) : Statement (.meetRegister f) := fun _ => rfl
theorem meetNone (f : F32) : Statement (.meetNone f) := fun _ => rfl
theorem call (f : F32) : Statement (.call f) := fun _ => rfl
theorem calli (f : F) : Statement (.calli f) := fun _ => rfl
theorem ret (f : F) : Statement (.ret f) := fun _ => rfl
theorem exit (f : F) : Statement (.exit f) := fun _ => rfl
theorem launch (f : F) : Statement (.launch f) := fun _ => rfl
theorem launcht (f : F) : Statement (.launcht f) := fun _ => rfl
theorem join (f : F) : Statement (.join f) := fun _ => rfl
theorem yield (f : F) : Statement (.yield f) := fun _ => rfl
theorem trap (f : F16) : Statement (.trap f) := fun _ => rfl
theorem breakI (f : F16) : Statement (.breakI f) := fun _ => rfl
theorem tclr (f : F) : Statement (.tclr f) := fun _ => rfl
theorem tret (f : F) : Statement (.tret f) := fun _ => rfl
theorem tdesc (f : F) : Statement (.tdesc f) := fun _ => rfl
theorem tld (f : F) : Statement (.tld f) := fun _ => rfl
theorem tmma (f : F) : Statement (.tmma f) := fun _ => rfl
theorem tew (f : F) : Statement (.tew f) := fun _ => rfl
theorem tmap (f : F) : Statement (.tmap f) := fun _ => rfl
theorem tred (f : F) : Statement (.tred f) := fun _ => rfl
theorem tcvt (f : F) : Statement (.tcvt f) := fun _ => rfl
theorem tforce (f : F) : Statement (.tforce f) := fun _ => rfl
theorem tst (f : F) : Statement (.tst f) := fun _ => rfl
theorem tgrow (f : F16) : Statement (.tgrow f) := fun _ => rfl
theorem sqry (f : F) : Statement (.sqry f) := fun _ => rfl
theorem sapp (f : F) : Statement (.sapp f) := fun _ => rfl
theorem smrg (f : F) : Statement (.smrg f) := fun _ => rfl
theorem xred (f : F) : Statement (.xred f) := fun _ => rfl
theorem xall (f : F) : Statement (.xall f) := fun _ => rfl
theorem xgath (f : F) : Statement (.xgath f) := fun _ => rfl
theorem xbcst (f : F) : Statement (.xbcst f) := fun _ => rfl
theorem xbar (f : F) : Statement (.xbar f) := fun _ => rfl
theorem sysrd (f : F) : Statement (.sysrd f) := fun _ => rfl
theorem syswr (f : F) : Statement (.syswr f) := fun _ => rfl
theorem asinv (f : F) : Statement (.asinv f) := fun _ => rfl
theorem killb (f : F) : Statement (.killb f) := fun _ => rfl
theorem ctxsv (f : F) : Statement (.ctxsv f) := fun _ => rfl
theorem ctxld (f : F) : Statement (.ctxld f) := fun _ => rfl
theorem remap (f : F) : Statement (.remap f) := fun _ => rfl
theorem wstatWrite (w : WaveId) (v : BitVec 64) : Statement (.wstatWrite w v) := fun h => Bool.noConfusion (show false = true from h)
theorem rpcmdRegister (v : BitVec 64) : Statement (.rpcmdRegister v) := fun h => Bool.noConfusion (show false = true from h)
theorem rpcmdRemove (v : BitVec 64) : Statement (.rpcmdRemove v) := fun h => Bool.noConfusion (show false = true from h)
theorem clauseIssue (core : Nat) : Statement (.clauseIssue core) := fun h => Bool.noConfusion (show false = true from h)
theorem icacheFill (core asid line : Nat) : Statement (.icacheFill core asid line) := fun h => Bool.noConfusion (show false = true from h)
theorem translationWalk (w : WaveId) (entry : Nat) : Statement (.translationWalk w entry) := fun h => Bool.noConfusion (show false = true from h)
theorem fixedLatencyWriteback (w : WaveId) : Statement (.fixedLatencyWriteback w) := fun h => Bool.noConfusion (show false = true from h)
theorem vfoldStamp (w : WaveId) : Statement (.vfoldStamp w) := fun h => Bool.noConfusion (show false = true from h)
theorem loadResponse (w : WaveId) (entry : Nat) : Statement (.loadResponse w entry) := fun h => Bool.noConfusion (show false = true from h)
theorem operandLogFault (w : WaveId) (entry : Nat) : Statement (.operandLogFault w entry) := fun h => Bool.noConfusion (show false = true from h)
theorem atomicAtHome (w : WaveId) (entry : Nat) : Statement (.atomicAtHome w entry) := fun h => Bool.noConfusion (show false = true from h)
theorem sealedLineApply (uid line : Nat) : Statement (.sealedLineApply uid line) := fun h => Bool.noConfusion (show false = true from h)
theorem engineReturnLand (op : Nat) : Statement (.engineReturnLand op) := fun h => Bool.noConfusion (show false = true from h)
theorem engineComplete (op : Nat) : Statement (.engineComplete op) := fun h => Bool.noConfusion (show false = true from h)
theorem frondOwnerAccess (w : WaveId) (entry : Nat) : Statement (.frondOwnerAccess w entry) := fun h => Bool.noConfusion (show false = true from h)
theorem frondResponse (w : WaveId) (entry : Nat) : Statement (.frondResponse w entry) := fun h => Bool.noConfusion (show false = true from h)
theorem tileSubtileEval (core slot : Nat) : Statement (.tileSubtileEval core slot) := fun h => Bool.noConfusion (show false = true from h)
theorem sieveCommandAccept (op : Nat) : Statement (.sieveCommandAccept op) := fun h => Bool.noConfusion (show false = true from h)
theorem sievePartialSend (op sieve : Nat) : Statement (.sievePartialSend op sieve) := fun h => Bool.noConfusion (show false = true from h)
theorem sieveRecordLand (op sieve : Nat) : Statement (.sieveRecordLand op sieve) := fun h => Bool.noConfusion (show false = true from h)
theorem sappApply (op : Nat) : Statement (.sappApply op) := fun h => Bool.noConfusion (show false = true from h)
theorem bankRefresh (pc bank : Nat) : Statement (.bankRefresh pc bank) := fun h => Bool.noConfusion (show false = true from h)
theorem refreshEnd (pc bank : Nat) : Statement (.refreshEnd pc bank) := fun h => Bool.noConfusion (show false = true from h)
theorem channelRequestArrive (pc : Nat) (r : ChanReq) : Statement (.channelRequestArrive pc r) := fun h => Bool.noConfusion (show false = true from h)
theorem columnSlot (pc : Nat) : Statement (.columnSlot pc) := fun h => Bool.noConfusion (show false = true from h)
theorem stackCrcError (pc : Nat) (b : Burst) : Statement (.stackCrcError pc b) := fun h => Bool.noConfusion (show false = true from h)
theorem crossbarGrant (die port : Nat) : Statement (.crossbarGrant die port) := fun h => Bool.noConfusion (show false = true from h)
theorem switchForward (plane tier switch : Nat) : Statement (.switchForward plane tier switch) := fun h => Bool.noConfusion (show false = true from h)
theorem escapeMove (die port cls : Nat) : Statement (.escapeMove die port cls) := fun h => Bool.noConfusion (show false = true from h)
theorem packetDeliver (die port : Nat) : Statement (.packetDeliver die port) := fun h => Bool.noConfusion (show false = true from h)
theorem linkFlitReceive (link : Nat) (f : Flit) : Statement (.linkFlitReceive link f) := fun h => Bool.noConfusion (show false = true from h)
theorem linkNak (link seq : Nat) : Statement (.linkNak link seq) := fun h => Bool.noConfusion (show false = true from h)
theorem windowContributionApply (group : Nat) : Statement (.windowContributionApply group) := fun h => Bool.noConfusion (show false = true from h)
theorem windowAckReceive (group : Nat) : Statement (.windowAckReceive group) := fun h => Bool.noConfusion (show false = true from h)
theorem windowClose (tenant tag package : Nat) : Statement (.windowClose tenant tag package) := fun h => Bool.noConfusion (show false = true from h)
theorem collectiveMeet (tenant cid : Nat) : Statement (.collectiveMeet tenant cid) := fun h => Bool.noConfusion (show false = true from h)
theorem collectiveComplete (op : Nat) : Statement (.collectiveComplete op) := fun h => Bool.noConfusion (show false = true from h)
theorem blockRetire (core slot : Nat) : Statement (.blockRetire core slot) := fun h => Bool.noConfusion (show false = true from h)
theorem launchComplete (launch : Nat) : Statement (.launchComplete launch) := fun h => Bool.noConfusion (show false = true from h)
theorem tailStart (launch : Nat) : Statement (.tailStart launch) := fun h => Bool.noConfusion (show false = true from h)
theorem blockDispatch (die : Nat) : Statement (.blockDispatch die) := fun h => Bool.noConfusion (show false = true from h)
theorem ticketSteal (die group : Nat) : Statement (.ticketSteal die group) := fun h => Bool.noConfusion (show false = true from h)
theorem dispatchAging (die launch : Nat) : Statement (.dispatchAging die launch) := fun h => Bool.noConfusion (show false = true from h)
theorem blockFlush (core slot : Nat) : Statement (.blockFlush core slot) := fun h => Bool.noConfusion (show false = true from h)
theorem blockSave (core slot : Nat) : Statement (.blockSave core slot) := fun h => Bool.noConfusion (show false = true from h)
theorem contextWrite (core slot : Nat) : Statement (.contextWrite core slot) := fun h => Bool.noConfusion (show false = true from h)
theorem drainTimeout (core slot : Nat) : Statement (.drainTimeout core slot) := fun h => Bool.noConfusion (show false = true from h)
theorem sliceExpire (core slot : Nat) : Statement (.sliceExpire core slot) := fun h => Bool.noConfusion (show false = true from h)
theorem sliceContinue (core slot : Nat) : Statement (.sliceContinue core slot) := fun h => Bool.noConfusion (show false = true from h)
theorem doorbell (q : Nat) (wide : Bool) (v : BitVec 64) : Statement (.doorbell q wide v) := fun h => Bool.noConfusion (show false = true from h)
theorem qcfgWrite (q : Nat) (v : BitVec 64) : Statement (.qcfgWrite q v) := fun h => Bool.noConfusion (show false = true from h)
theorem qstatWrite (q : Nat) (v : BitVec 64) : Statement (.qstatWrite q v) := fun h => Bool.noConfusion (show false = true from h)
theorem queueRegisterWrite (q : Nat) (grp : Bool) (v : BitVec 64) : Statement (.queueRegisterWrite q grp v) := fun h => Bool.noConfusion (show false = true from h)
theorem queueAging (q : Nat) : Statement (.queueAging q) := fun h => Bool.noConfusion (show false = true from h)
theorem queueRecordRead : Statement (.queueRecordRead) := fun h => Bool.noConfusion (show false = true from h)
theorem queueRecordArrive (q : Nat) (pcieError : Bool) : Statement (.queueRecordArrive q pcieError) := fun h => Bool.noConfusion (show false = true from h)
theorem launchArriveDie (launch die : Nat) : Statement (.launchArriveDie launch die) := fun h => Bool.noConfusion (show false = true from h)
theorem pcieMemoryWrite (addr : Nat) (bytes : List (BitVec 8)) : Statement (.pcieMemoryWrite addr bytes) := fun h => Bool.noConfusion (show false = true from h)
theorem ladleMove (die : Nat) : Statement (.ladleMove die) := fun h => Bool.noConfusion (show false = true from h)
theorem amArrive (core : Nat) (m : Message) : Statement (.amArrive core m) := fun h => Bool.noConfusion (show false = true from h)
theorem trapOverrun (w : WaveId) : Statement (.trapOverrun w) := fun h => Bool.noConfusion (show false = true from h)
theorem errorWindowExpire (die : Nat) : Statement (.errorWindowExpire die) := fun h => Bool.noConfusion (show false = true from h)
theorem coldStart (i : StartInput) : Statement (.coldStart i) := fun h => Bool.noConfusion (show false = true from h)
theorem warmReset (i : StartInput) : Statement (.warmReset i) := fun h => Bool.noConfusion (show false = true from h)
theorem thermalTrip (die : Nat) : Statement (.thermalTrip die) := fun h => Bool.noConfusion (show false = true from h)
theorem attestationQuote (nonce : List (BitVec 8)) : Statement (.attestationQuote nonce) := fun h => Bool.noConfusion (show false = true from h)
theorem linkRetrainEnd (link : Nat) (ok : Bool) : Statement (.linkRetrainEnd link ok) := fun h => Bool.noConfusion (show false = true from h)

end Sys2Proof.Laws.WordForm
end

