-- ==== Sys2Proof/Tests/Slice0.lean ====
section
/-! SUPPORT. Tests: words of the spec's encodings, what is ill-formed, states that meet the obligations' hypotheses, and
worked examples of the spec. -/

namespace Sys2Proof.Tests

open Sys2Proof Sys2Proof.Machine

set_option Elab.async false

/-- Control fields without stall, flag, hold and guard, and with all of them. -/
def plain : Ctl := ⟨0, 15, 0, 127, 0⟩
def full : Ctl := ⟨3, 2, 1, 5, 1⟩

theorem test_decode_vector_arithmetic :
    ([0x0043CFE01C050241, 0x008C90B556AA3CEA, 0x00CC90B556AA3CEA, 0x010C90B556AA3CEA, 0x0143CFE050080240,
      0x0193C0201C050180, 0x01CC90B556AA3CEA, 0x020C90B556AA3CEA, 0x024C90B556AA3CEA, 0x028C90B556AA3CEA,
      0x02CC90B556AA3CEA, 0x0303CFE07801008A, 0x0343CFE01C0503E8, 0x038C90B556AA9C3B, 0x03C3CFE010050198,
      0x040C90B556AA3CEA, 0x044C90B556AA3CEA, 0x048C90B556AA3CEA, 0x04CC90B556AA3CEA, 0x050C90B556AA3CEA,
      0x054C90B556AA3CEA, 0x058C90B556AA3CEA, 0x05CC90B556AA3CEA, 0x060C90B556AA3CEA, 0x064C90B556AA3CEA,
      0x068C90B556AA3CEA, 0x06CC90B556AA3CEA, 0x0703CFE01802A141, 0x074C90B556AA3CEA, 0x078C90B556AA9C3B,
      0x07CC90B556AA9C3B, 0x0803CFE00C0AE012, 0x0843CFE010025FFB, 0x0883CFE01C030100, 0x08CC90B556AA3CEA,
      0x090C90B556AA3CEA, 0x094C90B556AA3CEA, 0x098C90B556AA3CEA, 0x09CC90B556AA3CEA, 0x0A03CFE02C0501A8,
      0x0A4C90B556AA3CEA, 0x0A83CFE33F800000, 0x0AC3CFE024001234, 0x0B0C90B556AA9C3B, 0x0B4C90B556AA3CEA] : List W64).map
      decodeWord =
    [.vadd ⟨plain, 0x7, 0x5, 0x9, 0x1⟩, .vsub ⟨full, 0x155, 0x2AA, 0xF3, 0x2A⟩, .vmul ⟨full, 0x155, 0x2AA, 0xF3, 0x2A⟩,
      .vmulhi ⟨full, 0x155, 0x2AA, 0xF3, 0x2A⟩, .vmad ⟨plain, 0x14, 0x8, 0x9, 0x0⟩, .vdiv ⟨⟨4, 15, 0, 1, 0⟩, 0x7, 0x5, 0x6,
      0x0⟩, .vrem ⟨full, 0x155, 0x2AA, 0xF3, 0x2A⟩, .vmin ⟨full, 0x155, 0x2AA, 0xF3, 0x2A⟩, .vmax ⟨full, 0x155, 0x2AA, 0xF3,
      0x2A⟩, .vabs ⟨full, 0x155, 0x2AA, 0xF3, 0x2A⟩, .vneg ⟨full, 0x155, 0x2AA, 0xF3, 0x2A⟩, .vfma ⟨plain, 0x1E, 0x1, 0x2,
      0xA⟩, .vaddi ⟨plain, 0x7, 0x5, 0x3E8⟩, .vmuli ⟨full, 0x155, 0x2AA, 0x9C3B⟩, .vshladd ⟨plain, 0x4, 0x5, 0x6, 0x18⟩,
      .vand ⟨full, 0x155, 0x2AA, 0xF3, 0x2A⟩, .vor ⟨full, 0x155, 0x2AA, 0xF3, 0x2A⟩, .vxor ⟨full, 0x155, 0x2AA, 0xF3, 0x2A⟩,
      .vnot ⟨full, 0x155, 0x2AA, 0xF3, 0x2A⟩, .vshl ⟨full, 0x155, 0x2AA, 0xF3, 0x2A⟩, .vshr ⟨full, 0x155, 0x2AA, 0xF3,
      0x2A⟩, .vsar ⟨full, 0x155, 0x2AA, 0xF3, 0x2A⟩, .vrot ⟨full, 0x155, 0x2AA, 0xF3, 0x2A⟩, .vpopc ⟨full, 0x155, 0x2AA,
      0xF3, 0x2A⟩, .vclz ⟨full, 0x155, 0x2AA, 0xF3, 0x2A⟩, .vctz ⟨full, 0x155, 0x2AA, 0xF3, 0x2A⟩, .vbrev ⟨full, 0x155,
      0x2AA, 0xF3, 0x2A⟩, .vbfx ⟨plain, 0x6, 0x2, 0x285, 0x1⟩, .vbfi ⟨full, 0x155, 0x2AA, 0xF3, 0x2A⟩, .vandi ⟨full, 0x155,
      0x2AA, 0x9C3B⟩, .vori ⟨full, 0x155, 0x2AA, 0x9C3B⟩, .vcmp ⟨plain, 0x3, 0xA, 0x380, 0x12⟩, .vcmpi ⟨plain, 0x4, 0x2,
      0x5FFB⟩, .pand ⟨plain, 0x7, 0x3, 0x4, 0x0⟩, .por ⟨full, 0x155, 0x2AA, 0xF3, 0x2A⟩, .pxor ⟨full, 0x155, 0x2AA, 0xF3,
      0x2A⟩, .pnot ⟨full, 0x155, 0x2AA, 0xF3, 0x2A⟩, .pmov ⟨full, 0x155, 0x2AA, 0xF3, 0x2A⟩, .vprd ⟨full, 0x155, 0x2AA,
      0xF3, 0x2A⟩, .vsel ⟨plain, 0xB, 0x5, 0x6, 0x28⟩, .vmov ⟨full, 0x155, 0x2AA, 0xF3, 0x2A⟩, .vmovi ⟨plain, 0x3,
      0x3F800000⟩, .vmovl ⟨plain, 0x9, 0x0, 0x1234⟩, .vmovh ⟨full, 0x155, 0x2AA, 0x9C3B⟩, .vclass ⟨full, 0x155, 0x2AA, 0xF3,
      0x2A⟩] := by decide

theorem test_decode_vector_functions :
    ([0x0C03CFE00C040002, 0x0C4C90B556AA3CEA, 0x0C8C90B556AA3CEA, 0x0CCC90B556AA3CEA, 0x0D0C90B556AA3CEA,
      0x0D43CFE030080001, 0x0D83CFE014060011, 0x0DCC90B556AA3CEA, 0x0E0C90B556AA3CEA, 0x1003CFE00802EC18,
      0x1053C02A24030000, 0x1083CFEA240C0012, 0x10C3CFE0A00C0002, 0x110C90B556AA3CEA, 0x1143CFE0000E0002,
      0x118C90B556AA3CEA, 0x1403CFE040080243, 0x1443CFE040140003, 0x1483CFE06008A140, 0x14D3CFE0601C0000,
      0x14C3CFE068180001, 0x1503CFEA7810A183, 0x1543CFE04B80A201, 0x1603CFEA10000000, 0x1643CFE003B10000] : List W64).map
      decodeWord =
    [.vexp2 ⟨plain, 0x3, 0x4, 0x0, 0x2⟩, .vlog2 ⟨full, 0x155, 0x2AA, 0xF3, 0x2A⟩, .vrcp ⟨full, 0x155, 0x2AA, 0xF3, 0x2A⟩,
      .vrsq ⟨full, 0x155, 0x2AA, 0xF3, 0x2A⟩, .vrnd ⟨full, 0x155, 0x2AA, 0xF3, 0x2A⟩, .vcvt ⟨plain, 0xC, 0x8, 0x0, 0x1⟩,
      .vcvti ⟨plain, 0x5, 0x6, 0x0, 0x11⟩, .vpack ⟨full, 0x155, 0x2AA, 0xF3, 0x2A⟩, .vunpk ⟨full, 0x155, 0x2AA, 0xF3, 0x2A⟩,
      .vshfl ⟨plain, 0x2, 0x2, 0x3B0, 0x18⟩, .vballot ⟨⟨4, 15, 0, 1, 0⟩, 0x289, 0x3, 0x0, 0x0⟩, .vred ⟨plain, 0x289, 0xC,
      0x0, 0x12⟩, .vminidx ⟨plain, 0x28, 0xC, 0x0, 0x2⟩, .vmaxidx ⟨full, 0x155, 0x2AA, 0xF3, 0x2A⟩, .vfold ⟨plain, 0x0, 0xE,
      0x0, 0x2⟩, .vbcst ⟨full, 0x155, 0x2AA, 0xF3, 0x2A⟩, .vtopk ⟨plain, 0x10, 0x8, 0x9, 0x3⟩, .vtopkm ⟨plain, 0x10, 0x14,
      0x0, 0x3⟩, .vsmx ⟨plain, 0x18, 0x8, 0x285, 0x0⟩, .vsmxmLane ⟨⟨4, 15, 0, 127, 0⟩, 0x18, 0x1C, 0x0, 0x0⟩, .vsmxmWave
      ⟨plain, 0x1A, 0x18, 0x0, 0x1⟩, .sample ⟨plain, 0x29E, 0x10, 0x286, 0x3⟩, .vrand ⟨plain, 0x12, 0x380, 0x288, 0x1⟩,
      .nsrd ⟨plain, 0x284, 0x0, 0x0, 0x0⟩, .nsclr ⟨plain, 0x0, 0x3B1, 0x0, 0x0⟩] := by decide

theorem test_decode_scalar :
    ([0x2003CFEA2A8BA305, 0x204C90B556AA3CEA, 0x208C90B556AA3CEA, 0x20CC90B556AA3CEA, 0x210C90B556AA3CEA,
      0x214C90B556AA3CEA, 0x218C90B556AA3CEA, 0x21CC90B556AA3CEA, 0x220C90B556AA3CEA, 0x224C90B556AA3CEA,
      0x228C90B556AA3CEA, 0x22CC90B556AA3CEA, 0x230C90B556AA3CEA, 0x234C90B556AA3CEA, 0x238C90B556AA3CEA,
      0x23CC90B556AA3CEA, 0x240C90B556AA3CEA, 0x244C90B556AA3CEA, 0x248C90B556AA3CEA, 0x24CC90B556AA3CEA,
      0x250C90B556AA3CEA, 0x2543CFE3FFFFFFFF, 0x2583CFEA0C000001, 0x25CC90B556AA9C3B, 0x260FCFEA1A86FF81,
      0x2643CFEA0A870000] : List W64).map decodeWord =
    [.sadd ⟨plain, 0x28A, 0x28B, 0x28C, 0x5⟩, .ssub ⟨full, 0x155, 0x2AA, 0xF3, 0x2A⟩, .smul ⟨full, 0x155, 0x2AA, 0xF3,
      0x2A⟩, .smulhi ⟨full, 0x155, 0x2AA, 0xF3, 0x2A⟩, .sdiv ⟨full, 0x155, 0x2AA, 0xF3, 0x2A⟩, .srem ⟨full, 0x155, 0x2AA,
      0xF3, 0x2A⟩, .smin ⟨full, 0x155, 0x2AA, 0xF3, 0x2A⟩, .smax ⟨full, 0x155, 0x2AA, 0xF3, 0x2A⟩, .sand ⟨full, 0x155,
      0x2AA, 0xF3, 0x2A⟩, .sor ⟨full, 0x155, 0x2AA, 0xF3, 0x2A⟩, .sxor ⟨full, 0x155, 0x2AA, 0xF3, 0x2A⟩, .snot ⟨full, 0x155,
      0x2AA, 0xF3, 0x2A⟩, .sshl ⟨full, 0x155, 0x2AA, 0xF3, 0x2A⟩, .sshr ⟨full, 0x155, 0x2AA, 0xF3, 0x2A⟩, .ssar ⟨full,
      0x155, 0x2AA, 0xF3, 0x2A⟩, .spopc ⟨full, 0x155, 0x2AA, 0xF3, 0x2A⟩, .sclz ⟨full, 0x155, 0x2AA, 0xF3, 0x2A⟩, .sctz
      ⟨full, 0x155, 0x2AA, 0xF3, 0x2A⟩, .scmp ⟨full, 0x155, 0x2AA, 0xF3, 0x2A⟩, .ssel ⟨full, 0x155, 0x2AA, 0xF3, 0x2A⟩,
      .smov ⟨full, 0x155, 0x2AA, 0xF3, 0x2A⟩, .smovi ⟨plain, 0x3, 0xFFFFFFFF⟩, .smovl ⟨plain, 0x283, 0x0, 0x1⟩, .smovh
      ⟨full, 0x155, 0x2AA, 0x9C3B⟩, .saddi ⟨⟨3, 15, 0, 127, 0⟩, 0x286, 0x286, 0xFF81⟩, .sfold ⟨plain, 0x282, 0x287, 0x0,
      0x0⟩] := by decide

theorem test_decode_memory :
    ([0x40004FE02A840084, 0x4043CFE032840085, 0x4083CFE022830084, 0x40C3CFE02283008C, 0x41008FE0068600E9,
      0x4143CFE0168600CA, 0x41804FE0A2840084, 0x41C0CFE002850000, 0x4200CFE002850000, 0x4403CFEA22890000,
      0x4443CFE000000000, 0x44810FE0328800C0, 0x44C3CFE0328800C0] : List W64).map decodeWord =
    [.ld ⟨⟨0, 1, 0, 127, 0⟩, 0xA, 0x284, 0x2, 0x4⟩, .st ⟨plain, 0xC, 0x284, 0x2, 0x5⟩, .ldc ⟨plain, 0x8, 0x283, 0x2, 0x4⟩,
      .stc ⟨plain, 0x8, 0x283, 0x2, 0xC⟩, .atom ⟨⟨0, 2, 0, 127, 0⟩, 0x1, 0x286, 0x3, 0x29⟩, .red ⟨plain, 0x5, 0x286, 0x3,
      0xA⟩, .ald ⟨⟨0, 1, 0, 127, 0⟩, 0x28, 0x284, 0x2, 0x4⟩, .kick ⟨⟨0, 3, 0, 127, 0⟩, 0x0, 0x285, 0x0, 0x0⟩, .gath ⟨⟨0, 3,
      0, 127, 0⟩, 0x0, 0x285, 0x0, 0x0⟩, .fexp ⟨plain, 0x288, 0x289, 0x0, 0x0⟩, .frev ⟨plain, 0x0, 0x0, 0x0, 0x0⟩, .frd ⟨⟨0,
      4, 0, 127, 0⟩, 0xC, 0x288, 0x3, 0x0⟩, .fwr ⟨plain, 0xC, 0x288, 0x3, 0x0⟩] := by decide

theorem test_decode_sync :
    ([0x6003CFEA08000003, 0x6043CFE002820000, 0x6083CFE002830000, 0x60C3CFEA18000001, 0x6103CFE002850000,
      0x6143CFE002860001, 0x6183CFEA2A8B0003, 0x61CC90B556AA3CEA, 0x6203CFEA328B0000, 0x6243CFE0028BA300,
      0x6283CFEA52920000, 0x62C3CFEA50000000, 0x6303CFEA3294A100, 0x6343CFEA3A8D0000, 0x6343CFE0028DA3C3,
      0x6383CFEA1E940000, 0x638C90B556AA3CC1, 0x63C3CFEA2E940000, 0x6403CFE00290A440, 0x6F83CFEA1000A008] : List W64).map
      decodeWord =
    [.fence ⟨plain, 0x282, 0x0, 0x0, 0x3⟩, .fwait ⟨plain, 0x0, 0x282, 0x0, 0x0⟩, .binit ⟨plain, 0x0, 0x283, 0x0, 0x0⟩,
      .barv ⟨plain, 0x286, 0x0, 0x0, 0x1⟩, .bcnt ⟨plain, 0x0, 0x285, 0x0, 0x0⟩, .bwait ⟨plain, 0x0, 0x286, 0x0, 0x1⟩, .phreg
      ⟨plain, 0x28A, 0x28B, 0x0, 0x3⟩, .phdrop ⟨full, 0x155, 0x2AA, 0xF3, 0x2A⟩, .phsig ⟨plain, 0x28C, 0x28B, 0x0, 0x0⟩,
      .phwait ⟨plain, 0x0, 0x28B, 0x28C, 0x0⟩, .phadv ⟨plain, 0x294, 0x292, 0x0, 0x0⟩, .evrd ⟨plain, 0x294, 0x0, 0x0, 0x0⟩,
      .sqreg ⟨plain, 0x28C, 0x294, 0x284, 0x0⟩, .sqpushRes ⟨plain, 0x28E, 0x28D, 0x0, 0x0⟩, .sqpushCom ⟨plain, 0x0, 0x28D,
      0x28F, 0x3⟩, .sqpopRes ⟨plain, 0x287, 0x294, 0x0, 0x0⟩, .sqpopCom ⟨full, 0x155, 0x2AA, 0xF3, 0x1⟩, .sqstat ⟨plain,
      0x28B, 0x294, 0x0, 0x0⟩, .amsend ⟨plain, 0x0, 0x290, 0x291, 0x0⟩, .cseg ⟨plain, 0x284, 0x0, 0xA008⟩] := by decide

theorem test_decode_control :
    ([0x700C90B556AA3CEA, 0x7043CFE0FFFFFFFD, 0x7083CFE00E000004, 0x70CC90B912345678, 0x7103CFE380000002,
      0x7143CFE000140000, 0x7183CFE000000006, 0x7183CFE680000000, 0x718C90BF80000000, 0x71C3CFE400000014,
      0x7203CFE010140000, 0x7243CFE000040000, 0x728C90B556AA3CEA, 0x72C3CFEA52950000, 0x7303CFEA5A950000,
      0x7343CFEA62940001, 0x738C90B556AA3CEA, 0x73C3CFE000000042, 0x7403CFE000000007, 0x7443CFE002F80000,
      0x748C90B556AA3CEA] : List W64).map decodeWord =
    [.nop ⟨full, 0x155, 0x2AA, 0xF3, 0x2A⟩, .bra ⟨plain, 0x0, 0xFFFFFFFD⟩, .brany ⟨plain, 0x0, 0xE000004⟩, .brall ⟨full,
      0x9, 0x12345678⟩, .brs ⟨plain, 0x3, 0x80000002⟩, .jmpi ⟨plain, 0x0, 0x14, 0x0, 0x0⟩, .meetLabel ⟨plain, 0x0, 0x6⟩,
      .meetRegister ⟨plain, 0x6, 0x80000000⟩, .meetNone ⟨full, 0xF, 0x80000000⟩, .call ⟨plain, 0x4, 0x14⟩, .calli ⟨plain,
      0x4, 0x14, 0x0, 0x0⟩, .ret ⟨plain, 0x0, 0x4, 0x0, 0x0⟩, .exit ⟨full, 0x155, 0x2AA, 0xF3, 0x2A⟩, .launch ⟨plain, 0x294,
      0x295, 0x0, 0x0⟩, .launcht ⟨plain, 0x296, 0x295, 0x0, 0x0⟩, .join ⟨plain, 0x298, 0x294, 0x0, 0x1⟩, .yield ⟨full,
      0x155, 0x2AA, 0xF3, 0x2A⟩, .trap ⟨plain, 0x0, 0x0, 0x42⟩, .breakI ⟨plain, 0x0, 0x0, 0x7⟩, .tclr ⟨plain, 0x0, 0x2F8,
      0x0, 0x0⟩, .tret ⟨full, 0x155, 0x2AA, 0xF3, 0x2A⟩] := by decide

theorem test_decode_tile :
    ([0x8003CFE00E84A140, 0x8043CFE0028A0000, 0x8083CFE008000041, 0x80C3CFE0100240C0, 0x8103CFE018050000,
      0x8143CFE01C060000, 0x8183CFE020860000, 0x81C3CFE01FB10000, 0x82008FE01A8AA500, 0x9F83CFEA18000010] : List W64).map
      decodeWord =
    [.tdesc ⟨plain, 0x3, 0x284, 0x285, 0x0⟩, .tld ⟨plain, 0x0, 0x28A, 0x0, 0x0⟩, .tmma ⟨plain, 0x2, 0x0, 0x1, 0x1⟩, .tew
      ⟨plain, 0x4, 0x2, 0x103, 0x0⟩, .tmap ⟨plain, 0x6, 0x5, 0x0, 0x0⟩, .tred ⟨plain, 0x7, 0x6, 0x0, 0x0⟩, .tcvt ⟨plain,
      0x8, 0x86, 0x0, 0x0⟩, .tforce ⟨plain, 0x7, 0x3B1, 0x0, 0x0⟩, .tst ⟨⟨0, 2, 0, 127, 0⟩, 0x6, 0x28A, 0x294, 0x0⟩, .tgrow
      ⟨plain, 0x286, 0x0, 0x10⟩] := by decide

theorem test_decode_sieve :
    ([0xA000CFE002850800, 0xA0408FE002860000, 0xA083CFE0C287A22F] : List W64).map decodeWord =
    [.sqry ⟨⟨0, 3, 0, 127, 0⟩, 0x0, 0x285, 0x20, 0x0⟩, .sapp ⟨⟨0, 2, 0, 127, 0⟩, 0x0, 0x286, 0x0, 0x0⟩, .smrg ⟨plain,
      0x30, 0x287, 0x288, 0x2F⟩] := by decide

theorem test_decode_collective :
    ([0xA800CFE002840000, 0xA8408FE002850001, 0xA8804FE002860000, 0xA8C3CFE002860000, 0xA903CFE002870001] : List W64).map
      decodeWord =
    [.xred ⟨⟨0, 3, 0, 127, 0⟩, 0x0, 0x284, 0x0, 0x0⟩, .xall ⟨⟨0, 2, 0, 127, 0⟩, 0x0, 0x285, 0x0, 0x1⟩, .xgath ⟨⟨0, 1, 0,
      127, 0⟩, 0x0, 0x286, 0x0, 0x0⟩, .xbcst ⟨plain, 0x0, 0x286, 0x0, 0x0⟩, .xbar ⟨plain, 0x0, 0x287, 0x0, 0x1⟩] := by
      decide

theorem test_decode_system :
    ([0xB003CFEA12850000, 0xB043CFE00285A180, 0xB083CFE002870000, 0xB0C3CFEA22890000, 0xB103CFEA2A8BA300,
      0xB143CFEA2A8BA300, 0xB183CFEA2A8BA300] : List W64).map decodeWord =
    [.sysrd ⟨plain, 0x284, 0x285, 0x0, 0x0⟩, .syswr ⟨plain, 0x0, 0x285, 0x286, 0x0⟩, .asinv ⟨plain, 0x0, 0x287, 0x0, 0x0⟩,
      .killb ⟨plain, 0x288, 0x289, 0x0, 0x0⟩, .ctxsv ⟨plain, 0x28A, 0x28B, 0x28C, 0x0⟩, .ctxld ⟨plain, 0x28A, 0x28B, 0x28C,
      0x0⟩, .remap ⟨plain, 0x28A, 0x28B, 0x28C, 0x0⟩] := by decide

/-! ### Small states -/

/-- The machine whose next word is the opcode's: one wave of 32 threads inside a clause of its class (log 20). -/
def at_ (op : Nat) : State := State.reset.placeWord (BitVec.ofNat 64 (op * 2 ^ 54))
/-- Its wave, its block and its launch changed. -/
def withWave (s : State) (f : Wave → Wave) : State := s.modWave ⟨0, 0, 0⟩ f
def withBlock (s : State) (f : Block → Block) : State := s.modBlock ⟨0, 0, 0⟩ f
def withLaunch (s : State) (f : Launch → Launch) : State := s.modLaunch 0 f
def withScalar (s : State) (n : Nat) (x : W64) : State := withWave s fun w => w.sset n x
/-- Fields of a three-operand, an I16 and an I32 form with no stall, flag, hold or guard. -/
def reg (d a b : BitVec 10) (m : BitVec 6) : F := ⟨plain, d, a, b, m⟩
def im16 (d a : BitVec 10) (i : BitVec 16) : F16 := ⟨plain, d, a, i⟩
def im32 (d : BitVec 4) (i : BitVec 32) : F32 := ⟨plain, d, i⟩
/-- Every check passes and a lane participates. -/
def passes (s : State) (sp : Spec) (own : Ctx → List Fail) : Bool :=
  match s.clear sp own with
  | none => false
  | some c => c.part != 0
/-- Beside that, a condition on what the instruction sees. -/
def passesWith (s : State) (sp : Spec) (own : Ctx → List Fail) (ok : Ctx → Bool) : Bool :=
  match s.clear sp own with
  | none => false
  | some c => c.part != 0 && ok c
/-- The wait it stands in is over. -/
def resumable (s : State) (sp : Spec) (wt : Wait) : Bool := ((withWave s fun w => { w with wait := some wt }).resumes sp wt).isSome

/-! ### Hypotheses of the obligations that states and operands meet -/

theorem witness_LaneIntegerArithmetic :
    let f := reg 1 2 3 1
    isIntType (modType f.m) ∧ ([passes (at_ 1) (vec3 f (addSubEnc f.m) 4) noFails, passes (at_ 1) (vec3 f (mulEnc f.m) 6) noFails,
      passes (at_ 1) (vec3 f (intEnc f.m) 6) noFails, passes (at_ 1) (vec3d f (intEnc f.m) 6) noFails,
      passes (at_ 1) (vec3 f (minMaxEnc f.m) 4) noFails,
      passes (at_ 1) (vec2 (reg 1 2 0 1) ((modType f.m == 1 || isFloatType (modType f.m)) && modHigh f.m == 0) 4) noFails,
      passes (at_ 1) (vec2 (reg 1 2 0 1) (minMaxEnc f.m) 4) noFails, passes (at_ 1) (vec16 (im16 1 2 5) true 4) noFails,
      passes (at_ 1) (vec16 (im16 1 2 5) true 6) noFails, passes (at_ 1) (vec3 (reg 1 2 3 0x18) (modType (0x18 : BitVec 6) == 0) 4) noFails]
      : List Bool).all id := by decide +kernel

theorem witness_LaneIntegerDivision :
    let f := reg 1 2 0x3B0 1
    isIntType (modType f.m) ∧ passes (at_ 1) (vec3 f (intEnc f.m || (modType f.m == 2 && modeOk f.m)) 40) (divFails f) ∧
      passes (at_ 1) (vec3 f (intEnc f.m) 40) (divFails f) := by decide +kernel

theorem witness_LaneBitOperations :
    let f := reg 1 2 3 0
    ([passes (at_ 1) (vec3 f (f.m == 0) 4) noFails, passes (at_ 1) (vec2 (reg 1 2 0 0) (f.m == 0) 4) noFails,
      passes (at_ 1) (vec3 f (intEnc f.m) 4) noFails, passes (at_ 1) (vec3d f (f.m == 0) 4) noFails,
      passes (at_ 1) (vec16 (im16 1 2 5) true 4) noFails] : List Bool).all id := by decide +kernel

theorem witness_LaneFloatArithmetic :
    let f := reg 1 2 3 2
    let g := reg 1 2 0 2
    isFloatType (modType f.m) ∧ modType f.m = 2 ∧ ([passes (at_ 1) (vec3 f (addSubEnc f.m) 6) noFails,
      passes (at_ 1) (vec3 f (mulEnc f.m) 6) noFails, passes (at_ 1) (vec3d f (isFloatType (modType f.m) && modeOk f.m) 6) noFails,
      passes (at_ 1) (vec3 f (intEnc f.m || (modType f.m == 2 && modeOk f.m)) 24) (divFails f),
      passes (at_ 1) (vec3 f (minMaxEnc f.m) 6) noFails,
      passes (at_ 1) (vec2 g ((modType f.m == 1 || isFloatType (modType f.m)) && modHigh f.m == 0) 6) noFails,
      passes (at_ 1) (vec2 g (minMaxEnc f.m) 6) noFails, passes (at_ 1) (vec2 g (isFloatType (modType f.m) && modeOk f.m) 6) noFails,
      passes (at_ 1) (vec2 g (isFloatType (modType f.m) && modHigh f.m == 0) 4) noFails] : List Bool).all id := by decide +kernel

/-- The launch declares slot f0, `.format f0, bf16` (05 R142's example), and f1 alike. -/
def withSlots (s : State) : State := withLaunch s fun l => { l with record := { l.record with slots := [1, 1, 1, 1, 1, 1, 1, 1] } }

theorem witness_LaneFunctionsAndConversions :
    let g := reg 1 2 0 2
    ([passes (at_ 1) (vec2 g (g.m == 2) 18) noFails, passes (withSlots (at_ 1)) (vec2 (reg 1 2 0 1) true 6) (vcvtFails (reg 1 2 0 1)),
      passes (at_ 1) (vec2 (reg 1 2 0 0x11) (decide (modType (0x11 : BitVec 6) < 5) && decide (modHigh (0x11 : BitVec 6) < 5)) 6) noFails,
      passes (at_ 1) (vec3 (reg 1 2 3 2) (decide ((2 : BitVec 6).toNat < 3)) 6) noFails,
      passes (at_ 1) (vec2 (reg 1 2 0 14) ((14 : BitVec 6).toNat % 4 != 3 && decide ((14 : BitVec 6).toNat < 16)) 6) noFails]
      : List Bool).all id := by decide +kernel

theorem witness_ComparesAndPredicates :
    ([passes (at_ 1) (vcmpSpec (reg 3 10 0x380 0x12)) noFails, passes (at_ 1) (pred3 (reg 7 3 4 0)) noFails,
      passes (at_ 1) (pnotSpec (reg 7 3 0 0)) noFails, passes (at_ 1) (pmovSpec (reg 7 3 0 0)) noFails,
      passes (at_ 1) (pmovSpec (reg 7 0x3B0 0 0)) noFails, passes (at_ 1) (vprdSpec (reg 7 95 0 0)) noFails,
      passes (at_ 1) (vcmpiSpec (im16 4 2 0x5FFB)) noFails, passes (at_ 1) (vcmpiSpec (im16 4 2 0xDFFB)) noFails,
      passes (at_ 1) (vcmpiSpec (im16 4 2 0xFFFB)) noFails] : List Bool).all id := by decide +kernel

theorem witness_VectorMoves :
    ([passes (at_ 1) (vec2 (reg 1 2 0 0) true 4) noFails, passes (at_ 1) (vmoviSpec (im32 15 0x3F800000)) noFails,
      passes (at_ 1) (vecImm (im16 9 0 0x1234) 4) noFails] : List Bool).all id := by decide +kernel

theorem witness_SelectByPredicate :
    passes (at_ 1) { vec3 (reg 11 5 6 40) true 4 with preds := [40] } noFails := by decide +kernel

theorem witness_ExchangeOfLanes :
    let f := reg 2 2 0x3B0 0x18
    let g := reg 2 2 0 31
    ([passes (at_ 1) (vshflSpec f) (fun c => c.crossPend f.a fun l => shflSrc (modHigh f.m) l (c.lane f.b l 0)),
      passes (at_ 1) (vbcstSpec g) (fun c => c.crossPend g.a fun _ => g.m.toNat),
      passes (at_ 1) (vballotSpec (reg 0x289 3 0 0)) noFails, passes (at_ 1) (vballotSpec (reg 9 3 0 0)) noFails] : List Bool).all id := by
  decide +kernel

theorem witness_LaneReductions :
    ([passes (at_ 1) (vredSpec (reg 0x289 12 0 0x12)) noFails, passes (at_ 1) (vredSpec (reg 9 12 0 1)) noFails,
      passes (at_ 1) (minIdxSpec (reg 40 12 0 2)) noFails, passes (at_ 1) (vfoldSpec (reg 0 14 0 2)) noFails] : List Bool).all id := by
  decide +kernel

theorem witness_TokenGeneration :
    let f := reg 16 20 0 3
    ([passes (at_ 1) (vtopkSpec (reg 16 8 9 31)) noFails,
      passes (at_ 1) (vtopkmSpec f) (fun c => c.wholePend (vecNo f.d) 2 lanes32 ++ c.wholePend (vecNo f.a) 2 lanes32),
      passes (at_ 1) (vsmxSpec (reg 24 8 0x285 0)) noFails, passes (at_ 1) (vsmxmSpec (reg 26 24 0 0)) noFails,
      passes (at_ 1) (vsmxmWaveSpec (reg 26 24 0 1)) noFails,
      passes (withScalar (at_ 1) 6 0x3F4CCCCD3F800000) (sampleSpec (reg 0x29E 16 0x286 3)) (sampleFails (reg 0x29E 16 0x286 3)),
      passes (at_ 1) (vrandSpec (reg 18 0x380 0x288 1)) noFails, passes (at_ 1) (vrandSpec (reg 18 0x380 0x288 0)) noFails]
      : List Bool).all id := by decide +kernel

theorem witness_ScalarArithmetic :
    let f := reg 0x28A 0x28B 0x28C 5
    let g := reg 0x28A 0x28B 0x28C 0
    ([passes (at_ 0x80) (sc3 f (scEnc f.m) 3) noFails, passes (at_ 0x80) (sc3 f (scEnc f.m) 5) noFails,
      passes (at_ 0x80) (sc3 g (g.m == 0) 3) noFails, passes (at_ 0x80) (sc2 (reg 0x28A 0x28B 0 0) (g.m == 0) 3) noFails,
      passes (at_ 0x80) (sc3 (reg 0x28A 0x28B 0x28C 0x2E) (isScalarType (modType (0x2E : BitVec 6)) && decide (modHigh (0x2E : BitVec 6) < 6)) 3)
        noFails,
      passes (at_ 0x80) { sc3 g (g.m == 0) 3 with scals := [scalNo g.d] } noFails, passes (at_ 0x80) (smoviSpec (im32 15 0xFFFFFFFF)) noFails,
      passes (at_ 0x80) (scImm (im16 0x283 0 1)) noFails, passes (at_ 0x80) (scalarSpec 1 plain true [0x283] (some 0x284) 3) noFails]
      : List Bool).all id := by decide +kernel

theorem witness_ScalarDivision :
    let f := reg 0x28A 0x28B 0x3B0 6
    passes (at_ 0x80) (sc3 f (scEnc f.m) 40) (scDivFails f) := by decide +kernel

theorem witness_FoldAndNumberStatus :
    let f := reg 0x282 0x287 0 0
    passesWith (at_ 0x99) (sfoldSpec f) (sfoldFails f) (fun c => c.w.foldSeq == (c.scalar f.a).extractLsb' 0 16) ∧
    passesWith (at_ 0x58) (nsrdSpec (reg 0x284 0 0 0)) noFails (fun c => (at_ 0x58).waitDone c.id c.b c.w .nstat) ∧
    passesWith (at_ 0x59) (nsclrSpec (reg 0 0x3B1 0 0)) noFails (fun c => (at_ 0x59).waitDone c.id c.b c.w .nstat) := by decide +kernel

theorem witness_FencesAndTokens :
    let f := reg 0x282 0 0 6
    let g := reg 0 0x282 0 0
    passesWith (at_ 0x180) (fenceSpec f) (fenceFails f (at_ 0x180)) (fun c => decide (c.publishDemand = [])) ∧
    passes (at_ 0x180) (fenceSpec (reg 0x282 0 0 0)) (fenceFails (reg 0x282 0 0 0) (at_ 0x180)) ∧
    passesWith (at_ 0x181) (fwaitSpec g) (fwaitFails g) (fun c => (at_ 0x181).fwaitDone c.b c.w (c.scalar g.a)) := by decide +kernel

/-- A block with two barrier objects; object 1 expects two arrivals. -/
def withBars (s : State) : State := withBlock s fun b => { b with nbar := 2, bars := [(1, ⟨2, 0, 0, 0, false⟩)] }

theorem witness_BarrierObjects :
    let s := withScalar (withBars (at_ 0x182)) 6 1
    ([passes s (binitSpec (reg 0 0x286 0 1)) (barFails (reg 0 0x286 0 1) fun c => (c.scalar 0x286).extractLsb' 0 16 == 0),
      passesWith s (barvSpec (reg 0x287 0 0 1)) (barFails (reg 0x287 0 0 1) (barvIllegal (reg 0x287 0 0 1))) (fun c => s.performed c.b c.w c.w.accesses),
      passes s (bcntSpec (reg 0 0x286 0 1)) (barFails (reg 0 0x286 0 1) fun c => (c.b.bar 1).expected == 0),
      passesWith s (bwaitSpec (reg 0 0x286 0 1)) (barFails (reg 0 0x286 0 1) fun c => (c.b.bar 1).expected == 0)
        (fun c => (c.b.bar 1).phase != (c.scalar 0x286).getLsbD 0)] : List Bool).all id := by decide +kernel

/-- Tenant 0 has sixteen objects of die 0; phaser 3 has the wave as its one member, at phase 0. -/
def withObjects (s : State) : State := (s.setDieR 0 0x210 0x100000).setPhaser 3 ⟨0, 0, 0, [⟨0, 0, 0, true, true, 0, false⟩]⟩

theorem witness_PhaserMembership :
    let s := withScalar (withScalar (withObjects (at_ 0x186)) 11 3) 12 0xFFFFFFFF
    ([passes s (phregSpec (reg 0x28A 0x28B 0 3)) (fun c => s.phaserStop c (c.scalar 0x28B) fun _ => true),
      passes s (phregSpec (reg 0x28A 0x28D 0 1)) (fun c => s.phaserStop c (c.scalar 0x28D) fun _ => true),
      passes s (phdropSpec (reg 0 0x28B 0 0)) (fun c => s.phaserStop c (c.scalar 0x28B) Option.isSome),
      passesWith s (phwaitSpec (reg 0 0x28B 0x28C 0)) (fun c => s.phaserStop c (c.scalar 0x28B) fun m => match m with
          | none => false
          | some m => m.waits)
        (fun c => phasePassed (s.phaser (objectOf (c.scalar 0x28B))).phase ((c.scalar 0x28C).extractLsb' 0 32))] : List Bool).all id := by
  decide +kernel

/-- The membership table of die 0 is full, and the wave is no member. -/
def fullTable : State := { withScalar (withObjects (at_ 0x186)) 11 3 with
  phasers := [(3, ⟨0, 0, 0, List.replicate 262144 ⟨0, 0, 9, true, true, 0, false⟩⟩)] }

theorem witness_PhaserMembership_full : ∃ c, fullTable.clear (phregSpec (reg 0x28A 0x28B 0 3))
      (fun c => fullTable.phaserStop c (c.scalar 0x28B) fun _ => true) = some c ∧ c.part ≠ 0 ∧
    (fullTable.phaser 3).member c.b fullTable.cur.wave = none ∧ 262144 ≤ fullTable.memberships 0 := by
  have h : passes fullTable (phregSpec (reg 0x28A 0x28B 0 3)) (fun c => fullTable.phaserStop c (c.scalar 0x28B) fun _ => true) = true := by
    decide +kernel
  unfold passes at h
  split at h
  · cases h
  · next c hc =>
    refine ⟨c, hc, by simpa using h, ?_, ?_⟩
    · rw [show fullTable.phaser 3 = ⟨0, 0, 0, List.replicate 262144 ⟨0, 0, 9, true, true, 0, false⟩⟩ from rfl, Phaser.member,
        List.find?_replicate]
      simp [Member.is, show fullTable.cur.wave = 0 from rfl]
    · rw [State.memberships, show fullTable.phasers = [(3, ⟨0, 0, 0, List.replicate 262144 ⟨0, 0, 9, true, true, 0, false⟩⟩)] from rfl]
      simp only [List.foldl_cons, List.foldl_nil, List.length_replicate]
      decide

theorem witness_PhaserSignals :
    let s := withScalar (withObjects (at_ 0x188)) 11 3
    let f := reg 0x28C 0x28B 0 0
    ([true, false].all fun adv => passesWith s (phsigSpec f) (fun c => s.phaserStop c (c.scalar f.a) (sigRights adv)) fun c =>
      decide (c.publishDemand = []) && s.sealReached (c.b.sealBy s.cur.wave) c.w c.b.journal.phase c.w.accesses &&
      (match (s.phaser (objectOf (c.scalar f.a))).member c.b s.cur.wave with
        | none => false
        | some m => (s.phaser (objectOf (c.scalar f.a))).maySignal m &&
            phasePassed ((s.phaser (objectOf (c.scalar f.a))).signal c.b s.cur.wave).phase (BitVec.ofNat 32 m.count))) := by decide +kernel

/-- Stage-queue object 5 of die 0 with four slots, of which slot 0 is reserved for pushing, 1 filled and 2 for popping. -/
def withRing (s : State) : State :=
  (withObjects s).setStageq 5 ⟨true, 0, [(.pushing, none), (.filled, none), (.popping, none), (.free, none)], 0, 0, 1, 2, 3, [0, 1], [],
    false, true, true, 0, [], []⟩

theorem witness_StageQueues :
    let s := withScalar (withScalar (withScalar (withRing (at_ 0x18C)) 13 5) 14 0) 15 2
    ([passes s (sqregSpec (reg 0x290 0x28D 0x28E 0)) (fun c => s.queueStop c (c.scalar 0x28D) fun _ => true),
      passes s (sqresSpec (reg 0x290 0x28D 0 0)) (fun c => s.queueStop c (c.scalar 0x28D) StageQueue.registered),
      passesWith s (sqcomSpec (reg 0 0x28D 0x28E 3) true) (sqpushComFails (reg 0 0x28D 0x28E 3) s)
        (fun c => c.w.log.all fun e => e.2.opcode != 0x113 || decide (c.w.accesses ≤ e.2.seq)),
      passes s (sqcomSpec (reg 0 0x28D 0x28F 1) false) (fun c => s.queueStop c (c.scalar 0x28D) fun q => q.registered &&
        q.stateAt (sqcomSlot (reg 0 0x28D 0x28F 1) c) == some .popping)] : List Bool).all id := by decide +kernel

theorem witness_StageQueueStatus :
    let s := withScalar (withRing (at_ 0x18F)) 13 5
    passes s (sqresSpec (reg 0x290 0x28D 0 0)) (fun c => s.queueStop c (c.scalar 0x28D) fun _ => true) := by decide +kernel

theorem witness_FrondGenerations : passes (at_ 0x111) (frevSpec (reg 0 0 0 0)) noFails := by decide +kernel

theorem witness_FrondHandles :
    let s := withScalar (at_ 0x110) 9 0x06000010
    passes s (fexpSpec (reg 0x288 0x289 0 0)) (fexpFails (reg 0x288 0x289 0 0)) := by decide +kernel

/-- A log entry of an opcode, live, at a stage, of lane 0 at an address. -/
def entryAt (op stage : Nat) (addr : W64) : LogEntry :=
  { word := BitVec.ofNat 64 (op * 2 ^ 54 + 15 * 2 ^ 46 + 4), addr := 8, index := 0, aVal := addr, bVal := 0, lanes := 1, state := 1
    cause := 0xFF, faultAddr := 0, seq := 0, stage := stage, regs := [], causes := 0, faultLanes := 0, done := 0, dests := [320]
    addrs := [(0, addr)], data := [], dRegs := [], bRegs := [], old := [], pages := [], sealNo := none, op := none, gen := 0, phase := 0 }
/-- A wave with one entry in its log. -/
def withEntry (s : State) (e : LogEntry) : State := withWave s fun w => { w with log := [(0, e)], accesses := 1 }

/-- Only thread 0 lives. -/
def oneLane (s : State) : State := withWave s fun w => { w with exited := 0xFFFFFFFE, group := 1 }

/-- Address space 0 maps its first GiB to the first GiB of the stacks with every right by tables at 0x1000 to 0x3000; a launch
record of one block of one wave stands at 0x20000 and a function header of budget 32 at 0x10000. -/
def withPages (s : State) : State := { s with
  pkgReg := [(0x500, 0x1001)]
  mem := [
    (12884901888, 0x01), (12884901889, 0x20), (25769803776, 0x01), (25769803777, 0x30), (38654705664, 0x1F), (206158430210,
    0x20), (206158430213, 0xD0), (206158430214, 0xA3), (206158430215, 0x06), (412316860442, 0x40), (412316860444, 0x01),
    (412316860447, 0x02), (412316860480, 0x01), (412316860484, 0x32), (412316860488, 0x20), (412316860492, 0x10)] }

theorem witness_MessagesAndSegments :
    let s := withBlock (withScalar (withScalar (withPages (at_ 0x190)) 16 0x10000) 17 0x30000) fun b => { b with commonLen := 512 }
    let f := reg 0 0x290 0x291 0
    passesWith s (amsendSpec f) (amsendFails f s) (fun c => decide ((spGet [] s.msgq (amCore (c.scalar f.b))).length < 64) &&
      s.tagFree c.b c.b.journal.phase) ∧
    passes (at_ 0x18A) (csegSpec (im16 0x284 0 0x2010)) noFails := by decide +kernel

/-- The guard names predicate 5, clear in every lane: no lane participates. -/
def none_ : Ctl := ⟨0, 15, 0, 5, 0⟩
def passesNone (s : State) (sp : Spec) (own : Ctx → List Fail) : Bool :=
  match s.clear sp own with
  | none => false
  | some c => c.part == 0

theorem witness_no_participating_lane :
    ([passesNone (at_ 0x190) (amsendSpec ⟨none_, 0, 0x290, 0x291, 0⟩) (amsendFails ⟨none_, 0, 0x290, 0x291, 0⟩ (at_ 0x190)),
      passesNone (at_ 0x1CF) (trapSpec ⟨none_, 0, 0, 7⟩) noFails, passesNone (at_ 0x111) (frevSpec ⟨none_, 0, 0, 0, 0⟩) noFails,
      passesNone (at_ 0x100) (ldSpec ⟨none_, 10, 0x284, 2, 4⟩) noFails, passesNone (at_ 0x2C0) (sysrdSpec ⟨none_, 0x284, 0x285, 0, 0⟩) noFails]
      : List Bool).all id := by decide +kernel

theorem witness_WaitsHoldTheWave :
    let s := withEntry (withScalar (withScalar (withObjects (withBars (at_ 0x180))) 2 1) 11 3) (entryAt 0x100 1 0x20000)
    let f := reg 0 0x282 0 0
    let g := reg 0 0x286 0 1
    let h := reg 0x287 0 0 1
    let p := reg 0 0x28B 0x28C 0
    ([passesWith s (fwaitSpec f) (fwaitFails f) (fun c => !s.waitDone c.id c.b c.w (.fwait (c.scalar f.a))),
      passesWith s (bwaitSpec g) (barFails g fun c => (c.b.bar g.m.toNat).expected == 0)
        (fun c => !s.waitDone c.id c.b c.w (.bwait g.m.toNat ((c.scalar g.a).getLsbD 0))),
      passesWith s (barvSpec h) (barFails h (barvIllegal h)) (fun c => !s.waitDone c.id c.b c.w (.arrive h.m.toNat)),
      passesWith s (phwaitSpec p) (fun c => s.phaserStop c (c.scalar p.a) fun m => match m with
          | none => false
          | some m => m.waits)
        (fun c => !s.waitDone c.id c.b c.w (.phwait (objectOf (c.scalar p.a)) ((c.scalar p.b).extractLsb' 0 32)))] : List Bool).all id := by
  decide +kernel

theorem witness_WaitsThatEnd :
    let s := withObjects (withBars (at_ 0x180))
    ([resumable s (fwaitSpec (reg 0 0x282 0 0)) (.fwait 0), resumable s (bwaitSpec (reg 0 0x286 0 1)) (.bwait 1 true),
      resumable s (phwaitSpec (reg 0 0x28B 0x28C 0)) (.phwait 3 0xFFFFFFFF)] : List Bool).all id := by decide +kernel

theorem witness_AreaAccesses :
    let s := withBlock (at_ 0x102) fun b => { b with commonLen := 512, tileLen := 512, extents := [(100, 1)] }
    let f := reg 8 0x283 2 4
    let g := reg 8 0x283 2 0xC
    ([passes s (ldcSpec f) (areaFails f false), passes s (ldcSpec g) (areaFails g false), passes s (stcSpec f) (areaFails f true),
      passes s (stcSpec g) (areaFails g true)] : List Bool).all id := by decide +kernel

theorem witness_MemoryAccessesAreLogged :
    let s := oneLane (withScalar (at_ 0x100) 4 0x20000)
    let f := reg 10 0x284 2 4
    let g := reg 10 0x284 2 0x2A
    ([passes s (ldSpec f) (fun c => s.lockFails c (c.memAddr f (f.m.getLsbD 3)) (accessBytes f.m) false ++
        c.addressFails (c.memAddr f (f.m.getLsbD 3)) (accessBytes f.m)),
      passes s (stSpec f) (fun c => s.storeFails c (c.memAddr f (f.m.getLsbD 3)) (accessBytes f.m)),
      passesWith s (atomSpec g) (fun c => s.atomFails g c) (fun c => decide (c.publishDemand = [])),
      passesWith s (redSpec g) (fun c => s.atomFails g c) (fun c => decide (c.publishDemand = []))] : List Bool).all id := by decide +kernel

theorem witness_FrondAccessesAreLogged :
    let s := withScalar (at_ 0x112) 8 0x16000010
    let f := reg 12 0x288 3 0
    passes s (frondSpec f false) (frondFails f) ∧ passes s (frondSpec f true) (frondFails f) := by decide +kernel

theorem witness_Branches :
    let v := withWave (at_ 0x1C1) fun w => { w with v := [(20 * 32, 0x10008)] }
    let j := reg 0 20 0 0
    ([passes (at_ 0x1C1) (branchSpec (im32 0 0xFFFFFFFD)) noFails, passes (at_ 0x1C2) (voteSpec (im32 0 0x0E000004)) noFails,
      passes (at_ 0x1C4) (brsSpec (im32 3 0x80000002)) noFails, passes v (jumpSpec j) (fun c => c.targetFails j.a)] : List Bool).all id := by
  decide +kernel

theorem witness_MeetingRegisters :
    ([passes (at_ 0x1C6) (meetLabelSpec (im32 0 6)) noFails, passes (at_ 0x1C6) (meetLabelSpec (im32 0 0)) noFails,
      passes (at_ 0x1C6) (meetRegSpec (im32 6 0x80000000)) (meetRegFails (im32 6 0x80000000)),
      passes (at_ 0x1C6) (meetNoneSpec (im32 15 0x80000000)) noFails, passes (at_ 0x1C0) (bareSpec (reg 0 0 0 0) false) noFails]
      : List Bool).all id := by decide +kernel

theorem witness_Calls :
    let s := oneLane (withWave (withPages (at_ 0x1C7)) fun w => { w with v := [(640, 0x10000)] })
    let f := im32 4 0x1FFF
    let g := reg 4 20 0 0
    passes s (callSpec f) (fun c => s.headerFails c fun _ => c.addr + 8 * f.imm.signExtend 64) ∧
    passes s (calliSpec g) (fun c => c.targetFails g.a ++ s.headerFails c (c.target g.a)) := by decide +kernel

/-- The wave runs its handler. -/
def inHandler (s : State) : State := withWave s fun w => { w with
  handler := true
  saved := some { pc := [], meet := [], held := 0, clause := ⟨0, 0, 0⟩, trivSet := [], trivet := [], high := List.replicate 8 0, entry := 1,
                  raiser := 0, index := 0, cause := 26, resume := 2, wait := none, seq := 0 } }

theorem witness_ThreadsExit :
    let f := reg 0 0 0 0
    let g : F := ⟨⟨0, 15, 0, 5, 0⟩, 0, 0, 0, 0⟩
    let s := withWave (at_ 0x1CA) fun w => { w with p := [(5, 1)] }
    let last := fun (s : State) => fun (c : Ctx) => c.part != 0 && ~~~((s.wave s.cur).exited ||| c.part) == 0 && (s.wave s.cur).saved.isNone &&
      c.b.waves.all fun e => e.1 != 0 || ~~~(e.2.exited ||| c.part) == 0
    let two := fun (wt : Option Wait) => withBlock (at_ 0x1CA) fun b => { b with waves := b.waves ++ [(1, { ({} : Wave) with wait := wt })] }
    ([passesNone (at_ 0x1CA) (bareSpec g true) noFails,
      passesWith s (bareSpec g true) noFails (fun c => c.part != 0 && ~~~((s.wave s.cur).exited ||| c.part) != 0),
      passesWith (at_ 0x1CA) (bareSpec f true) noFails (fun c => last (at_ 0x1CA) c && c.b.waves.all fun e => e.1 == 0 || e.2.live == 0),
      passesWith (two none) (bareSpec f true) noFails (fun c => last (two none) c &&
        c.b.waves.any fun e => e.1 != 0 && e.2.live != 0 && e.2.yieldSig.isNone),
      passesWith (two (some (.yield 15))) (bareSpec f true) noFails (fun c => last (two (some (.yield 15))) c &&
        (c.b.waves.any fun e => e.1 != 0 && e.2.live != 0) && c.b.waves.all fun e => e.1 == 0 || (e.2.yieldSig.isSome && e.2.reissue.isEmpty)),
      passesWith (inHandler (at_ 0x1CA)) (bareSpec f true) noFails (fun c => c.part != 0 &&
        ~~~(((inHandler (at_ 0x1CA)).wave (at_ 0x1CA).cur).exited ||| c.part) == 0 && ((inHandler (at_ 0x1CA)).wave (at_ 0x1CA).cur).saved.isSome)]
      : List Bool).all id := by decide +kernel

theorem witness_YieldPoints :
    let s := withLaunch (withBlock (at_ 0x1CE) fun b => { b with waves := b.waves ++ [(1, {})] }) fun l => { l with record := { l.record with slice := 9 } }
    passesWith (at_ 0x1CE) (bareSpec (reg 0 0 0 0) false) Ctx.noHandler (fun c => c.l.record.slice == 0) ∧
    passesWith s (bareSpec (reg 0 0 0 0) false) Ctx.noHandler (fun c => c.l.record.slice != 0 &&
      c.b.waves.any fun e => e.1 != 0 && e.2.live != 0 && e.2.wait.isNone) := by decide +kernel

theorem witness_SoftwareTraps :
    passes (at_ 0x1CF) (trapSpec (im16 0 0 0x42)) noFails ∧ passes (at_ 0x1D1) (tclrSpec (reg 0 0x2F8 0 0)) noFails := by decide +kernel

theorem witness_ReturnFromHandler :
    let s := inHandler (at_ 0x1D2)
    passesWith s (tretSpec (reg 0 0 0 0)) tretFails (fun c => c.w.tcause == 0 && c.sreg 125 == 0 && c.w.faultedEntries.isEmpty &&
      (c.w.saved.map fun v => v.high.length == 8 && v.wait == none) == some true) := by decide +kernel

theorem witness_ReturnWithCausesLeft :
    let s := withWave (inHandler (at_ 0x1D2)) fun w => { w with tcause := 8 }
    passesWith s (tretSpec (reg 0 0 0 0)) tretFails (fun c => c.w.tcause != 0 && c.w.saved.isSome) := by decide +kernel

theorem witness_EncodingCauses :
    ((at_ 1).ctx (ctlOf 0)).isSome ∧ ((at_ 1).ctx (ctlOf (BitVec.ofNat 64 (0x2E * 2 ^ 54)))).isSome ∧
    opcodeClass 0 = 0 ∧ opcodeClass 0x2E = headerClass ((at_ 1).wave ⟨0, 0, 0⟩).clause.header ∧
    opcodeClass 0x2E ≠ headerClass ((at_ 0x100).wave ⟨0, 0, 0⟩).clause.header ∧ ((at_ 0x100).ctx (ctlOf 0)).isSome ∧
    ((at_ 1).wave ⟨0, 0, 0⟩).wait = none := by decide +kernel

theorem witness_ArithmeticCause :
    let f := reg 1 2 0x380 1
    passesWith (at_ 6) (vec3 f (intEnc f.m) 40) noFails (fun c => (maskOf fun l => c.part.getLsbD l && c.lane f.b l 0 == 0) != 0) ∧
    (at_ 6).clear (vec3 f (intEnc f.m) 40) noFails = (at_ 6).clear (vec3 f (intEnc f.m || (modType f.m == 2 && modeOk f.m)) 40) noFails := by
  decide +kernel

theorem witness_LaunchingChildren :
    let s := withScalar (withPages (at_ 0x1CB)) 21 0x20000
    let f := reg 0x294 0x295 0 0
    passesWith s (launchSpec f) (launchFails f s) (fun c => match s.readRecord c.l.asid c.l.tenant (c.scalar f.a) with
      | .error _ => false
      | .ok r => s.rejectReason r c.l.asid c.l.tenant 1 == 0 && (s.freeEntry (dieOf s.cur.core)).isSome && c.l.tail.isNone &&
          (s.freeEntry c.l.home).isSome && c.b.launch != s.nextLaunch) ∧
    passesWith (withLaunch s fun l => { l with tail := some 7 }) (launchSpec f) (launchFails f s) (fun c => c.l.tail.isSome) := by
  decide +kernel

/-- A child of the block in entry 0 of die 0, complete or not. -/
def withChild (s : State) (complete : Bool) : State :=
  { s with launches := s.launches ++ [(1, { fetchLaunch with host := false, die := 0, parent := some (0, 0), complete := complete })] }

theorem witness_JoiningChildren :
    let f := reg 0x298 0x294 0 0
    ([true, false].all fun d => let s := withChild (at_ 0x1CD) d
      passesWith s (joinSpec f) (joinFails f s) fun c => match s.joinTarget c (c.scalar f.a) with
        | none => false
        | some x => decide (s.launch? x.1 = some x.2) && x.2.complete == d && x.2.faulted == 0) := by decide +kernel

/-- A condition on the block, the launch, the wave and the log entry 0 of the wave that runs. -/
def sees (s : State) (ok : Block → Launch → Wave → LogEntry → Bool) : Bool :=
  match s.block? ⟨0, 0, 0⟩, s.wave? ⟨0, 0, 0⟩ with
  | some b, some w => match s.launchOf b, spFind w.log 0 with
    | some l, some e => w.reissue.isEmpty && e.state == 1 && ok b l w e
    | _, _ => false
  | _, _ => false
def isCovered (w : Wave) : Bool := w.inflight.all fun p => p.landed || p.short == 0

theorem witness_AccessSteps :
    let walk := withEntry (oneLane (withPages (at_ 0x100))) (entryAt 0x100 0 0x20000)
    let lost := withEntry (oneLane (at_ 0x100)) (entryAt 0x100 0 0x20000)
    let load := withEntry (at_ 0x100) { entryAt 0x100 1 0x20000 with pages := [(2, 2)] }
    let wide := withEntry (at_ 0x100) { entryAt 0x100 1 0x20000 with word := BitVec.ofNat 64 (0x100 * 2 ^ 54 + 15 * 2 ^ 46 + 6), pages := [(2, 2)] }
    -- an older load of the same bytes that has not performed holds the walked one
    let behind := withWave walk fun w => { w with log := [(0, { entryAt 0x100 0 0x20000 with seq := 1 }), (1, entryAt 0x100 1 0x20000)] }
    let back := withEntry (at_ 0x104) { entryAt 0x104 2 0x20000 with done := 1, old := [(0, 5)] }
    let home := withEntry (at_ 0x104) { entryAt 0x104 1 0x20000 with pages := [(2, 2)], data := [(0, 7)] }
    let fault := withLaunch (withEntry (at_ 0x100) { entryAt 0x100 3 0x20000 with cause := 17, faultLanes := 1 })
      fun l => { l with record := { l.record with handler := 0x10008 } }
    ([sees walk fun b l w e => e.opcode == 0x100 && e.stage == 0 &&
        ((lanesOf (e.lanes &&& ~~~e.done)).all fun k => (walk.walkLane 0 l e k).isOk) && walk.sendable l b w e,
      sees behind fun b l w e => e.opcode == 0x100 && e.stage == 0 &&
        ((lanesOf (e.lanes &&& ~~~e.done)).all fun k => (behind.walkLane 0 l e k).isOk) && !behind.sendable l b w e,
      sees lost fun _ l _ e => e.opcode == 0x100 && e.stage == 0 &&
        (lanesOf (e.lanes &&& ~~~e.done)).any fun k => !(lost.walkLane 0 l e k).isOk,
      sees load fun b _ w e => e.opcode == 0x100 && e.stage == 1 && (load.poisonFails e).isEmpty && (load.journalFails b e).isEmpty && isCovered w &&
        e.bytes != 16,
      sees wide fun b _ w e => e.opcode == 0x100 && e.stage == 1 && (wide.poisonFails e).isEmpty && (wide.journalFails b e).isEmpty && isCovered w &&
        e.bytes == 16 && e.data.isEmpty,
      sees back fun _ _ w e => e.opcode == 0x104 && e.stage == 2 && isCovered w,
      sees home fun _ l _ e => e.atomReady && lanesOf (e.lanes &&& ~~~e.done) == [0] &&
        home.windowOf l.tenant (e.addrAt 0) == none && !home.sieveHeld (physOf e.pages (e.addrAt 0).toNat / 64) &&
        (home.poisonFails e).isEmpty,
      sees fault fun b l w e => e.stage == 3 && !w.handler && w.saved.isNone && w.past.isEmpty && w.live != 0 && b.stopping == none && !b.saving && w.wait == none &&
        l.record.handler != 0] : List Bool).all id := by decide +kernel

theorem witness_SealedLines :
    let s := withBlock (at_ 0x100) fun b => { b with journal := ⟨0, 0, 1, [⟨0x800, 0, 0, []⟩], []⟩ }
    ((s.blockOfUid 0).map fun b => !s.sieveHeld 0x800 && (match b.journal.oldestSealed 0x800 with
      | none => false
      | some j => !s.sealedHeld b j && s.tagFree b j.phase)) = some true := by decide +kernel

/-- A handle to the wave that runs: owner core 0, slot 0, wave 0, generation 0, base 16, read and write. -/
def ownHandle : W64 := 0x16000040

theorem witness_FrondSteps :
    let e := { entryAt 0x112 0 0 with data := [(0, ownHandle), (1, 0), (2, 9), (3, 0)] }
    let read := withEntry (at_ 0x112) e
    let land := withEntry (at_ 0x112) { e with stage := 2, old := [(0, 5)] }
    let child := { read with blocks := read.blocks ++ (read.blocks.map fun x => (16, { x.2 with uid := 1, core := 1 })) }
    let other := { entryAt 0x113 1 0 with data := [(0, ownHandle ||| 0x100020000000), (1, 0), (2, 9), (3, 1)], old := [(0, 0)] }
    let write := withEntry child other
    let offer := withEntry child { other with stage := 0, data := other.data.take 3 }
    ([sees read fun b l w e => e.opcode == 0x112 && e.stage == 0 && read.tagFree b e.phase && !w.olderFrond e && !read.publishHeld b w e.seq &&
        (lanesOf e.lanes).all fun k => read.frondCause e ⟨0, 0, 0⟩ l.tenant k == none,
      sees land fun _ _ w e => e.opcode == 0x112 && e.stage == 2 && isCovered w,
      sees offer fun b l w e => e.opcode == 0x113 && e.stage == 0 && offer.tagFree b e.phase && !w.olderFrond e && !offer.publishHeld b w e.seq && lanesOf e.lanes == [0] &&
        offer.frondCause e ⟨0, 0, 0⟩ l.tenant 0 == none && (spFind e.data 3).isNone &&
        (let o := e.ownerWord 0
         !(offer.wave o.1).unlanded o.2.1 o.2.2 && wkey o.1 != wkey ⟨0, 0, 0⟩ && (offer.wave? o.1).isSome && (offer.block? o.1).isSome),
      sees write fun b _ w e => e.opcode == 0x113 && e.stage == 1 && !w.olderFrond e && !write.publishHeld b w e.seq && lanesOf e.lanes == [0] &&
        (let o := e.ownerWord 0
         wkey o.1 != wkey ⟨0, 0, 0⟩ && (write.wave? o.1).isSome && (match write.block? o.1 with
          | none => false
          | some ob => BitVec.ofNat 64 ob.uid == (spFind e.data 3).getD 0 && BitVec.ofNat 64 ob.gen == (spFind e.old 0).getD 0))]
      : List Bool).all id := by decide +kernel

def isOk {α β : Type} (e : Except α β) : Bool := match e with
  | .error _ => false
  | .ok _ => true

/-- A group of one contribution of the wave that runs to window 0. -/
def oneGroup (det applied : Bool) : WinGroup :=
  ⟨0, 0x20000, 0, det, false, [⟨0, ⟨0, 0, 0⟩, 0, 0, 5, 0, 0, false, 0⟩], applied, 0, none, 0x20000⟩
def withGroup (g : WinGroup) : State := { at_ 0x105 with wingroups := [(0, g)] }

theorem witness_ReductionWindows :
    let s := withGroup (oneGroup false false)
    let d := withGroup (oneGroup true false)
    let last := { withEntry (at_ 0x105) (entryAt 0x105 1 0x20000) with wingroups := [(0, oneGroup false true)] }
    -- the window's home translates in pages, and nowhere in lost
    let come := fun (s : State) => ({ s with winArrivals := [{ oneGroup false false with parts := [⟨1, ⟨0, 0, 0⟩, 0, 0, 5, 0, 0, false, 0⟩] }] } : State)
    let pages := come (withPages (at_ 0x105))
    let lost := come (at_ 0x105)
    let home := fun (s : State) => s.translate ((s.pkgR 0x4C1).extractLsb' 16 8).toNat ((s.pkgR 0x4C1).extractLsb' 24 4).toNat 0x20000 [rREAD, rWRITE]
    ([s.homeHere 0, !s.windowHeld (oneGroup false false), (oneGroup false false).parts.any fun p => p.stage == 0,
      decide (spFind d.wingroups 0 = some (oneGroup true false)),
      sees last fun b _ _ e => e.opcode == 0x105 && e.lanes &&& ~~~(e.done ||| (1#32 <<< 0)) == 0 && (oneGroup false true).parts.all fun p =>
        p.stage < 2 && b.uid == p.uid && p.entry == 0 && p.lane == 0 && last.ownPart (oneGroup false true) p,
      (spFind pages.wingroups 0).isNone, pages.winArrivals.all fun g => pages.homeHere g.window, isOk (home pages),
      (spFind lost.wingroups 0).isNone, lost.winArrivals.all fun g => lost.homeHere g.window, !isOk (home lost),
      (match spFind (withGroup (oneGroup true true)).wingroups 0 with
        | none => false
        | some g => g.applied)] : List Bool).all id := by decide +kernel

theorem witness_ReductionWindows_close :
    -- window 0 of tenant 0 has its home here, at package 0, or at package 1; the group has one package, or two
    let one := { withGroup (oneGroup true false) with pkgReg := [(0x4C0, 0x8000000000000000)] }
    let two : State := { at_ 0x105 with pkgReg := [(0x4C0, 0x8000000000000000), (0x4E1, 2)] }
    let both : State := { withGroup (oneGroup true false) with pkgReg := two.pkgReg, closes := [(0, 0, 0)] }
    let far : State := { at_ 0x105 with pkgReg := [(0x4C0, 0x8000000000000000), (0x4C1, 1), (0x4E1, 2)] }
    let here := fun (s : State) => (s.windowsOf 0).any s.homeHere
    ([two.groupSize 0 == 2, two.ownPackage 0 == 0, two.mayClose 0 0, two.closes.isEmpty, here two,
      one.groupSize 0 == 1, here one, one.collections 0 0 != [], (at_ 0x105).mayClose 0 0, (two.collectionsHere 0 0).isEmpty,
      two.settled (two.collectionsHere 0 0), here both, both.collectionsHere 0 0 == [(0, oneGroup true false)],
      decide (spFind both.wingroups 0 = some (oneGroup true false)), both.closes == [(0, 0, 0)],
      (both.collectionsHere 0 0).all fun x => !both.windowHeld x.2,
      far.mayClose 0 0, far.homesOf 0 == [1], !here far, (far.collectionsHere 0 0).isEmpty] : List Bool).all id := by decide +kernel

/-- A package that has contributed and sealed may close: its contribution is acknowledged, and its block is gone. -/
theorem witness_ReductionWindows_settled :
    let g := { oneGroup true false with parts := [⟨0, ⟨0, 0, 0⟩, 0, 0, 5, 7, 0, false, 2⟩] }
    let s := { withGroup g with pkgReg := [(0x4C0, 0x8000000000000000), (0x4E1, 2)], closes := [(0, 0, 0)] }
    (s.mayClose 0 0 && s.settled (s.collectionsHere 0 0) && s.collectionsHere 0 0 == [(0, g)]) = true := by decide +kernel

/-- Bytes of the common area of the block, which is 4,096 bytes long. -/
def withCommon (s : State) (bs : List (Nat × Byte)) : State := withBlock s fun b => { b with common := bs, commonLen := 4096 }
/-- An operation of the wave that runs, under number 0. -/
def anOp (kind : OpKind) : EngineOp := emptyOp 0 kind ⟨0, 0, 0⟩ (fetchBlock 0x107) 15
def withOp (s : State) (o : EngineOp) : State := { s with ops := [(0, o)], nextOp := 1 }

theorem witness_RequestEngine :
    let ald := oneLane (withScalar (at_ 0x106) 4 0x20000)
    -- one row of eight bytes from 20000H to offset 256, under tables for KICK and for GATH (the index is 0)
    let kick := withCommon (withPages (at_ 0x107)) [(0, 1), (4, 1), (10, 2), (17, 1), (24, 8)]
    let gath := withCommon (withPages (at_ 0x108)) [(4, 1), (10, 2), (16, 8), (24, 64), (29, 1), (32, 8)]
    let f := reg 0 0x282 0 0
    let copies := fun (s : State) (g : Bool) => passesWith s (copySpec f) (copyFails f g) fun c =>
      match c.b.copyOf c.l.record g ((c.scalar f.a).extractLsb' 0 32).toNat with
      | .error _ => false
      | .ok k => isOk (s.copyPages c.l k) && decide (k.locks ≤ s.lockFree 0) && c.w.logFree.isSome
    let land := { anOp .kick with rd := [(0, 0x20000)], wr := [(0, 256)], rdSpace := .memory, wrSpace := .common }
    let done := { anOp .kick with wrSpace := .common, post := true, credit := 8 }
    ([passes ald (aldSpec (reg 10 0x284 2 0)) (aldFails (reg 10 0x284 2 0)), passes (at_ 0x18B) (evrdSpec (reg 0x284 0 0 0)) noFails,
      copies kick false, copies gath true, !(withOp (at_ 0x107) land).opHeld land, !(at_ 0x107).poisoned 0x20000,
      ((withOp (at_ 0x107) land).block? land.w).isSome, (spFind land.buf 0).isNone, land.wr == [(0, 256)], done.scan == none, !(withOp (at_ 0x107) done).opHeld done, done.kind.copies,
      ((withOp (at_ 0x107) done).block? done.w).map (fun b => b.uid == done.uid && decide (b.events.length < 16)) == some true]
      : List Bool).all id := by decide +kernel

/-- Six tiles of slot f0 (bf16) on a tile area of 4,096 bytes: 0 to 2 of 16 × 16, 3 of 16 × 1, 4 and 5 of 1 × 16. -/
def withTiles (s : State) : State :=
  let t := fun (w0 : W64) => (⟨w0, 0, none, 0, BitVec.allOnes 64⟩ : Tile)
  withBlock (withLaunch s fun l => { l with record := { l.record with slots := [1], control := 0x06000000000000 } }) fun b => { b with
    tileLen := 4096, extents := [(100, 8)], ntiles := 6
    tiles := [(0, t 0x0020078F), (1, t 0x2000020078F), (2, t 0x4000020078F), (3, t 0x6000020000F), (4, t 0x80000200780), (5, t 0x90000200780)] }
/-- Tile 4 is the unevaluated conversion of tile 5. -/
def withNode (s : State) : State := withBlock (withTiles s) fun b => { b with
  nodes := [(0, ⟨8, 0, 0, 0x206, 0, 4, false, 1, 0xFF, 5, 0, 0, 0, 0, 0, 0, [], none, [], 0⟩)], appends := 1
  tiles := b.tiles.map fun e => if e.1 = 4 then (4, { e.2 with producer := some 0, valid := 0xFFFFFFFFFFFFFFFE }) else
    if e.1 = 5 then (5, { e.2 with readers := 1 }) else e }
/-- Scalars 4 and 5 hold the address 20000H and the pitch 32, scalar 6 the mask of subtile 0. -/
def withPair (s : State) : State := withScalar (withScalar (withScalar s 4 0x20000) 5 32) 6 1

theorem witness_TileInstructions_appends :
    let d := withScalar (withTiles (at_ 0x200)) 4 0x80000200780
    let a := fun (op : Nat) (sp : Spec) (f : F) => passesWith (withTiles (at_ op)) sp
      (tileFails (appendTiles op f) fun c => appendOwn op f (withTiles (at_ op)) c) fun c => !c.tilesBusy &&
        c.b.demandMet (c.b.fullDemand (c.b.appendForces c.l.record op f (c.prm f))) && c.b.freeNodeSlot.isSome
    ([passesWith d (tdescSpec (reg 4 0x284 0x285 0)) (tileFails [4] (tdescOwn (reg 4 0x284 0x285 0)))
        (fun c => !c.tilesBusy && c.b.demandMet (c.b.redefine 4)),
      a 0x202 (appendSpec (reg 2 0 1 0) true true) (reg 2 0 1 0), a 0x203 (appendSpec (reg 2 0 1 0) true true) (reg 2 0 1 0),
      a 0x204 (appendSpec (reg 2 0 0 0) false true) (reg 2 0 0 0), a 0x205 (appendSpec (reg 3 0 0 0) false true) (reg 3 0 0 0),
      a 0x206 (appendSpec (reg 2 0 0 0) false true) (reg 2 0 0 0)] : List Bool).all id := by decide +kernel

theorem witness_TileInstructions_memory :
    let s := withPair (withTiles (withPages (at_ 0x200)))
    let f := reg 4 0x284 0 0
    let g := reg 4 0x284 0x286 0
    ([passesWith s (tldSpec f) (tileFails (appendTiles 0x201 f) fun c => appendOwn 0x201 f s c) (fun c => !c.tilesBusy &&
        isOk (s.translateRows c.l.asid c.l.tenant (tldRows (c.b.geo c.l.record 4) (c.memPair f)) [rREAD]) && s.lockFree 0 != 0 &&
        c.b.demandMet (c.b.fullDemand (c.b.appendForces c.l.record 0x201 f 0)) && (c.b.tileAt 4).producer.isNone && c.b.freeNodeSlot.isSome),
      passesWith s (tstSpec g) (tileFails [4] fun c => tstOwn g s c) (fun c => !c.tilesBusy && c.tstMask g != 0 &&
        isOk (s.translateRows c.l.asid c.l.tenant (storeRows (c.memPair g) (c.tstRuns g)) [rWRITE]) && s.lockFree 0 != 0 &&
        c.b.demandMet [(4, c.tstMask g)]),
      passesWith (withScalar s 6 0) (tstSpec g) (tileFails [4] fun c => tstOwn g (withScalar s 6 0) c)
        (fun c => !c.tilesBusy && c.tstMask g == 0),
      passes s (tgrowSpec (im16 0x284 0 3)) Ctx.convergence] : List Bool).all id := by decide +kernel

theorem witness_TileInstructions_forcing :
    let f := reg 4 0x286 0 0
    let own := tileFails [4] fun _ => none
    let met := fun (c : Ctx) => c.b.demandMet [(4, c.scalar f.a &&& (c.b.geo c.l.record 4).extent)]
    let s := withWave (withNode (at_ 0x207)) fun w => { w with wait := some (.force [(4, 1)] none [] ⟨0xFFFFFFFF, 0, 0, []⟩) }
    ([passesWith (withPair (withTiles (at_ 0x207))) (tforceSpec f) own (fun c => !c.tilesBusy && met c),
      passesWith (withPair (withNode (at_ 0x207))) (tforceSpec f) own (fun c => !c.tilesBusy && !met c),
      (match s.block? ⟨0, 0, 0⟩ with
        | none => false
        | some b => match s.launchOf b, b.forcer, b.node? 0 with
          | some l, some x, some n => b.firstEval l.record 65 x.2.2 == some (4, 0) && (b.tileAt 4).producer == some 0 && n.dest == 4 &&
              n.op != 0x201 && !s.nodeBlocked b n && s.tileNext 0 == some 0 && isOk (b.computeSubtile l.record n 0)
          | _, _, _ => false)] : List Bool).all id := by decide +kernel

/-- The second GiB begins with a compute-capable page in frame 1, whose scheme is 7 (its tables at 3008H and 4000H). -/
def withSievePage (s : State) : State := { withPages s with
  pkgReg := [(0x460, 0x70), (0x500, 0x1001)]
  mem := (withPages s).mem.flatMap fun x => if x.1 = 38654705664 then [x, (38654705672, 0x01), (38654705673, 0x40),
    (51539607552, 0xFF), (51539607553, 0x05), (51539607555, 0x80)] else [x] }
/-- A command of 32 elements and one key whose K and V rows are at 200000H, in bf16: its scan and its queue. -/
def aScan (accepted : Bool) (sent : List (Nat × List Byte)) (landed : List Nat) : Scan :=
  ⟨0, 32, 1, 0x3F800000, 1, 1, 0x200000, 0x200000, 0x200000, 0x200000, 64, 64, List.replicate 32 0, 256, accepted, sent, landed, none⟩
def withScan (k : Scan) (queued : Bool) : State :=
  let s := withOp (at_ 0x280) { anOp .sqry with scan := some k }
  if queued then s.modChannel 0 fun c => { c with sieveq := [0] } else s

theorem witness_SieveQueries :
    let q := withCommon (withSlots (withSievePage (at_ 0x280))) [(4, 32), (11, 0x40), (19, 0x40), (24, 1), (30, 0x80), (31, 0x3F), (33, 1), (40, 64), (42, 64)]
    let a := withCommon (withSlots (withSievePage (at_ 0x281))) [(4, 32), (11, 0x40), (19, 0x40), (33, 1), (36, 0x80), (37, 1), (40, 64), (42, 64)]
    let empty := withCommon (withSlots (withSievePage (at_ 0x280))) [(4, 32), (11, 0x40), (19, 0x40), (30, 0x80), (31, 0x3F), (33, 1), (40, 64), (42, 64)]
    -- both bases lie in the first GiB, whose page is not compute-capable; the wave has a handler
    let plainPage := withLaunch (withCommon (withSlots (withSievePage (at_ 0x280))) [(4, 32), (24, 1), (30, 0x80), (31, 0x3F), (33, 1), (40, 64), (42, 64)])
      fun l => { l with record := { l.record with handler := 0x10008 } }
    let m := withScalar (withCommon (at_ 0x282) []) 5 32
    let f := reg 0 0x284 8 0
    let g := reg 0 0x284 0 0
    let h := reg 8 0x284 0x285 0
    ([passesWith q (sqrySpec f) (sqryFails f q) (fun c => match c.descAt ((c.scalar f.a).extractLsb' 0 32).toNat false with
        | .error _ => false
        | .ok x => (q.sieveReject c.l x false).isNone && x.n != 0 && c.w.logFree.isSome && decide (2 ≤ q.lockFree 0)),
      passesWith empty (sqrySpec f) (sqryFails f empty) (fun c => match c.descAt ((c.scalar f.a).extractLsb' 0 32).toNat false with
        | .error _ => false
        | .ok x => (empty.sieveReject c.l x false).isNone && x.n == 0),
      passesWith plainPage (sqrySpec f) (sqryFails f plainPage) (fun c => match c.descAt ((c.scalar f.a).extractLsb' 0 32).toNat false with
        | .error _ => false
        | .ok x => (plainPage.sieveReject c.l x false).isSome && c.w.saved.isNone && c.w.past.isEmpty && !c.b.saving && !c.w.handler && c.w.live != 0 && c.w.reissue.isEmpty &&
            c.b.stopping.isNone && c.l.record.handler != 0),
      passesWith a (sappSpec g) (fun c => c.stop (sappOwn g a c)) (fun c => isOk (c.descAt ((c.scalar g.a).extractLsb' 0 32).toNat true) &&
        c.w.logFree.isSome && decide (2 ≤ a.lockFree 0)),
      passesWith m (smrgSpec h) (smrgFails h) (fun c => isCovered c.w && (rangeFrom (vecNo h.d) (c.smrgDim h / 32 + 3)).all fun r => !c.w.logHolds r)]
      : List Bool).all id := by decide +kernel

theorem witness_SieveQueries_steps :
    let sent := (List.range 16).map fun i => (i, ([] : List Byte))
    let o := { anOp .sapp with wr := [(0, 0x200000)] }
    let ok := fun (k : Scan) (queued : Bool) (c : State → Bool) => decide (spFind (withScan k queued).ops 0 = some { anOp .sqry with scan := some k }) &&
      c (withScan k queued)
    ([ok (aScan false [] []) false (fun s => !s.opHeld { anOp .sqry with scan := some (aScan false [] []) } && decide ((s.sieveQueue 0).length < 16)),
      ok (aScan true [] []) true (fun s => (s.sieveQueue 0).head? == some 0 && !s.sievePaused (aScan true [] []) 3 && s.hwErrors.all fun e => !e.array),
      ok (aScan true sent []) false (fun s => (s.block? ⟨0, 0, 0⟩).isSome && sent.any fun e => e.1 == 3),
      ok (aScan true sent ((List.range 16).filter fun i => i != 3)) false (fun _ => sent.any fun e => e.1 == 3),
      !(withOp (at_ 0x281) o).opHeld o, (withOp (at_ 0x281) o).betweenScans 0, o.cells.all fun x => !(withOp (at_ 0x281) o).sieveHeld (x.1 / 64)]
      : List Bool).all id := by decide +kernel

/-- An instance of an XBAR of one package, with or without .rep. -/
def barInst (size : Nat) : Instance := ⟨0, 0, 0, 4, false, 0, 0, 0, 0, size, false, some 0, [], 0, 0, 0, 0⟩

theorem witness_Collectives :
    -- the status word at 64; XBAR, and one element of f32 between 20000H and 30000H
    let bar : List (Nat × Byte) := [(10, 1), (32, 64)]
    let one : List (Nat × Byte) := [(10, 1), (12, 1), (18, 2), (26, 3), (32, 64)]
    let cpy : List (Nat × Byte) := [(1, 12), (10, 1), (12, 1), (18, 2), (26, 3), (32, 64)]
    let f := reg 0 0x284 0 0
    let go := fun (code op : Nat) (bs : List (Nat × Byte)) (f : F) => let s := withCommon (withPages (at_ op)) bs
      passesWith s (collSpec f) (collFails f code s) fun c => match c.b.collAt c.l ((c.scalar f.a).extractLsb' 0 32).toNat code with
        | .error _ => false
        | .ok x => isOk (s.collPages c.l code x) && c.w.logFree.isSome && decide (x.locks c.l code ≤ s.lockFree 0) &&
            decide (c.publishDemand = [])
    ([go 0 0x2A0 one f, go 1 0x2A1 one f, go 2 0x2A2 cpy f, go 3 0x2A3 cpy f, go 4 0x2A4 bar f, go 4 0x2A4 bar (reg 0 0x284 0 1)]
      : List Bool).all id := by decide +kernel

theorem witness_Collectives_steps :
    let o := { anOp (.coll 4) with inst := some (barInst 1), wr := [(0, 64)] }
    let s := { withOp (at_ 0x2A4) o with instances := [barInst 1] }
    let e := { o with status := 4 }
    let far := { barInst 2 with package := 1, oper := 1 }
    let p := { o with inst := some (barInst 2) }
    let t := { withOp (at_ 0x2A4) p with instances := [barInst 2], peers := [far] }
    ([s.nextColl 0 0 == some o, s.contributed o, allArrived (barInst 1 :: s.collPeers (barInst 1)),
      (s.collPeers (barInst 1)).all (barInst 1).agrees, t.nextColl 0 0 == some p, t.contributed p,
      allArrived (barInst 2 :: t.collPeers (barInst 2)), !(t.collPeers (barInst 2)).all (barInst 2).agrees,
      (e.destCells (barInst 1)).all fun x => !(withOp (at_ 0x2A4) e).sieveHeld (x.1 / 64)] : List Bool).all id := by decide +kernel

theorem witness_Collectives_ends :
    let i := { barInst 1 with rep := true }
    let o := { anOp (.coll 4) with inst := some i, wr := [(0, 64)], status := 4, entry := some 0 }
    let off := { o with status := 5 }
    let p := fun (d : Nat) => { barInst 2 with digest := d, package := 1 }
    let is := fun (s : State) => (s.block? ⟨0, 0, 0⟩).map (fun b => b.core == 0 && b.slot == 0 && b.uid == o.uid && !o.post) == some true &&
      (s.wave? ⟨0, 0, 0⟩).isSome
    ([is (withOp (at_ 0x2A4) off), is (withOp (at_ 0x2A4) o), (o.destCells i).all fun x => !(withOp (at_ 0x2A4) o).sieveHeld (x.1 / 64),
      !(withOp (at_ 0x2A4) o).opsBefore o, !o.faulted,
      -- the agreement of the instances: none differs, the own one is alone, nobody holds a majority
      decide ((agreement i ((withOp (at_ 0x2A4) o).collPeers i)).2 = none),
      decide ((agreement (p 5) [p 6, p 6]).2 = some cDIVERGED), decide ((agreement (p 5) [p 6, p 7]).2 = some cNO_QUORUM),
      decide ([p 5, p 6, p 6].length < 2 * ([p 5, p 6, p 6].filter fun x => x.digest == 6).length)] : List Bool).all id := by decide +kernel

/-- A value of the digest that no participant holds has no majority either. -/
theorem witness_Collectives_quorum : ∀ d, 2 * (([{ barInst 2 with digest := 5 }, { barInst 2 with digest := 6 }] : List Instance).filter
    fun x => x.digest == d).length ≤ 2 := by
  intro d
  by_cases h5 : 5 = d
  · subst h5; decide
  · by_cases h6 : 6 = d
    · subst h6; decide
    · simp [h5, h6]

theorem witness_SystemInstructions :
    let f := reg 0x284 0x285 0 0
    let g := reg 0 0x285 0x286 0
    let h := reg 0x284 0x285 0x286 0
    let a := reg 0 0x285 0 0
    let bad := fun (s : State) (c : Ctx) => c.illegalIf (syswrBad s c (c.scalar g.a) (c.scalar g.b))
    -- s5 names WSTAT of wave 0, TMASK of wave 0 and core 0 slot 1; s6 holds 0
    let none_ := withScalar (at_ 0x2C3) 5 0x1000
    let w := at_ 0x2C1
    ([passes (at_ 0x2C0) (sysrdSpec f) (fun c => c.illegalIf (!selectorOk (at_ 0x2C0) c (c.scalar f.a))),
      passes w (syswrSpec g) (bad w), passes (withScalar w 5 3) (syswrSpec g) (bad (withScalar w 5 3)),
      passesWith (at_ 0x2C2) (asinvSpec a) (fun c => c.illegalIf (c.scalar a.a >>> 9 != 0))
        (fun c => (at_ 0x2C2).waitDone c.id c.b c.w ((at_ 0x2C2).translationUsers (c.scalar a.a))),
      resumable (at_ 0x2C2) (asinvSpec a) (.asinv [] []),
      passesWith none_ (killbSpec f) (fun c => c.illegalIf (c.scalar f.a >>> 16 != 0))
        (fun c => (none_.block? ⟨((c.scalar f.a).extractLsb' 0 12).toNat, ((c.scalar f.a).extractLsb' 12 4).toNat, 0⟩).isNone),
      passes (at_ 0x2C4) (remapSpec h) (fun c => c.illegalIf (c.scalar h.a >>> 12 != 0 || c.scalar h.b >>> 10 != 0))]
      : List Bool).all id := by decide +kernel

/-- A second block of the launch, in slot 1 of core 0. -/
def withNeighbour (s : State) : State := { s with
  blocks := s.blocks ++ (s.blocks.map fun x => (1, { x.2 with uid := 1, slot := 1, linear := 1 })) }

theorem witness_SystemInstructions_blocks :
    let f := reg 0x284 0x285 0 0
    let h := reg 0x284 0x285 0x286 0
    let k := withScalar (withNeighbour (at_ 0x2C3)) 5 0x1000
    let v := withScalar (withNeighbour (at_ 0x2C5)) 5 0x1000
    let l := at_ 0x2C6
    let v1 : W64 := 0x10004
    let rp := { at_ 0x2C1 with replicas := [⟨0x10000, 65536, 0, 0⟩] }
    ([passesWith k (killbSpec f) (fun c => c.illegalIf (c.scalar f.a >>> 16 != 0)) (fun c =>
        ((c.scalar f.a).extractLsb' 0 12).toNat == 0 && ((c.scalar f.a).extractLsb' 12 4).toNat == 1 &&
        (k.block? ⟨0, 1, 0⟩).isSome && blockKey 0 1 != wkey k.cur),
      resumable (at_ 0x2C3) (killbSpec f) (.slotFree 0 1 1),
      passesWith v (ctxSpec h) (fun c => c.illegalIf (c.scalar h.a >>> 16 != 0 || !areaOk (c.scalar h.b))) (fun c =>
        ((c.scalar h.a).extractLsb' 0 12).toNat == 0 && ((c.scalar h.a).extractLsb' 12 4).toNat == 1 &&
        ((v.block? ⟨0, 1, 0⟩).map fun b => !b.inHandler) == some true),
      resumable (at_ 0x2C5) (ctxSpec h) (.written 512),
      passesWith l (ctxSpec h) (fun c => c.illegalIf (!areaOk (c.scalar h.a) || c.scalar h.b >>> 12 != 0))
        (fun c => (l.acceptContext (c.scalar h.a).toNat none).isNone),
      ((at_ 0x2C1).wave? ⟨0, 0, 0⟩).map (fun x => !x.overrun) == some true,
      !(at_ 0x2C1).rpBad v1 && rpOp v1 == 1, !rp.rpBad 0x10008 && rpOp 0x10008 == 2] : List Bool).all id := by decide +kernel

/-- The wave that runs stands at a clause boundary, out of its slot; the line of its header is held. -/
def atBoundary (s : State) : State := { withWave s fun w => { w with
  clause := ⟨0, 0, 0⟩, pc := [] } with running := [] }

theorem witness_IssueSteps :
    let s := atBoundary (at_ 1)
    let cold := { withPages (atBoundary (at_ 1)) with icache := [] }
    let fly := withWave (at_ 1) fun w => { w with inflight := [⟨[], 0, 3, 1, false⟩], k := [(3, 1)] }
    let fold := withWave (at_ 0x98) fun w => { w with foldq := [(5, 1, 15)] }
    let late := { inHandler (at_ 1) with clock := 65536 }
    ([decide (s.registerErrors 0 = s), s.slotIdle 0, (match s.nextWave 0 with
        | none => false
        | some (id, b, w) => decide (s.block? id = some b) && decide (s.wave? id = some w) && !w.inClause && s.sliceOf b == 0 && w.skipAt.isNone &&
            (match w.nextHeader with
              | none => false
              | some (_, a) => match s.fetchFor id a with
                | .word h => !headerIllegal h (s.privOf b)
                | _ => false)),
      (match cold.fetcher 0 0 0 with
        | none => false
        | some (id, a, _) => cold.fetchFor id a == .fill && (match cold.block? id with
          | none => false
          | some b => match cold.launchOf b with
            | none => false
            | some l => isOk (cold.translate 0 l.tenant a.toNat [rEXEC]))),
      (fly.wave? ⟨0, 0, 0⟩).map (fun w => (w.inflight.find? fun p => !p.landed).isSome) == some true,
      (fold.wave? ⟨0, 0, 0⟩).map (fun w => !w.foldq.isEmpty && w.wait.isNone) == some true,
      (late.wave? ⟨0, 0, 0⟩).map (fun w => w.handler && !w.overrun && !w.hpast && decide (65536 ≤ w.hcycles late.clock)) == some true]
      : List Bool).all id := by decide +kernel

/-- Queue 5 is enabled with a ring of 16 records at 20000H of the stacks, of tenant and address space 0, cap 10, and has one record. -/
def withQueue (reading : Bool) (s : State) : State := { s with
  queues := [(5, ⟨0xA0480, 0x8000000000020000, 0, 1, 0x10000, 0, 10, 0, reading⟩)] }

theorem witness_QueueSteps :
    let s := withQueue false (withPages (at_ 1))
    let r := withQueue true (withPages (at_ 1))
    let ring := withQueue false { at_ 1 with clock := 65536 }
    -- the ring in host memory; a poisoned record; a record of zeros
    let host : State := { r with queues := r.queues.map fun e => (e.1, { e.2 with base := 0x20000 }) }
    let bad : State := { r with poison := [51539607552] }
    let zero := withQueue true (at_ 1)
    ([decide (5 < 4096), (s.queue 5).cfg.getLsbD 7, !(s.queue 5).stat.getLsbD 42,
      decide (((2 : W64).extractLsb' 0 32 - (s.queue 5).head).toNat ≤ 2 ^ ((s.queue 5).cfg.extractLsb' 8 5).toNat),
      !(s.queue 4).cfg.getLsbD 7, ring.queueAges 5, s.nextQueue == some 5, s.mayRead, (r.queue 5).reading,
      (r.poisonIn (r.queue 5).recordAt 256).isNone, r.freeHostEntry.isSome,
      (host.queue 5).reading && !(host.queue 5).base.getLsbD 63, (bad.queue 5).reading && (bad.poisonIn (bad.queue 5).recordAt 256).isSome,
      (zero.queue 5).reading && (zero.poisonIn (zero.queue 5).recordAt 256).isNone && zero.freeHostEntry.isSome,
      zero.rejectReason (recordOf (wordsOf 32 (zero.readBytes (zero.queue 5).recordAt 256))) ((zero.queue 5).cfg.extractLsb' 40 8).toNat
        ((zero.pkgR (0x400 + ((zero.queue 5).cfg.extractLsb' 0 6).toNat)).extractLsb' 8 4).toNat ((zero.queue 5).grp.extractLsb' 16 16).toNat != 0,
      r.rejectReason (recordOf (wordsOf 32 (r.readBytes (r.queue 5).recordAt 256))) ((r.queue 5).cfg.extractLsb' 40 8).toNat
        ((r.pkgR (0x400 + ((r.queue 5).cfg.extractLsb' 0 6).toNat)).extractLsb' 8 4).toNat ((r.queue 5).grp.extractLsb' 16 16).toNat == 0]
      : List Bool).all id := by decide +kernel

theorem witness_QueueSteps_launches :
    let host := withLaunch (at_ 1) fun l => { l with completed := 1 }
    let dev := withLaunch (at_ 1) fun l => { l with completed := 1, host := false, die := 0, parent := some (0, 0) }
    let gone := withLaunch (at_ 1) fun l => { l with completed := 1, host := false, die := 0, parent := some (9, 0) }
    let last := { at_ 1 with launches := [(0, { fetchLaunch with complete := true }),
      (1, { fetchLaunch with host := false, die := 0, isTail := true, started := false, parent := some (0, 0), entry := 3, reject := 5 })] }
    let tail := { at_ 1 with launches := [(0, { fetchLaunch with complete := true }),
      (1, { fetchLaunch with host := false, die := 0, isTail := true, started := false, parent := some (0, 0), entry := 3 })] }
    let one := (withLaunch (at_ 1) fun l => { l with groups := [⟨none, none, [(0, 0, 4, noDeadline)]⟩] }).launch? 0
    ([one.map (fun l => (List.range 8).any fun d => decide (d ∈ l.dies) && l.arrivals.all fun a => a.1 != d) == some true,
      (host.launch? 0).map (fun l => l.done && l.host && !host.recordHeld l) == some true,
      (dev.launch? 0).map (fun l => l.done && !l.host && !l.isTail && !dev.parentGone l && !dev.recordHeld l) == some true,
      (gone.launch? 0).map (fun l => l.done && !l.host && gone.parentGone l && !gone.recordHeld l) == some true,
      (last.launch? 1).map (fun l => l.isTail && !l.started && !l.host && l.parent == some (0, 0) &&
        ((last.launch? 0).map Launch.complete).getD true && l.reject != 0 && !last.recordHeld l) == some true,
      (tail.launch? 1).map (fun l => l.isTail && !l.started && l.parent == some (0, 0) &&
        ((tail.launch? 0).map Launch.complete).getD true && l.reject == 0 && decide (l.entry < 4096)) == some true,
      decide (0x20000 + 1 ≤ stackBytes), (List.range (0x20000 % 64 + 1)).all fun i =>
        !(at_ 1).sieveHeld ((0x20000 - 0x20000 % 64 + i) / 64),
      (withScan (aScan true [] []) true).sieveHeld (0x200000 / 64)] : List Bool).all id := by decide +kernel

/-! ### A context that CTXLD accepts -/

/-- Bytes listed in memory from an address on. -/
def memOf : Nat → List Byte → List Host.Cell
  | _, [] => []
  | a, b :: t => if b = 0 then memOf (a + 1) t else (a, b) :: memOf (a + 1) t

theorem memOf_below (l : List Byte) : ∀ a k, k < a → spGet 0 (memOf a l) k = 0 := by
  induction l with
  | nil => intro a k _; rfl
  | cons b t ih =>
    intro a k h
    have h1 := ih (a + 1) k (by omega)
    by_cases hb : b = 0
    · rwa [memOf, if_pos hb]
    · rwa [memOf, if_neg hb, spGet, if_neg (by omega)]

theorem memOf_get (l : List Byte) : ∀ a i, spGet 0 (memOf a l) (a + i) = l.getD i 0 := by
  induction l with
  | nil => intro a i; rfl
  | cons b t ih =>
    intro a i
    cases i with
    | zero =>
      by_cases hb : b = 0
      · rw [memOf, if_pos hb]; exact (memOf_below t (a + 1) a (by omega)).trans hb.symm
      · rw [memOf, if_neg hb]; exact if_pos rfl
    | succ n =>
      have h1 := ih (a + 1) n
      rw [show a + 1 + n = a + (n + 1) by omega] at h1
      by_cases hb : b = 0
      · rw [memOf, if_pos hb]; exact h1
      · rw [memOf, if_neg hb, spGet, if_neg (by omega)]; exact h1

theorem keccakRound_length (a : List W64) (rc : W64) : (keccakRound a rc).length = 25 := by
  simp [keccakRound, List.range, List.range.loop]

theorem absorb_length (a : List W64) (b : List Byte) : (absorb a b).length = 25 := by
  unfold absorb keccakF
  simp only [keccakRC, List.cons_append, List.nil_append, List.foldl_cons, List.foldl_nil, keccakRound_length]

theorem sha3_512_length (m : List Byte) : (sha3_512 m).length = 64 := by
  have h : ∀ (bs : List (List Byte)) (a : List W64), a.length = 25 → (bs.foldl absorb a).length = 25 := by
    intro bs
    induction bs with
    | nil => intro a h; exact h
    | cons b t ih => intro a _; exact ih _ (absorb_length a b)
  have h8 := h (blocks72 ((sha3Pad m).length / 72 + 1) (sha3Pad m)) (List.replicate 25 0#64) (by simp)
  simp only [sha3_512, List.length_flatten, List.map_map, Function.comp_def]
  have hb : ∀ x : W64, (bytesOfNat 8 x.toNat).length = 8 := fun x => rfl
  simp [hb, h8, -List.reduceReplicate]

/-- The header of a context of launch entry 0: one wave, one extent, 25 rows; its check and 26 zero rows follow. -/
def ctxHead : List Byte := [0x43, 0x54, 0x58, 0x31, 1, 0, 1, 1, 25] ++ List.replicate 439 0
def ctxBody : List Byte := List.replicate 13312 0
def ctxBytes : List Byte := ctxHead ++ (sha3_512 (ctxHead ++ ctxBody) ++ ctxBody)

theorem ctxHead_length : ctxHead.length = 448 := by decide +kernel
theorem ctxBody_length : ctxBody.length = 13312 := List.length_replicate
theorem ctxBytes_length : ctxBytes.length = 13824 := by
  simp only [ctxBytes, List.length_append, ctxHead_length, ctxBody_length, sha3_512_length]

theorem getNat_head {off n : Nat} (x : List Byte) (h : off + n ≤ 448) : getNat (ctxHead ++ x) off n = getNat ctxHead off n := by
  have hl := ctxHead_length
  unfold getNat
  rw [List.drop_append_of_le_length (by omega), List.take_append_of_le_length (by simp; omega)]

theorem zeroAt_head {off n : Nat} (x : List Byte) (h : off + n ≤ 448) : zeroAt (ctxHead ++ x) off n = zeroAt ctxHead off n := by
  have hl := ctxHead_length
  unfold zeroAt
  rw [List.drop_append_of_le_length (by omega), List.take_append_of_le_length (by simp; omega)]

theorem ctxBytes_drop (k : Nat) : ctxBytes.drop (512 + k) = ctxBody.drop k := by
  have h : (ctxHead ++ sha3_512 (ctxHead ++ ctxBody)).length = 512 := by
    rw [List.length_append, ctxHead_length, sha3_512_length]
  rw [ctxBytes, ← List.append_assoc, ← List.drop_drop, List.drop_left' h]

/-- The launch has one wave and a budget of 1; the context stands in host memory, and the scalars name it and core 0. -/
def withContext : State := withScalar (withLaunch { at_ 0x2C6 with mem := memOf hostBit ctxBytes, dieReg := [(0x201, 4)] }
  fun l => { l with record := { l.record with control := 0x100010000 } }) 5 0x8000000000000

theorem context_read (s : State) (hm : s.mem = memOf hostBit ctxBytes) (h0 : s.poison = []) (n : Nat) (h : n ≤ 13824) :
    s.cleanBytes hostBit n = some (ctxBytes.take n) := by
  have hp : s.poisonIn hostBit n = none := by
    simp only [State.poisonIn, List.find?_eq_none, List.mem_map]
    rintro u ⟨i, _, rfl⟩
    have h1 : ¬ ((hostBit / 8 + i) * 8 < stackBytes) := by unfold hostBit stackBytes; omega
    simp [State.poisoned, State.unreachable, h0, h1]
  simp only [State.cleanBytes, hp, Option.isSome_none, Bool.false_eq_true, if_false, Option.some.injEq, State.readBytes]
  refine List.ext_getElem (by rw [List.length_map, List.length_range, List.length_take, ctxBytes_length]; omega) fun i h1 h2 => ?_
  have hk : s.memKey (hostBit + i) = hostBit + i := by
    unfold State.memKey; rw [if_neg (by unfold hostBit stackBytes; omega)]
  have hi : i < ctxBytes.length := by rw [ctxBytes_length]; simp at h1; omega
  simp only [List.getElem_map, List.getElem_range, List.getElem_take]
  rw [State.readByte, hk, hm, memOf_get, List.getD_eq_getElem?_getD, List.getElem?_eq_getElem hi, Option.getD_some]

theorem accepted_of {s : State} {pa n ln : Nat} {head bs : List Byte} {l : Launch} {k : Option SavedSlot} (h1 : s.cleanBytes pa 512 = some head)
    (h2 : contextLength head = some n) (h3 : s.cleanBytes pa n = some bs) (h4 : k = none → s.keptFor bs = none)
    (h5 : s.launchNamed (getNat bs 0xC 4) k = some (ln, l))
    (h6 : (reservedClear bs (getNat bs 6 1) && countsAgree bs l k && checkHolds bs) = true) :
    s.acceptContext pa k = some ⟨bs, ln, l, k⟩ := by
  cases k with
  | none => simp only [State.acceptContext, h1, h2, h3, h4 rfl, h5, h6, if_true]
  | some x => simp only [State.acceptContext, h1, h2, h3, h5, h6, if_true]

/-- CTXLD's checks pass on the context, kept or not, of a launch of one wave, a budget of 1 and no common area. -/
theorem context_accepted (s : State) (l : Launch) (k : Option SavedSlot) (hm : s.mem = memOf hostBit ctxBytes) (hp : s.poison = [])
    (hk0 : k = none → s.saved = []) (hname : s.launchNamed 0 k = some (0, l)) (hw : l.record.waves = 1) (hb : l.record.budget = 1)
    (hcm : l.record.common = 0) (hs : ∀ x, k = some x → x.block.sender = none) :
    s.acceptContext hostBit k = some ⟨ctxBytes, 0, l, k⟩ := by
  have hlen : contextLength (ctxBytes.take 512) = some 13824 := by
    have hs : ctxBytes.take 512 = ctxHead ++ sha3_512 (ctxHead ++ ctxBody) := by
      rw [ctxBytes, ← List.append_assoc, List.take_left' (by rw [List.length_append, ctxHead_length, sha3_512_length])]
    rw [hs, contextLength, getNat_head _ (by omega), getNat_head _ (by omega)]
    decide +kernel
  have hall : ctxBytes.take 13824 = ctxBytes := List.take_of_length_le (by rw [ctxBytes_length])
  have hn : ∀ off n, off + n ≤ 448 → getNat ctxBytes off n = getNat ctxHead off n := fun off n h => getNat_head _ h
  have hz : ∀ off n, off + n ≤ 448 → zeroAt ctxBytes off n = zeroAt ctxHead off n := fun off n h => zeroAt_head _ h
  have hkept : k = none → s.keptFor ctxBytes = none := fun e => by simp [State.keptFor, hk0 e]
  have hsend : ((k.map fun x => x.block.sender.isSome).getD false) = false := by
    cases k with
    | some x => simp [hs x rfl]
    | none => rfl
  have h0 : getNat ctxBytes 0xC 4 = 0 := by rw [hn 0xC 4 (by omega)]; decide +kernel
  have hx : zeroAt ctxBytes (512 * (1 + 0) + 0x18C) 116 = true := by
    rw [show 512 * (1 + 0) + 0x18C = 512 + 396 from rfl, zeroAt, ctxBytes_drop]; decide +kernel
  have hr : reservedClear ctxBytes (getNat ctxBytes 6 1) = true := by
    have h6 : getNat ctxHead 6 1 = 1 := by decide +kernel
    rw [hn 6 1 (by omega), h6]
    simp only [reservedClear, hn, hz, Nat.reduceAdd, Nat.reduceLeDiff, List.range, List.range.loop, List.all_cons, List.all_nil, hx]
    decide +kernel
  have hc : countsAgree ctxBytes l k = true := by
    have hd : ctxBytes.drop (512 * (1 + 1)) = ctxBody.drop 512 := ctxBytes_drop 512
    have h6 : getNat ctxHead 6 1 = 1 := by decide +kernel
    have h7 : getNat ctxHead 7 1 = 1 := by decide +kernel
    have h8 : getNat ctxHead 8 4 = 25 := by decide +kernel
    have he : extentRows (ctxBody.drop 512) 1 = [0] := by decide +kernel
    simp only [countsAgree, hsend]
    simp [hn, h6, h7, h8, hw, hb, hcm, hd, he, rowsFor]
  have hk : checkHolds ctxBytes = true := by
    have h1 : ctxBytes.take 0x1C0 = ctxHead := List.take_left' ctxHead_length
    have h2 : ctxBytes.drop 0x1C0 = sha3_512 (ctxHead ++ ctxBody) ++ ctxBody := List.drop_left' ctxHead_length
    have h3 : ctxBytes.drop 0x200 = ctxBody := ctxBytes_drop 0
    simp [checkHolds, h1, h2, h3, List.take_left' (sha3_512_length _)]
  exact accepted_of (context_read s hm hp 512 (by omega)) hlen ((context_read s hm hp 13824 (by omega)).trans (congrArg some hall)) hkept
    (by rw [h0]; exact hname) (by rw [hr, hc, hk]; rfl)

theorem witness_SystemInstructions_restore :
    let h := reg 0x284 0x285 0x286 0
    passesWith withContext (ctxSpec h) (fun c => c.illegalIf (!areaOk (c.scalar h.a) || c.scalar h.b >>> 12 != 0))
      (fun c => (c.scalar h.a).toNat == hostBit && (c.scalar h.b).toNat == 0) = true ∧
    ∃ a, withContext.acceptContext hostBit none = some a ∧ withContext.restoreRoom a 0 = true ∧ withContext.freeSlot 0 = some 1 := by
  refine ⟨by decide +kernel, ?_⟩
  obtain ⟨l, hl⟩ : ∃ l, withContext.launches.head? = some (0, l) ∧ l.record.waves = 1 ∧ l.record.budget = 1 ∧ l.record.common = 0 ∧
      l.tenant = 0 := ⟨_, rfl, by decide +kernel, by decide +kernel, by decide +kernel, by decide +kernel⟩
  have ht := hl.2.2.2.2
  have hn0 : withContext.launchNamed 0 none = withContext.launches.head?.map fun e => (e.1, e.2) := by decide +kernel
  refine ⟨_, context_accepted withContext l none rfl rfl (fun _ => rfl) (by rw [hn0, hl.1]; rfl) hl.2.1 hl.2.2.1 hl.2.2.2.1 (by simp), ?_, by decide +kernel⟩
  have hn : ∀ off n, off + n ≤ 448 → getNat ctxBytes off n = getNat ctxHead off n := fun off n h => getNat_head _ h
  simp only [State.restoreRoom, Accepted.need, hn, Nat.reduceAdd, Nat.reduceLeDiff, ht, Option.map_none]
  decide +kernel

/-- The one block saved on a die is a candidate with its own number, deadline and cores. -/
theorem savedCands_one {s : State} {die : Nat} {k : SavedSlot} {l : Launch} {a : Accepted}
    (h : s.saved.filter (fun c => c.die == die && c.slot.isSome) = [k]) (hl : s.launch? k.block.launch = some l)
    (hs : s.slotContext k = some a) : ∃ c, s.savedCands die = [c] ∧ c.kind = .saved ∧ c.key = k.block.uid ∧
      c.deadline = k.block.deadline.getD noDeadline ∧ c.cores = (s.partCores l.tenant).filter (fun q => match k.block.pinCore, k.block.pinDie with
        | some p, _ => q == p
        | none, some d => dieOf q == d
        | none, none => true) := by
  rw [State.savedCands, h]
  simp only [List.filterMap_cons, hl, hs, List.filterMap_nil]
  exact ⟨_, rfl, rfl, rfl, rfl, rfl⟩

/-- A saved candidate has room where its context has. -/
theorem candRoom_saved {s : State} {c : Waiter} {k : SavedSlot} {a : Accepted} {core : Nat} (hk : c.kind = .saved)
    (hf : s.saved.find? (fun k => k.block.uid == c.key) = some k) (hs : s.slotContext k = some a) : s.candRoom c core = s.restoreRoom a core := by
  simp [State.candRoom, hk, hf, hs]

/-- A candidate that is alone and has room on its only core is the best one, and no candidate lacks room. -/
theorem bestCand_one {s : State} {die core : Nat} {c : Waiter} (h : s.cands die = [c]) (hk : c.cores = [core])
    (hb : s.clearedBy die = []) (hr : s.candRoom c core = true) :
    s.bestCand die (s.clearedBy die) (fun _ => false) = some (c, core) ∧ s.hungry die = none := by
  have hc : s.chosenCore c (s.clearedBy die) = some core := by
    simp only [State.chosenCore, hk, hb, List.not_mem_nil, decide_false, Bool.not_false, Bool.true_and, List.filter_cons, hr, if_true,
      List.filter_nil]
    by_cases hl : s.lineHeld core c.asid c.line <;> simp [hl, minBy]
  simp [State.bestCand, State.hungry, h, hc, firstBy]

/-- The same context in slot 0 of die 0, with the block it was written from, which is pinned to core 0. -/
def keptSlot : SavedSlot := ⟨0, some 0, hostBit, { fetchBlock 0 with uid := 9, pinCore := some 0 }, 0, 0⟩
def withKept : State := { withContext with blocks := [], running := [], saved := [keptSlot] }

theorem kept_context : ∃ l, withKept.launches.head? = some (0, l) ∧ l.tenant = 0 ∧
    withKept.slotContext keptSlot = some ⟨ctxBytes, 0, l, some keptSlot⟩ := by
  obtain ⟨l, hl⟩ : ∃ l, withKept.launches.head? = some (0, l) ∧ l.record.waves = 1 ∧ l.record.budget = 1 ∧ l.record.common = 0 ∧
      l.tenant = 0 := ⟨_, rfl, by decide +kernel, by decide +kernel, by decide +kernel, by decide +kernel⟩
  have hn0 : withKept.launchNamed 0 (some keptSlot) = withKept.launches.head?.map fun e => (e.1, e.2) := by decide +kernel
  exact ⟨l, hl.1, hl.2.2.2.2, context_accepted withKept l (some keptSlot) rfl rfl (by simp) (by rw [hn0, hl.1]; rfl) hl.2.1 hl.2.2.1 hl.2.2.2.1
      (fun x e => by cases e; rfl)⟩

theorem kept_room {l : Launch} (ht : l.tenant = 0) : withKept.restoreRoom ⟨ctxBytes, 0, l, some keptSlot⟩ 0 = true := by
  have hn : ∀ off n, off + n ≤ 448 → getNat ctxBytes off n = getNat ctxHead off n := fun off n h => getNat_head _ h
  simp only [State.restoreRoom, Accepted.need, hn, Nat.reduceAdd, Nat.reduceLeDiff, ht, Option.map_some]
  decide +kernel

theorem witness_BlockSteps_saved : ∃ c a, withKept.bestCand 0 (withKept.clearedBy 0) (fun _ => false) = some (c, 0) ∧ c.kind = .saved ∧
    withKept.saved.find? (fun k => k.block.uid == c.key) = some keptSlot ∧ withKept.slotContext keptSlot = some a ∧
    withKept.hungry 0 = none ∧ withKept.dclk ≤ c.deadline ∧ withKept.evacuate 0 = withKept ∧ withKept.dieWorks 0 = true ∧
    spFind withKept.room 0 = none ∧ withKept.freeSlot 0 = some 0 := by
  obtain ⟨l, hl, ht, hs⟩ := kept_context
  have hsaved : withKept.saved.filter (fun c => c.die == 0 && c.slot.isSome) = [keptSlot] := by decide +kernel
  have hlaunch : withKept.launch? keptSlot.block.launch = withKept.launches.head?.map Prod.snd := by decide +kernel
  rw [hl, Option.map_some] at hlaunch
  obtain ⟨c, h, hk, hkey, hd, hc⟩ := savedCands_one hsaved hlaunch hs
  have hcores : c.cores = [0] := by
    rw [hc, ht]; decide +kernel
  have hcands : withKept.cands 0 = [c] := by
    have h1 : withKept.freshCands 0 = [] := by decide +kernel
    have h2 : withKept.messageCands 0 = [] := by decide +kernel
    rw [State.cands, h1, h2, h]; rfl
  have hf : withKept.saved.find? (fun k => k.block.uid == c.key) = some keptSlot := by rw [hkey]; decide +kernel
  have hroom : withKept.candRoom c 0 = true := by
    rw [candRoom_saved hk hf hs]
    exact kept_room ht
  obtain ⟨hb, hh⟩ := bestCand_one hcands hcores (by decide +kernel) hroom
  exact ⟨c, _, hb, hk, hf, hs, hh, by rw [hd]; decide +kernel, rfl, by decide +kernel, by decide +kernel, by decide +kernel⟩

/-- A record of one wave and a budget of 32, its one block pinned to core 0 of die 0 and waiting there. -/
def withTicket (s : State) : State := { s with
  blocks := [], journals := [], dieReg := [(0x201, 4)]
  launches := [(0, { fetchLaunch with
    record := { fetchLaunch.record with control := 0x100200000 }
    groups := [⟨some 0, some 0, [(0, 0, 1, noDeadline)]⟩], arrivals := [(0, 0)], aged := [(0, 0, 0)], prio := 5 })] }

theorem witness_BlockSteps_dispatch :
    let s := withTicket (at_ 1)
    let late := { s with clock := 65536 }
    let mail : State := { s with launches := [(0, fetchLaunch)], msgq := [(0, [⟨0x10000, 32, 3, [], ⟨1, 0, 0⟩, 0, 7, 0, 0, true, 5, 0, 15, 0, 0, 0⟩])] }
    ([decide (mail.evacuate 0 = mail), mail.dieWorks 0, (spFind mail.room 0).isNone, (mail.hungry 0).isNone,
      (match mail.bestCand 0 (mail.clearedBy 0) (fun _ => false) with
        | none => false
        | some (c, core) => core == 0 && c.kind == .message && (mail.freeSlot core).isSome && (mail.freeJournal (dieOf core)).isSome &&
            decide (mail.dclk ≤ c.deadline)),
      decide (s.evacuate 0 = s), s.dieWorks 0, (spFind s.room 0).isNone, (s.hungry 0).isNone,
      (match s.bestCand 0 (s.clearedBy 0) (fun _ => false) with
        | none => false
        | some (c, core) => core == 0 && c.kind == .fresh && (match s.launch? c.launch with
          | none => false
          | some l => match l.groups[c.key % 65536]? with
            | none => false
            | some g => (g.nextRange 0).isSome) && (s.freeSlot core).isSome && (s.freeJournal (dieOf core)).isSome &&
            decide (s.dclk ≤ c.deadline)),
      (late.launch? 0).map (fun l => l.live 0 && l.groups.any (fun g => g.onDie 0 != []) && l.aged == [(0, 0, 0)] &&
        agesNow late.clock l.prio 0 0) == some true] : List Bool).all id := by decide +kernel

/-- Die 1 has no index of an unpinned group, and die 0 has four and no journal for a block. -/
def withRange (s : State) : State := { withTicket s with
  pkgReg := [(0x490, 0x10000)], dieReg := [(0x1201, 4)]
  launches := (withTicket s).launches.map fun e => (e.1, { e.2 with
    groups := [⟨none, none, [(0, 0, 4, noDeadline)]⟩], arrivals := [(0, 0), (1, 0)] }) }

theorem witness_BlockSteps_steal :
    let s := withRange (at_ 1)
    ((match s.stealGroup 1 0 with
      | none => false
      | some (l, g) => match s.stealFrom l g 1 with
        | none => false
        | some q => !s.stealWaits 1 0 q) : Bool) = true := by decide +kernel

theorem witness_BlockSteps_blocks :
    let gone := withWave (at_ 1) fun w => { w with exited := 0xFFFFFFFF }
    let idle := { at_ 1 with running := [] }
    let flush := withLaunch (withBlock idle fun b => { b with stopping := some false }) fun l => { l with groups := [⟨none, none, []⟩] }
    let save := withBlock idle fun b => { b with stopping := some true }
    let write := withBlock { idle with dieReg := [(0x231, 2)] } fun b => { b with stopping := some true, saving := true }
    let own := withBlock write fun b => { b with saveTo := [0x400000] }
    let lazy := withBlock write fun b => { b with nodes := [(0, ⟨8, 0, 0, 0x201, 0, 4, false, 1, 0xFF, 0, 0, 0, 0, 0, 0, 0, [], none, [], 0⟩)] }
    let again := withBlock { idle with clock := 1048576 } fun b => { b with draining := some 0 }
    let redo := withLaunch again fun l => { l with record := { l.record with control := 256 } }
    let drain := withBlock { idle with dieReg := [(0x231, 2)], clock := 1048576 } fun b => { b with draining := some 0 }
    let slice := withBlock (withLaunch { at_ 1 with clock := 100 } fun l => { l with record := { l.record with slice := 9 } })
      fun b => { b with sliceFrom := some 0 }
    let next := withBlock { at_ 1 with clock := 100 } fun b => { b with offered := some 0 }
    let is := fun (s : State) (ok : Block → Bool) => (s.block? ⟨0, 0, 0⟩).map (fun b => b.core == 0 && b.slot == 0 && ok b &&
      s.launches.all fun e => e.1 != b.launch || e.2.host) == some true
    ([is gone gone.mayRetire, is flush fun b => flush.actionDue b false && b.sender.isNone && ((flush.launch? b.launch).bind fun l => l.groups[b.group]?).isSome, is save fun b => save.actionDue b true,
      is write fun b => (write.launchOf b).isSome && b.saving && !b.inHandler && b.demand.isEmpty && write.opsEnded b && b.saveTo.isEmpty && b.nodes.isEmpty &&
        (match write.contextSlot (dieOf 0) with
          | none => false
          | some i => !write.heldIn ((write.dieR (dieOf 0) 0x230).toNat + 2097152 * i) b.contextSize),
      is own fun b => (own.launchOf b).isSome && b.saving && !b.inHandler && b.demand.isEmpty && own.opsEnded b && b.saveTo == [0x400000] && b.nodes.isEmpty && !own.heldIn 0x400000 b.contextSize,
      is lazy fun b => (lazy.launchOf b).isSome && b.saving && !b.inHandler && b.demand.isEmpty && lazy.opsEnded b &&
        b.nodes.any fun e => e.2.op == 0x201 && e.2.state == 1,
      is again fun b => b.draining == some 0 && !again.exempt b && b.stopping.isNone && again.actionFor b 2 false == .drain,
      is redo fun b => b.draining == some 0 && !redo.exempt b && b.stopping.isNone && redo.actionFor b 2 false == .flush,
      is drain fun b => b.draining == some 0 && !drain.exempt b && b.stopping.isNone && drain.actionFor b 2 false == .save,
      is slice slice.sliceDue, is next fun b => b.offered == some 0 && decide (0 / 2 < next.dclk) && (next.cands (dieOf 0)).isEmpty]
      : List Bool).all id := by decide +kernel

theorem witness_BlockSteps_others :
    -- a ring of die 0 whose high threshold of one entry has fired, and a pool block
    let s := withBlock { at_ 1 with stageqs := [(5, ⟨true, 0, [(.filled, none), (.free, none)], 1, 0, 1, 2, 1, [0], [], false, true, true, 0, [true], []⟩)] }
      fun b => { b with stage := some 0 }
    ([decide (spGet 0 s.ladleNext 0 ≤ s.dclk), ((s.readyRings 0).nextMove 0).map (fun x => (s.block? ⟨x.2.2.2.core, x.2.2.2.slot, 0⟩) == some x.2.2.2) == some true,
      decide ((spGet [] (at_ 1).msgq 0).length < 64), !(at_ 1).messageBehind 0 ⟨0x10000, 32, 3, [], ⟨1, 0, 0⟩, 0, 7, 0, 0, true, 5, 0, 15, 0, 0, 0⟩]
      : List Bool).all id := by decide +kernel

theorem witness_PartSteps :
    let r : ChanReq := { cls := 1, budget := 9, die := 0, port := 0, bank := 2, tag := 0 }
    let due : State := { at_ 1 with clock := 7020 }
    let busy : State := due.modChannel 3 fun c => { c with refresh := [(2, 0)] }
    let wants : State := due.modChannel 3 fun c => { c with queues := [[], [(r, 0, 9)], [], []] }
    let chose := fun (f : Channel → Channel) => wants.modChannel 3 fun c => f { c with chosen := some (r, 0, 9) }
    let cold := chose fun c => { c with refresh := [(2, 0)] }
    let row := chose fun c => { c with row := { pending := some 0 } }
    let col := chose fun c => { c with col := { pending := some 0 } }
    let is := fun (s : State) (ok : State → Bool) => decide (s.arrayErrors 3 = s) && (s.channel 3).chosen == some (r, 0, 9) && ok s
    let win : State := { at_ 1 with windows := [(0, 1)] }
    ([(spFind (due.channel 3).refresh 2).isNone, decide (spGet 0 (due.channel 3).lastRef 2 + 3900 ≤ due.cclk),
      (spFind (busy.channel 3).refresh 2) == some 0, decide (0 + 240 ≤ busy.cclk),
      decide (r.cls < ((at_ 1).channel 3).queues.length), decide ((((at_ 1).channel 3).queues.getD r.cls []).length < 32),
      decide (wants.arrayErrors 3 = wants), (wants.channel 3).chosen == none, wants.slotChoice 3 == some (r, 0, 9),
      is cold fun s => !s.readyReq 3 r, is row fun s => s.readyReq 3 r && s.busGrants 3 Channel.row,
      is col fun s => s.readyReq 3 r && !s.busGrants 3 Channel.row && s.busGrants 3 Channel.col,
      spGet 0 win.windows 0 != win.windowNow 0, (measure [] 0 noMeasures).isSome, StartInput.ends ⟨[], [], [], [], none⟩ 2, !(at_ 1).nextCold, (⟨[], [], [], [], some 3⟩ : StartInput).cut == some 3,
      (List.replicate 32 (0 : Byte)).length == 32] : List Bool).all id := by decide +kernel

/-- Of two keys with different hashes one is not the root key's, so firmware signed with it does not verify. -/
theorem witness_PartSteps_unverified : ∃ x : StartInput, Machine.measure x.images 0 noMeasures = none := by
  have hk : sha3_512 [] ≠ sha3_512 [1] := by decide +kernel
  by_cases h : sha3_512 [] = rootKeyHash
  · have h1 : sha3_512 [1] ≠ rootKeyHash := fun e => hk (h.trans e.symm)
    exact ⟨⟨[⟨[1], [], []⟩], [], [], [], none⟩, by simpa [Machine.measure] using fun e => absurd e h1⟩
  · exact ⟨⟨[⟨[], [], []⟩], [], [], [], none⟩, by simp [Machine.measure, h]⟩

/-- A packet of class 1 for port 3 of die 0 of this package. -/
def aPacket : Packet := ⟨0, 0, 0, 1, 0, 0, 1, false, false, false, 1, [], 0, 3, .other⟩
def withLane (k : Nat) (q : PortQueues) : State := { at_ 1 with ports := [(k, q)] }

theorem witness_FabricSteps :
    let s : State := withLane (laneKey 0 192 0) { noPort with normal := [[], [aPacket], [], []] }
    let h : Head := ⟨192, 0, 1, false, aPacket⟩
    let far := { aPacket with dstFab := 5 }
    let sw : State := { at_ 1 with switches := [(switchPort (switchKey 2 1 0) 9, { noPort with normal := [[], [far], [], []] })] }
    let old : State := { sw with clock := 65536 }
    let k := switchPort (switchKey 2 1 0) 9
    let out := fun (p : Packet) => withLane (laneKey 0 3 0) { noPort with output := [p] }
    let lk := fun (l : Link) => ({ at_ 1 with links := [(7, l)] } : State)
    let f : Flit := ⟨0, 1023, true, false, true, none⟩
    let worn : State := lk { noLink with sent := [f], naks := 7 }
    let dead : State := lk { noLink with sent := [f], retrain := true }
    ([s.outLane 0 3 == some 0, decide (s.asking 0 3 = [h]), (match s.wants 0 3 h with
        | some (.arrive, _, _) => true
        | _ => false), !wide 3,
      decide (sw.switchHeads 2 1 0 = [⟨9, 1, false, far⟩]), (switchHop 1 0 5).1 == 0, (5 : Nat) != sw.ownFab,
      (old.switch k).moves old.dclk 1, (((old.switch k).normal.getD 1 []).head?) == some far, decide (1 < (old.switch k).escape.length),
      [Carried.other, .answer false, .answer true, .request (some 5) { cls := 1, budget := 9, die := 0, port := 0, bank := 2, tag := 0 }].all
        (fun x => ((out { aPacket with load := x }).lane (laneKey 0 3 0)).output == [{ aPacket with load := x }]), !ordered aPacket.cls,
      ordered 0, ({ aPacket with cls := 0 } : Packet).seq == spGet 0 (at_ 1).flows (flowOf { aPacket with cls := 0 }),
      ((out { aPacket with cls := 0 }).lane (laneKey 0 3 0)).hold.isEmpty,
      ({ aPacket with cls := 0, seq := 1 } : Packet).seq != spGet 0 (at_ 1).flows (flowOf { aPacket with cls := 0, seq := 1 }),
      !((at_ 1).link 7).retrain, !((at_ 1).link 7).retired, f.crcOk && f.seq == ((at_ 1).link 7).expectSeq,
      !(worn.link 7).retrain && (worn.link 7).sent.any (fun f => f.seq == 0) && (worn.link 7).nakSeq == 0 && decide (7 ≤ (worn.link 7).naks),
      (dead.link 7).retrain, (dead.link 7).sent.all fun f => f.packet.isNone] : List Bool).all id := by decide +kernel

theorem witness_StepRunsDecoded :
    let s := at_ 1
    let none_ := { s with running := [], blocks := [], launches := [], icache := [] }
    decide (s.taken = some (.wave ⟨0, 0, 0⟩)) && (s.fetchFor ⟨0, 0, 0⟩ (s.wave ⟨0, 0, 0⟩).wordAddr == .word (BitVec.ofNat 64 (2 ^ 54))) &&
    (match s.heldLine 0 0 0 ((s.wave ⟨0, 0, 0⟩).wordAddr.toNat / 64) with
      | none => false
      | some n => isOk (decode (n.data.drop ((s.wave ⟨0, 0, 0⟩).wordAddr.toNat % 64)))) &&
    decide (none_.taken = none) := by decide +kernel

theorem witness_StepRunsDecoded_agenda :
    let s := { at_ 1 with running := [], blocks := [], launches := [], icache := [] }
    decide ({ s with agenda := [.doorbell 1 false 0] }.taken = some (.item 0 (.doorbell 1 false 0))) &&
    decide ({ s with windows := [(0, 1)] }.taken = some (.event (.errorWindowExpire 0))) := by decide +kernel

theorem witness_StepKeepsMemoryCanonical : State.reset.MemoryCanonical ∧ ∃ t, step State.reset = .next t := by
  refine ⟨by unfold State.MemoryCanonical; decide +kernel, ?_⟩
  have h : State.reset.taken = none := by decide +kernel
  exact ⟨State.reset.passTime, by simp [step, h]⟩

/-! ### Worked examples of the spec, and small cases computed by hand from its rules -/

/-- The state after an instruction. -/
def after (i : Instr) (s : State) : State := match exec i s with
  | .next t => t
  | _ => State.reset
/-- The wave that runs, after an instruction. -/
def ran (i : Instr) (s : State) : Wave := (after i s).wave ⟨0, 0, 0⟩
/-- Lane values from lane 0 on, the others zero. -/
def withVec (s : State) (n : Nat) (xs : List W32) : State :=
  withWave s fun w => ((List.range xs.length).zip xs).foldl (fun w e => w.vset n e.1 e.2) w

/-- 06 R154: sums wrap modulo 2^32, saturate with .sat; the program counter goes on by 8. -/
theorem test_vaddi_wraps : let w := ran (.vaddi ⟨plain, 7, 5, 1000⟩) (withVec (at_ 0x0D) 5 [0xFFFFFFFF, 1])
    (w.vget 7 0, w.vget 7 1, w.vget 7 2, w.pcAt 0) = (999, 1001, 1000, 16) := by decide +kernel

theorem test_vadd_saturates : let w := ran (.vadd ⟨plain, 7, 5, 6, 9⟩) (withVec (withVec (at_ 1) 5 [0x7FFFFFFF, 0x80000000]) 6 [1, 0xFFFFFFFF])
    (w.vget 7 0, w.vget 7 1) = (0x7FFFFFFF, 0x80000000) := by decide +kernel

/-- 1.5 × 2.0 = 3.0 and 1.5 × 2.0 + 0.5 = 3.5 in FP32. -/
theorem test_vmul_float : (ran (.vmul ⟨plain, 7, 5, 6, 2⟩) (withVec (withVec (at_ 3) 5 [0x3FC00000]) 6 [0x40000000])).vget 7 0 = 0x40400000 := by
  decide +kernel

theorem test_vfma_float : (ran (.vfma ⟨plain, 7, 5, 6, 2⟩) (withVec (withVec (withVec (at_ 0xC) 7 [0x3F000000]) 5 [0x3FC00000]) 6
    [0x40000000])).vget 7 0 = 0x40600000 := by decide +kernel

/-- 06 R175 and R174, the example "a reduction with ties, a NaN and a guard". -/
def reduced : State := withWave (withVec (at_ 0x44) 12 ((List.range 32).map fun l =>
  if l = 3 ∨ l = 9 then 0x40A00000 else if l = 17 then 0x7FC00000 else if l = 20 then 0x40E00000 else 0x3F800000))
  fun w => { w with p := [(2, 0xFFEFFFFF)] }

theorem test_vmaxidx_example : let w := ran (.vmaxidx ⟨⟨0, 15, 0, 2, 0⟩, 40, 12, 0, 2⟩) reduced
    (w.vget 40 0, w.vget 41 0, w.vget 40 31, w.vget 41 31, w.vget 40 20, w.vget 41 20) = (0x40A00000, 3, 0x40A00000, 3, 0, 0) := by
  decide +kernel

theorem test_vred_example : let w := ran (.vred ⟨⟨0, 15, 0, 2, 0⟩, 42, 12, 0, 0x12⟩) reduced
    (w.vget 42 0, w.vget 42 20) = (0x40A00000, 0) := by decide +kernel

theorem test_vred_nan_example : let w := ran (.vred ⟨⟨0, 15, 0, 2, 0⟩, 43, 12, 0, 2⟩) reduced
    (w.vget 43 0, w.nstat) = (0x7FC00000, 0) := by decide +kernel

/-- 10 R275, the worked example "key 1, counter 0". -/
theorem test_vrand_example : let s := withScalar (at_ 0x55) 8 1
    ((ran (.vrand ⟨plain, 18, 0x380, 0x288, 0⟩) s).vget 18 0, (ran (.vrand ⟨plain, 18, 0x380, 0x288, 1⟩) s).vget 18 0) =
      (0x800B5BAF, 0x3F000B5B) := by decide +kernel

/-- 10 R274, the example "a draw over four candidates": index 17 at rank 0. -/
theorem test_sample_example : let s := withScalar (withVec (withVec (withVec (at_ 0x54) 16 [0x40400000, 0x40000000, 0x3F800000, 0x3F800000]) 17
      [17, 5, 40, 41]) 18 [0x3F000B5B]) 6 0x3F4CCCCD3F800000
    (ran (.sample ⟨plain, 0x29E, 16, 0x286, 3⟩) s).sget 30 = 0x11 := by decide +kernel

/-- 10 R267, R270: candidates (5.0, 9), (5.0, 3) and (4.0, 12) with k = 2 give (5.0, 3), (5.0, 9). -/
theorem test_vtopk_example : let s := (withWave (withVec (withVec (at_ 0x50) 8 [0x40A00000, 0x40A00000, 0x40800000]) 9 [9, 3, 12])
      fun w => { w with p := [(2, 7)] })
    let w := ran (.vtopk ⟨⟨0, 15, 0, 2, 0⟩, 16, 8, 9, 1⟩) s
    (w.vget 16 0, w.vget 17 0, w.vget 16 1, w.vget 17 1) = (0x40A00000, 3, 0x40A00000, 9) := by decide +kernel

/-- 03 R83 to R85, the example "an 8-bit slot" as slot f0, with f1 an FP32 slot. -/
theorem test_vcvt_example : let s := (withLaunch (withVec (at_ 0x35) 5 [0x42C80000, 0x43960000, 0xBA83126F, 0x7FC00000, 0x7F800000])
      fun l => { l with record := { l.record with slots := [0x3F0000001283DC73, 0] } })
    let w := ran (.vcvt ⟨plain, 6, 5, 0, 8⟩) s
    (List.range 5).map (fun l => w.vget 6 l) = [0x74, 0x7E, 0x81, 0x7F, 0x7E] := by decide +kernel

theorem test_vcvt_decode_example : let s := (withLaunch (withVec (at_ 0x35) 5 [0x74, 0x7E, 0x81])
      fun l => { l with record := { l.record with slots := [0x3F0000001283DC73, 0] } })
    let w := ran (.vcvt ⟨plain, 6, 5, 0, 1⟩) s
    (List.range 3).map (fun l => w.vget 6 l) = [0x42C00000, 0x43600000, 0xBA800000] := by decide +kernel

/-- 03 R88, the example "why the run matters": 2^24 + 1, then 1 + 1, in runs of eight give 16,777,218. -/
theorem test_sum_runs_example : let p := fun i => if i = 0 then 0x4B800000 else if i = 1 ∨ i = 8 ∨ i = 9 then 0x3F800000 else (0 : W32)
    (sumRuns 2 ⟨f32 0, 0⟩ ((List.range 16).map fun i => (⟨f32 (p i), 0⟩ : Fl XReal))).val = f32 0x4B800001 := by decide +kernel

/-- 06 R181 on: a move of −1 is sign-extended; a sum of 32 bits wraps. -/
theorem test_smovi_sign : (ran (.smovi ⟨plain, 3, 0xFFFFFFFF⟩) (at_ 0x95)).sget 3 = 0xFFFFFFFFFFFFFFFF := by decide +kernel

theorem test_sadd_64 : (ran (.sadd ⟨plain, 0x28A, 0x28B, 0x28C, 6⟩) (withScalar (withScalar (at_ 0x80) 11 0xFFFFFFFFFFFFFFFF) 12 2)).sget 10 = 1 := by
  decide +kernel

/-- 08 R216: bra −3 goes to the word three words before itself. -/
theorem test_bra_back : (ran (.bra ⟨plain, 0, 0xFFFFFFFD⟩) (at_ 0x1C1)).pcAt 5 = 0xFFFFFFFFFFFFFFF0 := by decide +kernel

/-- 08 R221: EXIT ends the threads of the lanes that its guard leaves. -/
theorem test_exit_guarded : let s := withWave (at_ 0x1CA) fun w => { w with p := [(2, 3)] }
    (ran (.exit ⟨⟨0, 15, 0, 2, 0⟩, 0, 0, 0, 0⟩) s).exited = 3 := by decide +kernel

/-- 07 R203, the example of two waves at a barrier: wave 0 arrives second, with 4,096 bytes outstanding. -/
theorem test_barv_example : let s := withBlock (at_ 0x183) fun b => { b with nbar := 1, bars := [(0, ⟨2, 1, 4096, 2, false⟩)] }
    let t := after (.barv ⟨plain, 0x286, 0, 0, 0⟩) s
    (t.block? ⟨0, 0, 0⟩).map (fun b => b.bar 0) = some ⟨2, 2, 4096, 3, false⟩ := by decide +kernel

theorem test_credit_example : ((fetchBlock 1).setBar 0 ⟨2, 2, 4096, 3, false⟩ |>.credit 1 4096).bar 0 = ⟨2, 0, 0, 0, true⟩ := by
  decide +kernel

/-- 02 R51, the example of a reservation of 688 rows. -/
theorem test_rows_example : rowsFor 4 64 32768 262144 = 688 := by decide

/-- 22 R371, the example "finding a byte": schemes 7 in frame 3 and 2 in frame 0. -/
theorem test_location_example : let s := { at_ 1 with pkgReg := [(0x460, 0x7002)] }
    (s.location (3 * 2 ^ 31 + 37 * 2097152 + 0x80080), s.location 0x1234567) = ((37, 3 * 2097152 + 0x80080), (197, 0x4667)) := by
  decide +kernel

/-- 11 R280's example: key 40 lies in bank 8, slot 1. -/
theorem test_key_offset_example : keyOffset 128 40 = 0x80080 := by decide

/-- 01 R38's example: die 3 takes 97 to 99 of die 7's 95 to 99. -/
theorem test_steal_example : let s := { withRange (at_ 1) with
      dieReg := [(0x3201, 4)]
      launches := (withRange (at_ 1)).launches.map fun e => (e.1, { e.2 with
        groups := [⟨none, none, [(7, 95, 100, noDeadline)]⟩], arrivals := [(3, 0), (7, 0)] }) }
    ((after (.ticketSteal 3 0) s).launch? 0).map (fun l => l.groups.map Group.ranges) =
      some [[(7, 95, 97, noDeadline), (3, 97, 100, noDeadline)]] := by decide +kernel

/-- 21 R359, the example "three victims": P drains, Q is flushed, S is saved, T drains. -/
theorem test_victims_example : let s := fun (idem free : Bool) => (withLaunch { at_ 1 with dieReg := if free then [(0x231, 1)] else [] }
      fun l => { l with record := { l.record with clauses := 1000, control := if idem then 256 else 0 } })
    let b := fun (r : Nat) => { fetchBlock 1 with retired := r }
    ((s false true).actionFor (b 920) 1 false, (s true true).actionFor (b 400) 1 false, (s true true).actionFor (b 600) 1 false,
      (s false false).actionFor (b 600) 1 false) = (.drain, .flush, .save, .drain) := by decide +kernel

/-- 20 R341: a doorbell beyond the ring sets overrun and moves no tail. -/
theorem test_doorbell_overrun : let s := withQueue false (at_ 1)
    (((after (.doorbell 5 false 17) s).queue 5).tail, ((after (.doorbell 5 false 17) s).queue 5).stat,
      ((after (.doorbell 5 false 16) s).queue 5).tail) = ((1 : W32), (1 : W64) <<< 41, (16 : W32)) := by decide +kernel

/-- 08 R231, R233, 19 R335: TRAP enters the handler, with its own address in s121, cause 26 in TCAUSE and resume kind 2. -/
theorem test_trap_enters : let s := withLaunch (at_ 0x1CF) fun l => { l with record := { l.record with handler := 0x10000 } }
    let w := ran (.trap ⟨plain, 0, 0, 0x42⟩) s
    (w.handler, w.pcAt 0, w.sget 121, w.sget 125, w.tcause) = ((true, 0x10000, 8, 2, 0x4000000) : Bool × W64 × W64 × W64 × W64) := by decide +kernel

/-- FIPS 202: SHA3-512 of the empty message begins with A69F73CCA23A9AC5. -/
theorem test_sha3_empty : (sha3_512 []).take 8 = [0xA6, 0x9F, 0x73, 0xCC, 0xA2, 0x3A, 0x9A, 0xC5] := by decide +kernel

/-- FIPS 202: SHAKE256 of the empty message begins with 46B9DD2B. -/
theorem test_shake_empty : hashH 4 [] = [0x46, 0xB9, 0xDD, 0x2B] := by decide +kernel

/-- FIPS 204, Algorithms 35 and 36: the largest coefficient has high part 0, and its low part is one less than by division. -/
theorem test_mldsa_rounding : (decomposeQ 8380416, decomposeQ 261888, decomposeQ 261889, power2Round 8380416) =
    ((0, -1), (0, 261888), (1, -261887), (1023, 0)) := by decide +kernel

/-! ### Ill-formed instructions, which the check refuses -/

/-- Well-formed instructions, which the hypothesis of DecodeEncodeAgree asks for. -/
theorem witness_DecodeEncodeAgree : (Instr.vadd ⟨plain, 1, 2, 3, 9⟩).wf = true ∧ (Instr.vadd ⟨full, 1, 2, 3, 9⟩).wf = true := by decide
theorem test_illegal_guard : (Instr.vadd ⟨⟨0, 15, 0, 96, 0⟩, 1, 2, 3, 9⟩).wf = false ∧ (Instr.vadd ⟨⟨0, 15, 0, 126, 0⟩, 1, 2, 3, 9⟩).wf = false := by decide
theorem test_illegal_negate : (Instr.smovi ⟨⟨0, 15, 0, 127, 1⟩, 1, 2⟩).wf = false := by decide
theorem test_illegal_sig : (Instr.vaddi ⟨⟨0, 12, 0, 127, 0⟩, 1, 2, 3⟩).wf = false ∧ (Instr.vaddi ⟨⟨0, 14, 0, 127, 0⟩, 1, 2, 3⟩).wf = false := by decide
theorem test_illegal_opcode : (Instr.illegal (1 <<< 54)).wf = false ∧ (Instr.illegal (0x2E <<< 54)).wf = true := by decide
theorem test_illegal_shared : (Instr.vsmxmLane ⟨plain, 1, 2, 0, 1⟩).wf = false ∧ (Instr.vsmxmWave ⟨plain, 1, 2, 0, 0⟩).wf = false ∧
    (Instr.sqpushRes ⟨plain, 0x290, 0x28D, 0, 1⟩).wf = false ∧ (Instr.sqpushCom ⟨plain, 0, 0x28D, 0x28E, 2⟩).wf = false ∧
    (Instr.sqpopRes ⟨plain, 0x290, 0x28D, 0, 1⟩).wf = false ∧ (Instr.sqpopCom ⟨plain, 0, 0x28D, 0x28E, 0⟩).wf = false := by decide
theorem test_illegal_meet : (Instr.meetLabel ⟨plain, 0, 0x80000000⟩).wf = false ∧ (Instr.meetRegister ⟨plain, 15, 0x80000000⟩).wf = false ∧
    (Instr.meetNone ⟨plain, 6, 0x80000000⟩).wf = false := by decide
theorem test_no_word : (Instr.clauseIssue 0).wf = false ∧ (Instr.doorbell 0 false 0).wf = false := by decide

end Sys2Proof.Tests
end

section
/-! Transfers, meeting registers and the end of threads: what a wave holds after an instruction completes in it
(01 R20, R21), and the obligations O29, O30 and O32. -/

namespace Sys2Proof.Machine

open Sys2Proof

/-! ### Masks of lanes -/

theorem getLsbD_foldl_lanes (p : Nat → Bool) (ls : List Nat) (m : BitVec 32) {l : Nat} (hl : l < 32) :
    (ls.foldl (fun m k => if p k then m ||| (1#32 <<< k) else m) m).getLsbD l = (m.getLsbD l || (decide (l ∈ ls) && p l)) := by
  induction ls generalizing m with
  | nil => simp
  | cons k t ih =>
    have hbit : (1#32 <<< k).getLsbD l = decide (l = k) := by
      rw [← BitVec.twoPow_eq, BitVec.getLsbD_twoPow]
      by_cases h : l = k
      · subst h; simp [hl]
      · simp [h, Ne.symm h]
    rw [List.foldl_cons, ih]
    by_cases hk : l = k
    · subst hk; cases hp : p l <;> simp [hbit]
    · split <;> simp [hbit, hk]

theorem getLsbD_maskOf (p : Nat → Bool) {l : Nat} (hl : l < 32) : (maskOf p).getLsbD l = p l := by
  unfold maskOf
  rw [getLsbD_foldl_lanes p lanes32 0#32 hl]
  simp [mem_lanes32, hl]

theorem lanes32_eq_range : lanes32 = List.range 32 := by decide

theorem any_lanesOf (m : BitVec 32) (p : Nat → Bool) :
    (lanesOf m).any p = (List.range 32).any fun l => m.getLsbD l && p l := by
  unfold lanesOf; rw [List.any_filter, lanes32_eq_range]

theorem all_lanesOf (m : BitVec 32) (p : Nat → Bool) :
    (lanesOf m).all p = (List.range 32).all fun l => !m.getLsbD l || p l := by
  unfold lanesOf; rw [List.all_filter, lanes32_eq_range]

/-! ### Release and completion (01 R20, R21) -/

/-- A held thread stays held exactly while a live thread of its meeting value is not held. -/
theorem held_release (w : Wave) {l : Nat} (hl : l < 32) :
    w.release.held.getLsbD l = true ↔ w.held.getLsbD l = true ∧
      ∃ k, k < 32 ∧ w.meetAt k = w.meetAt l ∧ w.held.getLsbD k = false ∧ w.exited.getLsbD k = false := by
  unfold Wave.release
  simp only [BitVec.getLsbD_and, BitVec.getLsbD_not, hl, decide_true, Bool.true_and, getLsbD_maskOf _ hl]
  cases w.held.getLsbD l with
  | false => simp
  | true => simp [mem_lanes32, and_assoc]

/-- The threads held after an instruction completes: those that have arrived and whose meeting point is not complete. -/
theorem held_complete (c : Ctx) (w : Wave) (hact : c.active = w.active) (go : Nat → Option W64) {l : Nat} (hl : l < 32) :
    (w.complete go).held.getLsbD l = true ↔ arrives c w (w.complete go) l = true ∧
      ∃ k, k < 32 ∧ w.meetAt k = w.meetAt l ∧ arrives c w (w.complete go) k = false ∧ w.exited.getLsbD k = false := by
  have harr : ∀ k, k < 32 → arrives c w (w.complete go) k =
      (w.held ||| maskOf fun l => w.active.getLsbD l &&
        (w.setPcs fun l => if w.active.getLsbD l then (go l).getD (w.pcAt l + 8) else w.pcAt l).meetAt l != meetNone &&
        (w.setPcs fun l => if w.active.getLsbD l then (go l).getD (w.pcAt l + 8) else w.pcAt l).pcAt l ==
          (w.setPcs fun l => if w.active.getLsbD l then (go l).getD (w.pcAt l + 8) else w.pcAt l).meetAt l).getLsbD k := by
    intro k hk
    rw [BitVec.getLsbD_or, getLsbD_maskOf _ hk]
    unfold arrives
    rw [hact]
    rfl
  unfold Wave.complete
  simp only
  rw [held_release _ hl]
  constructor
  · rintro ⟨hh, k, hk, hm, hn, he⟩
    exact ⟨(harr l hl).trans hh, k, hk, hm, (harr k hk).trans hn, he⟩
  · rintro ⟨hh, k, hk, hm, hn, he⟩
    exact ⟨(harr l hl).symm.trans hh, k, hk, hm, (harr k hk).symm.trans hn, he⟩

/-! ### Issue -/

/-- What issue makes of a wave. -/
def Ctx.issued (c : Ctx) (sp : Spec) (w : Wave) : Wave :=
  let w := { w with inflight := (c.w.inflight.filter fun p => !(p.landed && p.short == 0)), wait := none }
  match sp.held with
  | none => w
  | some f => { w with
      trivet := (lanesOf c.active).foldl (fun t l => spSet 0 t (c.idx % 3 * 32 + l) (c.lane f l sp.fty)) w.trivet
      trivSet := (w.trivSet.filter fun t => t.1 % 3 != c.idx % 3) ++ [(c.idx, c.active)] }

theorem issue_eq (s : State) (c : Ctx) (sp : Spec) : s.issue c sp = s.modWave c.id (c.issued sp) := rfl

/-- Issue changes results in flight, the wait and the Trivet alone. -/
theorem issued_fields (c : Ctx) (sp : Spec) (w : Wave) :
    c.issued sp w = { w with
      inflight := (c.issued sp w).inflight, wait := none, trivet := (c.issued sp w).trivet, trivSet := (c.issued sp w).trivSet } := by
  unfold Ctx.issued; cases sp.held <;> rfl

/-- Two changes of one wave are one. -/
theorem spMod_spMod {α : Type} (m : Sparse α) (k : Nat) (f g : α → α) : spMod (spMod m k f) k g = spMod m k fun x => g (f x) := by
  unfold spMod
  rw [List.map_map]
  refine List.map_congr_left fun e _ => ?_
  by_cases h : e.1 = k <;> simp [h]

theorem modBlock_modBlock (s : State) (id : WaveId) (f g : Block → Block) :
    (s.modBlock id f).modBlock id g = s.modBlock id fun b => g (f b) := by
  unfold State.modBlock; simp only [spMod_spMod]

theorem modWave_modWave (s : State) (id : WaveId) (f g : Wave → Wave) :
    (s.modWave id f).modWave id g = s.modWave id fun w => g (f w) := by
  unfold State.modWave; rw [modBlock_modBlock]; simp only [spMod_spMod]

/-! ### Completion -/

theorem wave?_some {s : State} {id : WaveId} {w : Wave} (h : s.wave? id = some w) :
    ∃ b, s.block? id = some b ∧ spFind b.waves id.wave = some w := by
  unfold State.wave? at h
  split at h
  · cases h
  · rename_i b hb; exact ⟨b, hb, h⟩

/-- What completing an instruction makes of a block: its wave completes and the clause may end. -/
theorem finish_cases (s : State) (id : WaveId) (go : Nat → Option W64) :
    s.finish id go = s.modWave id (Wave.complete · go) ∨
    s.finish id go = (s.modBlock id fun b => { b with
      waves := spMod b.waves id.wave fun w => (w.complete go).ended, retired := min (b.retired + 1) 0xFFFFFFFF }).leave id := by
  unfold State.finish
  simp only
  split
  · refine .inr ?_
    unfold State.endClause State.modWave
    simp only [modBlock_modBlock, spMod_spMod]
    rfl
  · exact .inl rfl

/-- The wave after its instruction completes: `Wave.complete`, and what the end of its clause clears. -/
theorem wave?_finish {s : State} {id : WaveId} {w : Wave} (h : s.wave? id = some w) (go : Nat → Option W64) :
    ∃ cl tv ts yd yi, (s.finish id go).wave? id =
      some { (w.complete go) with clause := cl, trivet := tv, trivSet := ts, yieldDue := yd, yielding := yi } := by
  rcases finish_cases s id go with he | he <;> rw [he]
  · exact ⟨_, _, _, _, _, wave?_modWave_self h _⟩
  · obtain ⟨b, hb, hw⟩ := wave?_some h
    refine ⟨⟨0, 0, 0⟩, [], [], false, (w.complete go).ended.yielding, ?_⟩
    rw [wave?_leave]
    unfold State.wave?
    rw [block?_modBlock, if_pos rfl, hb]
    simp only [Option.map_some, spFind_spMod, if_pos, hw]
    rfl

/-! ### Transfers (08 R212) -/

/-- A change of a wave before its instruction completes that leaves its control state: registers, flags, program counters,
held and exited threads, the clause. -/
structure KeepsControl (w v : Wave) : Prop where
  rest   : v.still.noMeet = w.still.noMeet
  pc     : v.pc = w.pc
  held   : v.held = w.held
  clause : v.clause = w.clause
  flags  : v.k = w.k

theorem KeepsControl.exited {w v : Wave} (h : KeepsControl w v) : v.exited = w.exited := by
  change v.still.noMeet.exited = w.still.noMeet.exited
  rw [h.rest]

theorem KeepsControl.active {w v : Wave} (h : KeepsControl w v) : v.active = w.active := by
  unfold Wave.active Wave.atPc Wave.runnable Wave.wordAddr Wave.pcAt
  rw [h.exited, h.pc, h.held, h.clause]

theorem keepsControl_issued (c : Ctx) (sp : Spec) {w : Wave} (hw : w.wait = none) : KeepsControl w (c.issued sp w) := by
  rw [issued_fields, ← hw]
  exact ⟨rfl, rfl, rfl, rfl, rfl⟩

theorem KeepsControl.trans {u v w : Wave} (h : KeepsControl u v) (k : KeepsControl v w) : KeepsControl u w :=
  ⟨k.rest.trans h.rest, k.pc.trans h.pc, k.held.trans h.held, k.clause.trans h.clause, k.flags.trans h.flags⟩

/-- A wave that is changed in its meeting registers alone and then completes its instruction. -/
theorem move_outcome {s : State} {ctl : Ctl} {c : Ctx} (hc : s.ctx ctl = some c) (hw : c.w.wait = none) (f : Wave → Wave)
    (meet go : Nat → Option W64) (hf : ∀ w, w.wait = none → KeepsControl w (f w))
    (hmeet : ∀ w l, l < 32 → (f w).meetAt l = if c.part.getLsbD l then (meet l).getD (w.meetAt l) else w.meetAt l) :
    MoveOutcome s ((s.modWave s.cur f).finish s.cur go) c meet go := by
  obtain ⟨-, w, hwv, hcw, hact, -, -, -⟩ := ctx_spec hc
  have hwait : w.wait = none := by rw [hcw] at hw; exact hw
  have hk := hf w hwait
  have hact' : c.active = (f w).active := hact.trans hk.active.symm
  have hframe : OnlyWave s ((s.modWave s.cur f).finish s.cur go) :=
    (onlyWave_modWave s f).trans (onlyWave_finish (s.modWave s.cur f) go)
  have harr : ∀ v k, arrives c (f w) v k = arrives c w v k := fun v k => by unfold arrives; rw [hk.held]
  have hmeets : ∀ l, l < 32 → (((f w).complete go).held.getLsbD l = true ↔ arrives c w ((f w).complete go) l = true ∧
      ∃ k, k < 32 ∧ ((f w).complete go).meetAt k = ((f w).complete go).meetAt l ∧
        arrives c w ((f w).complete go) k = false ∧ w.exited.getLsbD k = false) := by
    intro l hl
    have := held_complete c (f w) hact' go hl
    simp only [harr, hk.exited] at this
    exact this
  have hpcs : ∀ l, l < 32 → ((f w).complete go).pcAt l =
      if c.active.getLsbD l then (go l).getD (w.pcAt l + 8) else w.pcAt l := by
    intro l hl
    rw [pcAt_complete _ _ hl, ← hact']
    unfold Wave.pcAt
    rw [hk.pc]
  obtain ⟨cl, tv, ts, yd, yi, he⟩ := wave?_finish (s := s.modWave s.cur f) (wave?_modWave_self hwv f) go
  have hs := wave_eq_of_wave? hwv
  have ht := wave_eq_of_wave? he
  exact ⟨hframe, by rw [ht, hs]; exact hk.rest, fun n _ => by rw [ht, hs]; exact congrArg (spGet 0 · n) hk.flags,
    fun l hl => by rw [ht, hs]; exact hpcs l hl, fun l hl => by rw [ht, hs]; exact hmeet w l hl, by rw [ht, hs]; exact hmeets⟩

/-- A transfer that only issues and moves its lanes. -/
theorem transfer_outcome {s : State} {ctl : Ctl} {c : Ctx} (hc : s.ctx ctl = some c) (hw : c.w.wait = none) (sp : Spec)
    (go : Nat → Option W64) : MoveOutcome s (s.transfer c sp id go) c (fun _ => none) go := by
  have hid : c.id = s.cur := (ctx_spec hc).1
  unfold State.transfer
  rw [issue_eq, hid]
  exact move_outcome hc hw (c.issued sp) (fun _ => none) go (fun _ => keepsControl_issued c sp) fun w l _ => by
    rw [issued_fields]; simp [Wave.meetAt]

/-! ### Branches (08 R212-R215, R220) -/

theorem goTo_label (c : Ctx) (taken : Bool) (off : W64) :
    goTo (if taken then c.part else 0) (c.label off) = c.jump taken fun _ => c.addr + 8 * off := by
  funext l
  unfold goTo Ctx.jump Ctx.label
  cases taken <;> simp

/-- An instruction whose body is a transfer. -/
theorem moveResult_of_transfer {i : Instr} {sp : Spec} {own : Ctx → List Fail} {go go' : Ctx → Nat → Option W64}
    (hexec : ∀ s, exec i s = .next (run sp own noResume (fun c s => s.transfer c sp id (go c)) s))
    (hgo : ∀ c, go c = go' c) : MoveResult i sp (fun _ => own) (fun _ _ => none) go' := by
  intro s c hc
  obtain ⟨hctx, hw, -⟩ := clear_spec hc
  refine ⟨_, by rw [hexec, run_clear hc], ?_⟩
  rw [← hgo]
  exact transfer_outcome hctx hw sp (go c)

theorem jump_true (c : Ctx) (t : Nat → W64) : (fun l => if c.part.getLsbD l then some (t l) else none) = c.jump true t := by
  funext l; unfold Ctx.jump; simp

/-- Settles O29: every form is a transfer of its taken lanes. -/
theorem branches : Obligations.Branches := by
  refine ⟨fun f => ⟨?_, ?_, ?_, ?_⟩, fun f => ⟨?_, ?_⟩⟩
  · exact moveResult_of_transfer (fun _ => rfl) fun c => goTo_label c true _
  · exact moveResult_of_transfer (fun _ => rfl) fun c => by rw [← any_lanesOf]; exact goTo_label c _ _
  · exact moveResult_of_transfer (fun _ => rfl) fun c => by rw [← all_lanesOf]; exact goTo_label c _ _
  · exact moveResult_of_transfer (fun _ => rfl) fun c => goTo_label c _ _
  · exact moveResult_of_transfer (fun _ => rfl) fun c => jump_true c _
  · exact moveResult_of_transfer (fun _ => rfl) fun c => jump_true c _

/-! ### Meeting registers (08 R216) -/

/-- Meeting registers written in some lanes. -/
def Wave.setMeets (w : Wave) (lanes : BitVec 32) (v : Nat → W64) : Wave :=
  (lanesOf lanes).foldl (fun w l => w.setMeet l (v l)) w

theorem setMeets_fields (w : Wave) (lanes : BitVec 32) (v : Nat → W64) :
    w.setMeets lanes v = { w with meet := (w.setMeets lanes v).meet } := by
  unfold Wave.setMeets
  induction lanesOf lanes using List.reverseRecOn with
  | nil => rfl
  | append_singleton ls l ih => rw [List.foldl_append, List.foldl_cons, List.foldl_nil, ih]; rfl

theorem meetAt_setMeets (w : Wave) (lanes : BitVec 32) (v : Nat → W64) (l : Nat) :
    (w.setMeets lanes v).meetAt l = if lanes.getLsbD l then v l else w.meetAt l := by
  have fold : ∀ ls : List Nat, (ls.foldl (fun w l => w.setMeet l (v l)) w).meetAt l = if l ∈ ls then v l else w.meetAt l := by
    intro ls
    induction ls using List.reverseRecOn with
    | nil => rfl
    | append_singleton ls k ih =>
      rw [List.foldl_append, List.foldl_cons, List.foldl_nil]
      unfold Wave.meetAt Wave.setMeet at ih ⊢
      rw [spGet_spSet, ih]
      by_cases h : k = l
      · subst h; simp
      · simp [h, Ne.symm h]
  unfold Wave.setMeets
  rw [fold]
  simp only [mem_lanesOf]

theorem keepsControl_setMeets (w : Wave) (lanes : BitVec 32) (v : Nat → W64) : KeepsControl w (w.setMeets lanes v) := by
  rw [setMeets_fields]; exact ⟨rfl, rfl, rfl, rfl, rfl⟩

/-- Setting the meeting registers of the participating lanes. -/
theorem meet_outcome {s : State} {ctl : Ctl} {c : Ctx} (hc : s.ctx ctl = some c) (hw : c.w.wait = none) (sp : Spec)
    (v : Nat → W64) : MoveOutcome s (s.meet c sp v) c (fun l => some (v l)) fun _ => none := by
  have hid : c.id = s.cur := (ctx_spec hc).1
  have heq : s.meet c sp v = (s.modWave s.cur fun w => (c.issued sp w).setMeets c.part v).finish s.cur fun _ => none := by
    unfold State.meet State.quick State.advance
    rw [issue_eq, hid]
    exact congrArg (State.finish · s.cur fun _ => none) (modWave_modWave s s.cur (c.issued sp) (Wave.setMeets · c.part v))
  rw [heq]
  refine move_outcome hc hw _ (fun l => some (v l)) _
    (fun w h => (keepsControl_issued c sp h).trans (keepsControl_setMeets _ _ _)) fun w l _ => ?_
  rw [meetAt_setMeets, issued_fields]
  rfl

/-- An instruction whose body sets meeting registers. -/
theorem moveResult_of_meet {i : Instr} {sp : Spec} {own : Ctx → List Fail} {v : Ctx → Nat → W64}
    (hexec : ∀ s, exec i s = .next (run sp own noResume (fun c s => s.meet c sp (v c)) s)) :
    MoveResult i sp (fun _ => own) (fun c l => some (v c l)) fun _ _ => none := by
  intro s c hc
  obtain ⟨hctx, hw, -⟩ := clear_spec hc
  exact ⟨_, by rw [hexec, run_clear hc], meet_outcome hctx hw sp (v c)⟩

/-- Settles O30: the test for arrival at completion sees the new meeting registers; NOP is a transfer of no lane. -/
theorem meetingRegisters : Obligations.MeetingRegisters :=
  ⟨fun _ => ⟨moveResult_of_meet fun _ => rfl, moveResult_of_meet fun _ => rfl, moveResult_of_meet fun _ => rfl⟩,
    fun _ => moveResult_of_transfer (go := fun _ _ => none) (fun _ => rfl) fun _ => rfl⟩

/-! ### The end of threads (01 R21, 08 R221) -/

theorem exitLanes_fields (w : Wave) (m : BitVec 32) : w.exitLanes m = { w with
    exited := w.exited ||| m, held := (w.exitLanes m).held, rotated := (w.exitLanes m).rotated, last := (w.exitLanes m).last } := rfl

/-- Held after some threads exit: those held before that do not exit, while a live thread of their value is not held. -/
theorem held_exitLanes (w : Wave) (m : BitVec 32) {l : Nat} (hl : l < 32) :
    (w.exitLanes m).held.getLsbD l = true ↔ m.getLsbD l = false ∧ w.held.getLsbD l = true ∧
      ∃ k, k < 32 ∧ w.meetAt k = w.meetAt l ∧ w.held.getLsbD k = false ∧ w.exited.getLsbD k = false ∧ m.getLsbD k = false := by
  have hheld : ∀ k, k < 32 → (w.held &&& ~~~m).getLsbD k = (w.held.getLsbD k && !m.getLsbD k) := fun k hk => by
    simp [hk]
  have hexit : ∀ k, (w.exited ||| m).getLsbD k = (w.exited.getLsbD k || m.getLsbD k) := fun k => BitVec.getLsbD_or
  unfold Wave.exitLanes
  rw [held_release _ hl]
  simp only [hheld l hl, hexit]
  constructor
  · rintro ⟨hh, k, hk, hm, hn, he⟩
    simp only [hheld k hk] at hn
    simp_all only [Bool.and_eq_true, Bool.not_eq_true', Bool.or_eq_false_iff, Bool.not_false, Bool.and_true]
    exact ⟨trivial, trivial, k, hk, hm, hn, he⟩
  · rintro ⟨hp, hh, k, hk, hm, hn, he, hkp⟩
    exact ⟨by simp [hp, hh], k, hk, hm, by simp [hheld k hk, hn], by simp [he, hkp]⟩

/-- Where an instruction completes and then some threads exit, a meeting point holds those that neither exit nor have all
their live fellows with them: a fellow that the completion had held, and now exits, frees none that it had not freed. -/
theorem meets_exitLanes {c : Ctx} {w v : Wave} (hv : Meets c w v) (hex : v.exited = w.exited) (m : BitVec 32) {l : Nat} (hl : l < 32) :
    (v.exitLanes m).held.getLsbD l = true ↔ m.getLsbD l = false ∧ arrives c w (v.exitLanes m) l = true ∧
      ∃ k, k < 32 ∧ (v.exitLanes m).meetAt k = (v.exitLanes m).meetAt l ∧ arrives c w (v.exitLanes m) k = false ∧
        w.exited.getLsbD k = false ∧ m.getLsbD k = false := by
  rw [held_exitLanes v m hl, hv l hl, hex]
  change _ ↔ _ ∧ arrives c w v l = true ∧ ∃ k, k < 32 ∧ v.meetAt k = v.meetAt l ∧ arrives c w v k = false ∧ _
  constructor
  · rintro ⟨hp, ⟨harr, j, hj, hjm, hja, hje⟩, k, hk, hkm, hkh, hke, hkp⟩
    refine ⟨hp, harr, k, hk, hkm, ?_, hke, hkp⟩
    cases ha : arrives c w v k with
    | false => rfl
    | true =>
      have := (hv k hk).mpr ⟨ha, j, hj, hjm.trans hkm.symm, hja, hje⟩
      rw [hkh] at this
      cases this
  · rintro ⟨hp, harr, k, hk, hkm, hka, hke, hkp⟩
    refine ⟨hp, ⟨harr, k, hk, hkm, hka, hke⟩, k, hk, hkm, ?_, hke, hkp⟩
    cases hh : v.held.getLsbD k with
    | false => rfl
    | true =>
      have := ((hv k hk).mp hh).1
      rw [hka] at this
      cases this

/-- The wave after a transfer: issue and completion leave everything but its control state. -/
theorem wave?_transfer {s : State} {c : Ctx} {w : Wave} (hw : s.wave? c.id = some w) (hwait : w.wait = none) (sp : Spec)
    (go : Nat → Option W64) : ∃ v, (s.transfer c sp id go).wave? c.id = some v ∧ v.still = w.still := by
  unfold State.transfer
  rw [issue_eq]
  obtain ⟨cl, tv, ts, yd, yi, he⟩ := wave?_finish (s := s.modWave c.id (c.issued sp)) (wave?_modWave_self hw _) go
  refine ⟨_, he, ?_⟩
  change (c.issued sp w).still = w.still
  rw [issued_fields, ← hwait]
  rfl

/-! ### A block whose waves change -/

/-- One wave of a block changed, and its count of retired clauses. -/
def Block.waveStep (wave : Nat) (g : Wave → Wave) (r : Nat → Nat) (b : Block) : Block :=
  { b with waves := spMod b.waves wave g, retired := r b.retired }

theorem modBlock_waveStep (s : State) (id : WaveId) (f g : Wave → Wave) (q r : Nat → Nat) :
    (s.modBlock id (Block.waveStep id.wave f q)).modBlock id (Block.waveStep id.wave g r) =
      s.modBlock id (Block.waveStep id.wave (fun w => g (f w)) fun n => r (q n)) := by
  rw [modBlock_modBlock]
  unfold Block.waveStep
  simp only [spMod_spMod]

theorem waveStep_eq (s : State) (id : WaveId) (g : Wave → Wave) (r : Nat → Nat) :
    s.modBlock id (Block.waveStep id.wave g r) = (s.modWave id g).modBlock id fun b => { b with retired := r b.retired } := by
  symm
  exact modBlock_modBlock _ _ _ _

theorem onlyWave_waveStep (s : State) (g : Wave → Wave) (r : Nat → Nat) :
    OnlyWave s (s.modBlock s.cur (Block.waveStep s.cur.wave g r)) := by
  rw [waveStep_eq]
  exact (onlyWave_modWave s g).trans (onlyWave_retired (s.modWave s.cur g) r)

theorem leave_leave (s : State) (id : WaveId) : (s.leave id).leave id = s.leave id := by
  unfold State.leave
  simp only [List.filter_filter, Bool.and_self]

theorem not_mem_running_leave (s : State) (id : WaveId) : id ∉ (s.leave id).running := by
  unfold State.leave; simp

/-- What leaving its slot after an instruction's completion does, the clause ended or not. -/
theorem leave_finish (s : State) (id : WaveId) (go : Nat → Option W64) : ∃ g r,
    (s.finish id go).leave id = (s.modBlock id (Block.waveStep id.wave g r)).leave id ∧
    ∀ w, (g w).still = w.still := by
  rcases finish_cases s id go with he | he <;> rw [he]
  · exact ⟨(Wave.complete · go), fun n => n, rfl, fun _ => rfl⟩
  · exact ⟨fun w => (w.complete go).ended, fun n => min (n + 1) 0xFFFFFFFF, by rw [leave_leave]; rfl, fun _ => rfl⟩

/-! ### EXIT (08 R221) -/

/-- The machine after EXIT has completed and its threads have ended. -/
def State.exitThreads (s : State) (c : Ctx) (f : F) : State :=
  (s.transfer c (bareSpec f true) id fun _ => none).modWave c.id fun w => w.exitLanes c.part

section
variable {f : F} {s : State} {c : Ctx}

/-- The wave of an EXIT that runs: what it is afterwards, but for its control state. -/
theorem wave?_exitThreads (hc : s.clear (bareSpec f true) noFails = some c) : ∃ w v, s.wave? s.cur = some w ∧
    (s.transfer c (bareSpec f true) id fun _ => none).wave? s.cur = some v ∧ v.still = w.still ∧
    (s.exitThreads c f).wave? s.cur = some (v.exitLanes c.part) := by
  obtain ⟨hctx, hw, -⟩ := clear_spec hc
  obtain ⟨hid, w, hwv, hcw, -⟩ := ctx_spec hctx
  have hwait : w.wait = none := by rw [hcw] at hw; exact hw
  obtain ⟨v, hv, hstill⟩ := wave?_transfer (hid ▸ hwv) hwait (bareSpec f true) fun _ => none
  rw [hid] at hv
  refine ⟨w, v, hwv, hv, hstill, ?_⟩
  unfold State.exitThreads
  rw [hid]
  exact wave?_modWave_self hv _

theorem onlyWave_exitThreads (hc : s.clear (bareSpec f true) noFails = some c) : OnlyWave s (s.exitThreads c f) := by
  obtain ⟨hctx, hw, -⟩ := clear_spec hc
  have hmove := (transfer_outcome hctx hw (bareSpec f true) fun _ => none).frame
  unfold State.exitThreads
  rw [(ctx_spec hctx).1, ← hmove.cur]
  exact hmove.trans (onlyWave_modWave _ _)

theorem exec_exit (hc : s.clear (bareSpec f true) noFails = some c) (hp : c.part ≠ 0) :
    exec (.exit f) s = .next (if ((s.exitThreads c f).wave c.id).live ≠ 0 then s.exitThreads c f
      else match ((s.exitThreads c f).wave c.id).saved with
        | some v => (s.exitThreads c f).faultBlock c.id (lowBit v.entry)
        | none => ((s.exitThreads c f).leave c.id).afterExit c.id) := by
  rw [show exec (.exit f) s = .next (run (bareSpec f true) noFails noResume _ s) from rfl, run_clear hc]
  simp only [hp, if_false]
  rfl

theorem exitThreads_wave (hc : s.clear (bareSpec f true) noFails = some c) :
    ((s.exitThreads c f).wave c.id).exited = (s.wave s.cur).exited ||| c.part ∧
    ((s.exitThreads c f).wave c.id).saved = (s.wave s.cur).saved := by
  obtain ⟨w, v, hw, -, hstill, ht⟩ := wave?_exitThreads hc
  rw [(ctx_spec (clear_spec hc).1).1, wave_eq_of_wave? ht, wave_eq_of_wave? hw, exitLanes_fields]
  have hex : v.exited = w.exited := by change v.still.exited = _; rw [hstill]; rfl
  have hsv : v.saved = w.saved := by change v.still.saved = _; rw [hstill]; rfl
  exact ⟨by rw [← hex], hsv⟩

/-- Where threads of the wave stay live, EXIT ends its participating lanes and frees what waited for them alone. -/
theorem exit_some_threads (hc : s.clear (bareSpec f true) noFails = some c) (hp : c.part ≠ 0)
    (hlive : ~~~((s.wave s.cur).exited ||| c.part) ≠ 0) : ∃ t, exec (.exit f) s = .next t ∧ OnlyWave s t ∧
      (t.wave s.cur).exited = (s.wave s.cur).exited ||| c.part ∧
      { (t.wave s.cur).still with exited := 0 } = { (s.wave s.cur).still with exited := 0 } ∧
      (∀ n, n < 12 → (t.wave s.cur).kget n = (s.wave s.cur).kget n) ∧ Moved s t c (fun _ => none) ∧
      ∀ l, l < 32 → ((t.wave s.cur).held.getLsbD l = true ↔ c.part.getLsbD l = false ∧
        arrives c (s.wave s.cur) (t.wave s.cur) l = true ∧
        ∃ k, k < 32 ∧ (t.wave s.cur).meetAt k = (t.wave s.cur).meetAt l ∧ arrives c (s.wave s.cur) (t.wave s.cur) k = false ∧
          (s.wave s.cur).exited.getLsbD k = false ∧ c.part.getLsbD k = false) := by
  obtain ⟨hctx, hwait, -⟩ := clear_spec hc
  have hmove := transfer_outcome hctx hwait (bareSpec f true) fun _ => none
  obtain ⟨w, v, hw, hv, hstill, ht⟩ := wave?_exitThreads hc
  have hs := wave_eq_of_wave? hw
  have ht := wave_eq_of_wave? ht
  have hex : v.exited = w.exited := by change v.still.exited = _; rw [hstill]; rfl
  refine ⟨s.exitThreads c f, ?_, onlyWave_exitThreads hc, ?_, ?_, ?_, ?_, ?_⟩
  · rw [exec_exit hc hp, if_pos]
    unfold Wave.live
    rwa [(exitThreads_wave hc).1]
  · rw [ht, hs, ← hex]; rfl
  · rw [ht, hs, ← hstill]; rfl
  · intro n hn
    have := hmove.flag n hn
    rw [wave_eq_of_wave? hv] at this
    rw [ht, ← this]; rfl
  · intro l hl
    have := hmove.pcs l hl
    rw [wave_eq_of_wave? hv] at this
    rw [ht, ← this]; rfl
  · intro l hl
    have hheld := hmove.held
    rw [wave_eq_of_wave? hv, hs] at hheld
    rw [ht, hs]
    exact meets_exitLanes hheld hex c.part hl

/-! ### The last threads of a wave -/

theorem exec_exit_last (hc : s.clear (bareSpec f true) noFails = some c) (hp : c.part ≠ 0)
    (hlive : ~~~((s.wave s.cur).exited ||| c.part) = 0) (hsaved : (s.wave s.cur).saved = none) :
    exec (.exit f) s = .next (((s.exitThreads c f).leave s.cur).afterExit s.cur) := by
  obtain ⟨hex, hsv⟩ := exitThreads_wave hc
  rw [exec_exit hc hp, if_neg, hsv, hsaved, (ctx_spec (clear_spec hc).1).1]
  unfold Wave.live
  rw [hex]
  exact not_not_intro hlive

/-- What the last exit of a wave does to its block: the wave has no live thread, and stands in no slot. -/
theorem leave_exitThreads (hc : s.clear (bareSpec f true) noFails = some c) : ∃ g r,
    (s.exitThreads c f).leave s.cur = (s.modBlock s.cur (Block.waveStep s.cur.wave g r)).leave s.cur ∧
    ∀ w, (g w).exited = w.exited ||| c.part := by
  have hid := (ctx_spec (clear_spec hc).1).1
  obtain ⟨g, r, he, hg⟩ := leave_finish (s.modWave s.cur (c.issued (bareSpec f true))) s.cur fun _ => none
  refine ⟨fun w => (g (c.issued (bareSpec f true) w)).exitLanes c.part, r, ?_, fun w => ?_⟩
  · have hstep : ((s.transfer c (bareSpec f true) id fun _ => none).leave s.cur).modWave s.cur (Wave.exitLanes · c.part) =
        ((s.modBlock s.cur (Block.waveStep s.cur.wave (fun w => g (c.issued (bareSpec f true) w)) r)).leave s.cur).modWave s.cur
          (Wave.exitLanes · c.part) := by
      unfold State.transfer
      rw [issue_eq, hid, id, he]
      exact congrArg (fun t => (State.leave t s.cur).modWave s.cur (Wave.exitLanes · c.part))
        (modBlock_waveStep s s.cur (c.issued (bareSpec f true)) g (fun n => n) r)
    unfold State.exitThreads
    rw [hid]
    refine hstep.trans ?_
    exact congrArg (State.leave · s.cur) (modBlock_waveStep s s.cur _ (Wave.exitLanes · c.part) r fun n => n)
  · change (g (c.issued (bareSpec f true) w)).exited ||| c.part = _
    have h1 : (g (c.issued (bareSpec f true) w)).exited = (c.issued (bareSpec f true) w).exited := by
      change (g (c.issued (bareSpec f true) w)).still.exited = _; rw [hg]; rfl
    rw [h1, issued_fields]

end

theorem block?_waveStep {s : State} {id : WaveId} {b : Block} (h : s.block? id = some b) (g : Wave → Wave) (r : Nat → Nat) :
    (s.modBlock id (Block.waveStep id.wave g r)).block? id = some (b.waveStep id.wave g r) := by
  rw [block?_modBlock, if_pos rfl, h]; rfl

theorem wave?_waveStep (s : State) (id u : WaveId) (g : Wave → Wave) (r : Nat → Nat) :
    (s.modBlock id (Block.waveStep id.wave g r)).wave? u =
      if wkey id = wkey u ∧ id.wave = u.wave then (s.wave? u).map g else s.wave? u := by
  rw [waveStep_eq, wave?_of_block (s.modWave id g) id (fun b => { b with retired := r b.retired }) (fun _ => rfl) u,
    wave?_modWave]

/-- The live waves of a block one of whose waves has ended: the others that live. -/
theorem mem_liveWaves_waveStep {b : Block} {wave : Nat} {g : Wave → Wave} (r : Nat → Nat)
    (hdead : ∀ e ∈ b.waves, e.1 = wave → (g e.2).live = 0) (e : Nat × Wave) :
    e ∈ (b.waveStep wave g r).liveWaves ↔ e ∈ b.waves ∧ e.1 ≠ wave ∧ e.2.live ≠ 0 := by
  unfold Block.liveWaves Block.waveStep spMod
  simp only [List.mem_filter, List.mem_map, bne_iff_ne]
  constructor
  · rintro ⟨⟨a, ha, rfl⟩, hl⟩
    by_cases hk : a.1 = wave
    · rw [if_pos hk] at hl
      exact absurd (hdead a ha hk) hl
    · rw [if_neg hk] at hl ⊢
      exact ⟨ha, hk, hl⟩
  · rintro ⟨he, hk, hl⟩
    exact ⟨⟨e, he, if_neg hk⟩, hl⟩

/-! ### The end of a slice (08 R229) -/

/-- Some waves of a block have left their YIELD: no thread has exited, and nothing but waves and slots has changed. -/
structure YieldsEnded (id : WaveId) (s t : State) (ended : List Nat) : Prop where
  mem   : t.mem = s.mem
  clock : t.clock = s.clock
  slots : ∀ r ∈ t.running, r ∈ s.running
  waves : ∀ k w, s.wave? ⟨id.core, id.slot, k⟩ = some w → ∃ v, t.wave? ⟨id.core, id.slot, k⟩ = some v ∧
            v.exited = w.exited ∧ (k ∈ ended → v.wait = none)

theorem endYield_step (s : State) (id : WaveId) : ∃ g r,
    (s.endYield id = s.modBlock id (Block.waveStep id.wave g r) ∨
      s.endYield id = (s.modBlock id (Block.waveStep id.wave g r)).leave id) ∧
    ∀ w, (g w).exited = w.exited ∧ (g w).wait = none := by
  have hflag : ∀ w : Wave, ({ (w.flagDown (w.yieldSig.getD 15)) with wait := none } : Wave).exited = w.exited := fun w => by
    unfold Wave.flagDown; split <;> rfl
  unfold State.endYield State.advance
  rcases finish_cases (s.modWave id fun w => { (w.flagDown (w.yieldSig.getD 15)) with wait := none }) id fun _ => none with he | he
  · exact ⟨_, _, .inl (he.trans (modBlock_waveStep s id _ (Wave.complete · fun _ => none) (fun n => n) fun n => n)),
      fun w => ⟨hflag w, rfl⟩⟩
  · refine ⟨_, _, .inr (he.trans (congrArg (State.leave · id) (modBlock_waveStep s id _ (fun w => (w.complete fun _ => none).ended)
      (fun n => n) fun n => min (n + 1) 0xFFFFFFFF))), fun w => ⟨hflag w, rfl⟩⟩

theorem yieldsEnded_endYield {id : WaveId} {s t : State} {ended : List Nat} (h : YieldsEnded id s t ended) (k : Nat) :
    YieldsEnded id s (t.endYield ⟨id.core, id.slot, k⟩) (ended ++ [k]) := by
  obtain ⟨g, r, he, hg⟩ := endYield_step t ⟨id.core, id.slot, k⟩
  have hwave : ∀ j w, s.wave? ⟨id.core, id.slot, j⟩ = some w →
      ∃ v, (t.modBlock ⟨id.core, id.slot, k⟩ (Block.waveStep k g r)).wave? ⟨id.core, id.slot, j⟩ = some v ∧
        v.exited = w.exited ∧ (j ∈ ended ++ [k] → v.wait = none) := by
    intro j w hw
    obtain ⟨v, hv, hex, hwt⟩ := h.waves j w hw
    have hstep := wave?_waveStep t ⟨id.core, id.slot, k⟩ ⟨id.core, id.slot, j⟩ g r
    by_cases hjk : k = j
    · subst hjk
      rw [if_pos ⟨rfl, rfl⟩, hv] at hstep
      exact ⟨g v, hstep, (hg v).1.trans hex, fun _ => (hg v).2⟩
    · rw [if_neg fun hh => hjk hh.2, hv] at hstep
      refine ⟨v, hstep, hex, fun hj => hwt ?_⟩
      rcases List.mem_append.mp hj with hj | hj
      · exact hj
      · exact absurd (List.mem_singleton.mp hj).symm hjk
  rcases he with he | he <;> rw [he]
  · exact ⟨h.mem, h.clock, h.slots, hwave⟩
  · exact ⟨h.mem, h.clock, fun q hq => h.slots q (List.mem_filter.mp hq).1, hwave⟩

theorem yieldsEnded_foldl (id : WaveId) (s : State) (live : Sparse Wave) :
    YieldsEnded id s (live.foldl (fun s e => s.endYield ⟨id.core, id.slot, e.1⟩) s) (live.map Prod.fst) := by
  induction live using List.reverseRecOn with
  | nil => exact ⟨rfl, rfl, fun _ h => h, fun k w hw => ⟨w, hw, rfl, fun h => nomatch h⟩⟩
  | append_singleton l e ih =>
    rw [List.foldl_append, List.foldl_cons, List.foldl_nil, List.map_append]
    exact yieldsEnded_endYield ih e.1

theorem settleSlice_waits {s : State} {id : WaveId} {b : Block} (hb : s.block? id = some b)
    (h : ∃ e ∈ b.liveWaves, e.2.yieldSig = none ∨ e.2.reissue ≠ []) : s.settleSlice id = s := by
  obtain ⟨e, he, hy⟩ := h
  unfold State.settleSlice
  rw [hb]
  refine if_pos ?_
  rw [Bool.or_eq_true]
  refine .inr ?_
  rw [Bool.not_eq_true', List.all_eq_false]
  refine ⟨e, he, ?_⟩
  rcases hy with hy | hy
  · simp [hy]
  · simp [hy]

theorem pauseSlice_waves (b : Block) (clock : Nat) : (b.pauseSlice clock).waves = b.waves := by
  unfold Block.pauseSlice; split <;> rfl

/-- Where every live wave waits in YIELD, those waits end and the block stands between slices. -/
theorem settleSlice_ends {s : State} {id : WaveId} {b : Block} (hb : s.block? id = some b) (hne : b.liveWaves ≠ [])
    (h : ∀ e ∈ b.liveWaves, e.2.yieldSig.isSome = true ∧ e.2.reissue = []) :
    YieldsEnded id s (s.settleSlice id) (b.liveWaves.map Prod.fst) ∧
      ∀ b', (s.settleSlice id).block? id = some b' → b'.offered = some s.clock := by
  have hfold := yieldsEnded_foldl id s b.liveWaves
  have hall : (b.liveWaves.all fun e => e.2.yieldSig.isSome && e.2.reissue.isEmpty) = true := by
    rw [List.all_eq_true]
    intro e he
    obtain ⟨hy, hr⟩ := h e he
    simp [hy, hr]
  unfold State.settleSlice
  rw [hb]
  simp only [hall, List.isEmpty_eq_false_iff.mpr hne, Bool.not_true, Bool.or_self, Bool.false_eq_true, if_false]
  refine ⟨⟨hfold.mem, hfold.clock, hfold.slots, fun k w hw => ?_⟩, fun b' hb' => ?_⟩
  · obtain ⟨v, hv, hrest⟩ := hfold.waves k w hw
    refine ⟨v, Eq.trans (wave?_of_block _ id _ ?_ _) hv, hrest⟩
    exact fun b => pauseSlice_waves b _
  · rw [block?_modBlock, if_pos rfl] at hb'
    obtain ⟨b0, -, rfl⟩ := Option.map_eq_some_iff.mp hb'
    exact congrArg some hfold.clock

/-! ### The end of a block in a handler (08 R237) -/

theorem mem_of_spFind {α : Type} {m : Sparse α} {k : Nat} {v : α} (h : spFind m k = some v) : (k, v) ∈ m := by
  induction m with
  | nil => cases h
  | cons e t ih =>
    obtain ⟨j, x⟩ := e
    simp only [spFind] at h
    split at h
    · rename_i hj
      cases h
      exact hj ▸ List.mem_cons_self ..
    · exact List.mem_cons_of_mem _ (ih h)

/-- Forcings that are given up release locks alone. -/
theorem foldl_dropForce (s : State) (ws : Sparse Wave) :
    ∃ ls, ws.foldl (fun s e => s.dropForce e.2) s = { s with locks := ls } := by
  induction ws using List.reverseRecOn with
  | nil => exact ⟨s.locks, rfl⟩
  | append_singleton l e ih =>
    obtain ⟨ls, hl⟩ := ih
    rw [List.foldl_append, List.foldl_cons, List.foldl_nil, hl]
    unfold State.dropForce
    split
    · exact ⟨_, rfl⟩
    · exact ⟨ls, rfl⟩

/-- A wave whose block ends as faulted. -/
def Wave.faultEnd (w : Wave) : Wave :=
  { w with
    exited := BitVec.allOnes 32, clause := ⟨0, 0, 0⟩, trivet := [], trivSet := [], wait := none, handler := false,
    saved := none, record := none, reissue := [], overrun := false
    log := w.log.filter fun x => x.2.state == 1 && x.2.stage != 3 }

/-- A block that ends as faulted. -/
def Block.faultEnd (cause : Nat) (b : Block) : Block :=
  { b.sealJournal with
    faulted := lowerCause b.faulted cause, waves := b.waves.map fun e => (e.1, e.2.faultEnd) }

theorem faultBlock_eq {s : State} {id : WaveId} {b : Block} (hb : s.block? id = some b) (cause : Nat) :
    ∃ ls, s.faultBlock id cause = { s with
      blocks := spMod s.blocks (wkey id) (Block.faultEnd cause), locks := ls
      running := s.running.filter fun r => wkey r != wkey id
      ops := s.ops.filter fun o => !(o.2.uid == b.uid && o.2.faulted) } := by
  obtain ⟨ls, hl⟩ := foldl_dropForce s b.waves
  refine ⟨ls, ?_⟩
  unfold State.faultBlock
  rw [hb]
  simp only [hl]
  rfl

/-- What the end of a block as faulted does. -/
theorem blockFaulted_faultBlock {s : State} {id : WaveId} {b : Block} (hb : s.block? id = some b) (cause : Nat) :
    BlockFaulted id s (s.faultBlock id cause) cause := by
  obtain ⟨ls, he⟩ := faultBlock_eq hb cause
  rw [he]
  refine ⟨⟨b, b.faultEnd cause, hb, ?_, rfl, rfl, fun k w hw => ?_⟩, fun r hr => ?_, rfl⟩
  · unfold State.block? at hb ⊢
    simp only [spFind_spMod, if_pos, hb, Option.map_some]
  · obtain ⟨e, -, he⟩ := List.mem_map.mp (mem_of_spFind hw)
    cases he
    exact ⟨by unfold Wave.live Wave.faultEnd; simp, rfl, rfl⟩
  · simpa using (List.mem_filter.mp hr).2

section
variable {f : F} {s : State} {c : Ctx}

/-- In a handler the last exit ends the block as faulted. -/
theorem exit_in_handler (hc : s.clear (bareSpec f true) noFails = some c) (hp : c.part ≠ 0)
    (hlive : ~~~((s.wave s.cur).exited ||| c.part) = 0) {v : Saved} (hsaved : (s.wave s.cur).saved = some v) :
    ∃ t, exec (.exit f) s = .next t ∧ BlockFaulted s.cur s t (lowBit v.entry) := by
  obtain ⟨hex, hsv⟩ := exitThreads_wave hc
  obtain ⟨hid, -, -, -, -, hb, -⟩ := ctx_spec (clear_spec hc).1
  have honly := onlyWave_exitThreads hc
  have hshell := honly.shells s.cur
  rw [hb] at hshell
  obtain ⟨b', hb', hsh⟩ := Option.map_eq_some_iff.mp hshell
  have hfaulted : b'.faulted = c.b.faulted := by change b'.shell.faulted = _; rw [hsh]; rfl
  have hjournal : b'.journal = c.b.journal := by change b'.shell.journal = _; rw [hsh]; rfl
  obtain ⟨⟨b1, b2, h1, h2, hfault, hphase, hwaves⟩, hslots, hmem⟩ := blockFaulted_faultBlock hb' (lowBit v.entry)
  cases hb'.symm.trans h1
  refine ⟨(s.exitThreads c f).faultBlock s.cur (lowBit v.entry), ?_, ?_, hslots, hmem.trans honly.mem⟩
  · rw [exec_exit hc hp, if_neg, hsv, hsaved, hid]
    unfold Wave.live
    rw [hex]
    exact not_not_intro hlive
  · exact ⟨c.b, b2, hb, h2, by rw [hfault, hfaulted], by rw [hphase, hjournal], hwaves⟩

/-- What stands after the last exit of a wave outside a handler: `g` and `r` say what became of the wave and the count. -/
theorem exit_last_spec (hc : s.clear (bareSpec f true) noFails = some c)
    (hdead : ∀ e ∈ c.b.waves, e.1 = s.cur.wave → ~~~(e.2.exited ||| c.part) = 0) : ∃ g r,
      (s.exitThreads c f).leave s.cur = (s.modBlock s.cur (Block.waveStep s.cur.wave g r)).leave s.cur ∧
      ((s.exitThreads c f).leave s.cur).block? s.cur = some (c.b.waveStep s.cur.wave g r) ∧
      ∀ e, e ∈ (c.b.waveStep s.cur.wave g r).liveWaves ↔ e ∈ c.b.waves ∧ e.1 ≠ s.cur.wave ∧ e.2.live ≠ 0 := by
  obtain ⟨-, -, -, -, -, hb, -⟩ := ctx_spec (clear_spec hc).1
  obtain ⟨g, r, he, hg⟩ := leave_exitThreads hc
  refine ⟨g, r, he, ?_, fun e => mem_liveWaves_waveStep r (fun e he hk => ?_) e⟩
  · rw [he, block?_leave]
    exact block?_waveStep hb g r
  · unfold Wave.live
    rw [hg]
    exact hdead e he hk

theorem exitThreads_dead (hc : s.clear (bareSpec f true) noFails = some c)
    (hlive : ~~~((s.wave s.cur).exited ||| c.part) = 0) : (((s.exitThreads c f).leave s.cur).wave s.cur).live = 0 := by
  have h := (exitThreads_wave hc).1
  rw [(ctx_spec (clear_spec hc).1).1] at h
  unfold Wave.live
  rw [wave_leave, h, hlive]

variable (hc : s.clear (bareSpec f true) noFails = some c) (hp : c.part ≠ 0)
  (hlive : ~~~((s.wave s.cur).exited ||| c.part) = 0) (hsaved : (s.wave s.cur).saved = none)
  (hdead : ∀ e ∈ c.b.waves, e.1 = s.cur.wave → ~~~(e.2.exited ||| c.part) = 0)
include hc hp hlive hsaved hdead

/-- With every other wave of the block exited, its journal is sealed. -/
theorem exit_last_of_block (hothers : ∀ e ∈ c.b.waves, e.1 ≠ s.cur.wave → e.2.live = 0) :
    ∃ t, exec (.exit f) s = .next t ∧ OnlyWave (s.modBlock s.cur Block.sealJournal) t ∧ s.cur ∉ t.running ∧
      (t.wave s.cur).live = 0 := by
  obtain ⟨g, r, he, hb, hmem⟩ := exit_last_spec hc hdead
  have hempty : (c.b.waveStep s.cur.wave g r).liveWaves = [] :=
    List.eq_nil_iff_forall_not_mem.mpr fun e hm => by
      obtain ⟨h1, h2, h3⟩ := (hmem e).mp hm
      exact h3 (hothers e h1 h2)
  refine ⟨_, exec_exit_last hc hp hlive hsaved, ?_⟩
  unfold State.afterExit
  rw [hb]
  simp only [hempty, List.isEmpty_nil, if_true]
  refine ⟨?_, not_mem_running_leave _ _, ?_⟩
  · have hcomm : ((s.exitThreads c f).leave s.cur).modBlock s.cur Block.sealJournal =
        ((s.modBlock s.cur Block.sealJournal).modBlock s.cur (Block.waveStep s.cur.wave g r)).leave s.cur := by
      rw [he, modBlock_modBlock]
      exact congrArg (State.leave · s.cur) (modBlock_modBlock s s.cur (Block.waveStep s.cur.wave g r) Block.sealJournal)
    rw [hcomm]
    exact (onlyWave_waveStep (s.modBlock s.cur Block.sealJournal) g r).trans (onlyWave_leave _)
  · have hw := wave?_of_block ((s.exitThreads c f).leave s.cur) s.cur Block.sealJournal (fun _ => rfl) s.cur
    unfold State.wave
    rw [hw]
    exact exitThreads_dead hc hlive

/-- With another live wave that does not wait in YIELD nothing else changes. -/
theorem exit_last_of_wave
    (hother : ∃ e ∈ c.b.waves, e.1 ≠ s.cur.wave ∧ e.2.live ≠ 0 ∧ (e.2.yieldSig = none ∨ e.2.reissue ≠ [])) :
    ∃ t, exec (.exit f) s = .next t ∧ OnlyWave s t ∧ s.cur ∉ t.running ∧ (t.wave s.cur).live = 0 := by
  obtain ⟨g, r, he, hb, hmem⟩ := exit_last_spec hc hdead
  obtain ⟨e, h1, h2, h3, hy⟩ := hother
  have hin := (hmem e).mpr ⟨h1, h2, h3⟩
  have hne : (c.b.waveStep s.cur.wave g r).liveWaves ≠ [] := fun h => by rw [h] at hin; cases hin
  refine ⟨_, exec_exit_last hc hp hlive hsaved, ?_⟩
  unfold State.afterExit
  rw [hb]
  simp only [List.isEmpty_eq_false_iff.mpr hne, Bool.false_eq_true, if_false]
  rw [settleSlice_waits hb ⟨e, hin, hy⟩]
  refine ⟨?_, not_mem_running_leave _ _, exitThreads_dead hc hlive⟩
  rw [he]
  exact (onlyWave_waveStep s g r).trans (onlyWave_leave _)

/-- With every other live wave in YIELD the slice ends. -/
theorem exit_last_of_slice (hother : ∃ e ∈ c.b.waves, e.1 ≠ s.cur.wave ∧ e.2.live ≠ 0)
    (hyield : ∀ e ∈ c.b.waves, e.1 ≠ s.cur.wave → e.2.live ≠ 0 → e.2.yieldSig.isSome = true ∧ e.2.reissue = []) :
    ∃ t b', exec (.exit f) s = .next t ∧ t.block? s.cur = some b' ∧ b'.offered = some s.clock ∧ (t.wave s.cur).live = 0 ∧
      s.cur ∉ t.running ∧ t.mem = s.mem ∧
      ∀ k w, spFind c.b.waves k = some w → k ≠ s.cur.wave → w.live ≠ 0 → (t.wave ⟨s.cur.core, s.cur.slot, k⟩).wait = none := by
  obtain ⟨g, r, he, hb, hmem⟩ := exit_last_spec hc hdead
  obtain ⟨e, h1, h2, h3⟩ := hother
  have hin := (hmem e).mpr ⟨h1, h2, h3⟩
  have hne : (c.b.waveStep s.cur.wave g r).liveWaves ≠ [] := fun h => by rw [h] at hin; cases hin
  obtain ⟨hend, hoff⟩ := settleSlice_ends hb hne fun e he => by
    obtain ⟨h1, h2, h3⟩ := (hmem e).mp he
    exact hyield e h1 h2 h3
  have hexec := exec_exit_last hc hp hlive hsaved
  unfold State.afterExit at hexec
  rw [hb] at hexec
  simp only [List.isEmpty_eq_false_iff.mpr hne, Bool.false_eq_true, if_false] at hexec
  obtain ⟨w, v, hw, -, -, ht⟩ := wave?_exitThreads hc
  obtain ⟨v', hv', hex, -⟩ := hend.waves s.cur.wave _ ht
  obtain ⟨b', hb', -⟩ := wave?_some hv'
  refine ⟨_, b', hexec, hb', hoff b' hb' |>.trans ?_, ?_, ?_, ?_, fun k w hk hne hl => ?_⟩
  · rw [he]; rfl
  · have := exitThreads_dead hc hlive
    rw [wave_leave, wave_eq_of_wave? ht] at this
    rw [wave_eq_of_wave? hv']
    unfold Wave.live at this ⊢
    rw [hex, this]
  · exact fun hr => not_mem_running_leave _ _ (hend.slots _ hr)
  · rw [hend.mem, he]; rfl
  · have hold : ((s.exitThreads c f).leave s.cur).wave? ⟨s.cur.core, s.cur.slot, k⟩ = some w := by
      rw [he, wave?_leave, wave?_waveStep, if_neg fun h => hne h.2.symm]
      unfold State.wave?
      rw [show s.block? ⟨s.cur.core, s.cur.slot, k⟩ = s.block? s.cur from rfl, (ctx_spec (clear_spec hc).1).2.choose_spec.2.2.2.1]
      exact hk
    obtain ⟨x, hx, -, hwait⟩ := hend.waves k w hold
    rw [wave_eq_of_wave? hx]
    exact hwait (List.mem_map.mpr ⟨(k, w), (hmem (k, w)).mpr ⟨mem_of_spFind hk, hne, hl⟩, rfl⟩)

end

/-- Settles O32: by what is left of the wave and of its block. -/
theorem threadsExit : Obligations.ThreadsExit := by
  intro f s c hc
  refine ⟨fun hp => ?_, fun hp hl => exit_some_threads hc hp hl, fun hp hl hs hd => ⟨?_, ?_, ?_⟩, fun v hp hl hs => exit_in_handler hc hp hl hs⟩
  · obtain ⟨hctx, hw, -⟩ := clear_spec hc
    refine ⟨_, ?_, transfer_outcome hctx hw (bareSpec f true) fun _ => none⟩
    rw [show exec (.exit f) s = .next (run (bareSpec f true) noFails noResume _ s) from rfl, run_clear hc]
    simp only [hp, if_true]
  · exact exit_last_of_block hc hp hl hs hd
  · exact exit_last_of_wave hc hp hl hs hd
  · exact exit_last_of_slice hc hp hl hs hd

end Sys2Proof.Machine
end

section
/-! Frames of the shared operations: what memory and its translation depend on, and what writes at home and interrupts leave alone. -/

namespace Sys2Proof.Machine

open Sys2Proof

/-! ### Reads of sparse maps whose entries change in place -/

theorem spFind_map {α : Type} (m : Sparse α) (g : Nat × α → Nat × α) (hg : ∀ e, (g e).1 = e.1) (k : Nat) :
    spFind (m.map g) k = (spFind m k).map fun v => (g (k, v)).2 := by
  induction m with
  | nil => rfl
  | cons e t ih =>
    obtain ⟨j, v⟩ := e
    rw [List.map_cons, ← Prod.mk.eta (p := g (j, v)), hg]
    simp only [spFind, ih]
    split
    · rename_i h; subst h; rfl
    · rfl

/-! ### What memory depends on -/

/-- The machine without its blocks, launches, queues, slots and generations: home memory, its translation and the fetch of
instructions depend on nothing of these. -/
def State.home (s : State) : State :=
  { s with
    cur := ⟨0, 0, 0⟩, slots := [], running := [], blocks := [], saved := [], frondGen := [], launches := [], nextLaunch := 0
    hostGen := [], devGen := [], locks := [], queues := [] }

theorem readBytes_home (s : State) (pa n : Nat) : s.home.readBytes pa n = s.readBytes pa n := rfl

theorem walk_home (s : State) (va : Nat) (levels : List (Nat × Bool × Bool)) (table : Nat) :
    s.home.walk va levels table = s.walk va levels table := by
  induction levels generalizing table with
  | nil => rfl
  | cons l rest ih =>
    obtain ⟨sh, ok, last⟩ := l
    unfold State.walk
    simp only [ih]
    rfl

theorem leafOf_home (s : State) (asid va : Nat) : s.home.leafOf asid va = s.leafOf asid va := by
  unfold State.leafOf
  simp only [walk_home]
  rfl

theorem translate_home (s : State) (asid tenant va : Nat) (rights : List Nat) :
    s.home.translate asid tenant va rights = s.translate asid tenant va rights := by
  unfold State.translate
  simp only [leafOf_home]
  rfl

theorem fetch_home (s : State) (core asid tenant : Nat) (va : W64) : s.home.fetch core asid tenant va = s.fetch core asid tenant va := by
  unfold State.fetch
  simp only [translate_home]
  rfl

/-- A wave's fetch finds the same while its launch is the same and memory is. -/
theorem fetchFor_congr {s t : State} (hm : t.home = s.home) (hl : t.launches = s.launches) {id : WaveId} {b b' : Block}
    (hb : s.block? id = some b) (hb' : t.block? id = some b') (hsame : b'.launch = b.launch) (va : W64) :
    t.fetchFor id va = s.fetchFor id va := by
  have hfetch : ∀ core asid tenant, t.fetch core asid tenant va = s.fetch core asid tenant va := fun core asid tenant => by
    rw [← fetch_home t, ← fetch_home s, hm]
  unfold State.fetchFor
  rw [hb, hb']
  unfold State.launchOf State.launch?
  simp only [hfetch, hsame, hl]

/-- A relation that every step of a fold keeps holds of the whole fold. -/
theorem rel_foldl {α β : Type} {R : α → α → Prop} (hrefl : ∀ s, R s s) (htrans : ∀ {s t u}, R s t → R t u → R s u)
    {g : α → β → α} (hg : ∀ s b, R s (g s b)) (l : List β) (s : α) : R s (l.foldl g s) := by
  induction l generalizing s with
  | nil => exact hrefl s
  | cons b t ih => exact htrans (hg s b) (ih _)

/-! ### Writes at home (04 R101) -/

/-- Nothing but home memory, its poison and the digests differs. -/
def MemoryOnly (s t : State) : Prop := t = { s with mem := t.mem, poison := t.poison, digests := t.digests }

theorem MemoryOnly.refl (s : State) : MemoryOnly s s := rfl

theorem MemoryOnly.trans {s t u : State} (h : MemoryOnly s t) (k : MemoryOnly t u) : MemoryOnly s u := by
  unfold MemoryOnly at h k ⊢
  rw [k, h]

theorem memoryOnly_digests (s : State) (d : Sparse Nat) : MemoryOnly s { s with digests := d } := rfl

theorem memoryOnly_poison (s : State) (p : List Nat) : MemoryOnly s { s with poison := p } := rfl

theorem memoryOnly_withDigest (s : State) (pa : Nat) {f : State → State} (hf : MemoryOnly s (f s)) :
    MemoryOnly s (s.withDigest pa f) := by
  unfold State.withDigest
  split
  · exact hf
  · exact hf.trans (memoryOnly_digests _ _)

theorem memoryOnly_writeUnit (s : State) (u : Nat) (bs : List (Option Byte)) : MemoryOnly s (s.writeUnit u bs) := by
  have hstore : MemoryOnly s (s.withDigest u fun s => s.storeUnit u bs) := memoryOnly_withDigest s u (by rfl)
  unfold State.writeUnit
  split
  · exact .refl s
  · split
    · split
      · exact hstore.trans (memoryOnly_poison _ _)
      · exact .refl s
    · exact hstore

theorem memoryOnly_writeRun (s : State) (pa : Nat) (bs : List (Option Byte)) : MemoryOnly s (s.writeRun pa bs) :=
  rel_foldl .refl .trans (fun s _ => memoryOnly_writeUnit s _ _) _ s

theorem memoryOnly_writeBytes (s : State) (pa : Nat) (bs : List Byte) : MemoryOnly s (s.writeBytes pa bs) :=
  memoryOnly_writeRun s pa _

theorem termAt_home (s : State) (r : Replica) (pa : Nat) : s.home.termAt r pa = s.termAt r pa := by
  unfold State.termAt
  simp only [readBytes_home, show s.home.digestKey r.tenant = s.digestKey r.tenant from rfl]

theorem storeUnit_home (s : State) (u : Nat) (bs : List (Option Byte)) : (s.storeUnit u bs).home = s.home.storeUnit u bs := rfl

theorem digests_home (s : State) : s.home.digests = s.digests := rfl

theorem home_setDigests (s : State) (d : Sparse Nat) : ({ s with digests := d } : State).home = { s.home with digests := d } := rfl

/-- The digests after a line's term has changed. -/
def digestStep (now next : Sparse Nat) (tenant old new : Nat) : Sparse Nat :=
  spSet 0 next tenant ((spGet 0 now tenant + new + (2 ^ 128 - old % 2 ^ 128)) % 2 ^ 128)

theorem withDigest_some {s : State} {pa : Nat} {r : Replica} (h : s.replicaAt pa = some r) (f : State → State) :
    s.withDigest pa f = { f s with digests := digestStep s.digests (f s).digests r.tenant (s.termAt r pa) ((f s).termAt r pa) } := by
  unfold State.withDigest
  rw [h]
  rfl

theorem withDigest_none {s : State} {pa : Nat} (h : s.replicaAt pa = none) (f : State → State) : s.withDigest pa f = f s := by
  unfold State.withDigest
  rw [h]

theorem withDigest_store_home (s : State) (u : Nat) (bs : List (Option Byte)) :
    (s.withDigest u fun s => s.storeUnit u bs).home = s.home.withDigest u fun s => s.storeUnit u bs := by
  cases h : s.replicaAt u with
  | none =>
    rw [withDigest_none h, withDigest_none (s := s.home) h, storeUnit_home]
  | some r =>
    rw [withDigest_some h, withDigest_some (s := s.home) h, termAt_home, ← storeUnit_home, termAt_home,
      home_setDigests, digests_home, digests_home]

theorem writeUnit_home (s : State) (u : Nat) (bs : List (Option Byte)) : (s.writeUnit u bs).home = s.home.writeUnit u bs := by
  unfold State.writeUnit
  rw [show s.home.unreachable u = s.unreachable u from rfl, show s.home.memKey u = s.memKey u from rfl,
    show s.home.poison = s.poison from rfl]
  split
  · rfl
  · split
    · split
      · rw [← withDigest_store_home]; rfl
      · rfl
    · exact withDigest_store_home s u bs

/-- A write at home does the same to memory, whatever the blocks, launches and queues are. -/
theorem writeBytes_home (s : State) (pa : Nat) (bs : List Byte) : (s.writeBytes pa bs).home = s.home.writeBytes pa bs := by
  have hfold : ∀ (l : List Nat) (g : Nat → Nat × List (Option Byte)) (s : State),
      (l.foldl (fun s i => s.writeUnit (g i).1 (g i).2) s).home = l.foldl (fun s i => s.writeUnit (g i).1 (g i).2) s.home := by
    intro l g
    induction l with
    | nil => exact fun _ => rfl
    | cons i t ih => exact fun s => (ih _).trans (by rw [writeUnit_home]; rfl)
  unfold State.writeBytes State.writeRun
  exact hfold _ (fun i => (pa - pa % 8 + 8 * i, _)) s

theorem mem_of_home {s t : State} (h : t.home = s.home) : t.mem = s.mem := by
  change t.home.mem = _; rw [h]; rfl

theorem writeBytes_mem_congr {s t : State} (h : t.home = s.home) (pa : Nat) (bs : List Byte) :
    (t.writeBytes pa bs).mem = (s.writeBytes pa bs).mem :=
  mem_of_home (by rw [writeBytes_home, writeBytes_home, h])

/-! ### Writes of the device and interrupts (11 R293, 19 R331) -/

/-- Nothing but memory, the agenda, the registers of dies and the interrupts sent differs. -/
def SignalsOnly (s t : State) : Prop :=
  t = { s with mem := t.mem, poison := t.poison, digests := t.digests, agenda := t.agenda, dieReg := t.dieReg, msi := t.msi }

theorem SignalsOnly.refl (s : State) : SignalsOnly s s := rfl

theorem SignalsOnly.trans {s t u : State} (h : SignalsOnly s t) (k : SignalsOnly t u) : SignalsOnly s u := by
  unfold SignalsOnly at h k ⊢
  rw [k, h]

theorem MemoryOnly.signals {s t : State} (h : MemoryOnly s t) : SignalsOnly s t := by
  unfold MemoryOnly at h
  unfold SignalsOnly
  rw [h]

theorem signalsOnly_writeHome (s : State) (pa : Nat) (bs : List Byte) : SignalsOnly s (s.writeHome pa bs) := by
  unfold State.writeHome
  split
  · rfl
  · exact (memoryOnly_writeBytes s pa bs).signals

theorem signalsOnly_interrupt (s : State) (die kind tenant loc wave : Nat) (detail : W64) :
    SignalsOnly s (s.interrupt die kind tenant loc wave detail) := by
  unfold State.interrupt
  simp only
  split
  · rfl
  · exact (signalsOnly_writeHome s _ _).trans rfl

theorem SignalsOnly.blocks {s t : State} (h : SignalsOnly s t) : t.blocks = s.blocks := by rw [h]
theorem SignalsOnly.launches {s t : State} (h : SignalsOnly s t) : t.launches = s.launches := by rw [h]
theorem SignalsOnly.running {s t : State} (h : SignalsOnly s t) : t.running = s.running := by rw [h]
theorem SignalsOnly.clock {s t : State} (h : SignalsOnly s t) : t.clock = s.clock := by rw [h]

theorem SignalsOnly.wave? {s t : State} (h : SignalsOnly s t) (u : WaveId) : t.wave? u = s.wave? u := by
  unfold State.wave? State.block?; rw [h.blocks]

end Sys2Proof.Machine
end

section
/-! The issue slot, the instruction cache and results that land later: the obligation O50. -/

namespace Sys2Proof.Machine

open Sys2Proof

/-! ### Frames -/

theorem oneWave_modWave (s : State) (id : WaveId) (f : Wave → Wave) : OneWave id s (s.modWave id f) :=
  onlyWave_modWave { s with cur := id } f

theorem flagDown_fields (w : Wave) (sig : Nat) : w.flagDown sig = { w with k := (w.flagDown sig).k } := by
  unfold Wave.flagDown; split <;> rfl

theorem kget_flagDown (w : Wave) {sig n : Nat} (hn : n < 12) :
    (w.flagDown sig).kget n = w.kget n - if sig = n then 1 else 0 := by
  unfold Wave.flagDown
  split
  · unfold Wave.kget
    rw [spGet_spSet]
    by_cases h : sig = n <;> simp [h]
  · rename_i h
    have : ¬ sig = n := by omega
    simp [this]

theorem touchFor_frame (s : State) (id : WaveId) (a : W64) : ∃ ic, s.touchFor id a = { s with icache := ic } := by
  unfold State.touchFor
  split
  · exact ⟨s.icache, rfl⟩
  · unfold State.touchLine
    split
    · exact ⟨s.icache, rfl⟩
    · exact ⟨_, rfl⟩

theorem hold_frame (s : State) (asid tenant va : Nat) (rights : List Nat) :
    ∃ hp, s.hold asid tenant va rights = { s with held := hp } := by
  unfold State.hold
  split
  · exact ⟨s.held, rfl⟩
  · simp only
    split
    · exact ⟨s.held, rfl⟩
    · exact ⟨_, rfl⟩

/-! ### CLAUSE_ISSUE (05 R124, 20 R355) -/

/-- A wave whose selection has picked a group. -/
def Wave.picked (w : Wave) (p : Pick) : Wave := { w with group := p.lanes, rotated := p.rotated, groupLen := p.count }

/-- A wave whose selected group has passed its clause header. -/
def Wave.enterClause (w : Wave) (p : Pick) (h a : W64) : Wave :=
  { ((w.picked p).setPcs fun l => if p.lanes.getLsbD l then a + 8 else w.pcAt l) with
    clause := ⟨h, a, 0⟩, trivet := [], trivSet := []
    last := (lanesOf p.lanes).foldl (fun m l => spSet 0 m l w.issues) w.last }

theorem pcAt_enterClause (w : Wave) (p : Pick) (h a : W64) {l : Nat} (hl : l < 32) :
    (w.enterClause p h a).pcAt l = if p.lanes.getLsbD l then a + 8 else w.pcAt l :=
  spGet_spOf32 0 (fun l => if p.lanes.getLsbD l then a + 8 else w.pcAt l) hl

theorem regGet_enterClause (w : Wave) (p : Pick) (h a : W64) (r : RegRef) (l : Nat) :
    (w.enterClause p h a).regGet r l = w.regGet r l := by cases r <;> rfl

theorem block?_modWave_self {s : State} {id : WaveId} {b : Block} (hb : s.block? id = some b) (f : Wave → Wave) :
    (s.modWave id f).block? id = some { b with waves := spMod b.waves id.wave f } := by
  rw [block?_modWave, if_pos rfl, hb]; rfl

/-- A clause starts: its header is valid, and no instruction of it is skipped. -/
theorem startClause_word {s : State} {id : WaveId} {b : Block} {w : Wave} {p : Pick} {a h : W64} {priv : Bool}
    (hb : s.block? id = some b) (hw : s.wave? id = some w) (hf : s.fetchFor id a = .word h)
    (hill : headerIllegal h priv = false) (hskip : w.skipAt ≠ some (a + 8)) :
    ∃ ic, s.startClause id priv p a = { s.modWave id (Wave.enterClause · p h a) with icache := ic } := by
  have hfetch : (s.modWave id (Wave.picked · p)).fetchFor id a = .word h :=
    (fetchFor_congr (s := s) (t := s.modWave id (Wave.picked · p)) rfl rfl hb (block?_modWave_self hb _) rfl a).trans hf
  obtain ⟨ic, ht⟩ := touchFor_frame (s.modWave id (Wave.picked · p)) id a
  have hskip' : (((s.modWave id (Wave.picked · p)).wave id).skipAt == some (a + 8)) = false := by
    rw [wave_modWave_self hw]
    exact beq_false_of_ne hskip
  refine ⟨ic, ?_⟩
  unfold State.startClause
  change (match (s.modWave id (Wave.picked · p)).fetchFor id a with
    | .fill => _
    | .fault c => _
    | .word h => _) = _
  rw [hfetch]
  simp only [hill, Bool.false_eq_true, if_false]
  rw [show (s.modWave id fun w => { w with group := p.lanes, rotated := p.rotated, groupLen := p.count }).touchFor id a = _ from ht]
  rw [show ({ s.modWave id (Wave.picked · p) with icache := ic } : State).wave id = (s.modWave id (Wave.picked · p)).wave id from rfl,
    hskip']
  exact congrArg (fun t : State => { t with icache := ic }) (modWave_modWave s id (Wave.picked · p) _)

/-- The slot takes a wave of an unsliced launch: only the yield marks of its core's waves and the wave's waiting time change
in the blocks. -/
theorem wave?_takeSlot {s : State} {id : WaveId} {w : Wave} (hw : s.wave? id = some w) :
    ∃ y, (s.takeSlot id false).wave? id = some { w with yielding := y, since := none } := by
  obtain ⟨b, hb, hbw⟩ := wave?_some hw
  have hclear : ∃ y, (s.clearYields id.core).wave? id = some { w with yielding := y } := by
    unfold State.wave? State.block? State.clearYields
    rw [spFind_map _ _ fun e => by split <;> rfl, show spFind s.blocks (wkey id) = some b from hb]
    by_cases hc : wkey id / 16 = id.core
    · refine ⟨false, ?_⟩
      simp only [Option.map_some, hc, if_true]
      rw [spFind_map _ _ fun _ => by rfl, hbw]
      rfl
    · exact ⟨w.yielding, by simp only [Option.map_some, hc, if_false]; exact hbw⟩
  obtain ⟨y, hy⟩ := hclear
  exact ⟨y, wave?_modWave_self hy _⟩

theorem block?_takeSlot {s : State} {id : WaveId} {b : Block} (hb : s.block? id = some b) :
    ∃ b', (s.takeSlot id false).block? id = some b' ∧ b'.launch = b.launch := by
  have hclear : ∃ b', (s.clearYields id.core).block? id = some b' ∧ b'.launch = b.launch := by
    unfold State.block? State.clearYields
    rw [spFind_map _ _ fun e => by split <;> rfl, show spFind s.blocks (wkey id) = some b from hb]
    exact ⟨_, rfl, by dsimp only; split <;> rfl⟩
  obtain ⟨b', hb', hl⟩ := hclear
  exact ⟨_, block?_modWave_self hb' _, hl⟩

theorem clauseIssue_starts {s : State} {core : Nat} {id : WaveId} {b : Block} {w : Wave} {p : Pick} {a : W64}
    (herr : s.registerErrors core = s) (hidle : s.slotIdle core = true) (hnext : s.nextWave core = some (id, b, w))
    (hin : w.inClause = false) (hhead : w.nextHeader = some (p, a)) (hslice : s.sliceOf b = 0) :
    s.clauseIssue core = (s.takeSlot id false).startClause id ((s.takeSlot id false).privOf b) p a := by
  unfold State.clauseIssue
  simp only [herr, hidle, hnext, hin, hhead, hslice, Bool.not_true, Bool.false_eq_true, if_false, bne_self_eq_false]

/-! ### ICACHE_FILL (22 R377) -/

theorem icacheFill_fills {s : State} {core asid line : Nat} {id : WaveId} {a : W64} {r : Bool} {b : Block} {l : Launch} {pa : Nat}
    (hfor : s.fetcher core asid line = some (id, a, r)) (hfetch : s.fetchFor id a = .fill) (hb : s.block? id = some b)
    (hl : s.launchOf b = some l) (hpa : s.translate asid l.tenant a.toNat [rEXEC] = .ok pa) :
    s.icacheFill core asid line = (s.hold asid l.tenant a.toNat [rEXEC]).insertLine
      ⟨core, asid, l.tenant, line, s.readBytes (pa / 64 * 64) 64⟩ := by
  unfold State.icacheFill
  simp only [hfor, hfetch, hb, hl, hpa]

/-! ### Results that land later (05 R128, R132, 06 R176) -/

/-- One of the results in flight lands, where one has not landed. -/
theorem landNth_lands (w : Wave) (n : Nat) (h : ∃ p ∈ w.inflight, p.landed = false) :
    ∃ p ∈ w.inflight, p.landed = false ∧ ∃ fl, w.landNth n = { (w.flagDown p.sig) with nstat := w.nstat ||| p.flags, inflight := fl } := by
  obtain ⟨p, hp, hlanded⟩ := h
  obtain ⟨i, hi, hip⟩ := List.mem_iff_getElem.mp hp
  unfold Wave.landNth
  simp only
  generalize hleft : (List.range w.inflight.length).filter (fun k => (w.inflight[k]?).any fun p => !p.landed) = left
  have hmem : i ∈ left := by
    rw [← hleft, List.mem_filter]
    exact ⟨List.mem_range.mpr hi, by simp [hi, hip, hlanded]⟩
  have hlt : n % left.length < left.length := Nat.mod_lt _ (List.length_pos_of_mem hmem)
  have hk : left[n % left.length] ∈ left := List.getElem_mem hlt
  generalize hkk : left[n % left.length] = k at hk
  rw [← hleft, List.mem_filter, List.mem_range] at hk
  obtain ⟨hklt, hkl⟩ := hk
  rw [List.getElem?_eq_getElem hklt] at hkl
  rw [List.getElem?_eq_getElem hlt, hkk, Option.bind_some, List.getElem?_eq_getElem hklt]
  exact ⟨w.inflight[k], List.getElem_mem hklt, by simpa using hkl, _, rfl⟩

theorem sfoldTest_of_no_wait {s : State} {id : WaveId} (h : (s.wave id).wait = none) : s.sfoldTest id = s := by
  unfold State.sfoldTest
  simp only [h]

/-- A wave whose oldest VFOLD has written the fold register. -/
def Wave.stamped (w : Wave) (x : W64) (fl sig : Nat) (rest : List (W64 × Nat × Nat)) : Wave :=
  { (w.flagDown sig) with fold := x, foldSeq := w.foldSeq + 1, foldq := rest, nstat := w.nstat ||| BitVec.ofNat 32 fl }

theorem stamped_fields (w : Wave) (x : W64) (fl sig : Nat) (rest : List (W64 × Nat × Nat)) :
    (w.stamped x fl sig rest).v = w.v ∧ (w.stamped x fl sig rest).s = w.s ∧ (w.stamped x fl sig rest).wait = w.wait := by
  unfold Wave.stamped
  rw [flagDown_fields]
  exact ⟨rfl, rfl, rfl⟩

theorem stamp_of_no_wait {s : State} {id : WaveId} {w : Wave} {x : W64} {fl sig : Nat} {rest : List (W64 × Nat × Nat)}
    (hw : s.wave? id = some w) (hfold : w.foldq = (x, fl, sig) :: rest) (hwait : w.wait = none) :
    s.stamp id = s.modWave id (Wave.stamped · x fl sig rest) := by
  unfold State.stamp
  rw [wave_eq_of_wave? hw, hfold]
  refine sfoldTest_of_no_wait ?_
  rw [wave_modWave_self hw]
  exact (stamped_fields w x fl sig rest).2.2.trans hwait

/-! ### TRAP_OVERRUN (19 R332) -/

/-- A wave that is stopped in its handler. -/
def Wave.stopped (w : Wave) : Wave :=
  { w with tcause := w.tcause ||| causeBit 28, overrun := true, hpast := true, hcyc := 65536 }

/-- The wave leaves its slot, and beside it only a record of an interrupt may be written. -/
theorem overrun_stops {s : State} {id : WaveId} (hdue : (s.wave id).overrunDue s.clock = true) :
    SignalsOnly ((s.modWave id Wave.stopped).leave id) (s.overrun id) := by
  unfold State.overrun
  simp only [hdue, Bool.not_true, Bool.false_eq_true, if_false]
  have heq : ((s.setCauses id (causeBit cTRAP_OVERRUN)).modWave id fun w => { w with overrun := true, hpast := true, hcyc := 65536 }) =
      s.modWave id Wave.stopped := modWave_modWave s id _ _
  rw [heq]
  exact signalsOnly_interrupt _ _ _ _ _ _ _

/-- Settles O50: each step is one change of a wave, of the slot or of the cache. -/
theorem issueSteps : Obligations.IssueSteps := by
  refine ⟨?_, ?_, ?_, ?_, ?_⟩
  · intro s core id b w p a h herr hidle hnext hb hw hin hhead hfetch hill hslice hskip
    obtain ⟨b', hb', hlaunch⟩ := block?_takeSlot hb
    obtain ⟨y, hw'⟩ := wave?_takeSlot hw
    have hfetch' : (s.takeSlot id false).fetchFor id a = .word h := by
      rw [fetchFor_congr (s := s) (t := s.takeSlot id false) rfl rfl hb hb' hlaunch, hfetch]
    obtain ⟨ic, ht⟩ := startClause_word (p := p) (priv := (s.takeSlot id false).privOf b) hb' hw' hfetch' hill hskip
    have hwave := wave_modWave_self hw' (Wave.enterClause · p h a)
    refine ⟨_, congrArg Host.Outcome.next ((clauseIssue_starts herr hidle hnext hin hhead hslice).trans ht), rfl, rfl, ?_, fun l hl => ?_, ?_,
      fun r l => ?_, rfl,
      spGet_spSet_same 0 s.slots id.core (spGet 0 s.slots id.core + 1)⟩
    · exact congrArg Wave.clause hwave
    · exact (congrArg (Wave.pcAt · l) hwave).trans (pcAt_enterClause _ p h a hl)
    · exact congrArg Wave.group hwave
    · exact (congrArg (Wave.regGet · r l) hwave).trans ((regGet_enterClause _ p h a r l).trans (by cases r <;> rfl))
  · intro s core asid line id a r b l pa hfor hfetch hb hl hpa
    obtain ⟨hp, hh⟩ := hold_frame s asid l.tenant a.toNat [rEXEC]
    refine ⟨_, congrArg Host.Outcome.next ((icacheFill_fills hfor hfetch hb hl hpa).trans (by rw [hh])), List.mem_cons_self .., rfl⟩
  · intro s id w hw hflight
    obtain ⟨p, hp, hlanded, fl, hland⟩ := landNth_lands w (Config.choose s.tick) hflight
    have hwave := wave_modWave_self hw fun w => w.landNth (Config.choose s.tick)
    refine ⟨_, p, hp, hlanded, rfl, oneWave_modWave s id _, ?_, fun n hn => ?_, ?_⟩
    · rw [hwave, hland]
    · rw [hwave, hland]
      exact kget_flagDown w hn
    · rw [hwave, hland, flagDown_fields]
  · intro s id w x fl sig rest hw hfold hwait
    have hwave := wave_modWave_self hw (Wave.stamped · x fl sig rest)
    refine ⟨_, congrArg Host.Outcome.next (stamp_of_no_wait hw hfold hwait), oneWave_modWave s id _, ?_⟩
    rw [hwave]
    obtain ⟨hv, hs, -⟩ := stamped_fields w x fl sig rest
    exact ⟨rfl, rfl, rfl, rfl, fun n hn => kget_flagDown w hn, hv, hs⟩
  · intro s id w hw hhandler hover hpast hlong
    have hdue : (s.wave id).overrunDue s.clock = true := by
      rw [wave_eq_of_wave? hw]
      unfold Wave.overrunDue
      simp [hhandler, hover, hpast, hlong]
    have hstops := overrun_stops hdue
    have hwave : (s.overrun id).wave id = w.stopped :=
      wave_eq_of_wave? ((hstops.wave? id).trans (wave?_modWave_self hw Wave.stopped))
    refine ⟨_, rfl, ?_, ?_, ?_, ?_, ?_, ?_, fun u hu => ?_⟩
    · rw [hwave]; rfl
    · rw [hwave]; rfl
    · rw [hstops.running]
      exact not_mem_running_leave _ _
    · rw [hwave]
      unfold Wave.hcycles Wave.stopped
      simp
    · rw [hwave]; rfl
    · rw [hwave]; rfl
    · rw [hstops.wave? u, wave?_leave, wave?_modWave, if_neg]
      exact fun h => hu ⟨h.1.symm, h.2.symm⟩

end Sys2Proof.Machine
end

section
/-! Work queues, acceptance and the life of a launch: the obligation O51. -/

namespace Sys2Proof.Machine

open Sys2Proof

/-! ### Queue registers and doorbells (20 R340, R341) -/

theorem queue_modQueue (s : State) (q k : Nat) (f : Queue → Queue) :
    (s.modQueue q f).queue k = if q = k then f (s.queue q) else s.queue k :=
  spGet_spSet noWorkQueue s.queues q k _

/-- A step that changes one queue. -/
theorem modQueue_outcome (s : State) (q : Nat) (f : Queue → Queue) :
    s.modQueue q f = { s with queues := (s.modQueue q f).queues } ∧ (∀ k, k ≠ q → (s.modQueue q f).queue k = s.queue k) ∧
      (s.modQueue q f).queue q = f (s.queue q) :=
  ⟨rfl, fun k hk => by rw [queue_modQueue, if_neg (Ne.symm hk)], by rw [queue_modQueue, if_pos rfl]⟩

theorem takes_iff (x : Queue) (wide : Bool) (v : W64) : x.takes wide v = true ↔
    (x.cfg.getLsbD 7 = true ∧ x.stat.getLsbD 42 = false ∧
      (v.extractLsb' 0 32 - x.head).toNat ≤ 2 ^ (x.cfg.extractLsb' 8 5).toNat ∧ (wide = true → v >>> 32 = 0)) := by
  unfold Queue.takes Queue.enabled Queue.fetchError Queue.ringSize
  cases wide <;> simp [and_assoc]

theorem doorbell_outcome (s : State) (q : Nat) (wide : Bool) (v : W64) (hq : q < 4096) :
    ∃ t, exec (.doorbell q wide v) s = .next t ∧ t = { s with queues := t.queues } ∧
      (∀ k, k ≠ q → t.queue k = s.queue k) ∧
      ((s.queue q).takes wide v = true →
        (t.queue q).tail = v.extractLsb' 0 32 ∧ (t.queue q).head = (s.queue q).head ∧ (t.queue q).stat = (s.queue q).stat) ∧
      (¬ (s.queue q).takes wide v = true → t.queue q = { (s.queue q) with stat := (s.queue q).stat ||| (1#64 <<< 41) }) := by
  have hexec : exec (.doorbell q wide v) s = .next (s.doorbell q wide v) := rfl
  unfold State.doorbell at hexec
  rw [if_neg (Nat.not_le.mpr hq)] at hexec
  refine ⟨_, hexec, ?_⟩
  obtain ⟨hframe, hother, hself⟩ := modQueue_outcome s q fun x =>
    if x.takes wide v then
      let y := { x with tail := v.extractLsb' 0 32 }
      if y.pending && !x.pending then { y with prio := x.cap, since := s.clock } else y
    else { x with stat := x.stat ||| (1#64 <<< 41) }
  refine ⟨hframe, hother, fun ht => ?_, fun ht => ?_⟩
  · rw [hself, if_pos ht]
    dsimp only
    split <;> exact ⟨rfl, rfl, rfl⟩
  · rw [hself, if_neg ht]

theorem qstatWrite_outcome (s : State) (q : Nat) (v : W64) (hq : q < 4096) :
    ∃ t, exec (.qstatWrite q v) s = .next t ∧ t = { s with queues := t.queues } ∧ (∀ k, k ≠ q → t.queue k = s.queue k) ∧
      t.queue q = if v >>> 43 = 0 then { (s.queue q) with stat := v } else s.queue q := by
  refine ⟨s.writeQstat q v, rfl, ?_⟩
  unfold State.writeQstat
  by_cases hv : v >>> 43 = 0
  · rw [if_neg (not_or.mpr ⟨Nat.not_le.mpr hq, not_not_intro hv⟩), if_pos hv]
    exact modQueue_outcome s q fun x => { x with stat := v }
  · rw [if_pos (.inr hv), if_neg hv]
    exact ⟨rfl, fun _ _ => rfl, rfl⟩

theorem qcfgWrite_outcome (s : State) (q : Nat) (v : W64) (hq : q < 4096) :
    ∃ t, exec (.qcfgWrite q v) s = .next t ∧ t = { s with queues := t.queues } ∧ (∀ k, k ≠ q → t.queue k = s.queue k) ∧
      t.queue q = if qcfgBad v then s.queue q
        else if v.getLsbD 7 = true ∧ (s.queue q).cfg.getLsbD 7 = false then { (s.queue q) with cfg := v, head := 0, tail := 0 }
        else { (s.queue q) with cfg := v } := by
  refine ⟨s.writeQcfg q v, rfl, ?_⟩
  unfold State.writeQcfg
  cases hv : qcfgBad v with
  | true =>
    rw [if_pos (.inr rfl), if_pos rfl]
    exact ⟨rfl, fun _ _ => rfl, rfl⟩
  | false =>
    rw [if_neg (not_or.mpr ⟨Nat.not_le.mpr hq, Bool.false_ne_true⟩)]
    obtain ⟨hframe, hother, hself⟩ := modQueue_outcome s q fun x =>
      if v.getLsbD 7 && !x.enabled then { x with cfg := v, head := 0, tail := 0 } else { x with cfg := v }
    refine ⟨hframe, hother, hself.trans ?_⟩
    simp only [Bool.and_eq_true, Bool.not_eq_true', Bool.false_eq_true, if_false]
    rfl

theorem queueRegisterWrite_outcome (s : State) (q : Nat) (grp : Bool) (v : W64) (hq : q < 4096) :
    ∃ t, exec (.queueRegisterWrite q grp v) s = .next t ∧ t = { s with queues := t.queues } ∧ (∀ k, k ≠ q → t.queue k = s.queue k) ∧
      t.queue q = if grp = true ∧ v >>> 32 ≠ 0 then s.queue q
        else if grp then { (s.queue q) with grp := v } else { (s.queue q) with base := v } := by
  have hbad : qregBad grp v = true ↔ grp = true ∧ v >>> 32 ≠ 0 := by unfold qregBad; simp
  refine ⟨s.writeQreg q grp v, rfl, ?_⟩
  unfold State.writeQreg
  by_cases hv : grp = true ∧ v >>> 32 ≠ 0
  · rw [if_pos (.inr (hbad.mpr hv)), if_pos hv]
    exact ⟨rfl, fun _ _ => rfl, rfl⟩
  · rw [if_neg (not_or.mpr ⟨Nat.not_le.mpr hq, fun h => hv (hbad.mp h)⟩), if_neg hv]
    exact modQueue_outcome s q fun x => if grp then { x with grp := v } else { x with base := v }

theorem queueAging_outcome {s : State} {q : Nat} (h : s.queueAges q = true) :
    ∃ t, exec (.queueAging q) s = .next t ∧ t = { s with queues := t.queues } ∧
      t.queue q = { (s.queue q) with prio := (s.queue q).prio + 1, since := (s.queue q).since + 65536 } := by
  obtain ⟨hframe, -, hself⟩ := modQueue_outcome s q fun x => { x with prio := x.prio + 1, since := x.since + agingCycles }
  refine ⟨_, ?_, hframe, hself⟩
  rw [show exec (.queueAging q) s = .next (if s.queueAges q then _ else s) from rfl, if_pos h]

theorem queueRecordRead_outcome {s : State} {q : Nat} (hq : s.nextQueue = some q) (hr : s.mayRead = true) :
    ∃ t, exec .queueRecordRead s = .next t ∧ t = { s with queues := t.queues, lastQueue := q, nextRead := s.clock + 128 } ∧
      t.queue q = { (s.queue q) with reading := true } := by
  obtain ⟨-, -, hself⟩ := modQueue_outcome s q fun x => { x with reading := true }
  have hexec : exec .queueRecordRead s = .next s.readRecordNext := rfl
  unfold State.readRecordNext at hexec
  simp only [hq, hr, Bool.not_true, Bool.false_eq_true, if_false] at hexec
  exact ⟨_, hexec, rfl, hself⟩

/-! ### Reject reasons (01 R34) depend on memory and the registers alone -/

theorem translateRange_home (s : State) (asid tenant va n : Nat) (rights : List Nat) :
    s.home.translateRange asid tenant va n rights = s.translateRange asid tenant va n rights := by
  unfold State.translateRange
  simp only [translate_home]

theorem splitTable_home (s : State) (r : Record) (asid t : Nat) : s.home.splitTable r asid t = s.splitTable r asid t := by
  unfold State.splitTable
  simp only [translateRange_home]
  rfl

theorem rejectReason_home (s : State) (r : Record) (asid t size : Nat) :
    s.home.rejectReason r asid t size = s.rejectReason r asid t size := by
  have hbreaks : ∀ k, s.home.breaks r asid t size k = s.breaks r asid t size k := fun k => by
    unfold State.breaks
    simp only [splitTable_home]
    rfl
  unfold State.rejectReason
  simp only [hbreaks]

/-! ### Acceptance (20 R343, R345) -/

theorem signalsOnly_writeFixups (s : State) (r : Record) (asid t : Nat) : SignalsOnly s (s.writeFixups r asid t) := by
  have hword : ∀ (s : State) pages a v, SignalsOnly s (s.writeWord pages a v) := fun s pages a v => by
    unfold State.writeWord
    simp only
    split
    · exact signalsOnly_writeHome s _ _
    · exact (signalsOnly_writeHome s _ _).trans (signalsOnly_writeHome _ _ _)
  unfold State.writeFixups
  split
  · exact .refl s
  · split
    · exact .refl s
    · exact rel_foldl .refl .trans (fun s _ => hword s _ _ _) _ s

/-- The launch that an acceptance makes. -/
def State.acceptedLaunch (s : State) (r : Record) (q : Source) : Launch :=
  let reason := s.rejectReason r q.asid q.tenant q.group.2
  let groups := if reason = 0 then s.groupsOf r q.group (if q.host then noDeadline else s.deadlineOf r.deadline) else []
  { record := r, host := q.host, die := q.die, entry := q.entry, gen := q.gen, tenant := q.tenant, asid := q.asid,
    priv := q.priv, prio := min r.priority q.cap, fn := q.fn, queue := q.queue, group := q.group, parent := q.parent,
    parentLoc := q.loc, demoted := reason == 0 && r.active.any fun e => decide (s.policyScope q.fn < levelScope e)
    isTail := q.tail, started := !q.tail, tail := none, reject := reason,
    groups := groups, total := groupsTotal groups, completed := 0, faulted := 0, killed := 0, firstIdx := none,
    firstCause := 0xFF, messages := 0, ended := [], arrivals := [], aged := [], complete := false, order := s.nextLaunch
    homeDie := (minBy id (groups.flatMap fun g => g.ranges.map Prod.fst)).getD q.die }

/-- The state in which an accepted launch is listed. -/
def State.withLaunch (s : State) (l : Launch) : State :=
  { s with launches := spPut s.launches s.nextLaunch l, nextLaunch := s.nextLaunch + 1 }

theorem acceptLaunch_eq (s : State) (r : Record) (q : Source) : s.acceptLaunch r q =
    let l := s.acceptedLaunch r q
    let u := if l.demoted then (s.withLaunch l).countDemotion q.fn else s.withLaunch l
    if l.reject = 0 then u.writeFixups r q.asid q.tenant else u := by
  unfold State.acceptLaunch State.acceptedLaunch State.withLaunch
  rfl

theorem countDemotion_frame (s : State) (n : Nat) : ∃ pk, s.countDemotion n = { s with pkgReg := pk } := by
  unfold State.countDemotion
  simp only
  split
  · exact ⟨s.pkgReg, rfl⟩
  · exact ⟨_, rfl⟩

/-- An acceptance lists its launch, counts a demotion and writes fix-ups; nothing else changes. -/
theorem acceptLaunch_frame (s : State) (r : Record) (q : Source) : ∃ pk,
    SignalsOnly { s.withLaunch (s.acceptedLaunch r q) with pkgReg := pk } (s.acceptLaunch r q) := by
  rw [acceptLaunch_eq]
  generalize s.acceptedLaunch r q = l
  obtain ⟨pk, hpk⟩ : ∃ pk, (if l.demoted then (s.withLaunch l).countDemotion q.fn else s.withLaunch l) = { s.withLaunch l with pkgReg := pk } := by
    split
    · exact countDemotion_frame _ _
    · exact ⟨s.pkgReg, rfl⟩
  refine ⟨pk, ?_⟩
  simp only [hpk]
  split
  · exact signalsOnly_writeFixups _ _ _ _
  · exact .refl _

end Sys2Proof.Machine
end

section
/-! The life of a launch (01 R41, R42; 08 R223-R225; 20 R343-R345): what it changes on its way to its dies, on completion and when it is dropped. -/

namespace Sys2Proof.Machine

open Sys2Proof

theorem launch?_modLaunch {s : State} {n : Nat} {l : Launch} (h : s.launch? n = some l) (f : Launch → Launch) :
    (s.modLaunch n f).launch? n = some (f l) := by
  unfold State.launch? at h ⊢
  exact (spFind_spMod s.launches n n f).trans (by rw [if_pos rfl, h]; rfl)

/-! ### The way to the dies (20 R345) -/

/-- A launch without what its dies keep of it: its groups, its arrivals and its aging. -/
def Launch.fixed (l : Launch) : Launch := { l with groups := [], arrivals := [], aged := [] }

/-- Launch `n` goes on towards its dies: only launches and the agenda differ, and what is fixed of the launch is as before. -/
def OnItsWay (n : Nat) (s t : State) : Prop :=
  t = { s with launches := t.launches, agenda := t.agenda } ∧ (t.launch? n).map Launch.fixed = (s.launch? n).map Launch.fixed

theorem OnItsWay.refl (n : Nat) (s : State) : OnItsWay n s s := ⟨rfl, rfl⟩

theorem OnItsWay.trans {n : Nat} {s t u : State} (h : OnItsWay n s t) (k : OnItsWay n t u) : OnItsWay n s u :=
  ⟨by rw [k.1, h.1], k.2.trans h.2⟩

theorem OnItsWay.of_agenda (n : Nat) (s : State) (a : List Instr) : OnItsWay n s { s with agenda := a } := ⟨rfl, rfl⟩

theorem onItsWay_modLaunch (n : Nat) (s : State) {f : Launch → Launch} (hf : ∀ l, (f l).fixed = l.fixed) :
    OnItsWay n s (s.modLaunch n f) := by
  refine ⟨rfl, ?_⟩
  unfold State.launch?
  rw [show (s.modLaunch n f).launches = spMod s.launches n f from rfl, spFind_spMod, if_pos rfl, Option.map_map]
  exact congrArg (Option.map · _) (funext hf)

theorem onItsWay_arriveAtDie (n : Nat) (s : State) (die : Nat) : OnItsWay n s (s.arriveAtDie n die) := by
  unfold State.arriveAtDie
  split
  · exact .refl n s
  · split
    · exact .refl n s
    · exact onItsWay_modLaunch n s fun _ => rfl

theorem onItsWay_sendToDies (n : Nat) (s : State) : OnItsWay n s (s.sendToDies n) := by
  unfold State.sendToDies
  split
  · exact .refl n s
  · refine (onItsWay_modLaunch n s (f := fun l => l.travel s.dclk) fun _ => rfl).trans (rel_foldl (R := OnItsWay n) (.refl n) .trans (fun s d => ?_) _ _)
    split
    · exact onItsWay_arriveAtDie n s d
    · exact .of_agenda n s _

theorem OnItsWay.launch? {n : Nat} {s t : State} (h : OnItsWay n s t) {l : Launch} (hl : s.launch? n = some l) :
    ∃ l', t.launch? n = some l' ∧ l'.fixed = l.fixed := by
  obtain ⟨-, h⟩ := h
  rw [hl] at h
  cases ht : t.launch? n with
  | none => rw [ht] at h; cases h
  | some l' => rw [ht] at h; exact ⟨l', rfl, Option.some.inj h⟩

theorem launchArriveDie_outcome {s : State} {n die : Nat} {l : Launch} (hl : s.launch? n = some l) (hdie : die ∈ l.dies)
    (hnew : ∀ a ∈ l.arrivals, a.1 ≠ die) (hfix : s.fixupsHeld l = false) :
    ∃ t l', exec (.launchArriveDie n die) s = .next t ∧ t = { s with launches := t.launches } ∧ t.launch? n = some l' ∧
      l'.arrivals = l.arrivals ++ [(die, s.clock)] ∧ l'.record = l.record ∧ l'.total = l.total := by
  have hexec : exec (.launchArriveDie n die) s = .next (s.launchArrives n die) := rfl
  have hnone : l.arrivals.any (fun a => a.1 == die) = false := by simpa using hnew
  unfold State.launchArrives at hexec
  rw [hl, Option.map_some, Option.getD_some, hfix, if_neg Bool.false_ne_true] at hexec
  unfold State.arriveAtDie at hexec
  simp only [hl, hnone, hdie, decide_true, Bool.not_true, Bool.or_self, Bool.false_eq_true, if_false] at hexec
  exact ⟨_, _, hexec, rfl, launch?_modLaunch hl _, rfl, rfl, rfl⟩

/-! ### The completion record (01 R42) -/

/-- Nothing but memory, the agenda, the registers of dies, the interrupts sent and the status of queues differs. -/
def ReportsOnly (s t : State) : Prop :=
  t = { s with mem := t.mem, poison := t.poison, digests := t.digests, agenda := t.agenda, dieReg := t.dieReg, msi := t.msi, queues := t.queues } ∧
    ∀ q, { (t.queue q) with stat := 0 } = { (s.queue q) with stat := 0 }

theorem ReportsOnly.refl (s : State) : ReportsOnly s s := ⟨rfl, fun _ => rfl⟩

theorem ReportsOnly.trans {s t u : State} (h : ReportsOnly s t) (k : ReportsOnly t u) : ReportsOnly s u :=
  ⟨by rw [k.1, h.1], fun q => (k.2 q).trans (h.2 q)⟩

theorem SignalsOnly.reports {s t : State} (h : SignalsOnly s t) : ReportsOnly s t := by
  unfold SignalsOnly at h
  refine ⟨by rw [h], fun q => ?_⟩
  unfold State.queue
  rw [h]

theorem reportsOnly_msi (s : State) (m : List (Nat × Nat)) : ReportsOnly s { s with msi := m } := ⟨rfl, fun _ => rfl⟩

/-- A change of a queue's status. -/
def State.modStat (s : State) (q : Nat) (f : W64 → W64) : State := { s with queues := spMod s.queues q fun x => { x with stat := f x.stat } }

theorem reportsOnly_modStat (s : State) (q : Nat) (f : W64 → W64) : ReportsOnly s (s.modStat q f) := by
  refine ⟨rfl, fun k => ?_⟩
  unfold State.queue State.modStat
  rw [spGet_eq_spFind, spGet_eq_spFind, spFind_spMod]
  split
  · cases spFind s.queues k <;> rfl
  · rfl

theorem reportsOnly_loseRecord (s : State) (l : Launch) : ReportsOnly s (s.loseRecord l) :=
  (reportsOnly_modStat s l.queue (· ||| (1#64 <<< 40))).trans (signalsOnly_interrupt _ _ _ _ _ _ _).reports

theorem reportsOnly_writeCompletion (s : State) (l : Launch) : ReportsOnly s (s.writeCompletion l) := by
  unfold State.writeCompletion
  split
  · exact .refl s
  · split
    · exact reportsOnly_loseRecord s l
    · split
      · exact reportsOnly_loseRecord s l
      · exact (memoryOnly_writeBytes s _ _).signals.reports

theorem writeHome_home (s : State) (pa : Nat) (bs : List Byte) : (s.writeHome pa bs).home = s.home.writeHome pa bs := by
  unfold State.writeHome
  rw [show s.home.heldIn pa bs.length = s.heldIn pa bs.length from rfl]
  split
  · rfl
  · exact writeBytes_home s pa bs

theorem interrupt_home (s : State) (die kind tenant loc wave : Nat) (detail : W64) :
    (s.interrupt die kind tenant loc wave detail).home = s.home.interrupt die kind tenant loc wave detail := by
  unfold State.interrupt
  simp only [show ∀ d r, s.home.dieR d r = s.dieR d r from fun _ _ => rfl]
  split
  · rfl
  · rw [← writeHome_home]; rfl

theorem loseRecord_home (s : State) (l : Launch) : (s.loseRecord l).home = s.home.loseRecord l := by
  unfold State.loseRecord
  rw [interrupt_home]
  rfl

theorem writeCompletion_home (s : State) (l : Launch) : (s.writeCompletion l).home = s.home.writeCompletion l := by
  unfold State.writeCompletion
  rw [translate_home]
  split
  · rfl
  · split
    · exact loseRecord_home s l
    · split
      · exact loseRecord_home s l
      · exact writeBytes_home s _ _

theorem recordHeld_home (s : State) (l : Launch) : s.home.recordHeld l = s.recordHeld l := by
  unfold State.recordHeld
  rw [translate_home]
  rfl

/-! ### Completion and the end of a launch (01 R41, 08 R224, 20 R343) -/

theorem dropLaunch_eq {s : State} {n : Nat} {l : Launch} (h : s.launch? n = some l) :
    s.dropLaunch n = { s with
      launches := spDel s.launches n
      hostGen := if l.host then spSet 0 s.hostGen l.entry (spGet 0 s.hostGen l.entry + 1) else s.hostGen
      devGen := if l.host then s.devGen else (s.freeDevEntry l.die l.entry).devGen } := by
  unfold State.dropLaunch
  simp only [h]
  split
  · rfl
  · unfold State.freeDevEntry
    split <;> rfl

theorem launch?_dropLaunch {s : State} {n : Nat} {l : Launch} (h : s.launch? n = some l) : (s.dropLaunch n).launch? n = none := by
  rw [dropLaunch_eq h]
  unfold State.launch?
  exact (spFind_spDel _ _ _).trans (if_pos rfl)

/-- A host launch signals its queue's interrupt (20 R343). -/
def State.signalQueue (s : State) (q : Nat) : State :=
  match spFind s.queues q with
  | none => s
  | some q => if q.cfg.getLsbD 24 then { s with msi := s.msi ++ [((q.cfg.extractLsb' 0 6).toNat, (q.cfg.extractLsb' 25 11).toNat)] } else s

/-- A host launch reports its reject reason in its queue's status and signals the interrupt (20 R343). -/
def State.reportHost (s : State) (l : Launch) : State :=
  (if l.reject = 0 then s else s.modStat l.queue fun x => (x &&& 0xFFFFFF00FFFFFFFF) ||| (BitVec.ofNat 64 l.reject <<< 32)).signalQueue l.queue

theorem signalQueue_frame (s : State) (q : Nat) : s.signalQueue q = { s with msi := (s.signalQueue q).msi } := by
  unfold State.signalQueue
  split
  · rfl
  · split <;> rfl

theorem reportHost_frame (s : State) (l : Launch) :
    s.reportHost l = { s with queues := (s.reportHost l).queues, msi := (s.reportHost l).msi } := by
  unfold State.reportHost
  rw [signalQueue_frame]
  split <;> rfl

theorem reportsOnly_reportHost (s : State) (l : Launch) : ReportsOnly s (s.reportHost l) := by
  unfold State.reportHost
  rw [signalQueue_frame]
  split
  · exact reportsOnly_msi s _
  · exact (reportsOnly_modStat s l.queue _).trans (reportsOnly_msi _ _)

theorem completeLaunch_eq {s : State} {n : Nat} {l : Launch} (h : s.launch? n = some l) (hr : s.recordHeld l = false) :
    s.completeLaunch n =
      let u := (s.writeCompletion l).modLaunch n fun l => { l with complete := true }
      if l.host then (u.reportHost l).dropLaunch n else if l.isTail || u.parentGone l then u.dropLaunch n else u := by
  unfold State.completeLaunch
  simp only [h, hr, Bool.false_eq_true, if_false]
  rfl

/-- Launch `n` has completed: its record has been written as `l` says; blocks and queues are as before up to the queues' status. -/
structure Completed (n : Nat) (l : Launch) (s t : State) : Prop where
  mem : t.mem = (s.writeCompletion l).mem
  blocks : t.blocks = s.blocks
  nextLaunch : t.nextLaunch = s.nextLaunch
  queues : ∀ q, { (t.queue q) with stat := 0 } = { (s.queue q) with stat := 0 }
  dropped : l.host = true ∨ l.isTail = true ∨ s.parentGone l = true → t.launch? n = none
  kept : l.host = false → l.isTail = false → s.parentGone l = false → t.launch? n = some { l with complete := true }
  hostGen : l.host = true → spGet 0 t.hostGen l.entry = spGet 0 s.hostGen l.entry + 1

/-- A launch that ends after its record is written. -/
theorem completed_dropLaunch {s u : State} {n : Nat} {l l' : Launch} (hl : u.launch? n = some l') (hhost : l'.host = l.host)
    (hentry : l'.entry = l.entry) (hmem : u.mem = (s.writeCompletion l).mem) (hblocks : u.blocks = s.blocks)
    (hnext : u.nextLaunch = s.nextLaunch) (hgen : u.hostGen = s.hostGen)
    (hqueues : ∀ q, { (u.queue q) with stat := 0 } = { (s.queue q) with stat := 0 })
    (hends : l.host = true ∨ l.isTail = true ∨ s.parentGone l = true) : Completed n l s (u.dropLaunch n) where
  mem := by rw [dropLaunch_eq hl]; exact hmem
  blocks := by rw [dropLaunch_eq hl]; exact hblocks
  nextLaunch := by rw [dropLaunch_eq hl]; exact hnext
  queues q := by rw [dropLaunch_eq hl]; exact hqueues q
  dropped _ := launch?_dropLaunch hl
  kept h₁ h₂ h₃ := by rw [h₁, h₂, h₃] at hends; simp at hends
  hostGen h := by
    rw [dropLaunch_eq hl, hhost, hentry, if_pos h, hgen]
    exact spGet_spSet_same _ _ _ _

theorem completed_completeLaunch {s : State} {n : Nat} {l : Launch} (h : s.launch? n = some l) (hr : s.recordHeld l = false) :
    Completed n l s (s.completeLaunch n) := by
  obtain ⟨hwrite, hqueues⟩ := reportsOnly_writeCompletion s l
  have hl : (s.writeCompletion l).launch? n = some l := by unfold State.launch?; rw [hwrite]; exact h
  have hcomplete := launch?_modLaunch hl fun l => { l with complete := true }
  have hgone : ((s.writeCompletion l).modLaunch n fun l => { l with complete := true }).parentGone l = s.parentGone l := by
    unfold State.parentGone State.modLaunch; rw [hwrite]
  rw [completeLaunch_eq h hr]
  simp only [hgone]
  have hblocks : (s.writeCompletion l).blocks = s.blocks := by rw [hwrite]
  have hnext : (s.writeCompletion l).nextLaunch = s.nextLaunch := by rw [hwrite]
  have hgen : (s.writeCompletion l).hostGen = s.hostGen := by rw [hwrite]
  split
  · rename_i hhost
    have hreport := reportHost_frame ((s.writeCompletion l).modLaunch n fun l => { l with complete := true }) l
    refine completed_dropLaunch (l' := { l with complete := true }) ?_ rfl rfl ?_ ?_ ?_ ?_ ?_ (.inl hhost)
    · unfold State.launch?; rw [hreport]; exact hcomplete
    · rw [hreport]; rfl
    · rw [hreport]; exact hblocks
    · rw [hreport]; exact hnext
    · rw [hreport]; exact hgen
    · exact fun q => ((reportsOnly_reportHost _ l).2 q).trans (hqueues q)
  · split
    · rename_i hends
      exact completed_dropLaunch hcomplete rfl rfl rfl hblocks hnext hgen hqueues (.inr (by simpa using hends))
    · rename_i hhost hstays
      exact ⟨rfl, hblocks, hnext, hqueues, fun h => absurd h (by simpa [hhost] using hstays), fun _ _ _ => hcomplete, fun h => absurd h hhost⟩

end Sys2Proof.Machine
end

section
/-! The records that queues deliver, launches that tail another, and writes over PCIe: the obligation O51. -/

namespace Sys2Proof.Machine

open Sys2Proof

/-! ### Acceptance of a queue's record (20 R343) -/

theorem launch?_acceptLaunch (s : State) (r : Record) (q : Source) :
    (s.acceptLaunch r q).launch? s.nextLaunch = some (s.acceptedLaunch r q) := by
  obtain ⟨pk, h⟩ := acceptLaunch_frame s r q
  unfold State.launch?
  rw [h.launches]
  exact (spFind_spPut _ _ _ _).trans (if_pos rfl)

theorem acceptHost_eq {s : State} {e : Nat} (h : s.freeHostEntry = some e) (q : Nat) (r : Record) :
    s.acceptHost q r = if (s.acceptedLaunch r (s.queueSource q e)).reject = 0
      then (s.acceptLaunch r (s.queueSource q e)).sendToDies s.nextLaunch
      else (s.acceptLaunch r (s.queueSource q e)).completeLaunch s.nextLaunch := by
  unfold State.acceptHost
  simp only [h, launch?_acceptLaunch]

/-- What an acceptance leaves of queues, blocks and the number of the next launch. -/
theorem acceptLaunch_others (s : State) (r : Record) (q : Source) :
    (s.acceptLaunch r q).queues = s.queues ∧ (s.acceptLaunch r q).blocks = s.blocks ∧
      (s.acceptLaunch r q).nextLaunch = s.nextLaunch + 1 := by
  obtain ⟨pk, h⟩ := acceptLaunch_frame s r q
  unfold SignalsOnly at h
  rw [h]
  exact ⟨rfl, rfl, rfl⟩

theorem acceptHost_valid {s : State} {e : Nat} (h : s.freeHostEntry = some e) {q : Nat} {r : Record}
    (hr : (s.acceptedLaunch r (s.queueSource q e)).reject = 0) :
    ∃ l, (s.acceptHost q r).launch? s.nextLaunch = some l ∧ l.fixed = (s.acceptedLaunch r (s.queueSource q e)).fixed ∧
      (s.acceptHost q r).queues = s.queues ∧ (s.acceptHost q r).nextLaunch = s.nextLaunch + 1 := by
  obtain ⟨hqueues, -, hnext⟩ := acceptLaunch_others s r (s.queueSource q e)
  have hway := onItsWay_sendToDies s.nextLaunch (s.acceptLaunch r (s.queueSource q e))
  obtain ⟨l, hl, hfixed⟩ := hway.launch? (launch?_acceptLaunch s r _)
  rw [acceptHost_eq h, if_pos hr]
  refine ⟨l, hl, hfixed, ?_, ?_⟩
  · rw [hway.1]; exact hqueues
  · rw [hway.1]; exact hnext

theorem acceptHost_rejected {s : State} {e : Nat} (h : s.freeHostEntry = some e) {q : Nat} {r : Record}
    (hr : (s.acceptedLaunch r (s.queueSource q e)).reject ≠ 0) :
    (∀ k, { ((s.acceptHost q r).queue k) with stat := 0 } = { (s.queue k) with stat := 0 }) ∧
      (s.acceptHost q r).nextLaunch = s.nextLaunch + 1 ∧ (s.acceptHost q r).blocks = s.blocks := by
  obtain ⟨hqueues, hblocks, hnext⟩ := acceptLaunch_others s r (s.queueSource q e)
  have hqueue : ∀ k, (s.acceptLaunch r (s.queueSource q e)).queue k = s.queue k := fun k => by unfold State.queue; rw [hqueues]
  rw [acceptHost_eq h, if_neg hr]
  cases hheld : (s.acceptLaunch r (s.queueSource q e)).recordHeld (s.acceptedLaunch r (s.queueSource q e)) with
  | true =>
    have hwaits : (s.acceptLaunch r (s.queueSource q e)).completeLaunch s.nextLaunch = s.acceptLaunch r (s.queueSource q e) := by
      unfold State.completeLaunch
      simp only [launch?_acceptLaunch, hheld, if_true]
    rw [hwaits]
    exact ⟨fun k => by rw [hqueue], hnext, hblocks⟩
  | false =>
    have hdone := completed_completeLaunch (launch?_acceptLaunch s r (s.queueSource q e)) hheld
    exact ⟨fun k => by rw [hdone.queues, hqueue], hdone.nextLaunch.trans hnext, hdone.blocks.trans hblocks⟩

/-- The queue after its record has arrived: the head has moved on (20 R342). -/
def State.headAdvanced (s : State) (q : Nat) : State :=
  s.modQueue q fun x => { x with reading := false, head := x.head + 1, prio := x.cap, since := s.clock }

theorem queue_headAdvanced (s : State) (q : Nat) :
    (s.headAdvanced q).queue q = { (s.queue q) with reading := false, head := (s.queue q).head + 1, prio := (s.queue q).cap, since := s.clock } :=
  (queue_modQueue s q q _).trans (if_pos rfl)

theorem queueRecordArrive_exec {s : State} {q : Nat} (hreading : (s.queue q).reading = true)
    (hclean : s.poisonIn (s.queue q).recordAt 256 = none) :
    exec (.queueRecordArrive q false) s =
      .next ((s.headAdvanced q).acceptHost q (recordOf (wordsOf 32 (s.readBytes (s.queue q).recordAt 256)))) := by
  rw [show exec (.queueRecordArrive q false) s = .next (s.recordArrive q false) from rfl]
  unfold State.recordArrive
  simp only [hreading, hclean, Bool.not_true, Bool.false_and, Option.isSome_none, Bool.or_self, Bool.false_eq_true, if_false]
  rfl

theorem queueRecordArrive_fails {s : State} {q : Nat} (hreading : (s.queue q).reading = true) {err : Bool}
    (h : (err = true ∧ (s.queue q).base.getLsbD 63 = false) ∨ s.poisonIn (s.queue q).recordAt 256 ≠ none) :
    ∃ t, exec (.queueRecordArrive q err) s = .next t ∧ t = { s with queues := t.queues } ∧
      t.queue q = { (s.queue q) with reading := false, stat := (s.queue q).stat ||| (1#64 <<< 42) } := by
  have hfails : ((err && !(s.queue q).base.getLsbD 63) || (s.poisonIn (s.queue q).recordAt 256).isSome) = true := by
    rw [Bool.or_eq_true, Bool.and_eq_true, Bool.not_eq_true', Option.isSome_iff_ne_none]
    exact h
  have hexec : exec (.queueRecordArrive q err) s = .next (s.recordArrive q err) := rfl
  unfold State.recordArrive at hexec
  simp only [hreading, hfails, Bool.not_true, Bool.false_eq_true, if_false, if_true] at hexec
  obtain ⟨hframe, -, hself⟩ := modQueue_outcome s q fun x => { x with reading := false, stat := x.stat ||| (1#64 <<< 42) }
  exact ⟨_, hexec, hframe, hself⟩

/-- The reject reason of the launch that a queue's record becomes. -/
theorem reject_headAdvanced (s : State) (q e : Nat) (r : Record) :
    ((s.headAdvanced q).acceptedLaunch r ((s.headAdvanced q).queueSource q e)).reject =
      s.rejectReason r ((s.queue q).cfg.extractLsb' 40 8).toNat
        ((s.pkgR (0x400 + ((s.queue q).cfg.extractLsb' 0 6).toNat)).extractLsb' 8 4).toNat ((s.queue q).grp.extractLsb' 16 16).toNat := by
  unfold State.queueSource
  rw [queue_headAdvanced]
  exact (rejectReason_home (s.headAdvanced q) r _ _ _).symm.trans (rejectReason_home s r _ _ _)

theorem queueRecordArrive_valid {s : State} {q e : Nat} {r : Record} (hreading : (s.queue q).reading = true)
    (hclean : s.poisonIn (s.queue q).recordAt 256 = none) (hrec : r = recordOf (wordsOf 32 (s.readBytes (s.queue q).recordAt 256)))
    (he : s.freeHostEntry = some e)
    (hreason : s.rejectReason r ((s.queue q).cfg.extractLsb' 40 8).toNat
        ((s.pkgR (0x400 + ((s.queue q).cfg.extractLsb' 0 6).toNat)).extractLsb' 8 4).toNat ((s.queue q).grp.extractLsb' 16 16).toNat = 0) :
    ∃ t l, exec (.queueRecordArrive q false) s = .next t ∧ (t.queue q).head = (s.queue q).head + 1 ∧ (t.queue q).reading = false ∧
        t.launch? s.nextLaunch = some l ∧ l.record = r ∧ l.host = true ∧ l.entry = e ∧ l.queue = q ∧ l.started = true ∧
        l.tenant = ((s.pkgR (0x400 + ((s.queue q).cfg.extractLsb' 0 6).toNat)).extractLsb' 8 4).toNat ∧
        l.asid = ((s.queue q).cfg.extractLsb' 40 8).toNat ∧ l.priv = (s.queue q).cfg.getLsbD 6 ∧
        l.prio = min r.priority ((s.queue q).cfg.extractLsb' 16 8).toNat ∧ t.nextLaunch = s.nextLaunch + 1 := by
  obtain ⟨l, hl, hfixed, hqueues, hnext⟩ := acceptHost_valid (s := s.headAdvanced q) (e := e) he
    ((reject_headAdvanced s q e r).trans hreason)
  have hqueue := (congrArg (spGet noWorkQueue · q) hqueues).trans (queue_headAdvanced s q)
  have hfield : ∀ {α : Type} (f : Launch → α), (∀ l, f l = f l.fixed) →
      f l = f ((s.headAdvanced q).acceptedLaunch r ((s.headAdvanced q).queueSource q e)) := fun f hf => by
    rw [hf, hfixed, ← hf]
  have hsource : (s.headAdvanced q).queueSource q e = { s.queueSource q e with gen := ((s.headAdvanced q).queueSource q e).gen } := by
    unfold State.queueSource
    rw [queue_headAdvanced]
    rfl
  refine ⟨_, l, (queueRecordArrive_exec hreading hclean).trans (by rw [← hrec]), congrArg Queue.head hqueue,
    congrArg Queue.reading hqueue, hl, (hfield Launch.record fun _ => rfl), (hfield Launch.host fun _ => rfl),
    (hfield Launch.entry fun _ => rfl), (hfield Launch.queue fun _ => rfl), (hfield Launch.started fun _ => rfl),
    (hfield Launch.tenant fun _ => rfl).trans ?_, (hfield Launch.asid fun _ => rfl).trans ?_,
    (hfield Launch.priv fun _ => rfl).trans ?_, (hfield Launch.prio fun _ => rfl).trans ?_, hnext⟩
  all_goals rw [hsource]; rfl

theorem queueRecordArrive_rejected {s : State} {q e : Nat} {r : Record} (hreading : (s.queue q).reading = true)
    (hclean : s.poisonIn (s.queue q).recordAt 256 = none) (hrec : r = recordOf (wordsOf 32 (s.readBytes (s.queue q).recordAt 256)))
    (he : s.freeHostEntry = some e)
    (hreason : s.rejectReason r ((s.queue q).cfg.extractLsb' 40 8).toNat
        ((s.pkgR (0x400 + ((s.queue q).cfg.extractLsb' 0 6).toNat)).extractLsb' 8 4).toNat ((s.queue q).grp.extractLsb' 16 16).toNat ≠ 0) :
    ∃ t, exec (.queueRecordArrive q false) s = .next t ∧ (t.queue q).head = (s.queue q).head + 1 ∧ (t.queue q).reading = false ∧
      t.nextLaunch = s.nextLaunch + 1 ∧ t.blocks = s.blocks := by
  obtain ⟨hqueues, hnext, hblocks⟩ := acceptHost_rejected (s := s.headAdvanced q) (e := e) (q := q) (r := r) he
    (by rw [reject_headAdvanced]; exact hreason)
  have hqueue : { (((s.headAdvanced q).acceptHost q r).queue q) with stat := 0 } =
      { (s.queue q) with reading := false, head := (s.queue q).head + 1, prio := (s.queue q).cap, since := s.clock, stat := 0 } :=
    (hqueues q).trans (by rw [queue_headAdvanced])
  have hhead := congrArg Queue.head hqueue
  have hread := congrArg Queue.reading hqueue
  dsimp only at hhead hread
  have hexec := queueRecordArrive_exec hreading hclean
  rw [← hrec] at hexec
  exact ⟨_, hexec, hhead, hread, hnext, hblocks⟩

/-! ### Completion and tails (01 R41, 08 R225, 17 R318) -/

theorem launchComplete_exec {s : State} {n : Nat} {l : Launch} (hl : s.launch? n = some l) (hdone : l.done = true) :
    exec (.launchComplete n) s = .next (s.completeLaunch n) := by
  change execLaunchComplete n s = _
  unfold execLaunchComplete
  simp only [hl, hdone, if_true]

/-- A tail whose launch is complete, its entry freed. -/
def State.tailFreed (s : State) (n : Nat) (l : Launch) : State :=
  (s.freeDevEntry l.die l.entry).modLaunch n fun l => { l with started := true, entry := 4096 }

theorem tailStart_exec {s : State} {n p i : Nat} {l : Launch} (hl : s.launch? n = some l) (htail : l.isTail = true)
    (hstarted : l.started = false) (hparent : l.parent = some (p, i)) (hcomplete : ∀ x, s.launch? p = some x → x.complete = true) :
    exec (.tailStart n) s = .next (if l.reject ≠ 0 then (s.tailFreed n l).completeLaunch n else (s.tailFreed n l).sendToDies n) := by
  rw [show exec (.tailStart n) s = .next (s.startTail n) from rfl]
  unfold State.startTail
  cases hp : s.launch? p with
  | none =>
    simp only [hl, htail, hstarted, hparent, hp, Bool.not_true, Bool.or_self, Bool.false_eq_true, if_false]
    rfl
  | some x =>
    simp only [hl, htail, hstarted, hparent, hp, hcomplete x hp, Bool.not_true, Bool.or_self, Bool.false_eq_true, if_false]
    rfl

theorem freeDevEntry_frame (s : State) (die entry : Nat) :
    s.freeDevEntry die entry = { s with devGen := (s.freeDevEntry die entry).devGen } := by
  unfold State.freeDevEntry
  split <;> rfl

theorem devGen_freeDevEntry (s : State) (die : Nat) {entry : Nat} (h : entry < 4096) :
    spGet 0 (s.freeDevEntry die entry).devGen (devKey die entry) = spGet 0 s.devGen (devKey die entry) + 1 := by
  unfold State.freeDevEntry
  rw [if_pos h]
  exact spGet_spSet_same _ _ _ _

theorem launch?_tailFreed {s : State} {n : Nat} {l : Launch} (hl : s.launch? n = some l) :
    (s.tailFreed n l).launch? n = some { l with started := true, entry := 4096 } :=
  launch?_modLaunch (by unfold State.launch?; rw [freeDevEntry_frame]; exact hl) _

theorem home_tailFreed (s : State) (n : Nat) (l : Launch) : (s.tailFreed n l).home = s.home := by
  unfold State.tailFreed
  rw [freeDevEntry_frame]
  rfl

theorem tailStart_starts {s : State} {n p i : Nat} {l : Launch} (hl : s.launch? n = some l) (htail : l.isTail = true)
    (hstarted : l.started = false) (hparent : l.parent = some (p, i)) (hcomplete : ∀ x, s.launch? p = some x → x.complete = true)
    (hreject : l.reject = 0) (hentry : l.entry < 4096) :
    ∃ t l', exec (.tailStart n) s = .next t ∧ t.launch? n = some l' ∧ l'.started = true ∧ l'.entry = 4096 ∧ l'.record = l.record ∧
      spGet 0 t.devGen (devKey l.die l.entry) = spGet 0 s.devGen (devKey l.die l.entry) + 1 ∧ t.mem = s.mem := by
  have hway := onItsWay_sendToDies n (s.tailFreed n l)
  obtain ⟨l', hl', hfixed⟩ := hway.launch? (launch?_tailFreed hl)
  refine ⟨_, l', (tailStart_exec hl htail hstarted hparent hcomplete).trans (by rw [if_neg (not_not_intro hreject)]), hl',
    (congrArg Launch.started hfixed :), (congrArg Launch.entry hfixed :), (congrArg Launch.record hfixed :), ?_, ?_⟩
  · rw [hway.1]; exact devGen_freeDevEntry s l.die hentry
  · rw [hway.1]; exact (mem_of_home (home_tailFreed s n l) :)

theorem tailStart_rejected {s : State} {n p i : Nat} {l : Launch} (hl : s.launch? n = some l) (htail : l.isTail = true)
    (hstarted : l.started = false) (hparent : l.parent = some (p, i)) (hcomplete : ∀ x, s.launch? p = some x → x.complete = true)
    (hreject : l.reject ≠ 0) (hheld : s.recordHeld l = false) :
    ∃ t, exec (.tailStart n) s = .next t ∧ t.launch? n = none ∧ t.mem = (s.writeCompletion l).mem ∧ t.blocks = s.blocks := by
  have hheld' : (s.tailFreed n l).recordHeld { l with started := true, entry := 4096 } = false := by
    rw [← recordHeld_home, home_tailFreed, recordHeld_home]; exact hheld
  have hdone := completed_completeLaunch (launch?_tailFreed hl) hheld'
  refine ⟨_, (tailStart_exec hl htail hstarted hparent hcomplete).trans (by rw [if_pos hreject]), hdone.dropped (.inr (.inl htail)), ?_, ?_⟩
  · rw [hdone.mem]
    exact mem_of_home (by rw [writeCompletion_home, home_tailFreed, writeCompletion_home]; rfl)
  · refine hdone.blocks.trans ?_
    unfold State.tailFreed
    rw [freeDevEntry_frame]
    rfl

/-! ### Writes over PCIe (04 R101) -/

theorem pcieMemoryWrite_exec (s : State) {addr : Nat} {bytes : List Byte} (h : addr + bytes.length ≤ stackBytes) :
    exec (.pcieMemoryWrite addr bytes) s = .next (s.writeHome addr bytes) := by
  rw [show exec (.pcieMemoryWrite addr bytes) s = .next (s.pcieWrite addr bytes) from rfl]
  unfold State.pcieWrite
  rw [if_neg (Nat.not_lt.mpr h)]

theorem heldIn_iff (s : State) (pa n : Nat) : s.heldIn pa n = true ↔ ∃ i < (pa % 64 + n + 63) / 64, s.sieveHeld (pa / 64 + i) = true := by
  unfold State.heldIn
  rw [List.any_eq_true]
  simp only [List.mem_range]

/-- Settles O51: each step of a queue, a launch or PCIe by the lemma that says what it does. -/
theorem queueSteps : Obligations.QueueSteps := by
  unfold Obligations.QueueSteps
  refine ⟨fun s q wide v hq => ?_, fun s q v hq => ⟨qstatWrite_outcome s q v hq, qcfgWrite_outcome s q v hq,
      fun grp => queueRegisterWrite_outcome s q grp v hq, queueAging_outcome⟩, fun s q hq hr => queueRecordRead_outcome hq hr,
    fun s q hreading => ⟨fun err => queueRecordArrive_fails hreading, fun e r hclean hrec he hreason =>
        queueRecordArrive_valid hreading hclean hrec he hreason, fun e r hclean hrec he hreason =>
        queueRecordArrive_rejected hreading hclean hrec he hreason⟩,
    fun s n l hl => ⟨fun die => launchArriveDie_outcome hl, fun hdone hheld hhost => ?_, fun hdone hheld _ hends => ?_,
      fun hdone hheld hhost htail hgone => ?_, fun p i htail hstarted hparent hcomplete hreject hentry =>
        tailStart_starts hl htail hstarted hparent hcomplete hreject hentry,
      fun p i htail hstarted _ hparent hcomplete hreject hheld => tailStart_rejected hl htail hstarted hparent hcomplete hreject hheld⟩,
    fun s addr bytes hin hfree => ?_, fun s addr i bytes hin hi hheld => ?_⟩
  · simpa only [takes_iff] using doorbell_outcome s q wide v hq
  · have hc := completed_completeLaunch hl hheld
    exact ⟨_, launchComplete_exec hl hdone, hc.dropped (.inl hhost), hc.mem, hc.hostGen hhost, hc.blocks⟩
  · have hc := completed_completeLaunch hl hheld
    exact ⟨_, launchComplete_exec hl hdone, hc.dropped (.inr hends), hc.mem, hc.blocks⟩
  · have hc := completed_completeLaunch hl hheld
    exact ⟨_, launchComplete_exec hl hdone, hc.kept hhost htail hgone, hc.mem, hc.blocks⟩
  · have hnot : ¬ s.heldIn addr bytes.length = true := by
      rw [heldIn_iff]
      rintro ⟨i, hi, hheld⟩
      rw [hfree i hi] at hheld
      cases hheld
    have hframe := memoryOnly_writeBytes s addr bytes
    unfold MemoryOnly at hframe
    refine ⟨_, (pcieMemoryWrite_exec s hin).trans (by unfold State.writeHome; rw [if_neg hnot]), rfl, ?_, ?_, ?_⟩ <;> rw [hframe]
  · rw [pcieMemoryWrite_exec s hin]
    unfold State.writeHome
    rw [if_pos ((heldIn_iff s addr bytes.length).mpr ⟨i, hi, hheld⟩)]
    rfl

end Sys2Proof.Machine
end

section
/-! A dispatcher cycle that places a candidate: the next index of a group, and a message (20 R347, R354). -/

namespace Sys2Proof.Machine

open Sys2Proof

/-! ### A cycle that places its first candidate (20 R347, R348) -/

theorem countMiss_early {s : State} {c : Waiter} (h : s.dclk ≤ c.deadline) : s.countMiss c = s := by
  unfold State.countMiss
  rw [if_pos h]

/-- Without evictions and without a core being cleared, a cycle places the best candidate. -/
theorem blockDispatch_exec {s : State} {die core : Nat} {c : Waiter} (hevac : s.evacuate die = s) (hworks : s.dieWorks die = true)
    (hroom : spFind s.room die = none) (hhungry : s.hungry die = none)
    (hbest : s.bestCand die (s.clearedBy die) (fun _ => false) = some (c, core)) :
    exec (.blockDispatch die) s = .next (s.place die (c, core)) := by
  rw [show exec (.blockDispatch die) s = .next (s.dispatch die) from rfl]
  unfold State.dispatch
  simp only [hevac, hworks, hroom, Bool.not_true, Bool.false_eq_true, if_false]
  unfold State.dispatchFree State.placeBest
  simp only [hhungry, hbest]

/-! ### A new block (01 R18, R28) -/

theorem spFind_map_range {α : Type} (f : Nat → α) (n k : Nat) :
    spFind ((List.range n).map fun w => (w, f w)) k = if k < n then some (f k) else none := by
  induction n with
  | zero => rfl
  | succ n ih =>
    have happend : ∀ (m : Sparse α) (e : Nat × α), spFind (m ++ [e]) k = ((spFind m k).or (if e.1 = k then some e.2 else none)) := by
      intro m e
      induction m with
      | nil => rfl
      | cons d t ih => simp only [List.cons_append, spFind]; split <;> simp_all
    rw [List.range_succ, List.map_append, List.map_singleton, happend, ih]
    by_cases h : k < n
    · simp [h, Nat.lt_succ_of_lt h]
    · by_cases hk : n = k
      · subst hk; simp
      · simp [h, hk, show ¬ k < n + 1 by omega]

theorem block?_addBlock (s : State) (b : Block) : (s.addBlock b).block? ⟨b.core, b.slot, 0⟩ = some b := by
  unfold State.block?
  exact (spFind_spPut _ _ _ _).trans (if_pos rfl)

theorem placeNew_eq {s : State} {core slot n : Nat} (hslot : s.freeSlot core = some slot) (hj : s.freeJournal (dieOf core) = some n)
    (rows : Nat) (make : Nat → Nat → List (Nat × Nat) → Journal → Block) :
    s.placeNew core rows make = ({ (s.takeJournal (dieOf core) n) with nextUid := s.nextUid + 1 }).addBlock
      (make s.nextUid slot (s.placeRows core rows) ⟨n, dieOf core, 0, [], []⟩) := by
  unfold State.placeNew
  simp only [hslot, hj]

/-- A wave at its start: every lane at one word, s0 as given, all else zero. -/
theorem startWave_fields (pc s0 : W64) (demoted : Bool) :
    (∀ j, j < 32 → (startWave pc s0 demoted).pcAt j = pc) ∧ (startWave pc s0 demoted).sget 0 = s0 ∧
      (∀ j, j ≠ 0 → (startWave pc s0 demoted).sget j = 0) ∧ (startWave pc s0 demoted).exited = 0 ∧
      ∀ r j, (startWave pc s0 demoted).vget r j = 0 := by
  refine ⟨fun j hj => spGet_spOf32 0 (fun _ => pc) hj, spGet_spSet_same _ _ _ _, fun j hj => ?_, rfl, fun r j => rfl⟩
  exact spGet_spSet_other _ _ _ (Ne.symm hj)

theorem dispatch_fresh {s : State} {die core slot n : Nat} {c : Waiter} {l : Launch} {g : Group} {q : Nat × Nat × Nat × Nat}
    (hexec : exec (.blockDispatch die) s = .next (s.place die (c, core))) (hkind : c.kind = .fresh) (hl : s.launch? c.launch = some l)
    (hg : l.groups[c.key % 65536]? = some g) (hq : g.nextRange die = some q) (hslot : s.freeSlot core = some slot)
    (hj : s.freeJournal (dieOf core) = some n) (hearly : s.dclk ≤ c.deadline) :
    ∃ t b, exec (.blockDispatch die) s = .next t ∧ t.block? ⟨core, slot, 0⟩ = some b ∧ b.uid = s.nextUid ∧ b.launch = c.launch ∧
      b.linear = q.2.1 ∧ b.nwaves = l.record.waves ∧ b.budget = l.record.budget ∧ b.journal = ⟨n, dieOf core, 0, [], []⟩ ∧
      (∀ k, k < l.record.waves → ∃ w, spFind b.waves k = some w ∧ (∀ j, j < 32 → w.pcAt j = l.record.entry) ∧
        w.sget 0 = l.record.arg ∧ (∀ j, j ≠ 0 → w.sget j = 0) ∧ w.exited = 0 ∧ ∀ r j, w.vget r j = 0) ∧
      t.nextUid = s.nextUid + 1 ∧ t.mem = s.mem := by
  unfold State.place at hexec
  simp only [countMiss_early hearly, hkind] at hexec
  unfold State.placeFresh at hexec
  simp only [hl, hg, hq, placeNew_eq hslot hj] at hexec
  refine ⟨_, _, hexec, block?_addBlock _ _, rfl, rfl, rfl, rfl, rfl, rfl, fun k hk => ⟨_, ?_, startWave_fields _ _ l.demoted⟩, rfl, rfl⟩
  exact (spFind_map_range _ _ _).trans (if_pos hk)

/-! ### A message (20 R354) -/

theorem freeSlot_map (s : State) (core : Nat) (g : Block → Block) :
    ({ s with blocks := s.blocks.map fun e => (e.1, g e.2) } : State).freeSlot core = s.freeSlot core := by
  unfold State.freeSlot
  simp only [spFind_map s.blocks (fun e => (e.1, g e.2)) (fun _ => rfl), Option.isNone_map]

/-- The state in which a core's head message has been taken and its sender's flag has counted down. -/
def State.messageTaken (s : State) (core : Nat) (m : Message) (rest : List Message) : State :=
  ({ s with msgq := spSet [] s.msgq core rest } : State).modAny m.uid fun b =>
    { b with waves := spMod b.waves m.sender.wave fun w => w.flagDown m.sig }

theorem messageTaken_frame (s : State) (core : Nat) (m : Message) (rest : List Message) : ∃ (g : Block → Block) (k : List SavedSlot),
    s.messageTaken core m rest = { s with msgq := spSet [] s.msgq core rest, blocks := s.blocks.map fun e => (e.1, g e.2), saved := k } := by
  refine ⟨fun b => if b.uid = m.uid then { b with waves := spMod b.waves m.sender.wave fun w => w.flagDown m.sig } else b,
    (s.messageTaken core m rest).saved, ?_⟩
  have hframe : s.messageTaken core m rest = { s with
      msgq := spSet [] s.msgq core rest, blocks := (s.messageTaken core m rest).blocks, saved := (s.messageTaken core m rest).saved } := rfl
  refine hframe.trans (congrArg (fun bs => { s with
    msgq := spSet [] s.msgq core rest, blocks := bs, saved := (s.messageTaken core m rest).saved }) ?_)
  refine List.map_congr_left fun e _ => ?_
  dsimp only
  split <;> rfl

theorem spawn_eq {s : State} {core : Nat} {m : Message} {rest : List Message} (hm : spGet [] s.msgq core = m :: rest) :
    s.spawn core = (s.messageTaken core m rest).placeNew core (messageNeed m).rows fun uid slot place j =>
      messageBlock m uid core slot place j (s.messageTaken core m rest).clock := by
  unfold State.spawn
  rw [hm]
  rfl

/-- The wave of a message's block: behind the handler's header, s1 and v0 as the sender gave them (07 R211). -/
theorem messageBlock_wave (m : Message) (uid core slot : Nat) (place : List (Nat × Nat)) (j : Journal) (clock : Nat) :
    ∃ w, spFind (messageBlock m uid core slot place j clock).waves 0 = some w ∧ (∀ j, j < 32 → w.pcAt j = m.handler + 8) ∧
      w.sget 1 = m.arg.zeroExtend 64 ∧ (∀ j, j < 32 → w.vget 0 j = m.payload.getD j 0) := by
  refine ⟨_, rfl, fun j hj => spGet_spOf32 0 (fun _ => m.handler + 8) hj, spGet_spSet_same _ _ _ _, fun j hj => ?_⟩
  change spGet (0 : W32) (spOf32 0 fun l => m.payload.getD l 0) (0 * 32 + j) = _
  rw [Nat.zero_mul, Nat.zero_add]
  exact spGet_spOf32 0 _ hj

theorem dispatch_message {s : State} {die core slot n : Nat} {c : Waiter} {m : Message} {rest : List Message}
    (hexec : exec (.blockDispatch die) s = .next (s.place die (c, core))) (hkind : c.kind = .message)
    (hm : spGet [] s.msgq core = m :: rest) (hslot : s.freeSlot core = some slot) (hj : s.freeJournal (dieOf core) = some n)
    (hearly : s.dclk ≤ c.deadline) :
    ∃ t b w, exec (.blockDispatch die) s = .next t ∧ t.block? ⟨core, slot, 0⟩ = some b ∧ b.uid = s.nextUid ∧ b.launch = m.launch ∧
      b.nwaves = 1 ∧ b.budget = m.budget ∧ b.sender = some (m.uid, m.launch) ∧ spFind b.waves 0 = some w ∧
      (∀ j, j < 32 → w.pcAt j = m.handler + 8) ∧ w.sget 1 = m.arg.zeroExtend 64 ∧ (∀ j, j < 32 → w.vget 0 j = m.payload.getD j 0) ∧
      spGet [] t.msgq core = rest ∧ t.mem = s.mem := by
  obtain ⟨g, k, htaken⟩ := messageTaken_frame s core m rest
  have hslot' : (s.messageTaken core m rest).freeSlot core = some slot := by
    rw [htaken]; exact (freeSlot_map s core g).trans hslot
  have hj' : (s.messageTaken core m rest).freeJournal (dieOf core) = some n := by rw [htaken]; exact hj
  unfold State.place at hexec
  simp only [countMiss_early hearly, hkind] at hexec
  rw [spawn_eq hm, placeNew_eq hslot' hj'] at hexec
  have htaken' : (s.messageTaken core m rest).nextUid = s.nextUid ∧ spGet [] (s.messageTaken core m rest).msgq core = rest ∧
      (s.messageTaken core m rest).mem = s.mem := by
    rw [htaken]; exact ⟨rfl, spGet_spSet_same _ _ _ _, rfl⟩
  obtain ⟨huid, hqueue, hmem⟩ := htaken'
  obtain ⟨w, hw, hfields⟩ := messageBlock_wave m (s.messageTaken core m rest).nextUid core slot
    ((s.messageTaken core m rest).placeRows core (messageNeed m).rows) ⟨n, dieOf core, 0, [], []⟩ (s.messageTaken core m rest).clock
  obtain ⟨hpc, hs1, hv0⟩ := hfields
  exact ⟨_, _, w, hexec, block?_addBlock _ _, huid, rfl, rfl, rfl, rfl, hw, hpc, hs1, hv0, hqueue, hmem⟩

end Sys2Proof.Machine
end

section
/-! What an exception leaves of its block (08 R232, R233, 01 R43): the rule that restores and expired slices share. -/

namespace Sys2Proof.Machine

open Sys2Proof

/-- A block to which exceptions have happened: it is the same block, and no cause of a wave of it is taken back. -/
structure BlockRaised (b b' : Block) : Prop where
  uid : b'.uid = b.uid
  retired : b'.retired = b.retired
  expired : b'.expired = b.expired
  causes : ∀ k w, spFind b.waves k = some w → ∃ w', spFind b'.waves k = some w' ∧ ∀ i, w.tcause.getLsbD i = true → w'.tcause.getLsbD i = true

theorem BlockRaised.of_waves {b b' : Block} (huid : b'.uid = b.uid) (hretired : b'.retired = b.retired) (hexpired : b'.expired = b.expired)
    (hwaves : b'.waves = b.waves) : BlockRaised b b' :=
  ⟨huid, hretired, hexpired, fun _ w hw => ⟨w, hwaves ▸ hw, fun _ h => h⟩⟩

theorem BlockRaised.refl (b : Block) : BlockRaised b b := .of_waves rfl rfl rfl rfl

theorem BlockRaised.trans {b c d : Block} (h : BlockRaised b c) (h' : BlockRaised c d) : BlockRaised b d := by
  refine ⟨h'.uid.trans h.uid, h'.retired.trans h.retired, h'.expired.trans h.expired, fun k w hw => ?_⟩
  obtain ⟨w₁, hw₁, hc₁⟩ := h.causes k w hw
  obtain ⟨w₂, hw₂, hc₂⟩ := h'.causes k w₁ hw₁
  exact ⟨w₂, hw₂, fun i hi => hc₂ i (hc₁ i hi)⟩

/-- A wave of the block has changed and kept its causes. -/
theorem blockRaised_modWave (b : Block) (k : Nat) {f : Wave → Wave} (hf : ∀ w i, w.tcause.getLsbD i = true → (f w).tcause.getLsbD i = true) :
    BlockRaised b { b with waves := spMod b.waves k f } := by
  refine ⟨rfl, rfl, rfl, fun j w hw => ?_⟩
  rw [spFind_spMod]
  split
  · exact ⟨f w, by rw [hw]; rfl, hf w⟩
  · exact ⟨w, hw, fun _ h => h⟩

theorem blockRaised_pauseSlice (b : Block) (clock : Nat) : BlockRaised b (b.pauseSlice clock) := by
  unfold Block.pauseSlice
  split
  · exact .refl b
  · exact .of_waves rfl rfl rfl rfl

theorem blockRaised_faultEnd (b : Block) (cause : Nat) : BlockRaised b (b.faultEnd cause) := by
  refine ⟨rfl, rfl, rfl, fun k w hw => ⟨w.faultEnd, ?_, fun _ h => h⟩⟩
  exact (spFind_map b.waves (fun e => (e.1, e.2.faultEnd)) (fun _ => rfl) k).trans (by rw [hw]; rfl)

/-- Exceptions have happened to the block with a key: memory and the saved blocks are as before. -/
structure Raised (key : Nat) (s t : State) : Prop where
  mem : t.mem = s.mem
  saved : t.saved = s.saved
  block : ∀ b, spFind s.blocks key = some b → ∃ b', spFind t.blocks key = some b' ∧ BlockRaised b b'

theorem Raised.of_blocks {key : Nat} {s t : State} (hmem : t.mem = s.mem) (hsaved : t.saved = s.saved) (hblocks : t.blocks = s.blocks) :
    Raised key s t :=
  ⟨hmem, hsaved, fun b hb => ⟨b, hblocks ▸ hb, .refl b⟩⟩

theorem Raised.refl (key : Nat) (s : State) : Raised key s s := .of_blocks rfl rfl rfl

theorem Raised.trans {key : Nat} {s t u : State} (h : Raised key s t) (h' : Raised key t u) : Raised key s u := by
  refine ⟨h'.mem.trans h.mem, h'.saved.trans h.saved, fun b hb => ?_⟩
  obtain ⟨b₁, hb₁, hr₁⟩ := h.block b hb
  obtain ⟨b₂, hb₂, hr₂⟩ := h'.block b₁ hb₁
  exact ⟨b₂, hb₂, hr₁.trans hr₂⟩

theorem raised_modBlock (s : State) (id : WaveId) {f : Block → Block} (hf : ∀ b, BlockRaised b (f b)) :
    Raised (wkey id) s (s.modBlock id f) :=
  ⟨rfl, rfl, fun b hb => ⟨f b, (spFind_spMod _ _ _ _).trans (by rw [if_pos rfl, hb]; rfl), hf b⟩⟩

theorem raised_modWave (s : State) (id : WaveId) {f : Wave → Wave} (hf : ∀ w i, w.tcause.getLsbD i = true → (f w).tcause.getLsbD i = true) :
    Raised (wkey id) s (s.modWave id f) :=
  raised_modBlock s id fun b => blockRaised_modWave b id.wave hf

theorem raised_setCauses (s : State) (id : WaveId) (bits : W64) : Raised (wkey id) s (s.setCauses id bits) :=
  raised_modWave s id fun w i h => by rw [BitVec.getLsbD_or, h, Bool.true_or]

theorem raised_faultBlock (s : State) (id : WaveId) (cause : Nat) : Raised (wkey id) s (s.faultBlock id cause) := by
  cases hb : s.block? id with
  | none =>
    unfold State.faultBlock
    rw [hb]
    exact .refl _ s
  | some b =>
    obtain ⟨ls, he⟩ := faultBlock_eq hb cause
    rw [he]
    exact (raised_modBlock s id fun b => blockRaised_faultEnd b cause).trans (.of_blocks rfl rfl rfl)

theorem dropForce_frame (s : State) (w : Wave) : ∃ ls, s.dropForce w = { s with locks := ls } := foldl_dropForce s [(0, w)]

theorem raised_enterHandler (s : State) (id : WaveId) (entry : W64) (r : CauseRec) : Raised (wkey id) s (s.enterHandler id entry r) := by
  obtain ⟨ls, hl⟩ := dropForce_frame s (s.wave id)
  have hlocks : Raised (wkey id) s (s.dropForce (s.wave id)) := by rw [hl]; exact .of_blocks rfl rfl rfl
  unfold State.enterHandler
  refine (hlocks.trans ((raised_modBlock _ id fun b => blockRaised_pauseSlice b _).trans (raised_modWave _ id fun w i h => ?_))).trans
    (.of_blocks rfl rfl rfl)
  exact h

theorem raised_deliver (s : State) (id : WaveId) (r : CauseRec) : Raised (wkey id) s (s.deliver id r) := by
  have hentry : ∀ entry, Raised (wkey id) s (if entry = 0 then s.faultBlock id (lowBit (s.wave id).tcause) else s.enterHandler id entry r) :=
    fun entry => by
      split
      · exact raised_faultBlock s id _
      · exact raised_enterHandler s id entry r
  unfold State.deliver
  split
  · exact .refl _ s
  · exact hentry _

theorem raised_deliverIn (s : State) (id : WaveId) (r : CauseRec) : Raised (wkey id) s (s.deliverIn id r) := by
  unfold State.deliverIn
  dsimp only
  split
  · split
    · exact raised_deliver s id _
    · exact raised_deliver s id r
  · exact raised_deliver s id r

/-- Once its bits are set, a cause is recorded, delivered, or counted at its block (08 R237). -/
theorem raised_raiseLater {s : State} {id : WaveId} {b : Block} (hb : s.block? id = some b) (r : CauseRec) :
    Raised (wkey id) (s.setCauses id (causeBit r.cause ||| r.also)) (s.raiseLater id r) := by
  unfold State.raiseLater
  rw [hb]
  dsimp only
  split
  · exact raised_modBlock _ id fun b => .of_waves rfl rfl rfl rfl
  · split
    · exact raised_modWave _ id fun w i h => h
    · exact raised_deliverIn _ id r

/-- A later cause changes nothing of its block but waves, and takes no cause back. -/
theorem raised_of_raiseLater (s : State) (id : WaveId) (r : CauseRec) : Raised (wkey id) s (s.raiseLater id r) := by
  cases hb : s.block? id with
  | none =>
    unfold State.raiseLater
    rw [hb]
    exact .refl _ s
  | some b => exact (raised_setCauses s id _).trans (raised_raiseLater hb r)

end Sys2Proof.Machine
end

section
/-! A saved block that is placed again (20 R347, 21 R368), the slices of a block (08 R228, R230), drains and saves (21 R360-R363). -/

namespace Sys2Proof.Machine

open Sys2Proof

/-! ### A saved block (21 R368) -/

theorem kept_of_slotContext {s : State} {k : SavedSlot} {a : Accepted} (h : s.slotContext k = some a) : a.kept = some k := by
  unfold State.slotContext State.acceptContext at h
  split at h
  · cases h
  · split at h
    · cases h
    · split at h
      · cases h
      · dsimp only at h
        split at h
        · cases h
        · split at h
          · cases h; rfl
          · cases h

theorem journalFor_kept {s : State} {a : Accepted} {k : SavedSlot} (h : a.kept = some k) (core : Nat) :
    (s.journalFor a core).die = dieOf core := by
  unfold State.journalFor
  rw [h]
  dsimp only
  split
  · assumption
  · rfl

theorem memoryOnly_copyJournal (s : State) (old new : Journal) : MemoryOnly s (s.copyJournal old new) :=
  rel_foldl .refl .trans (fun s _ => (memoryOnly_writeBytes s _ _).trans (memoryOnly_writeBytes _ _ _)) _ s

/-- The state in which a saved block has been taken, with its journal on the die it goes to (04 R94). -/
def State.savedTaken (s : State) (k : SavedSlot) (j : Journal) : State :=
  let s := { s with saved := s.saved.filter fun c => c.block.uid != k.block.uid }
  if k.block.journal.die = j.die then s
  else ((s.copyJournal k.block.journal j).giveJournal k.block.journal).takeJournal j.die j.num

theorem saved_savedTaken (s : State) (k : SavedSlot) (j : Journal) :
    (s.savedTaken k j).saved = s.saved.filter fun c => c.block.uid != k.block.uid := by
  unfold State.savedTaken
  dsimp only
  split
  · rfl
  · have h := memoryOnly_copyJournal { s with saved := s.saved.filter fun c => c.block.uid != k.block.uid } k.block.journal j
    exact congrArg State.saved h

theorem mem_savedTaken (s : State) {k : SavedSlot} {j : Journal} (h : k.block.journal.die = j.die) : (s.savedTaken k j).mem = s.mem := by
  unfold State.savedTaken
  dsimp only
  rw [if_pos h]

/-- The state in which an accepted context's block stands in its slot, before the faults that came during its save are delivered. -/
def State.restored (s : State) (a : Accepted) (k : SavedSlot) (core slot : Nat) : State :=
  let j := s.journalFor a core
  let b := s.blockFrom a core slot (s.placeRows core (getNat a.bytes 8 4)) j
  let t := (s.savedTaken k j).addBlock b
  { t with ops := t.ops.map fun o => if o.2.uid = b.uid then (o.1, { o.2 with w := ⟨core, slot, o.2.w.wave⟩ }) else o }

theorem restore_eq {s : State} {a : Accepted} {k : SavedSlot} {core slot : Nat} (hkept : a.kept = some k) (hslot : s.freeSlot core = some slot) :
    ∃ ws : List Nat, (s.restore a core).1 = ws.foldl (fun s w => s.deliverHeld ⟨core, slot, w⟩) (s.restored a k core slot) := by
  unfold State.restore
  simp only [hslot, hkept]
  exact ⟨_, rfl⟩

theorem block_restored (s : State) {a : Accepted} {k : SavedSlot} (hkept : a.kept = some k) (core slot : Nat) :
    ∃ b, spFind (s.restored a k core slot).blocks (blockKey core slot) = some b ∧ b.uid = k.block.uid ∧ b.retired = getNat a.bytes 0x14 4 := by
  refine ⟨_, (spFind_spPut _ _ _ _).trans (if_pos rfl), ?_, rfl⟩
  unfold State.blockFrom
  rw [hkept]

theorem raised_deliverHeld (s : State) (id : WaveId) : Raised (wkey id) s (s.deliverHeld id) := by
  unfold State.deliverHeld
  split
  · exact .refl _ s
  · exact (raised_modWave s id (f := fun w => { w with record := none }) fun w i h => h).trans (raised_of_raiseLater _ id _)

theorem dispatch_saved {s : State} {die core slot : Nat} {c : Waiter} {k : SavedSlot} {a : Accepted}
    (hexec : exec (.blockDispatch die) s = .next (s.place die (c, core))) (hkind : c.kind = .saved)
    (hfind : s.saved.find? (fun k => k.block.uid == c.key) = some k) (hcontext : s.slotContext k = some a)
    (hslot : s.freeSlot core = some slot) (hearly : s.dclk ≤ c.deadline) :
    ∃ t b, exec (.blockDispatch die) s = .next t ∧ t.block? ⟨core, slot, 0⟩ = some b ∧ b.uid = k.block.uid ∧
      b.retired = getNat a.bytes 0x14 4 ∧ (∀ x ∈ t.saved, x.block.uid ≠ k.block.uid) ∧
      (k.block.journal.die = dieOf core → t.mem = s.mem) := by
  have hkept := kept_of_slotContext hcontext
  obtain ⟨ws, hrestore⟩ := restore_eq hkept hslot
  have hraised := rel_foldl (R := Raised (blockKey core slot)) (.refl _) .trans (g := fun s w => s.deliverHeld ⟨core, slot, w⟩)
    (fun s w => raised_deliverHeld s ⟨core, slot, w⟩) ws (s.restored a k core slot)
  obtain ⟨b, hb, huid, hretired⟩ := block_restored s hkept core slot
  obtain ⟨b', hb', hsame⟩ := hraised.block b hb
  unfold State.place at hexec
  simp only [countMiss_early hearly, hkind, hfind, hcontext, hrestore] at hexec
  refine ⟨_, b', hexec, hb', hsame.uid.trans huid, hsame.retired.trans hretired, fun x hx => ?_, fun hdie => ?_⟩
  · have hx' : x ∈ (s.savedTaken k (s.journalFor a core)).saved := hraised.saved ▸ hx
    rw [saved_savedTaken] at hx'
    exact bne_iff_ne.mp (List.mem_filter.mp hx').2
  · exact hraised.mem.trans (mem_savedTaken s (hdie.trans (journalFor_kept hkept core).symm))

/-! ### Slices (08 R228, R230, 20 R352) -/

/-- BUDGET stands in wave `k` of the block with a key. -/
def BudgetSet (key k : Nat) (s : State) : Prop :=
  ∃ b w, spFind s.blocks key = some b ∧ spFind b.waves k = some w ∧ w.tcause.getLsbD 19 = true

theorem BudgetSet.raised {key k : Nat} {s t : State} (h : BudgetSet key k s) (hr : Raised key s t) : BudgetSet key k t := by
  obtain ⟨b, w, hb, hw, hc⟩ := h
  obtain ⟨b', hb', hraised⟩ := hr.block b hb
  obtain ⟨w', hw', hc'⟩ := hraised.causes k w hw
  exact ⟨b', w', hb', hw', hc' 19 hc⟩

/-- BUDGET raised in a wave. -/
def State.raiseBudget (s : State) (id : WaveId) : State := s.raiseLater id ((s.wave id).nextRec cBUDGET 0)

theorem budgetSet_setCauses {s : State} {core slot k : Nat} {b : Block} {w : Wave} (hb : spFind s.blocks (blockKey core slot) = some b)
    (hw : spFind b.waves k = some w) {bits : W64} (hbits : bits.getLsbD 19 = true) :
    BudgetSet (blockKey core slot) k (s.setCauses ⟨core, slot, k⟩ bits) := by
  have hblock := block?_modWave s ⟨core, slot, k⟩ ⟨core, slot, k⟩ fun w => { w with tcause := w.tcause ||| bits }
  rw [if_pos rfl, show s.block? ⟨core, slot, k⟩ = some b from hb] at hblock
  refine ⟨_, { w with tcause := w.tcause ||| bits }, hblock, ?_, ?_⟩
  · exact (spFind_spMod b.waves k k fun w => { w with tcause := w.tcause ||| bits }).trans (by rw [if_pos rfl, hw, Option.map_some])
  rw [BitVec.getLsbD_or, hbits, Bool.or_true]

theorem nextRec_bits (w : Wave) (cause : Nat) (addr : W64) :
    causeBit (w.nextRec cause addr).cause ||| (w.nextRec cause addr).also = causeBit cause := BitVec.or_zero

theorem budgetSet_raiseBudget {s : State} {core slot k : Nat} {b : Block} {w : Wave} (hb : spFind s.blocks (blockKey core slot) = some b)
    (hw : spFind b.waves k = some w) : BudgetSet (blockKey core slot) k (s.raiseBudget ⟨core, slot, k⟩) := by
  have hraised := raised_raiseLater (id := ⟨core, slot, k⟩) hb ((s.wave ⟨core, slot, k⟩).nextRec cBUDGET 0)
  rw [nextRec_bits] at hraised
  exact (budgetSet_setCauses hb hw (by decide)).raised hraised

theorem budgetSet_foldl {s : State} {core slot k : Nat} {b : Block} {w : Wave} {es : Sparse Wave} (hin : ∃ e ∈ es, e.1 = k)
    (hb : spFind s.blocks (blockKey core slot) = some b) (hw : spFind b.waves k = some w) :
    BudgetSet (blockKey core slot) k (es.foldl (fun s e => s.raiseBudget ⟨core, slot, e.1⟩) s) := by
  have hstep : ∀ (s : State) (e : Nat × Wave), Raised (blockKey core slot) s (s.raiseBudget ⟨core, slot, e.1⟩) := fun s e =>
    raised_of_raiseLater s ⟨core, slot, e.1⟩ _
  induction es generalizing s b w with
  | nil => simp at hin
  | cons e t ih =>
    rw [List.foldl_cons]
    by_cases he : e.1 = k
    · subst he
      exact (budgetSet_raiseBudget hb hw).raised (rel_foldl (.refl _) .trans hstep t _)
    · obtain ⟨b', hb', hraised⟩ := (hstep s e).block b hb
      obtain ⟨w', hw', -⟩ := hraised.causes k w hw
      exact ih (by simpa [he] using hin) hb' hw'

theorem expireSlice_eq (s : State) (b : Block) : s.expireSlice b =
    (b.waves.filter fun e => e.2.live != 0 && e.2.yieldSig.isNone).foldl (fun s e => s.raiseBudget ⟨b.core, b.slot, e.1⟩)
      (s.modBlock ⟨b.core, b.slot, 0⟩ fun b => { b with expired := true }) := rfl

theorem sliceExpire_outcome {s : State} {core slot : Nat} {b : Block} (hb : s.block? ⟨core, slot, 0⟩ = some b) (hcore : b.core = core)
    (hslot : b.slot = slot) (hdue : s.sliceDue b = true) :
    ∃ t b', exec (.sliceExpire core slot) s = .next t ∧ t.block? ⟨core, slot, 0⟩ = some b' ∧ b'.expired = true ∧ t.mem = s.mem ∧
      ∀ k w, spFind b.waves k = some w → w.live ≠ 0 → w.yieldSig = none → (t.wave ⟨core, slot, k⟩).tcause.getLsbD 19 = true := by
  have hexec : exec (.sliceExpire core slot) s = .next (s.expireSlice b) := by
    change execSliceExpire core slot s = _
    unfold execSliceExpire
    simp only [hb, hdue, if_true]
  rw [expireSlice_eq, hcore, hslot] at hexec
  have hmarked : spFind (s.modBlock ⟨core, slot, 0⟩ fun b => { b with expired := true }).blocks (blockKey core slot) =
      some { b with expired := true } :=
    (block?_modBlock s ⟨core, slot, 0⟩ ⟨core, slot, 0⟩ _).trans (by rw [if_pos rfl, hb]; rfl)
  have hraised := rel_foldl (R := Raised (blockKey core slot)) (.refl _) .trans
    (g := fun (s : State) (e : Nat × Wave) => s.raiseBudget ⟨core, slot, e.1⟩) (fun s e => raised_of_raiseLater s ⟨core, slot, e.1⟩ _) (b.waves.filter fun e => e.2.live != 0 && e.2.yieldSig.isNone)
    (s.modBlock ⟨core, slot, 0⟩ fun b => { b with expired := true })
  obtain ⟨b', hb', hsame⟩ := hraised.block _ hmarked
  refine ⟨_, b', hexec, hb', hsame.expired, hraised.mem, fun k w hw hlive hyield => ?_⟩
  obtain ⟨b₂, w₂, hb₂, hw₂, hc⟩ := budgetSet_foldl (es := b.waves.filter fun e => e.2.live != 0 && e.2.yieldSig.isNone)
    ⟨(k, w), List.mem_filter.mpr ⟨mem_of_spFind hw, by rw [hyield, Bool.and_eq_true]; exact ⟨bne_iff_ne.mpr hlive, rfl⟩⟩, rfl⟩ hmarked hw
  unfold State.wave State.wave?
  rw [show State.block? _ ⟨core, slot, k⟩ = some b₂ from hb₂]
  dsimp only
  rw [hw₂]
  exact hc

theorem block?_modBlock_self {s : State} {id u : WaveId} {b : Block} (hb : s.block? u = some b) (hid : wkey id = wkey u) (f : Block → Block) :
    (s.modBlock id f).block? u = some (f b) := by
  rw [block?_modBlock, if_pos hid, hb, Option.map_some]

theorem block?_nextSlice {s : State} {id : WaveId} {b : Block} (hb : s.block? id = some b) (hid : wkey id = blockKey b.core b.slot) (t : Nat) :
    (s.nextSlice b t).block? id =
      some { b with offered := none, sliceUsed := 0, sliceFrom := none, expired := false, deadline := s.sliceDeadline b t } :=
  block?_modBlock_self (id := ⟨b.core, b.slot, 0⟩) hb hid.symm _

/-! ### Actions on a victim, and the messages of a save (21 R359, R363) -/

theorem actionFor_resident (s : State) (b : Block) : s.actionFor b 2 false ≠ .kill := by
  unfold State.actionFor
  dsimp only
  rw [if_neg fun h => absurd h.1 (by decide), if_neg Bool.false_ne_true]
  split
  · decide
  · split
    · decide
    · split <;> decide

/-- What an action that does not kill makes of its block. -/
def Block.acted (clock : Nat) : Action → Block → Block
  | .drain, b => { b with draining := some clock }
  | .flush, b => { b with stopping := some false, draining := none }
  | .save, b => { b with stopping := some true, draining := none }
  | .kill, b => b

theorem act_eq (s : State) (b : Block) {a : Action} (ha : a ≠ .kill) : s.act b a = s.modBlock ⟨b.core, b.slot, 0⟩ (Block.acted s.clock a) := by
  cases a with
  | kill => exact absurd rfl ha
  | drain => rfl
  | flush => rfl
  | save => rfl

theorem acted_fields (clock : Nat) (a : Action) (b : Block) :
    (b.acted clock a).drained = b.drained ∧ (b.acted clock a).waves = b.waves ∧
      (a = .save → (b.acted clock a).stopping = some true ∧ (b.acted clock a).draining = none) ∧
      (a = .flush → (b.acted clock a).stopping = some false ∧ (b.acted clock a).draining = none) ∧
      (a = .drain → (b.acted clock a).stopping = b.stopping ∧ (b.acted clock a).draining = some clock) := by
  cases a <;> simp [Block.acted]

theorem foldl_fixed_of_mem {α β : Type} {g : α → β → α} {s : α} {l : List β} (h : ∀ e ∈ l, g s e = s) : l.foldl g s = s := by
  induction l with
  | nil => rfl
  | cons e t ih => rw [List.foldl_cons, h e (.head t), ih fun x hx => h x (.tail e hx)]

/-- A save whose operations have ended has no message left to send. -/
theorem sendHeld_ended {s : State} {core slot : Nat} {b : Block} (hb : s.block? ⟨core, slot, 0⟩ = some b)
    (hended : s.opsEnded b = true) : s.sendHeld core slot = s := by
  have hwaits : ∀ e ∈ b.waves, (match e.2.wait with
      | some (.messages _ _) => false
      | _ => true) = true := by
    unfold State.opsEnded at hended
    simp only [Bool.and_eq_true, List.all_eq_true] at hended
    exact hended.2
  unfold State.sendHeld
  rw [hb]
  dsimp only
  split
  · rfl
  · refine foldl_fixed_of_mem fun e he => ?_
    have hwait := hwaits e he
    split
    · rename_i hmessages; rw [hmessages] at hwait; cases hwait
    · rfl

/-! ### The end of a slice, drains and saves (20 R352, 21 R360-R363) -/

section
variable {s : State} {core slot : Nat} {b : Block} (hb : s.block? ⟨core, slot, 0⟩ = some b) (hcore : b.core = core) (hslot : b.slot = slot)
include hb hcore hslot

theorem sliceContinue_outcome {t0 : Nat} (hoff : b.offered = some t0) (hlate : t0 / 2 < s.dclk)
    (hroom : ∀ x ∈ s.cands (dieOf core), lexLess x.rank2 [1000 - b.prio, (s.sliceDeadline b t0).getD noDeadline] = true →
        (s.chosenCore x (s.clearedBy (dieOf core))).isNone = false) :
    ∃ t b', exec (.sliceContinue core slot) s = .next t ∧ t = { s with blocks := t.blocks } ∧ t.block? ⟨core, slot, 0⟩ = some b' ∧
      b'.offered = none ∧ b'.sliceUsed = 0 ∧ b'.sliceFrom = none ∧ b'.expired = false ∧ b'.waves = b.waves := by
  subst hcore hslot
  have hunbeaten : ((s.cands (dieOf b.core)).any fun c => lexLess c.rank2 [1000 - b.prio, (s.sliceDeadline b t0).getD noDeadline] &&
      (s.chosenCore c (s.clearedBy (dieOf b.core))).isNone) = false := by
    rw [List.any_eq_false]
    intro x hx hbeats
    obtain ⟨hless, hnone⟩ := Bool.and_eq_true_iff.mp hbeats
    rw [hroom x hx hless] at hnone
    cases hnone
  have hexec : exec (.sliceContinue b.core b.slot) s = .next (s.nextSlice b t0) := by
    change execSliceContinue b.core b.slot s = _
    unfold execSliceContinue State.continueSlice
    simp only [hb, hoff, if_neg (Nat.not_le.mpr hlate), hunbeaten, block?_nextSlice hb rfl, Bool.false_and, Bool.false_eq_true, if_false]
  exact ⟨_, _, hexec, rfl, block?_nextSlice hb rfl t0, rfl, rfl, rfl, rfl, rfl⟩

theorem drainTimeout_outcome {t0 : Nat} (hdrain : b.draining = some t0) (hlate : t0 + 1048576 ≤ s.clock) (hexempt : s.exempt b = false)
    (hstop : b.stopping = none) :
    ∃ t b', exec (.drainTimeout core slot) s = .next t ∧ t = { s with blocks := t.blocks } ∧ t.block? ⟨core, slot, 0⟩ = some b' ∧
      b'.drained = true ∧ b'.waves = b.waves ∧
      (s.actionFor b 2 false = .save → b'.stopping = some true ∧ b'.draining = none) ∧
      (s.actionFor b 2 false = .flush → b'.stopping = some false ∧ b'.draining = none) ∧
      (s.actionFor b 2 false = .drain → b'.stopping = none ∧ b'.draining = some s.clock) := by
  subst hcore hslot
  have hexec : exec (.drainTimeout b.core b.slot) s = .next ((s.modBlock ⟨b.core, b.slot, 0⟩ fun b => { b with drained := true }).modBlock
      ⟨b.core, b.slot, 0⟩ (Block.acted s.clock (s.actionFor b 2 false))) := by
    change execDrainTimeout b.core b.slot s = _
    unfold execDrainTimeout
    simp only [hb, hdrain, Nat.not_lt.mpr hlate, hexempt, hstop, decide_false, Bool.or_self, Option.isSome_none, Bool.false_eq_true, if_false,
      act_eq _ b (actionFor_resident s b)]
    rfl
  rw [modBlock_modBlock] at hexec
  obtain ⟨hdrained, hwaves, hsave, hflush, hagain⟩ := acted_fields s.clock (s.actionFor b 2 false) { b with drained := true }
  refine ⟨_, _, hexec, rfl, block?_modBlock_self hb rfl _, hdrained, hwaves, hsave, hflush,
    fun h => ⟨(hagain h).1.trans hstop, (hagain h).2⟩⟩

theorem blockSave_outcome (hdue : s.actionDue b true = true) :
    ∃ t b', exec (.blockSave core slot) s = .next t ∧ t = { s with blocks := t.blocks } ∧ t.block? ⟨core, slot, 0⟩ = some b' ∧
      b'.saving = true ∧ b'.waves = b.waves ∧ b'.tile = b.tile ∧ b'.common = b.common ∧
      (b.offered ≠ none → b'.offered = none ∧ b'.sliceUsed = 0 ∧ b'.expired = false) := by
  subst hcore hslot
  have hexec : exec (.blockSave b.core b.slot) s = .next (s.startSave b) := by
    change execBlockSave b.core b.slot s = _
    unfold execBlockSave
    simp only [hb, hdue, if_true]
  unfold State.startSave at hexec
  cases hoff : b.offered with
  | none =>
    simp only [hoff] at hexec
    refine ⟨_, _, hexec, rfl, block?_modBlock_self hb rfl _, rfl,
      pauseSlice_waves b _, ?_, ?_, fun h => absurd rfl h⟩
    · unfold Block.pauseSlice; split <;> rfl
    · unfold Block.pauseSlice; split <;> rfl
  | some t0 =>
    simp only [hoff] at hexec
    refine ⟨_, _, hexec, rfl, block?_modBlock_self (block?_nextSlice hb rfl _) rfl _, rfl,
      rfl, rfl, rfl, fun _ => ⟨rfl, rfl, rfl⟩⟩

omit hcore hslot in
theorem contextWrite_demand {l : Launch} {e : Nat × Node} (hl : s.launchOf b = some l) (hsaving : b.saving = true)
    (hhandler : b.inHandler = false) (hdemand : b.demand = []) (hended : s.opsEnded b = true) (he : e ∈ b.nodes) (hop : e.2.op = 0x201)
    (hstate : e.2.state = 1) :
    ∃ t b', exec (.contextWrite core slot) s = .next t ∧ t = { s with blocks := t.blocks } ∧ t.block? ⟨core, slot, 0⟩ = some b' ∧
      b'.demand = b.fullDemand (b.nodes.filterMap fun e => if e.2.op = 0x201 ∧ e.2.state = 1 then some e.1 else none) ∧
      b'.waves = b.waves ∧ b'.nodes = b.nodes := by
  have hloads : (b.nodes.filterMap fun e => if e.2.op = 0x201 ∧ e.2.state = 1 then some e.1 else none).isEmpty = false := by
    rw [List.isEmpty_eq_false_iff_exists_mem]
    exact ⟨e.1, List.mem_filterMap.mpr ⟨e, he, if_pos ⟨hop, hstate⟩⟩⟩
  have hexec : exec (.contextWrite core slot) s = .next (s.contextWrite core slot) := rfl
  unfold State.contextWrite at hexec
  simp only [sendHeld_ended hb hended, hb, hl, hsaving, hhandler, hdemand, hended, hloads, List.isEmpty_nil, Bool.not_true, Bool.not_false,
    Bool.or_self, Bool.false_eq_true, if_false, if_true] at hexec
  exact ⟨_, _, hexec, rfl, block?_modBlock_self hb rfl _, rfl, rfl, rfl⟩

end

end Sys2Proof.Machine
end

section
/-! Steals and aging (01 R38, R45), moves of the Ladle (18 R323, 20 R353) and messages that arrive (20 R354). -/

namespace Sys2Proof.Machine

open Sys2Proof

/-! ### Steals (01 R38, 20 R349) -/

theorem getElem?_modPlacement (f : Group → Group) (gs : List Group) (i : Nat) : (modPlacement gs i f)[i]? = gs[i]?.map f := by
  induction gs generalizing i with
  | nil => rfl
  | cons g t ih =>
    cases i with
    | zero => rfl
    | succ i => exact ih i

theorem stealGroup_some {s : State} {die key : Nat} {l : Launch} {g : Group} (h : s.stealGroup die key = some (l, g)) :
    s.launch? (key / 65536) = some l ∧ l.groups[key % 65536]? = some g := by
  unfold State.stealGroup at h
  split at h
  · cases h
  · rename_i l' hl
    split at h
    · cases h
    · rename_i g' hg
      split at h
      · cases h; exact ⟨hl, hg⟩
      · cases h

theorem ticketSteal_outcome {s : State} {die key : Nat} {l : Launch} {g : Group} {q : Nat × Nat × Nat × Nat}
    (hgroup : s.stealGroup die key = some (l, g)) (hfrom : s.stealFrom l g die = some q) (hfirst : s.stealWaits die key q = false) :
    ∃ t l' g', exec (.ticketSteal die key) s = .next t ∧ t = { s with launches := t.launches } ∧ t.launch? (key / 65536) = some l' ∧
      l'.groups[key % 65536]? = some g' ∧
      g'.ranges.getLast? = some (die, q.2.2.1 - (q.2.2.1 - q.2.1 + 1) / 2, q.2.2.1, q.2.2.2) := by
  obtain ⟨hl, hg⟩ := stealGroup_some hgroup
  have hexec : exec (.ticketSteal die key) s = .next (s.steal die key) := rfl
  unfold State.steal at hexec
  simp only [hgroup, hfrom, hfirst, Bool.false_eq_true, if_false] at hexec
  refine ⟨_, _, _, hexec, rfl, launch?_modLaunch hl _, (getElem?_modPlacement _ _ _).trans (by rw [hg, Option.map_some]), ?_⟩
  exact List.getLast?_concat

/-! ### Aging (01 R45) -/

/-- A launch whose waits on a die have gained the level that is due. -/
def Launch.ageOn (clock die : Nat) (l : Launch) : Launch :=
  { l with aged := l.aged.map fun a =>
      if a.1 % 16 = die ∧ agesNow clock l.prio a.2.1 a.2.2 = true then (a.1, a.2.1 + 1, a.2.2 + agingCycles) else a }

theorem ageDispatch_live {s : State} {die n : Nat} {l : Launch} (hl : s.launch? n = some l) (hlive : l.live die = true) :
    ∃ k q, s.ageDispatch die n = { s.modLaunch n (Launch.ageOn s.clock die) with saved := k, msgq := q } := by
  unfold State.ageDispatch
  simp only [hl, hlive, Bool.true_eq_false, if_false]
  exact ⟨_, _, rfl⟩

theorem dispatchAging_outcome {s : State} {die n i level since : Nat} {l : Launch} (hl : s.launch? n = some l) (hlive : l.live die = true)
    (hdie : die < 8) (haged : l.aged = [(agedKey i die, level, since)]) (hdue : agesNow s.clock l.prio level since = true) :
    ∃ t l', exec (.dispatchAging die n) s = .next t ∧ t.launch? n = some l' ∧ l'.aged = [(agedKey i die, level + 1, since + 65536)] ∧
      t.blocks = s.blocks ∧ t.mem = s.mem := by
  have hkey : agedKey i die % 16 = die := by unfold agedKey; omega
  obtain ⟨k, q, hage⟩ := ageDispatch_live hl hlive
  refine ⟨{ s.modLaunch n (Launch.ageOn s.clock die) with saved := k, msgq := q }, l.ageOn s.clock die, congrArg Host.Outcome.next hage,
    (launch?_modLaunch hl (Launch.ageOn s.clock die) :), ?_, rfl, rfl⟩
  unfold Launch.ageOn
  rw [haged, List.map_singleton, if_pos ⟨hkey, hdue⟩]
  rfl

/-! ### The Ladle (18 R323, 20 R353) -/

theorem stageq_setStageq (s : State) (k : Nat) (q : StageQueue) : (s.setStageq k q).stageq k = q := spGet_spSet_same _ _ _ _

/-- Only the stage queues differ. -/
def StageqsOnly (s t : State) : Prop := t = { s with stageqs := t.stageqs }

theorem StageqsOnly.refl (s : State) : StageqsOnly s s := rfl

theorem StageqsOnly.trans {s t u : State} (h : StageqsOnly s t) (k : StageqsOnly t u) : StageqsOnly s u := by
  unfold StageqsOnly at h k ⊢
  rw [k, h]

theorem stageqsOnly_takeBlock (s : State) (k : Nat) : StageqsOnly s (s.takeBlock k) := by
  unfold State.takeBlock
  dsimp only
  split
  · rfl
  · exact .refl s

theorem stageqsOnly_readyRings (s : State) (die : Nat) : StageqsOnly s (s.readyRings die) := by
  have hfire : StageqsOnly s ((s.looseRings die).fireRings die) := rfl
  exact hfire.trans (rel_foldl .refl .trans
    (fun (s : State) (e : Nat × StageQueue) => rel_foldl .refl .trans (fun s _ => stageqsOnly_takeBlock s e.1) e.2.fired s) _ _)

/-- A block that the Ladle moves to a stage. -/
def Block.movedTo (stage : Nat) (b : Block) : Block := { b with stage := some stage, events := b.events ++ [moveRecord stage] }

/-- The Ladle's move of a block for a firing of a ring. -/
def State.movedBlock (s : State) (die k stage : Nat) (high : Bool) (b : Block) : State :=
  let t := ({ s with ladleNext := spSet 0 s.ladleNext die (s.dclk + 128) } : State).modBlock ⟨b.core, b.slot, 0⟩ (Block.movedTo stage)
  t.setStageq k { t.stageq k with moves := (t.stageq k).moves.erase (b.uid, high) }

theorem moveStage_eq {s : State} {die k stage : Nat} {high : Bool} {b : Block}
    (hmove : (s.readyRings die).nextMove die = some (k, stage, high, b))
    (hdue : ¬ (s.readyRings die).dclk < spGet 0 (s.readyRings die).ladleNext die) :
    s.moveStage die = (s.readyRings die).movedBlock die k stage high b := by
  unfold State.moveStage
  simp only [hmove, if_neg hdue]
  rfl

theorem movedBlock_outcome {s : State} {b : Block} (hb : s.block? ⟨b.core, b.slot, 0⟩ = some b) (die k stage : Nat) (high : Bool) :
    s.movedBlock die k stage high b = { s with
        blocks := (s.movedBlock die k stage high b).blocks, stageqs := (s.movedBlock die k stage high b).stageqs
        ladleNext := (s.movedBlock die k stage high b).ladleNext } ∧
      spGet 0 (s.movedBlock die k stage high b).ladleNext die = s.dclk + 128 ∧
      (s.movedBlock die k stage high b).block? ⟨b.core, b.slot, 0⟩ = some (b.movedTo stage) ∧
      ((s.movedBlock die k stage high b).stageq k).moves = (s.stageq k).moves.erase (b.uid, high) := by
  refine ⟨rfl, spGet_spSet_same 0 s.ladleNext die (s.dclk + 128), ?_, ?_⟩
  · exact block?_modBlock_self (s := { s with ladleNext := spSet 0 s.ladleNext die (s.dclk + 128) }) hb rfl (Block.movedTo stage)
  · unfold State.movedBlock
    dsimp only
    rw [stageq_setStageq]
    rfl

theorem ladleMove_outcome {s : State} {die k stage : Nat} {high : Bool} {b : Block}
    (hmove : (s.readyRings die).nextMove die = some (k, stage, high, b)) (hdue : spGet 0 s.ladleNext die ≤ s.dclk)
    (hb : s.block? ⟨b.core, b.slot, 0⟩ = some b) :
    ∃ t b', exec (.ladleMove die) s = .next t ∧ t = { s with blocks := t.blocks, stageqs := t.stageqs, ladleNext := t.ladleNext } ∧
      spGet 0 t.ladleNext die = s.dclk + 128 ∧
      t.block? ⟨b.core, b.slot, 0⟩ = some b' ∧ b'.stage = some stage ∧ b'.events = b.events ++ [BitVec.ofNat 64 (6 * 65536 + stage)] ∧
      (t.stageq k).moves = ((s.readyRings die).stageq k).moves.erase (b.uid, high) := by
  have hrings := stageqsOnly_readyRings s die
  unfold StageqsOnly at hrings
  have hclock : (s.readyRings die).dclk = s.dclk ∧ (s.readyRings die).ladleNext = s.ladleNext ∧
      (s.readyRings die).block? ⟨b.core, b.slot, 0⟩ = some b := by
    rw [hrings]; exact ⟨rfl, rfl, hb⟩
  obtain ⟨hdclk, hnext, hblock⟩ := hclock
  have hexec : exec (.ladleMove die) s = .next (s.moveStage die) := rfl
  rw [moveStage_eq hmove (by rw [hdclk, hnext]; exact Nat.not_lt.mpr hdue)] at hexec
  obtain ⟨hframe, hafter, hmoved, hmoves⟩ := movedBlock_outcome hblock die k stage high
  refine ⟨_, b.movedTo stage, hexec, ?_, hafter.trans (by rw [hdclk]), hmoved, rfl, rfl, hmoves⟩
  refine hframe.trans ?_
  generalize (s.readyRings die).movedBlock die k stage high b = t
  rw [hrings]

/-! ### Messages that arrive (20 R354) -/

theorem amArrive_outcome {s : State} {core : Nat} {m : Message} (hroom : (spGet [] s.msgq core).length < 64)
    (hfirst : s.messageBehind core m = false) :
    ∃ t, exec (.amArrive core m) s = .next t ∧ t = { s with msgq := t.msgq } ∧
      spGet [] t.msgq core = spGet [] s.msgq core ++ [{ m with level := 0, since := s.clock, came := s.clock }] := by
  have hexec : exec (.amArrive core m) s = .next (s.messageArrive core m) := rfl
  unfold State.messageArrive at hexec
  simp only [hroom, hfirst, and_self, if_true] at hexec
  exact ⟨_, hexec, rfl, spGet_spSet_same _ _ _ _⟩

end Sys2Proof.Machine
end

section
/-! What leaves with a block (01 R29, 02 R69, 18 R324, 08 R224, 24 R410): frames of the steps that a retirement, a flush and a save share. -/

namespace Sys2Proof.Machine

open Sys2Proof

/-! ### Generations of a slot (02 R69) -/

theorem foldl_bumpFrond_frame (core slot : Nat) (ls : List Nat) (s : State) :
    ls.foldl (fun s w => s.bumpFrond ⟨core, slot, w⟩) s =
      { s with frondGen := (ls.foldl (fun s w => s.bumpFrond ⟨core, slot, w⟩) s).frondGen } := by
  induction ls generalizing s with
  | nil => rfl
  | cons w t ih => rw [List.foldl_cons, ih]; rfl

theorem bumpSlot_frame (s : State) (core slot : Nat) : s.bumpSlot core slot = { s with frondGen := (s.bumpSlot core slot).frondGen } :=
  foldl_bumpFrond_frame core slot lanes32 s

theorem frondGen_bumpFrond (s : State) (id : WaveId) (n : Nat) :
    spGet 0 (s.bumpFrond id).frondGen n = if wfull id = n then spGet 0 s.frondGen n + 1 else spGet 0 s.frondGen n := by
  refine (spGet_spSet 0 s.frondGen (wfull id) n (s.frondGenOf id + 1)).trans ?_
  split
  · rename_i h; subst h; rfl
  · rfl

theorem wfull_inj {core slot j k : Nat} (h : wfull ⟨core, slot, j⟩ = wfull ⟨core, slot, k⟩) : j = k :=
  Nat.add_left_cancel h

/-- Each listed wave's generation advances by one. -/
theorem frondGen_foldl (core slot : Nat) {ls : List Nat} (hls : ls.Nodup) (s : State) (k : Nat) :
    spGet 0 (ls.foldl (fun s w => s.bumpFrond ⟨core, slot, w⟩) s).frondGen (wfull ⟨core, slot, k⟩) =
      spGet 0 s.frondGen (wfull ⟨core, slot, k⟩) + if k ∈ ls then 1 else 0 := by
  induction ls generalizing s with
  | nil => simp
  | cons w t ih =>
    obtain ⟨hw, ht⟩ := List.nodup_cons.mp hls
    rw [List.foldl_cons, ih ht, frondGen_bumpFrond]
    by_cases h : w = k
    · subst h
      rw [if_pos rfl, if_neg hw, if_pos (.head t)]
      exact BitVec.add_zero _
    · rw [if_neg fun e => h (wfull_inj e)]
      have : k ∈ w :: t ↔ k ∈ t := by simp [Ne.symm h]
      simp only [this]

theorem frondGen_bumpSlot (s : State) (core slot : Nat) {k : Nat} (hk : k < 32) :
    spGet 0 (s.bumpSlot core slot).frondGen (wfull ⟨core, slot, k⟩) = spGet 0 s.frondGen (wfull ⟨core, slot, k⟩) + 1 := by
  have hmem : k ∈ lanes32 := by rw [lanes32_eq_range]; exact List.mem_range.mpr hk
  exact (frondGen_foldl core slot (by decide) s k).trans (by rw [if_pos hmem])

/-! ### What follows a block's removal -/

/-- Only launches, their entries, phasers, stage queues and what blocks hold differ; no slot has been taken. -/
structure AfterBlock (s t : State) : Prop where
  frame : t = { s with
    blocks := t.blocks, saved := t.saved, launches := t.launches, hostGen := t.hostGen, devGen := t.devGen, phasers := t.phasers
    stageqs := t.stageqs }
  free : ∀ key, spFind s.blocks key = none → spFind t.blocks key = none

theorem AfterBlock.refl (s : State) : AfterBlock s s := ⟨rfl, fun _ h => h⟩

theorem AfterBlock.trans {s t u : State} (h : AfterBlock s t) (k : AfterBlock t u) : AfterBlock s u :=
  ⟨by rw [k.frame, h.frame], fun key hkey => k.free key (h.free key hkey)⟩

theorem afterBlock_launches (s : State) (n : Nat) (f : Launch → Launch) : AfterBlock s (s.modLaunch n f) := ⟨rfl, fun _ h => h⟩

theorem afterBlock_releaseQueues (s : State) (b : Block) : AfterBlock s (s.releaseQueues b) := ⟨rfl, fun _ h => h⟩

theorem afterBlock_modAny (s : State) (uid : Nat) (f : Block → Block) : AfterBlock s (s.modAny uid f) := by
  refine ⟨rfl, fun key h => ?_⟩
  have hmap : ∀ e : Nat × Block, (if e.2.uid = uid then (e.1, f e.2) else e).1 = e.1 := fun e => by split <;> rfl
  exact (spFind_map s.blocks _ hmap key).trans (by rw [h, Option.map_none])

theorem afterBlock_blameSender (s : State) (b : Block) (cause : Nat) : AfterBlock s (s.blameSender b cause) := by
  unfold State.blameSender
  split
  · exact .refl s
  · split
    · exact afterBlock_modAny s _ _
    · exact afterBlock_launches s _ _

theorem afterBlock_countEnd (s : State) (b : Block) : AfterBlock s (s.countEnd b) := by
  unfold State.countEnd
  split
  · dsimp only
    split
    · exact (afterBlock_blameSender s b _).trans (afterBlock_launches _ _ _)
    · exact afterBlock_launches s _ _
  · exact afterBlock_launches s _ _

theorem afterBlock_dropLaunch (s : State) (n : Nat) : AfterBlock s (s.dropLaunch n) := by
  cases h : s.launch? n with
  | none =>
    unfold State.dropLaunch
    rw [h]
    exact .refl s
  | some l =>
    rw [dropLaunch_eq h]
    exact ⟨rfl, fun _ h => h⟩

theorem afterBlock_sweepChildren (s : State) (launch linear : Nat) : AfterBlock s (s.sweepChildren launch linear) :=
  rel_foldl .refl .trans (fun s (e : Nat × Launch) => afterBlock_dropLaunch s e.1) _ s

theorem afterBlock_dropMember (s : State) (b : Block) (wave : Nat) : AfterBlock s (s.dropMember b wave) :=
  rel_foldl .refl .trans (fun _ (_ : Nat × Phaser) => ⟨rfl, fun _ h => h⟩) _ s

theorem afterBlock_orphanChildren (s : State) (launch linear : Nat) : AfterBlock s (s.orphanChildren launch linear) :=
  (afterBlock_sweepChildren s launch linear).trans ⟨rfl, fun _ h => h⟩

theorem afterBlock_ticketAgain (s : State) (b : Block) : AfterBlock s (s.ticketAgain b) := afterBlock_launches s _ _

/-! ### A core that has become empty (24 R410) -/

theorem coreEmptied_frame (s : State) (core : Nat) :
    s.coreEmptied core = { s with icache := (s.coreEmptied core).icache, dieReg := (s.coreEmptied core).dieReg } := by
  unfold State.coreEmptied
  dsimp only
  split
  · rfl
  · split <;> rfl

theorem spFind_spSet_other {α : Type} [DecidableEq α] (d : α) (m : Sparse α) {k j : Nat} (v : α) (h : k ≠ j) :
    spFind (spSet d m k v) j = spFind m j := by
  unfold spSet
  split
  · rw [spFind_spDel, if_neg h]
  · rw [spFind_spPut, if_neg h]

theorem dieR_setDieR (s : State) (die d m n : Nat) (v : W64) (h : die * 4096 + m ≠ d * 4096 + n) : (s.setDieR die m v).dieR d n = s.dieR d n := by
  unfold State.dieR State.setDieR
  rw [spGet_eq_spFind, spGet_eq_spFind, spFind_spSet_other _ _ _ h]

theorem dieR_coreEmptied (s : State) (core d : Nat) {n : Nat} (hn : n < 0x800) : (s.coreEmptied core).dieR d n = s.dieR d n := by
  have hne : dieOf core * 4096 + (0x800 + core % 512) ≠ d * 4096 + n := by omega
  unfold State.coreEmptied
  dsimp only
  split
  · rfl
  · split
    · exact dieR_setDieR _ _ _ _ _ _ hne
    · exact dieR_setDieR _ _ _ _ _ _ hne

theorem dieR_countDie (s : State) (die n k : Nat) : (s.countDie die n k).dieR die n = satAdd (s.dieR die n) k := spGet_spSet_same _ _ _ _

end Sys2Proof.Machine
end

section
/-! Blocks that retire, are flushed or are saved (01 R29, R41, 21 R361-R363): the obligation O52. -/

namespace Sys2Proof.Machine

open Sys2Proof

/-! ### A block that has left its slot (01 R29) -/

/-- The block has left its slot: nothing of it is resident, its operations and its journal are gone, and every generation of
its slot has advanced; memory is as before. -/
structure Left (s : State) (b : Block) (t : State) : Prop where
  block : t.block? ⟨b.core, b.slot, 0⟩ = none
  running : ∀ r ∈ t.running, wkey r ≠ blockKey b.core b.slot
  ops : ∀ e ∈ t.ops, e.2.uid ≠ b.uid
  journals : (b.journal.die, b.journal.num) ∉ t.journals
  mem : t.mem = s.mem
  frondGen : ∀ k, k < 32 → spGet 0 t.frondGen (wfull ⟨b.core, b.slot, k⟩) = spGet 0 s.frondGen (wfull ⟨b.core, b.slot, k⟩) + 1

theorem Left.of_frame {s t u : State} {b : Block} (h : Left s b t)
    (hu : u = { t with icache := u.icache, dieReg := u.dieReg }) : Left s b u := by
  rw [hu]
  exact ⟨h.block, h.running, h.ops, h.journals, h.mem, h.frondGen⟩

theorem left_of_afterBlock {s t : State} {b : Block} (h : AfterBlock ((s.removeBlock b).bumpSlot b.core b.slot) t) : Left s b t := by
  obtain ⟨hframe, hfree⟩ := h
  have hbump := bumpSlot_frame (s.removeBlock b) b.core b.slot
  have hblocks : spFind ((s.removeBlock b).bumpSlot b.core b.slot).blocks (blockKey b.core b.slot) = none := by
    rw [hbump]
    exact (spFind_spDel _ _ _).trans (if_pos rfl)
  refine ⟨hfree _ hblocks, fun r hr => ?_, fun e he => ?_, fun hj => ?_, ?_, fun k hk => ?_⟩
  · rw [hframe, hbump] at hr
    exact bne_iff_ne.mp (List.mem_filter.mp hr).2
  · rw [hframe, hbump] at he
    exact bne_iff_ne.mp (List.mem_filter.mp he).2
  · rw [hframe, hbump] at hj
    exact bne_iff_ne.mp (List.mem_filter.mp hj).2 rfl
  · rw [hframe, hbump]; rfl
  · have hgen : t.frondGen = ((s.removeBlock b).bumpSlot b.core b.slot).frondGen := by rw [hframe]
    rw [hgen, frondGen_bumpSlot _ _ _ hk, show (s.removeBlock b).frondGen = s.frondGen from rfl]

/-! ### Launches of a block that leaves (01 R41, 08 R224) -/

theorem launch?_dropLaunch_other (s : State) {n m : Nat} (h : m ≠ n) : (s.dropLaunch m).launch? n = s.launch? n := by
  cases hl : s.launch? m with
  | none =>
    unfold State.dropLaunch
    rw [hl]
  | some l =>
    rw [dropLaunch_eq hl]
    exact (spFind_spDel _ _ _).trans (if_neg h)

/-- A launch that is no child of the block outlives its sweep. -/
theorem launch?_sweepChildren {s : State} {launch linear n : Nat}
    (h : ∀ e ∈ s.launches, e.1 = n → e.2.host = true ∨ e.2.parent ≠ some (launch, linear)) :
    (s.sweepChildren launch linear).launch? n = s.launch? n := by
  have hfold : ∀ (es : List (Nat × Launch)) (t : State), (∀ e ∈ es, e.1 ≠ n) →
      (es.foldl (fun s e => s.dropLaunch e.1) t).launch? n = t.launch? n := by
    intro es
    induction es with
    | nil => exact fun _ _ => rfl
    | cons e es ih =>
      intro t hes
      exact (ih _ fun x hx => hes x (.tail e hx)).trans (launch?_dropLaunch_other t (hes e (.head es)))
  refine hfold _ s fun e he hn => ?_
  obtain ⟨hin, htest⟩ := List.mem_filter.mp he
  simp only [Bool.and_eq_true, Bool.not_eq_true', beq_iff_eq] at htest
  obtain ⟨⟨⟨hhost, -⟩, -⟩, hparent⟩ := htest
  rcases h e hin hn with hh | hp
  · rw [hhost] at hh; cases hh
  · exact hp hparent

/-- A launch that keeps the outcome of a block while it has messages (07 R211). -/
def Launch.keepOutcome (l : Launch) (b : Block) (outcome : Nat) : Launch :=
  if l.messages = 0 then l else { l with ended := l.ended ++ [(b.uid, endedAs b.linear outcome)] }

theorem countBlock_eq (l : Launch) (b : Block) : l.countBlock b =
    if b.killed then ({ l with killed := l.killed + 1 } : Launch).keepOutcome b 2
    else match b.faulted with
      | some c => (l.countFault b.linear c).keepOutcome b 1
      | none => ({ l with completed := l.completed + 1 } : Launch).keepOutcome b 0 := rfl

theorem keepOutcome_frame (l : Launch) (b : Block) (outcome : Nat) :
    l.keepOutcome b outcome = { l with ended := (l.keepOutcome b outcome).ended } := by
  unfold Launch.keepOutcome
  split <;> rfl

/-- A block that has retired is counted once: killed, faulted or completed. -/
theorem countBlock_fields (l : Launch) (b : Block) :
    (l.countBlock b).host = l.host ∧ (l.countBlock b).parent = l.parent ∧
      (l.countBlock b).completed = l.completed + (if b.killed = false ∧ b.faulted = none then 1 else 0) ∧
      (l.countBlock b).faulted = l.faulted + (if b.killed = false ∧ b.faulted ≠ none then 1 else 0) ∧
      (l.countBlock b).killed = l.killed + if b.killed then 1 else 0 := by
  rw [countBlock_eq]
  cases b.killed with
  | true =>
    rw [if_pos rfl, keepOutcome_frame, if_neg (fun h => Bool.noConfusion h.1), if_neg (fun h => Bool.noConfusion h.1), if_pos rfl]
    exact ⟨rfl, rfl, rfl, rfl, rfl⟩
  | false =>
    rw [if_neg Bool.false_ne_true, if_neg Bool.false_ne_true]
    cases b.faulted with
    | none =>
      dsimp only
      rw [keepOutcome_frame, if_pos ⟨rfl, rfl⟩, if_neg (fun h => h.2 rfl)]
      exact ⟨rfl, rfl, rfl, rfl, rfl⟩
    | some c =>
      dsimp only
      rw [keepOutcome_frame, if_neg (fun h => Option.some_ne_none c h.2), if_pos ⟨rfl, Option.some_ne_none c⟩]
      exact ⟨rfl, rfl, rfl, rfl, rfl⟩

theorem retire_eq (s : State) (b : Block) : s.retire b =
    (((((s.removeBlock b).bumpSlot b.core b.slot).releaseQueues b).countEnd b).sweepChildren b.launch b.linear).coreEmptied b.core := rfl

theorem left_retire (s : State) (b : Block) : Left s b (s.retire b) := by
  have hafter := ((afterBlock_releaseQueues ((s.removeBlock b).bumpSlot b.core b.slot) b).trans (afterBlock_countEnd _ b)).trans
    (afterBlock_sweepChildren _ b.launch b.linear)
  rw [retire_eq]
  exact (left_of_afterBlock hafter).of_frame (coreEmptied_frame _ b.core)

/-- The block's launch after its retirement has been counted. -/
theorem launch?_retire {s : State} {b : Block} {l : Launch} (hl : s.launch? b.launch = some l) (hsender : b.sender = none)
    (hchild : ∀ e ∈ s.launches, e.1 = b.launch → e.2.host = true ∨ e.2.parent ≠ some (b.launch, b.linear)) :
    (s.retire b).launch? b.launch = some (l.countBlock b) := by
  have hlaunches : (((s.removeBlock b).bumpSlot b.core b.slot).releaseQueues b).launches = s.launches := by
    rw [bumpSlot_frame]; rfl
  have hcount : ∀ u : State, u.countEnd b = u.modLaunch b.launch fun l => l.countBlock b := fun u => by
    unfold State.countEnd
    rw [hsender]
    rfl
  rw [retire_eq, coreEmptied_frame]
  change ((State.countEnd _ b).sweepChildren b.launch b.linear).launch? b.launch = _
  rw [hcount, launch?_sweepChildren]
  · refine launch?_modLaunch (l := l) ?_ _
    unfold State.launch?
    rw [hlaunches]
    exact hl
  · intro e he hn
    have he' : e ∈ spMod (((s.removeBlock b).bumpSlot b.core b.slot).releaseQueues b).launches b.launch (fun l => l.countBlock b) := he
    obtain ⟨x, hx, rfl⟩ := List.mem_map.mp he'
    rw [hlaunches] at hx
    obtain ⟨hhost, hparent, -⟩ := countBlock_fields x.2 b
    split
    · rename_i hk
      dsimp only
      rw [hhost, hparent]
      exact hchild x hx hk
    · rename_i hk
      rw [if_neg hk] at hn
      exact absurd hn hk

theorem blockRetire_outcome {s : State} {core slot : Nat} {b : Block} (hb : s.block? ⟨core, slot, 0⟩ = some b) (hcore : b.core = core)
    (hslot : b.slot = slot) (hchild : ∀ e ∈ s.launches, e.1 = b.launch → e.2.host = true ∨ e.2.parent ≠ some (b.launch, b.linear))
    (hmay : s.mayRetire b = true) :
    ∃ t, exec (.blockRetire core slot) s = .next t ∧ t.block? ⟨core, slot, 0⟩ = none ∧ (∀ r ∈ t.running, wkey r ≠ blockKey core slot) ∧
      (∀ e ∈ t.ops, e.2.uid ≠ b.uid) ∧ (b.journal.die, b.journal.num) ∉ t.journals ∧ t.mem = s.mem ∧
      (∀ k, k < 32 → spGet 0 t.frondGen (wfull ⟨core, slot, k⟩) = spGet 0 s.frondGen (wfull ⟨core, slot, k⟩) + 1) ∧
      ∀ l, b.sender = none → s.launch? b.launch = some l → ∃ l', t.launch? b.launch = some l' ∧
        l'.completed = l.completed + (if b.killed = false ∧ b.faulted = none then 1 else 0) ∧
        l'.faulted = l.faulted + (if b.killed = false ∧ b.faulted ≠ none then 1 else 0) ∧
        l'.killed = l.killed + if b.killed then 1 else 0 := by
  subst hcore hslot
  have hexec : exec (.blockRetire b.core b.slot) s = .next (s.retire b) := by
    change execBlockRetire b.core b.slot s = _
    unfold execBlockRetire
    simp only [hb, hmay, if_true]
  obtain ⟨hblock, hrunning, hops, hjournals, hmem, hgen⟩ := left_retire s b
  refine ⟨_, hexec, hblock, hrunning, hops, hjournals, hmem, hgen, fun l hsender hl => ?_⟩
  obtain ⟨-, -, hcompleted, hfaulted, hkilled⟩ := countBlock_fields l b
  exact ⟨_, launch?_retire hl hsender hchild, hcompleted, hfaulted, hkilled⟩

/-! ### A block that is flushed (21 R362) -/

/-- Only operations, locks, what blocks hold and registers of cores differ. -/
def DropsOnly (s t : State) : Prop :=
  t = { s with blocks := t.blocks, ops := t.ops, orphans := t.orphans, locks := t.locks, coreReg := t.coreReg }

theorem DropsOnly.refl (s : State) : DropsOnly s s := rfl

theorem DropsOnly.trans {s t u : State} (h : DropsOnly s t) (k : DropsOnly t u) : DropsOnly s u := by
  unfold DropsOnly at h k ⊢
  rw [k, h]

theorem dropsOnly_dropForces (s : State) (ws : Sparse Wave) : DropsOnly s (ws.foldl (fun s e => s.dropForce e.2) s) := by
  obtain ⟨ls, h⟩ := foldl_dropForce s ws
  rw [h]
  rfl

theorem dropsOnly_landFwrBut (s : State) (e : LogEntry) (dead : Option Nat) (l : Nat) : DropsOnly s (s.landFwrBut e dead l) := by
  unfold State.landFwrBut
  dsimp only
  split
  · rfl
  · split <;> rfl

theorem dropsOnly_landAccepted (s : State) (b : Block) : DropsOnly s (s.landAccepted b) := by
  refine rel_foldl .refl .trans (fun (s : State) (e : LogEntry) => ?_) _ s
  split
  · exact rel_foldl .refl .trans (fun s l => dropsOnly_landFwrBut s e (some b.uid) l) _ s
  · exact .refl s

theorem dropsOnly_dropBlockOps (s : State) (b : Block) : DropsOnly s (s.dropBlockOps b) :=
  (dropsOnly_landAccepted s b).trans rfl

/-- The state in which a flushed block's operations have been dropped. -/
def State.flushDropped (s : State) (b : Block) : State := (b.waves.foldl (fun s e => s.dropForce e.2) s).dropBlockOps b

/-- The state in which a flushed block has left, before it is a ticket again. -/
def State.flushLeft (s : State) (b : Block) : State :=
  (((b.waves.map fun e => e.1).foldl (fun s w => s.dropMember b w)
    (((s.flushDropped b).removeBlock b).bumpSlot b.core b.slot)).releaseQueues b).orphanChildren b.launch b.linear

theorem flush_eq (s : State) (b : Block) :
    s.flush b = (((s.flushLeft b).ticketAgain b).countDie (dieOf b.core) 0x233 1).coreEmptied b.core := rfl

theorem flushDropped_frame (s : State) (b : Block) : DropsOnly s (s.flushDropped b) :=
  (dropsOnly_dropForces s b.waves).trans (dropsOnly_dropBlockOps _ b)

theorem afterBlock_flushLeft (s : State) (b : Block) :
    AfterBlock (((s.flushDropped b).removeBlock b).bumpSlot b.core b.slot) (s.flushLeft b) :=
  ((rel_foldl .refl .trans (fun s w => afterBlock_dropMember s b w) (b.waves.map fun e => e.1) _).trans
    (afterBlock_releaseQueues _ b)).trans (afterBlock_orphanChildren _ b.launch b.linear)

theorem launches_dropMember (s : State) (b : Block) (wave : Nat) : (s.dropMember b wave).launches = s.launches :=
  rel_foldl (R := fun s t : State => t.launches = s.launches) (fun _ => rfl)
    (fun {s t u} (h : t.launches = s.launches) (k : u.launches = t.launches) => k.trans h)
    (fun (s : State) (e : Nat × Phaser) => (rfl : (s.setPhaser e.1 ((s.phaser e.1).drop b wave)).launches = s.launches)) _ s

theorem launches_dropMembers (s : State) (b : Block) (ws : List Nat) : (ws.foldl (fun s w => s.dropMember b w) s).launches = s.launches :=
  rel_foldl (R := fun s t : State => t.launches = s.launches) (fun _ => rfl)
    (fun {s t u} (h : t.launches = s.launches) (k : u.launches = t.launches) => k.trans h) (fun s w => launches_dropMember s b w) ws s

/-- A launch that has lost its issuing block, where that block issued it (21 R362). -/
def Launch.orphaned (launch linear : Nat) (l : Launch) : Launch :=
  if l.parent = some (launch, linear) ∧ l.isTail = false then { l with parent := none } else l

theorem launches_orphanChildren (s : State) (launch linear : Nat) : (s.orphanChildren launch linear).launches =
    (s.sweepChildren launch linear).launches.map fun e => (e.1, e.2.orphaned launch linear) := by
  refine List.map_congr_left fun e _ => ?_
  unfold Launch.orphaned
  dsimp only
  split <;> rfl

theorem groups_orphaned (launch linear : Nat) (l : Launch) : (l.orphaned launch linear).groups = l.groups := by
  unfold Launch.orphaned
  split <;> rfl

/-- A launch that is no child of the block outlives it with its groups. -/
theorem launch?_orphanChildren {s : State} {launch linear n : Nat} {l : Launch} (hl : s.launch? n = some l)
    (h : ∀ e ∈ s.launches, e.1 = n → e.2.host = true ∨ e.2.parent ≠ some (launch, linear)) :
    ∃ l', (s.orphanChildren launch linear).launch? n = some l' ∧ l'.groups = l.groups := by
  refine ⟨l.orphaned launch linear, ?_, groups_orphaned launch linear l⟩
  unfold State.launch?
  rw [launches_orphanChildren, spFind_map _ (fun e : Nat × Launch => (e.1, e.2.orphaned launch linear)) fun _ => rfl,
    show spFind (s.sweepChildren launch linear).launches n = some l from (launch?_sweepChildren h).trans hl, Option.map_some]

theorem launch?_flushLeft {s : State} {b : Block} {l : Launch} (hl : s.launch? b.launch = some l)
    (hchild : ∀ e ∈ s.launches, e.1 = b.launch → e.2.host = true ∨ e.2.parent ≠ some (b.launch, b.linear)) :
    ∃ l', (s.flushLeft b).launch? b.launch = some l' ∧ l'.groups = l.groups := by
  have hmembers := launches_dropMembers (((s.flushDropped b).removeBlock b).bumpSlot b.core b.slot) b (b.waves.map fun e => e.1)
  have hlaunches := hmembers.trans (show (((s.flushDropped b).removeBlock b).bumpSlot b.core b.slot).launches = s.launches by
    rw [bumpSlot_frame, flushDropped_frame s b]; rfl)
  refine launch?_orphanChildren ?_ fun e he => hchild e (hlaunches ▸ he)
  exact (congrArg (spFind · b.launch) hlaunches).trans hl

/-- The index of a flushed block is the last range of its group again (21 R362). -/
theorem launch?_ticketAgain {s : State} {b : Block} {l : Launch} {g : Group} (hl : s.launch? b.launch = some l)
    (hg : l.groups[b.group]? = some g) : ∃ l' g', (s.ticketAgain b).launch? b.launch = some l' ∧ l'.groups[b.group]? = some g' ∧
      g'.pinDie = g.pinDie ∧ g'.pinCore = g.pinCore ∧
      g'.ranges = g.ranges ++ [(dieOf b.core, b.linear, b.linear + 1, b.deadline.getD noDeadline)] :=
  ⟨_, _, launch?_modLaunch hl _, (getElem?_modPlacement _ _ _).trans (congrArg (Option.map _) hg), rfl, rfl, rfl⟩

theorem blockFlush_outcome {s : State} {core slot : Nat} {b : Block} (hb : s.block? ⟨core, slot, 0⟩ = some b) (hcore : b.core = core)
    (hslot : b.slot = slot) (hchild : ∀ e ∈ s.launches, e.1 = b.launch → e.2.host = true ∨ e.2.parent ≠ some (b.launch, b.linear))
    (hdue : s.actionDue b false = true) :
    ∃ t, exec (.blockFlush core slot) s = .next t ∧ t.block? ⟨core, slot, 0⟩ = none ∧ (∀ e ∈ t.ops, e.2.uid ≠ b.uid) ∧ t.mem = s.mem ∧
      t.dieR (dieOf core) 0x233 = satAdd (s.dieR (dieOf core) 0x233) 1 ∧
      ∀ l g, s.launch? b.launch = some l → l.groups[b.group]? = some g → ∃ l' g', t.launch? b.launch = some l' ∧
        l'.groups[b.group]? = some g' ∧ g'.pinDie = g.pinDie ∧ g'.pinCore = g.pinCore ∧
        g'.ranges = g.ranges ++ [(dieOf core, b.linear, b.linear + 1, b.deadline.getD noDeadline)] := by
  subst hcore hslot
  have hexec : exec (.blockFlush b.core b.slot) s = .next (s.flush b) := by
    change execBlockFlush b.core b.slot s = _
    unfold execBlockFlush
    simp only [hb, hdue, if_true]
  rw [flush_eq] at hexec
  have hafter := (afterBlock_flushLeft s b).trans (afterBlock_ticketAgain _ b)
  obtain ⟨hblock, -, hops, -, hmem, -⟩ := ((left_of_afterBlock hafter).of_frame
    (u := ((s.flushLeft b).ticketAgain b).countDie (dieOf b.core) 0x233 1) rfl).of_frame (coreEmptied_frame _ b.core)
  have hregs : ((s.flushLeft b).ticketAgain b).dieR (dieOf b.core) 0x233 = s.dieR (dieOf b.core) 0x233 := by
    rw [hafter.frame, bumpSlot_frame, flushDropped_frame s b]; rfl
  refine ⟨_, hexec, hblock, hops, hmem.trans (by rw [flushDropped_frame s b]), ?_, fun l g hl hg => ?_⟩
  · rw [dieR_coreEmptied _ _ _ (by decide), dieR_countDie, hregs]
  · obtain ⟨l', hl', hgroups⟩ := launch?_flushLeft hl hchild
    rw [coreEmptied_frame]
    exact launch?_ticketAgain hl' (hgroups ▸ hg)

end Sys2Proof.Machine
end

section
/-! A block whose context is written (21 R363, R367), and the obligation O52. -/

namespace Sys2Proof.Machine

open Sys2Proof

/-! ### The end of a save (21 R363, R367) -/

/-- The state in which a saved block's locks are released, its slot's generations have advanced and CTXSV goes on. -/
def State.saveReleased (s : State) (b : Block) : State :=
  let s := b.waves.foldl (fun s e => s.dropForce e.2) s
  let s := (b.nodes.filterMap fun e => e.2.lock).foldl State.unlock s
  (s.bumpSlot b.core b.slot).markWritten (.context b.core b.slot b.uid) b.contextSize

/-- The block that a finished save writes. -/
def State.blockKept (s : State) (b : Block) : Block := ((s.saveReleased b).block? ⟨b.core, b.slot, 0⟩).getD b

/-- The context is written at some addresses. -/
def State.writeContext (s : State) (at_ : List Nat) (bs : List Byte) : State := at_.foldl (fun (s : State) a => s.writeBytes a bs) s

/-- A finished save is counted where its context stands in a slot of its die. -/
def State.countSave (s : State) (die : Nat) (slot : Option Nat) : State := if slot.isSome then s.countDie die 0x232 1 else s

/-- A block becomes a saved one and leaves its slot. -/
def State.keepBlock (s : State) (b : Block) (kept : SavedSlot) : State :=
  { s with
    saved := s.saved ++ [kept], blocks := spDel s.blocks (blockKey b.core b.slot)
    running := s.running.filter fun r => wkey r != blockKey b.core b.slot }

/-- Where a finished save is written. -/
def State.saveAreas (s : State) (b : Block) (slot : Option Nat) : List Nat :=
  match slot with
  | some i => [(s.saveReleased b).contextArea (dieOf b.core) i]
  | none => (s.blockKept b).saveTo

theorem finishSave_eq (s : State) (b : Block) (l : Launch) (slot : Option Nat) : s.finishSave b l slot =
    (((((s.saveReleased b).writeContext (s.saveAreas b slot) (s.contextBytes b l)).countSave (dieOf b.core) slot).keepBlock (s.blockKept b)
      ⟨dieOf b.core, slot, (s.saveAreas b slot).headD 0, (s.blockKept b).asSaved, 0,
        (((s.saveReleased b).writeContext (s.saveAreas b slot) (s.contextBytes b l)).countSave (dieOf b.core) slot).clock⟩).coreEmptied
      (s.blockKept b).core) := rfl

/-- Only locks, generations, and waits of waves differ. -/
def ReleasesOnly (s t : State) : Prop :=
  t = { s with locks := t.locks, frondGen := t.frondGen, blocks := t.blocks, saved := t.saved }

theorem foldl_unlock_frame (s : State) (ks : List Nat) : ∃ ls, ks.foldl State.unlock s = { s with locks := ls } := by
  induction ks generalizing s with
  | nil => exact ⟨s.locks, rfl⟩
  | cons k t ih =>
    obtain ⟨ls, h⟩ := ih (s.unlock k)
    exact ⟨ls, h⟩

/-- The state before CTXSV goes on. -/
theorem beforeMark_frame (s : State) (b : Block) : ∃ ls fg,
    ((b.nodes.filterMap fun e => e.2.lock).foldl State.unlock (b.waves.foldl (fun s e => s.dropForce e.2) s)).bumpSlot b.core b.slot =
      { s with locks := ls, frondGen := fg } := by
  obtain ⟨l₁, h₁⟩ := foldl_dropForce s b.waves
  obtain ⟨l₂, h₂⟩ := foldl_unlock_frame { s with locks := l₁ } (b.nodes.filterMap fun e => e.2.lock)
  refine ⟨l₂, (State.bumpSlot { s with locks := l₂ } b.core b.slot).frondGen, ?_⟩
  rw [h₁, h₂]
  exact bumpSlot_frame { s with locks := l₂ } b.core b.slot

theorem saveReleased_frame (s : State) (b : Block) : ReleasesOnly s (s.saveReleased b) := by
  obtain ⟨ls, fg, h⟩ := beforeMark_frame s b
  unfold State.saveReleased
  dsimp only
  rw [h]
  rfl

/-- A block in whose waves CTXSV may have gone on. -/
def Block.Marked (b b' : Block) : Prop := b' = { b with waves := b'.waves }

theorem block?_markWritten {s : State} {u : WaveId} {b : Block} (hb : s.block? u = some b) (wt : Wait) (n : Nat) :
    ∃ b', (s.markWritten wt n).block? u = some b' ∧ b.Marked b' := by
  unfold State.markWritten State.block?
  dsimp only
  rw [spFind_map _ _ fun e => by rfl, show spFind s.blocks (wkey u) = some b from hb]
  exact ⟨_, rfl, rfl⟩

theorem blockKept_marked {s : State} {b : Block} (hb : s.block? ⟨b.core, b.slot, 0⟩ = some b) : b.Marked (s.blockKept b) := by
  obtain ⟨ls, fg, h⟩ := beforeMark_frame s b
  obtain ⟨b', hb', hmarked⟩ := block?_markWritten (s := { s with locks := ls, frondGen := fg }) hb (.context b.core b.slot b.uid) b.contextSize
  unfold State.blockKept State.saveReleased
  dsimp only
  rw [h, hb']
  exact hmarked

theorem memoryOnly_writeContext (s : State) (at_ : List Nat) (bs : List Byte) : MemoryOnly s (s.writeContext at_ bs) :=
  rel_foldl .refl .trans (fun s a => memoryOnly_writeBytes s a bs) at_ s

theorem mem_countSave (s : State) (die : Nat) (slot : Option Nat) : (s.countSave die slot).mem = s.mem := by
  unfold State.countSave
  split <;> rfl

/-- A save that is written at one address: the block has left, its context stands there, and it is kept. -/
theorem finishSave_outcome {s : State} {b : Block} (hb : s.block? ⟨b.core, b.slot, 0⟩ = some b) (l : Launch) {slot : Option Nat} {a : Nat}
    (hareas : s.saveAreas b slot = [a]) :
    (s.finishSave b l slot).block? ⟨b.core, b.slot, 0⟩ = none ∧
      (s.finishSave b l slot).mem = (s.writeBytes a (s.contextBytes b l)).mem ∧
      ∃ k ∈ (s.finishSave b l slot).saved, k.die = dieOf b.core ∧ k.slot = slot ∧ k.block.uid = b.uid := by
  have hmarked := blockKept_marked hb
  have hhome : (s.saveReleased b).home = s.home := by rw [saveReleased_frame s b]; rfl
  rw [finishSave_eq, coreEmptied_frame, hareas]
  refine ⟨?_, ?_, _, List.mem_append_right _ (.head _), rfl, rfl, ?_⟩
  · have hcore : (s.blockKept b).core = b.core ∧ (s.blockKept b).slot = b.slot := by rw [hmarked]; exact ⟨rfl, rfl⟩
    refine (spFind_spDel _ _ _).trans (if_pos ?_)
    rw [hcore.1, hcore.2]
    rfl
  · exact (mem_countSave _ _ _).trans (writeBytes_mem_congr hhome a _)
  · exact (show (s.blockKept b).uid = b.uid by rw [hmarked])

theorem dieR_finishSave {s : State} {b : Block} (l : Launch) (i : Nat) :
    (s.finishSave b l (some i)).dieR (dieOf b.core) 0x232 = satAdd (s.dieR (dieOf b.core) 0x232) 1 := by
  have hregs : ∀ at_ bs, ((s.saveReleased b).writeContext at_ bs).dieR (dieOf b.core) 0x232 = s.dieR (dieOf b.core) 0x232 := fun at_ bs => by
    rw [memoryOnly_writeContext, saveReleased_frame s b]; rfl
  rw [finishSave_eq, dieR_coreEmptied _ _ _ (by decide)]
  exact (dieR_countDie _ _ _ _).trans (by rw [hregs])

section
variable {s : State} {core slot : Nat} {b : Block} {l : Launch} (hb : s.block? ⟨core, slot, 0⟩ = some b) (hcore : b.core = core)
  (hslot : b.slot = slot) (hl : s.launchOf b = some l) (hsaving : b.saving = true) (hhandler : b.inHandler = false) (hdemand : b.demand = [])
  (hended : s.opsEnded b = true) (hloads : ∀ e ∈ b.nodes, ¬ (e.2.op = 0x201 ∧ e.2.state = 1))
include hb hcore hslot hl hsaving hhandler hdemand hended hloads

theorem contextWrite_slot {i : Nat} (hto : b.saveTo = []) (hcontext : s.contextSlot (dieOf core) = some i)
    (hfree : s.heldIn ((s.dieR (dieOf core) 0x230).toNat + 2097152 * i) b.contextSize = false) :
    ∃ t k, exec (.contextWrite core slot) s = .next t ∧ t.block? ⟨core, slot, 0⟩ = none ∧
      t.mem = (s.writeBytes ((s.dieR (dieOf core) 0x230).toNat + 2097152 * i) (s.contextBytes b l)).mem ∧
      k ∈ t.saved ∧ k.die = dieOf core ∧ k.slot = some i ∧ k.block.uid = b.uid ∧
      t.dieR (dieOf core) 0x232 = satAdd (s.dieR (dieOf core) 0x232) 1 := by
  subst hcore hslot
  have hnone : (b.nodes.filterMap fun e => if e.2.op = 0x201 ∧ e.2.state = 1 then some e.1 else none) = [] :=
    List.filterMap_eq_nil_iff.mpr fun e he => if_neg (hloads e he)
  have hexec : exec (.contextWrite b.core b.slot) s = .next (s.contextWrite b.core b.slot) := rfl
  have hfree' : s.heldIn (s.contextArea (dieOf b.core) i) b.contextSize = false := hfree
  unfold State.contextWrite at hexec
  simp only [sendHeld_ended hb hended, hb, hl, hsaving, hhandler, hdemand, hended, hnone, hto, hcontext, hfree', List.isEmpty_nil, Bool.not_true,
    Bool.or_self, Bool.false_eq_true, if_false] at hexec
  have hareas : s.saveAreas b (some i) = [(s.dieR (dieOf b.core) 0x230).toNat + 2097152 * i] := by
    unfold State.saveAreas State.contextArea
    rw [saveReleased_frame s b]
    rfl
  obtain ⟨hblock, hmem, k, hk, hdie, hkslot, huid⟩ := finishSave_outcome hb l hareas
  exact ⟨_, k, hexec, hblock, hmem, hk, hdie, hkslot, huid, dieR_finishSave l i⟩

theorem contextWrite_area {a : Nat} (hto : b.saveTo = [a]) (hfree : s.heldIn a b.contextSize = false) :
    ∃ t k, exec (.contextWrite core slot) s = .next t ∧ t.block? ⟨core, slot, 0⟩ = none ∧
      t.mem = (s.writeBytes a (s.contextBytes b l)).mem ∧ k ∈ t.saved ∧ k.slot = none ∧ k.block.uid = b.uid := by
  subst hcore hslot
  have hnone : (b.nodes.filterMap fun e => if e.2.op = 0x201 ∧ e.2.state = 1 then some e.1 else none) = [] :=
    List.filterMap_eq_nil_iff.mpr fun e he => if_neg (hloads e he)
  have hexec : exec (.contextWrite b.core b.slot) s = .next (s.contextWrite b.core b.slot) := rfl
  unfold State.contextWrite at hexec
  simp only [sendHeld_ended hb hended, hb, hl, hsaving, hhandler, hdemand, hended, hnone, hto, hfree, List.isEmpty_nil, List.isEmpty_cons,
    List.any_cons, List.any_nil, Bool.not_true, Bool.not_false, Bool.or_self, Bool.false_eq_true, if_false, if_true] at hexec
  have hareas : s.saveAreas b none = [a] := (congrArg Block.saveTo (blockKept_marked hb)).trans hto
  obtain ⟨hblock, hmem, k, hk, -, hkslot, huid⟩ := finishSave_outcome hb l hareas
  exact ⟨_, k, hexec, hblock, hmem, hk, hkslot, huid⟩

end

/-! ### O52 -/

/-- Settles O52: each step of a block by the lemma that says what it does. -/
theorem blockSteps : Obligations.BlockSteps := by
  unfold Obligations.BlockSteps
  refine ⟨fun s die core slot n uid c l g q hevac hworks hroom hhungry hbest hkind hl hg hq hslot hj hearly huid => ?_,
    fun s die core slot n c m rest hevac hworks hroom hhungry hbest hkind hm hslot hj hearly =>
      dispatch_message (blockDispatch_exec hevac hworks hroom hhungry hbest) hkind hm hslot hj hearly,
    fun s die core slot c k a hevac hworks hroom hhungry hbest hkind hfind hcontext hslot hearly =>
      dispatch_saved (blockDispatch_exec hevac hworks hroom hhungry hbest) hkind hfind hcontext hslot hearly,
    fun s die key l g q => ticketSteal_outcome, fun s die n i level since l => dispatchAging_outcome,
    fun s core slot b hb hcore hslot hchild => ⟨blockRetire_outcome hb hcore hslot hchild, blockFlush_outcome hb hcore hslot hchild,
      blockSave_outcome hb hcore hslot, fun l i hl hsaving hhandler hdemand hended hto hloads hcontext hfree =>
        contextWrite_slot hb hcore hslot hl hsaving hhandler hdemand hended hloads hto hcontext hfree,
      fun l a hl hsaving hhandler hdemand hended hto hloads hfree =>
        contextWrite_area hb hcore hslot hl hsaving hhandler hdemand hended hloads hto hfree,
      fun l e hl hsaving hhandler hdemand hended he hop hstate => contextWrite_demand hb hl hsaving hhandler hdemand hended he hop hstate,
      fun t0 => drainTimeout_outcome hb hcore hslot, sliceExpire_outcome hb hcore hslot, fun t0 => sliceContinue_outcome hb hcore hslot⟩,
    fun s die k stage high b => ladleMove_outcome, fun s core m => amArrive_outcome⟩
  subst huid
  exact dispatch_fresh (blockDispatch_exec hevac hworks hroom hhungry hbest) hkind hl hg hq hslot hj hearly

end Sys2Proof.Machine
end

section
/-! Instructions that complete with an effect of their own (06 R152): what is left of the wave and of the machine, once for all of them. -/

namespace Sys2Proof.Machine

open Sys2Proof

/-! ### The wave in the slot -/

/-- The wave of an instruction that passes every check: it stands in the slot without a wait, and the context is its own. -/
structure Issuing (s : State) (c : Ctx) (w : Wave) : Prop where
  id     : c.id = s.cur
  wave   : s.wave? s.cur = some w
  own    : c.w = { w with inflight := c.w.inflight }
  active : c.active = w.active
  block  : s.block? s.cur = some c.b
  launch : s.launchOf c.b = some c.l
  tick   : c.tick = s.tick
  wait   : w.wait = none

theorem issuing_of_clear {s : State} {sp : Spec} {own : Ctx → List Fail} {c : Ctx} (h : s.clear sp own = some c) :
    ∃ w, Issuing s c w := by
  obtain ⟨hctx, hwait, -⟩ := clear_spec h
  obtain ⟨hid, w, hw, hcw, hact, hb, hl, htick⟩ := ctx_spec hctx
  have hnone : w.wait = none := by rw [hcw] at hwait; exact hwait
  exact ⟨w, hid, hw, by rw [hcw], hact, hb, hl, htick (by rw [hnone]; rfl), hnone⟩

theorem Issuing.state {s : State} {c : Ctx} {w : Wave} (h : Issuing s c w) : s.wave s.cur = w := wave_eq_of_wave? h.wave

/-- Only active lanes participate. -/
theorem ctx_part {s : State} {ctl : Ctl} {c : Ctx} (h : s.ctx ctl = some c) {w : Wave} (hw : s.wave? s.cur = some w)
    (hnone : w.wait = none) {l : Nat} (hl : c.part.getLsbD l = true) : c.active.getLsbD l = true := by
  have hl32 : l < 32 := BitVec.lt_of_getLsbD hl
  unfold State.ctx at h
  rw [hw] at h
  split at h
  · rename_i b v hb hv
    cases hv
    split at h
    · cases h
    · simp only at h
      split at h
      · cases h
      · simp only [hnone, Option.bind_none, Option.some.injEq] at h
        subst h
        split at hl
        · simp only [getLsbD_maskOf _ hl32, Bool.and_eq_true] at hl
          simp only [Option.any_none, and_true]
          split <;> exact hl.1
        · simp only [Option.any_none, and_true]
          split <;> exact hl
  · cases h

theorem lanesOf_ne_nil {m : BitVec 32} (h : m ≠ 0) : lanesOf m ≠ [] := by
  intro hnil
  refine h (BitVec.eq_of_getLsbD_eq fun l _ => ?_)
  have : l ∉ lanesOf m := by simp [hnil]
  rw [mem_lanesOf] at this
  simpa using this

/-- A check that every active lane fails does not pass where a lane participates. -/
theorem failAll_ne_nil {s : State} {ctl : Ctl} {c : Ctx} {w : Wave} (h : s.ctx ctl = some c) (hw : Issuing s c w) (hp : c.part ≠ 0)
    (cause : Nat) (a : W64) : failAll c.active cause a ≠ [] := by
  unfold failAll
  rw [Ne, List.map_eq_nil_iff]
  obtain ⟨l, hl⟩ := List.exists_mem_of_ne_nil _ (lanesOf_ne_nil hp)
  exact List.ne_nil_of_mem (mem_lanesOf.mpr (ctx_part h hw.wave hw.wait (mem_lanesOf.mp hl)))

/-- The control state that decides which lanes are active. -/
structure SameControl (w v : Wave) : Prop where
  pc     : v.pc = w.pc
  held   : v.held = w.held
  exited : v.exited = w.exited
  clause : v.clause = w.clause

theorem SameControl.active {w v : Wave} (h : SameControl w v) : v.active = w.active := by
  unfold Wave.active Wave.atPc Wave.runnable Wave.wordAddr Wave.pcAt
  rw [h.exited, h.pc, h.held, h.clause]

theorem SameControl.trans {u v w : Wave} (h : SameControl u v) (k : SameControl v w) : SameControl u w :=
  ⟨k.pc.trans h.pc, k.held.trans h.held, k.exited.trans h.exited, k.clause.trans h.clause⟩

theorem sameControl_issued (c : Ctx) (sp : Spec) (w : Wave) : SameControl w (c.issued sp w) := by
  rw [issued_fields]; exact ⟨rfl, rfl, rfl, rfl⟩

/-- What the completion of an instruction leaves: a wave as it was, but for its control state, and its lanes at the next word. -/
structure Advanced (s u t : State) (c : Ctx) (v : Wave) : Prop where
  frame : OnlyWave u t
  still : (t.wave s.cur).still = v.still
  flags : (t.wave s.cur).k = v.k
  next  : NextWord s t c

theorem advanced_of {s u : State} {c : Ctx} {w v : Wave} (h : Issuing s c w) (hcur : u.cur = s.cur) (hu : u.wave? s.cur = some v)
    (hv : SameControl w v) : Advanced s u (u.advance s.cur) c v := by
  obtain ⟨cl, tv, ts, yd, yi, he⟩ := wave?_finish (s := u) hu fun _ => none
  have ht := wave_eq_of_wave? he
  unfold State.advance
  refine ⟨hcur ▸ onlyWave_finish u fun _ => none, by rw [ht]; rfl, by rw [ht]; rfl, fun l hl => ?_⟩
  rw [ht, h.state, h.active, ← hv.active]
  refine (pcAt_complete v (fun _ => none) hl).trans ?_
  unfold Wave.pcAt
  rw [hv.pc]
  rfl

theorem still_issued (c : Ctx) (sp : Spec) {w : Wave} (hw : w.wait = none) : (c.issued sp w).still = w.still := by
  rw [issued_fields, ← hw]; rfl

theorem flags_issued (c : Ctx) (sp : Spec) (w : Wave) : (c.issued sp w).k = w.k := by rw [issued_fields]

/-! ### A scalar result of variable latency (05 R133) -/

/-- A wave after it takes a scalar result, if there is one. -/
def Wave.take (w : Wave) (tick : Nat) (d : Option (Nat × W64)) : Wave :=
  match d with
  | none => w
  | some (n, x) => w.giveS tick n x

theorem giveS_fields (w : Wave) (tick n : Nat) (x : W64) :
    w.giveS tick n x = { w with s := (w.giveS tick n x).s, inflight := (w.giveS tick n x).inflight } := by
  unfold Wave.giveS; simp only; split <;> rfl

theorem take_fields (w : Wave) (tick : Nat) (d : Option (Nat × W64)) :
    w.take tick d = { w with s := (w.take tick d).s, inflight := (w.take tick d).inflight } := by
  cases d with
  | none => rfl
  | some d => exact giveS_fields w tick d.1 d.2

theorem still_take (w : Wave) (tick : Nat) (d : Option (Nat × W64)) : (w.take tick d).still.noScalars = w.still.noScalars := by
  rw [take_fields]; rfl

theorem flags_take (w : Wave) (tick : Nat) (d : Option (Nat × W64)) : (w.take tick d).k = w.k := by rw [take_fields]

theorem sameControl_take (w : Wave) (tick : Nat) (d : Option (Nat × W64)) : SameControl w (w.take tick d) := by
  rw [take_fields]; exact ⟨rfl, rfl, rfl, rfl⟩

/-- A result that nothing keeps out is the scalar's new value. -/
theorem sget_giveS_issued {s : State} {c : Ctx} {w : Wave} (h : Issuing s c w) (sp : Spec) (n k : Nat) (x : W64) :
    ((c.issued sp w).giveS s.tick n x).sget k = c.given w (some (n, x)) k := by
  have hclause : (c.issued sp w).clause = w.clause := (sameControl_issued c sp w).clause
  have hflight : (c.issued sp w).inflight = c.w.inflight.filter fun p => !(p.landed && p.short == 0) := by
    unfold Ctx.issued; cases sp.held <;> rfl
  have hs : (c.issued sp w).s = w.s := by rw [issued_fields]
  have hkeeps : (!headerOrder (c.issued sp w).clause.header &&
      ((c.issued sp w).inflight.any fun p => !p.landed && p.short != 0 && p.regs.any fun o => o.reg == .scal n) &&
      Config.freeBit s.tick (80000 + n)) = c.lateKeeps n := by
    unfold Ctx.lateKeeps Ctx.ordered
    rw [hclause, hflight, List.any_filter, h.tick, show c.w.clause = w.clause by rw [h.own]]
    congr 3
    funext p
    cases p.landed <;> cases hp : p.short == 0 <;> simp [bne, hp]
  unfold Wave.giveS Ctx.given
  simp only [hkeeps]
  cases hk : c.lateKeeps n with
  | true =>
    simp only [if_true]
    by_cases hkn : k = n
    · subst hkn; simp [hk, Wave.sget, hs]
    · simp [hkn, Wave.sget, hs]
  | false =>
    simp only [Bool.false_eq_true, if_false, Wave.sget, Wave.sset, spGet_spSet, hs]
    by_cases hkn : k = n
    · subst hkn; simp [hk]
    · simp [hkn, Ne.symm hkn]

theorem sget_take_issued {s : State} {c : Ctx} {w : Wave} (h : Issuing s c w) (sp : Spec) (d : Option (Nat × W64)) (k : Nat) :
    ((c.issued sp w).take s.tick d).sget k = c.given w d k := by
  cases d with
  | none => rw [issued_fields]; rfl
  | some d => exact sget_giveS_issued h sp d.1 k d.2

/-! ### Instructions with an immediate effect -/

/-- Beside its effect `e`, an instruction issues, takes its result and completes. -/
theorem quick_outcome {s e : State} {c : Ctx} {w : Wave} (h : Issuing s c w) (sp : Spec) (f : State → State) (d : Option (Nat × W64))
    (sig : Nat) (hcur : e.cur = s.cur) (hwave : e.wave? s.cur = some w)
    (hf : f (s.issue c sp) = e.modWave s.cur fun w => (c.issued sp w).take s.tick d) :
    DoneOutcome s (s.quick c sp f) c e d sig 0 := by
  have hu := wave?_modWave_self hwave fun w => (c.issued sp w).take s.tick d
  obtain ⟨hframe, hstill, hflags, hnext⟩ := advanced_of h (u := e.modWave s.cur _) hcur hu
    ((sameControl_issued c sp w).trans (sameControl_take _ s.tick d))
  unfold State.quick
  rw [hf, h.id]
  refine ⟨(hcur ▸ onlyWave_modWave e _ : OnlyWave e _).trans hframe, ?_, fun n => ?_, hnext, fun n _ => ?_⟩
  · rw [hstill, wave_eq_of_wave? hwave, still_take, still_issued c sp h.wait]
  · rw [h.state, ← sget_take_issued h sp d n]
    exact congrArg (spGet 0 · n) (congrArg Wave.s hstill :)
  · rw [h.state]
    unfold Wave.kget
    rw [hflags, flags_take, flags_issued]
    simp

/-- Where no lane participates an instruction issues and completes. -/
theorem quick_idle {s : State} {c : Ctx} {w : Wave} (h : Issuing s c w) (sp : Spec) (f : State → State) (sig : Nat)
    (hf : f (s.issue c sp) = s.issue c sp) : DoneOutcome s (s.quick c sp f) c s none sig 0 :=
  quick_outcome h sp f none sig rfl h.wave (by rw [hf, issue_eq, h.id]; rfl)

/-- A change of a block that neither reads nor writes its waves. -/
def ShellOnly (g : Block → Block) : Prop := ∀ b ws, g { b with waves := ws } = { g b with waves := ws }

theorem ShellOnly.waves {g : Block → Block} (hg : ShellOnly g) (b : Block) : (g b).waves = b.waves :=
  calc (g b).waves = (g { b with waves := b.waves }).waves := rfl
    _ = b.waves := by rw [hg]

theorem modWave_modBlock (s : State) (id : WaveId) (f : Wave → Wave) {g : Block → Block} (hg : ShellOnly g) :
    (s.modWave id f).modBlock id g = (s.modBlock id g).modWave id f := by
  unfold State.modWave
  rw [modBlock_modBlock, modBlock_modBlock]
  congr 1
  funext b
  rw [hg, hg.waves]

theorem wave?_modBlock_shell (s : State) (id u : WaveId) {g : Block → Block} (hg : ShellOnly g) : (s.modBlock id g).wave? u = s.wave? u :=
  wave?_of_block s id g hg.waves u

/-- An instruction whose effect is a change of its block's shell and a result. -/
theorem quick_block {s : State} {c : Ctx} {w : Wave} (h : Issuing s c w) (sp : Spec) (f : State → State) {g : Block → Block}
    (hg : ShellOnly g) (d : Option (Nat × W64)) (sig : Nat)
    (hf : f (s.issue c sp) = ((s.issue c sp).modBlock s.cur g).modWave s.cur (Wave.take · s.tick d)) :
    DoneOutcome s (s.quick c sp f) c (s.modBlock s.cur g) d sig 0 :=
  quick_outcome h sp f d sig rfl ((wave?_modBlock_shell s s.cur s.cur hg).trans h.wave) (by
    rw [hf, issue_eq, h.id, modWave_modBlock _ _ _ hg, modWave_modWave])

/-- A change that leaves a block as it is leaves the machine as it is. -/
theorem modBlock_id (s : State) (id : WaveId) {g : Block → Block} (hg : ∀ b, g b = b) : s.modBlock id g = s := by
  unfold State.modBlock spMod
  simp [hg]

theorem modWave_id (s : State) (id : WaveId) {f : Wave → Wave} (hf : ∀ w, f w = w) : s.modWave id f = s :=
  modBlock_id s id fun b => by unfold spMod; simp [hf]

/-- An instruction whose effect is a change of its block's shell, without a result. -/
theorem quick_shell {s : State} {c : Ctx} {w : Wave} (h : Issuing s c w) (sp : Spec) (f : State → State) {g : Block → Block}
    (hg : ShellOnly g) (sig : Nat) (hf : f (s.issue c sp) = (s.issue c sp).modBlock s.cur g) :
    DoneOutcome s (s.quick c sp f) c (s.modBlock s.cur g) none sig 0 :=
  quick_block h sp f hg none sig (hf.trans (modWave_id _ _ fun _ => rfl).symm)

/-- An instruction of the scalar class with an immediate effect (06 R152). -/
theorem actResult_of_quick {i : Instr} {sp : Spec} {own : State → Ctx → List Fail} {eff : State → Ctx → State}
    {dst : State → Ctx → Option (Nat × W64)} {f : Ctx → State → State}
    (hexec : ∀ s, exec i s = .next (run sp (own s) noResume (fun c s => s.quick c sp (f c)) s))
    (hidle : ∀ c t, c.part = 0 → f c t = t)
    (hact : ∀ s c w, Issuing s c w → s.clear sp (own s) = some c → c.part ≠ 0 →
      DoneOutcome s (s.quick c sp (f c)) c (eff s c) (dst s c) sp.ctl.sig.toNat 0) :
    ActResult i sp own (fun _ _ => True) eff dst := by
  intro s c hc
  obtain ⟨w, hw⟩ := issuing_of_clear hc
  have hrun : exec i s = .next (s.quick c sp (f c)) := by rw [hexec, run_clear hc]
  exact ⟨fun hp _ => ⟨_, hrun, hact s c w hw hc hp⟩, fun hp => ⟨_, hrun, quick_idle hw sp (f c) _ (hidle c _ hp)⟩⟩

end Sys2Proof.Machine
end

section
/-! Handles of Fronds (02 R66, 07 R197): the obligation O22. -/

namespace Sys2Proof.Machine

open Sys2Proof

theorem ofNat_mod_pow (n k : Nat) : BitVec.ofNat 64 (n % 2 ^ k) = (BitVec.ofNat k n).zeroExtend 64 := by
  apply BitVec.eq_of_toNat_eq
  simp

/-- Six fields that do not overlap, joined by OR, are their concatenation. -/
theorem or_fields_eq_append (g : BitVec 8) (k : BitVec 12) (s : BitVec 4) (w : BitVec 5) (t : BitVec 4) (p : W64)
    (hp : ∀ i, 31 ≤ i → p.getLsbD i = false) :
    p ||| (g.zeroExtend 64 <<< 56) ||| (k.zeroExtend 64 <<< 44) ||| (s.zeroExtend 64 <<< 40) ||| (w.zeroExtend 64 <<< 35) |||
      (t.zeroExtend 64 <<< 31) = g ++ k ++ s ++ w ++ t ++ p.extractLsb' 0 31 := by
  apply BitVec.eq_of_getLsbD_eq
  intro i hi
  simp only [BitVec.getLsbD_or, BitVec.getLsbD_shiftLeft, BitVec.getLsbD_append, BitVec.truncate_eq_setWidth, BitVec.getLsbD_setWidth,
    BitVec.getLsbD_extractLsb', hi, decide_true, Bool.true_and]
  have hcase : i < 31 ∨ 31 ≤ i ∧ i < 35 ∨ 35 ≤ i ∧ i < 40 ∨ 40 ≤ i ∧ i < 44 ∨ 44 ≤ i ∧ i < 56 ∨ 56 ≤ i := by omega
  rcases hcase with h | h | h | h | h | h
  all_goals grind

/-- A parameter word that passes its checks uses only the bits [30:2] (02 R66). -/
theorem fexp_parameter {f : F} {c : Ctx} (h : fexpFails f c = []) (hp : c.part ≠ 0)
    (hfail : ∀ cause a, failAll c.active cause a ≠ []) {i : Nat} (hi : 31 ≤ i) : (c.scalar f.a).getLsbD i = false := by
  have hmask : ∀ j, 31 ≤ j → j < 64 → (0xFFFFFFFF80000003#64).getLsbD j = true := by decide
  unfold fexpFails at h
  simp only [if_neg hp] at h
  split at h
  · exact absurd h (hfail _ _)
  · rename_i hbits
    simp only [Bool.or_eq_true, not_or, bne_iff_ne, not_not] at hbits
    by_cases h64 : i < 64
    · have hand := congrArg (BitVec.getLsbD · i) hbits.1.1.1
      simpa [hmask i hi h64] using hand
    · exact BitVec.getLsbD_of_ge _ _ (by omega)

/-- The completed handle, field by field. -/
theorem handle_eq {c : Ctx} {p : W64} (hp : ∀ i, 31 ≤ i → p.getLsbD i = false) (gen : BitVec 8) :
    c.handle p gen = gen ++ BitVec.ofNat 12 c.id.core ++ BitVec.ofNat 4 c.id.slot ++ BitVec.ofNat 5 c.id.wave ++
      BitVec.ofNat 4 c.l.tenant ++ p.extractLsb' 0 31 := by
  unfold Ctx.handle
  rw [show (4096 : Nat) = 2 ^ 12 from rfl, show (16 : Nat) = 2 ^ 4 from rfl, show (32 : Nat) = 2 ^ 5 from rfl]
  simp only [ofNat_mod_pow]
  exact or_fields_eq_append gen _ _ _ _ p hp

/-- Settles O22: FEXP writes the completed handle and changes nothing else. -/
theorem frondHandles : Obligations.FrondHandles := by
  intro f
  refine actResult_of_quick (fun _ => rfl) (fun c t hp => if_pos hp) fun s c w hw hc hp => ?_
  obtain ⟨hctx, -, -, -, -, hfails⟩ := clear_spec hc
  have hown := List.append_eq_nil_iff.mp hfails |>.2
  refine quick_outcome hw (fexpSpec f) _ _ _ rfl hw.wave ?_
  rw [if_neg hp, handle_eq (fun i => fexp_parameter hown hp (failAll_ne_nil hctx hw hp)), issue_eq, hw.id]
  exact modWave_modWave s s.cur _ _

end Sys2Proof.Machine
end

section
/-! LDC and STC (02 R61, 07 R188): the obligation O26. -/

namespace Sys2Proof.Machine

open Sys2Proof

theorem laneWritesN_word (c : Ctx) (f : BitVec 10) (k : Nat) (v : Nat → Nat → W32) :
    ∀ x ∈ c.laneWritesN f k v, x.reg.word x.lane := by
  intro x hx
  unfold Ctx.laneWritesN at hx
  obtain ⟨l, hl, hx⟩ := List.mem_flatMap.mp hx
  split at hx
  · cases hx
  · obtain ⟨i, -, rfl⟩ := List.mem_map.mp hx
    exact mem_lanes32.mp (List.mem_of_mem_filter hl)

theorem shellOnly_setArea (tile : Bool) (off : Nat) (bs : List Byte) : ShellOnly (Block.setArea · tile off bs) := by
  intro b ws; unfold Block.setArea; cases tile <;> rfl

/-- Changes of a block's shell in succession. -/
theorem ShellOnly.comp {g k : Block → Block} (hg : ShellOnly g) (hk : ShellOnly k) : ShellOnly fun b => k (g b) :=
  fun b ws => (congrArg k (hg b ws)).trans (hk (g b) ws)

theorem shellOnly_foldl {α : Type} {g : Block → α → Block} (hg : ∀ a, ShellOnly (g · a)) (ls : List α) : ShellOnly (ls.foldl g) := by
  induction ls with
  | nil => exact fun _ _ => rfl
  | cons a t ih => exact (hg a).comp ih

theorem ldc_outcome (f : F) {s : State} {c : Ctx} (hc : s.clear (ldcSpec f) (areaFails f false) = some c) :
    (c.part ≠ 0 → ∃ t, exec (.ldc f) s = .next t ∧ FixedOutcome s t c (ldcSpec f) (c.laneWritesN f.d (regsOf (accessBytes f.m)) fun l k =>
      loadedWord f.m ((List.range (accessBytes f.m)).map fun i =>
        spGet 0 (if f.m.getLsbD 3 then c.b.tile else c.b.common) ((c.lane f.a l 0 + c.lane f.b l 0).toNat + i)) k) 0) ∧
    (c.part = 0 → ∃ t, exec (.ldc f) s = .next t ∧ DoneOutcome s t c s none f.ctl.sig.toNat 0) := by
  obtain ⟨w, hw⟩ := issuing_of_clear hc
  obtain ⟨hctx, hwait, -⟩ := clear_spec hc
  have hrun : exec (.ldc f) s = .next (if c.part = 0 then s.quick c (ldcSpec f) id else _) := congrArg _ (run_clear hc noResume _)
  refine ⟨fun hp => ⟨_, by rw [hrun, if_neg hp], ?_⟩, fun hp => ⟨_, by rw [hrun, if_pos hp], quick_idle hw _ id _ rfl⟩⟩
  exact fixed_outcome hctx hwait (ldcSpec f) _ 0 (laneWritesN_word c f.d _ _)

theorem stc_outcome (f : F) : ActResult (.stc f) (stcSpec f) (fun _ => areaFails f true) (fun _ _ => True)
    (fun s c => s.modBlock s.cur fun b => (lanesOf c.part).foldl (fun b l =>
      b.setArea (f.m.getLsbD 3) (c.lane f.a l 0 + c.lane f.b l 0).toNat (storedBytes (accessBytes f.m) fun k => c.laneReg f.d k l)) b)
    (fun _ _ => none) := by
  refine actResult_of_quick (fun _ => rfl) (fun c t hp => modBlock_id t c.id fun b => by rw [hp]; rfl) fun s c w hw hc hp => ?_
  exact quick_shell hw _ _ (shellOnly_foldl (fun l => shellOnly_setArea _ _ _) (lanesOf c.part)) _ (by rw [hw.id]; rfl)

/-- Settles O26: LDC is a fixed-latency instruction, STC changes the areas of its block. -/
theorem areaAccesses : Obligations.AreaAccesses :=
  fun f => ⟨fun _ _ hc => ldc_outcome f hc, stc_outcome f⟩

end Sys2Proof.Machine
end

section
/-! AMSEND without participating lanes (07 R210, 22 R376): the refutation of O23. -/

namespace Sys2Proof.Machine

open Sys2Proof

/-! ### A message that no lane sends -/

/-- An AMSEND whose guard, predicate 5, is clear in every lane; s16 holds the handler's address. -/
def unsentMessage : F := ⟨⟨0, 15, 0, 5, 0⟩, 0, 0x290, 0x291, 0⟩

/-- The wave at that instruction: the handler's page has no valid root any more, and its translation is still held (22 R376). -/
def unsentState : State :=
  { (State.reset.placeWord (BitVec.ofNat 64 (0x190 * 2 ^ 54))).modWave ⟨0, 0, 0⟩ (·.sset 16 0x10000) with
    held := [⟨0, 0x10000, 65536, 0⟩] }

theorem unsent_clear : ∃ c, unsentState.clear (amsendSpec unsentMessage) (amsendFails unsentMessage unsentState) = some c ∧ c.part = 0 := by
  have h : ((unsentState.clear (amsendSpec unsentMessage) (amsendFails unsentMessage unsentState)).any fun c => c.part == 0) = true := by
    decide +kernel
  cases hc : unsentState.clear (amsendSpec unsentMessage) (amsendFails unsentMessage unsentState) with
  | none => rw [hc] at h; cases h
  | some c => exact ⟨c, rfl, by rw [hc] at h; simpa using h⟩

/-- The device gives up the translation of the handler's page, whose read fails. -/
theorem unsent_unheld {t : State} (h : exec (.amsend unsentMessage) unsentState = .next t) : t.held = [] := by
  have hheld : (match exec (.amsend unsentMessage) unsentState with
    | .next u => u.held == []
    | _ => false) = true := by decide +kernel
  rw [h] at hheld
  simpa using hheld

/-- Refutes O23: an AMSEND in which no lane participates still drops the held translation of its handler's page where the page no longer
translates, so that the machine is not as it was. -/
theorem not_messagesAndSegments : ¬ Obligations.MessagesAndSegments := by
  rintro ⟨hsend, -⟩
  obtain ⟨c, hc, hp⟩ := unsent_clear
  obtain ⟨t, ht, hdone⟩ := (hsend unsentMessage unsentState c hc).2 hp
  have hsame : t.held = unsentState.held := by rw [hdone.machine.machine]
  rw [unsent_unheld ht] at hsame
  cases hsame

end Sys2Proof.Machine
end

section
/-! Frond accesses at their owner core, and the values that return (02 R68-R73, 07 R199): the obligation O43. -/

namespace Sys2Proof.Machine

open Sys2Proof

/-! ### Values that land (07 R185) -/

theorem landAll_append (w : Wave) (tick : Nat) (ws : List (Nat × W32)) (x : Nat × W32) :
    w.landAll tick (ws ++ [x]) = (w.landAll tick ws).land tick x.1 x.2 := by
  unfold Wave.landAll; rw [List.foldl_append]; rfl

theorem land_fields (w : Wave) (tick d : Nat) (x : W32) : w.land tick d x = { w with
    v := (w.land tick d x).v, pend := (w.land tick d x).pend, inflight := (w.land tick d x).inflight } := by
  unfold Wave.land; simp only; split <;> rfl

theorem landAll_fields (w : Wave) (tick : Nat) (ws : List (Nat × W32)) : w.landAll tick ws = { w with
    v := (w.landAll tick ws).v, pend := (w.landAll tick ws).pend, inflight := (w.landAll tick ws).inflight } := by
  induction ws using List.reverseRecOn with
  | nil => rfl
  | append_singleton ws x ih =>
    rw [landAll_append, land_fields]
    generalize w.landAll tick ws = u at ih ⊢
    rw [ih]

/-- Behind covered results a value that lands is what its word holds. -/
theorem land_covered {w : Wave} (h : w.covered) (tick d : Nat) (x : W32) : w.land tick d x =
    { ({ w with pend := spSet false w.pend d false } : Wave).vset (d / 32) (d % 32) x with
      inflight := w.inflight.map fun p => { p with regs := p.regs.filter fun o => !(o.reg == .vec (d / 32) && o.lane == d % 32) } } := by
  unfold Wave.land
  have hany : (w.inflight.any fun p => !p.landed && p.short != 0 &&
      p.regs.any fun o => o.reg == .vec (d / 32) && o.lane == d % 32) = false := by
    rw [List.any_eq_false]
    intro p hp
    rcases h p hp with hl | hs
    · simp [hl]
    · simp [hs]
  simp only [hany, Bool.false_and, Bool.false_eq_true, if_false]

theorem covered_land {w : Wave} (h : w.covered) (tick d : Nat) (x : W32) : (w.land tick d x).covered := by
  intro p hp
  rw [land_covered h] at hp
  obtain ⟨q, hq, rfl⟩ := List.mem_map.mp hp
  exact h q hq

theorem covered_landAll {w : Wave} (h : w.covered) (tick : Nat) (ws : List (Nat × W32)) : (w.landAll tick ws).covered := by
  induction ws using List.reverseRecOn with
  | nil => exact h
  | append_singleton ws x ih => rw [landAll_append]; exact covered_land ih tick _ _

/-- Each word holds the last value that lands in it. -/
theorem word_landAll {w : Wave} (h : w.covered) (tick : Nat) (ws : List (Nat × W32)) (d : Nat) :
    spGet 0 (w.landAll tick ws).v d = ((ws.reverse.find? fun x => x.1 == d).map Prod.snd).getD (spGet 0 w.v d) := by
  induction ws using List.reverseRecOn with
  | nil => rfl
  | append_singleton ws x ih =>
    rw [landAll_append, land_covered (covered_landAll h tick ws), List.reverse_append, List.reverse_singleton, List.singleton_append]
    unfold Wave.vset
    simp only [spGet_spSet, Nat.div_add_mod']
    by_cases hx : x.1 = d
    · rw [if_pos hx, List.find?_cons_of_pos (by simp [hx])]; rfl
    · rw [if_neg hx, List.find?_cons_of_neg (by simp [hx]), ih]

theorem pend_landAll (w : Wave) (tick : Nat) (ws : List (Nat × W32)) (d : Nat) :
    spGet false (w.landAll tick ws).pend d = (spGet false w.pend d && !(ws.any fun x => x.1 == d)) := by
  induction ws using List.reverseRecOn with
  | nil => simp [Wave.landAll]
  | append_singleton ws x ih =>
    have hp : ((w.landAll tick ws).land tick x.1 x.2).pend = spSet false (w.landAll tick ws).pend x.1 false := by
      unfold Wave.land; simp only; split <;> rfl
    rw [landAll_append, hp, spGet_spSet, ih, List.any_append]
    by_cases hx : x.1 = d
    · simp [hx]
    · simp [hx, beq_eq_false_iff_ne.mpr hx]

/-! ### The entry of an access -/

/-- An access ends: its flag counts down and its entry is freed. -/
def Wave.endLog (w : Wave) (i : Nat) (e : LogEntry) : Wave :=
  { (w.flagDown (ctlOf e.word).sig.toNat) with log := spDel w.log i }

theorem endLog_fields (w : Wave) (i : Nat) (e : LogEntry) :
    w.endLog i e = { w with k := (w.flagDown (ctlOf e.word).sig.toNat).k, log := spDel w.log i } := by
  unfold Wave.endLog; rw [flagDown_fields]

theorem endEntry_alone {s : State} {id : WaveId} {i : Nat} {w : Wave} {e : LogEntry} (hw : s.wave? id = some w)
    (he : spFind w.log i = some e) (halone : w.reissue = []) : s.endEntry id i = s.modWave id (Wave.endLog · i e) := by
  have hw' : (s.modWave id (Wave.endLog · i e)).wave id = w.endLog i e := wave_modWave_self hw _
  unfold State.endEntry
  rw [wave_eq_of_wave? hw, he]
  simp only
  rw [if_neg]
  · rfl
  · change ((s.modWave id (Wave.endLog · i e)).wave id).reissue.head? ≠ some i
    rw [hw', endLog_fields, halone]
    simp

theorem wave?_modWave_other (s : State) {id u : WaveId} (f : Wave → Wave) (h : ¬ (wkey id = wkey u ∧ id.wave = u.wave)) :
    (s.modWave id f).wave? u = s.wave? u := by
  rw [wave?_modWave, if_neg h]

theorem wave_modWave_other (s : State) {id u : WaveId} (f : Wave → Wave) (h : ¬ (wkey id = wkey u ∧ id.wave = u.wave)) :
    (s.modWave id f).wave u = s.wave u := by
  unfold State.wave; rw [wave?_modWave_other s f h]

/-- An entry takes a new form. -/
theorem entryOutcome_modEntry {s : State} {id : WaveId} {i : Nat} {w : Wave} {e : LogEntry} (hw : s.wave? id = some w)
    (he : spFind w.log i = some e) (e' : LogEntry) : EntryOutcome id s (s.modEntry id i fun _ => e') i e' := by
  have ht : (s.modEntry id i fun _ => e').wave id = { w with log := spMod w.log i fun _ => e' } := wave_modWave_self hw _
  refine ⟨oneWave_modWave s id _, by rw [ht, wave_eq_of_wave? hw], fun j => ?_⟩
  rw [ht, wave_eq_of_wave? hw]
  simp only [spFind_spMod]
  by_cases hj : i = j
  · subst hj; simp [he]
  · simp [hj, Ne.symm hj]

/-- The values of an access land and it ends. -/
theorem landOutcome_of {s : State} {id : WaveId} {i : Nat} {w : Wave} {e : LogEntry} (hw : s.wave? id = some w)
    (he : spFind w.log i = some e) (halone : w.reissue = []) (hcov : w.covered) (ws : List (Nat × W32)) :
    LandOutcome id s ((s.modWave id fun w => w.landAll s.tick ws).endEntry id i) i e ws := by
  have hlog : (w.landAll s.tick ws).log = w.log := by rw [landAll_fields]
  have hre : (w.landAll s.tick ws).reissue = [] := by rw [landAll_fields]; exact halone
  have hw1 := wave?_modWave_self hw fun w => w.landAll s.tick ws
  rw [endEntry_alone hw1 (by rw [hlog]; exact he) hre, modWave_modWave]
  have ht : (s.modWave id fun w => (w.landAll s.tick ws).endLog i e).wave id = (w.landAll s.tick ws).endLog i e := wave_modWave_self hw _
  refine ⟨oneWave_modWave s id _, ?_, fun j => ?_, fun n hn => ?_, fun d => ?_, fun d => ?_⟩ <;>
    rw [ht, wave_eq_of_wave? hw, endLog_fields]
  · rw [landAll_fields]; rfl
  · simp only [spFind_spDel, hlog, eq_comm]
  · refine (kget_flagDown (w.landAll s.tick ws) hn).trans ?_
    rw [landAll_fields]; rfl
  · unfold Wave.vget
    rw [Nat.div_add_mod']
    exact word_landAll hcov s.tick ws d
  · exact pend_landAll w s.tick ws d

/-! ### At the owner core (02 R68-R73) -/

section
variable {s : State} {id : WaveId} {i : Nat} {b : Block} {l : Launch} {w : Wave} {e : LogEntry}

/-- No lane meets a cause: the list of failures is empty. -/
theorem frondCause_none (hcause : ∀ k ∈ lanesOf e.lanes, s.frondCause e id l.tenant k = none) :
    ((lanesOf e.lanes).filterMap fun k => (s.frondCause e id l.tenant k).map fun x => (⟨k, x, e.handleAt k⟩ : Fail)) = [] :=
  List.filterMap_eq_nil_iff.mpr fun k hk => by rw [hcause k hk]; rfl

theorem frondOwnerAccess_reads (ha : Access s id i b l w e) (hop : e.opcode = 0x112) (hstage : e.stage = 0)
    (htag : s.tagFree b e.phase = true) (hold : w.olderFrond e = false) (hpub : s.publishHeld b w e.seq = false)
    (hcause : ∀ k ∈ lanesOf e.lanes, s.frondCause e id l.tenant k = none) :
    s.frondOwnerAccess id i = s.modEntry id i fun _ => { e with
      stage := 2, old := (lanesOf e.lanes).map fun k => (k, (s.ownerRead e k).zeroExtend 64) } := by
  have hfrond : e.isFrond = true := by simp [LogEntry.isFrond, hop]
  unfold State.frondOwnerAccess
  simp [ha.block, wave_eq_of_wave? ha.wave, ha.entry, ha.launch, ha.alone, ha.live, hfrond, hold, hpub, hstage, htag, frondCause_none hcause, hop]

theorem frondOwnerAccess_accepts (ha : Access s id i b l w e) (hop : e.opcode = 0x113) (hstage : e.stage = 0)
    (htag : s.tagFree b e.phase = true) (hold : w.olderFrond e = false) (hpub : s.publishHeld b w e.seq = false)
    (hcause : ∀ k ∈ lanesOf e.lanes, s.frondCause e id l.tenant k = none)
    (hlanded : ∀ k ∈ lanesOf e.lanes, (s.wave (e.ownerWord k).1).unlanded (e.ownerWord k).2.1 (e.ownerWord k).2.2 = false) :
    s.frondOwnerAccess id i = s.acceptFwr id i e := by
  have hfrond : e.isFrond = true := by simp [LogEntry.isFrond, hop]
  have hany : ((lanesOf e.lanes).any fun k => (s.wave (e.ownerWord k).1).unlanded (e.ownerWord k).2.1 (e.ownerWord k).2.2) = false := by
    simpa [List.any_eq_false] using hlanded
  unfold State.frondOwnerAccess
  simp only [ha.block, wave_eq_of_wave? ha.wave, ha.entry, ha.launch, ha.alone, List.head?_nil, reduceCtorEq, false_and, if_false, hany]
  simp [ha.live, hfrond, hold, hpub, hstage, htag, frondCause_none hcause, hop]

theorem frondOwnerAccess_lands (ha : Access s id i b l w e) (hop : e.opcode = 0x113) (hstage : e.stage = 1)
    (hold : w.olderFrond e = false) (hpub : s.publishHeld b w e.seq = false) :
    s.frondOwnerAccess id i = ((lanesOf e.lanes).foldl (fun s k => s.landFwr e k) s).endEntry id i := by
  have hfrond : e.isFrond = true := by simp [LogEntry.isFrond, hop]
  unfold State.frondOwnerAccess
  simp [ha.block, wave_eq_of_wave? ha.wave, ha.entry, ha.launch, ha.alone, ha.live, hfrond, hold, hpub, hstage, hop]

theorem frondResponse_lands (ha : Access s id i b l w e) (hop : e.opcode = 0x112) (hstage : e.stage = 2) :
    s.frondResponse id i = (s.modWave id fun w => w.landAll s.tick (e.dests.zip ((lanesOf e.lanes).map fun k =>
      ((spFind e.old k).getD 0).extractLsb' 0 32))).endEntry id i := by
  unfold State.frondResponse
  simp only [wave_eq_of_wave? ha.wave, ha.entry]
  rw [if_pos ⟨hop, ha.live, hstage⟩]

/-- The entry of a write of one lane that the owner core has accepted: it keeps the tag of the allocation (02 R73). -/
def LogEntry.accepted (e : LogEntry) (k : Nat) (ob : Block) : LogEntry := { e with
  stage := 1, data := e.data ++ [(4 * k + 3, BitVec.ofNat 64 ob.uid)], old := [(k, BitVec.ofNat 64 ob.gen)] }

/-- The owner core accepts the write of one lane: its word is pending, and the entry keeps the tag of the allocation. -/
theorem acceptFwr_lane {k : Nat} {ob : Block} (hk : lanesOf e.lanes = [k]) (hb : s.block? (e.ownerWord k).1 = some ob) :
    s.acceptFwr id i e = ((s.modWave (e.ownerWord k).1 fun v => v.setPend [(e.ownerWord k).2.1 * 32 + (e.ownerWord k).2.2] true).modEntry
      id i fun _ => e.accepted k ob) := by
  unfold State.acceptFwr LogEntry.accepted
  simp [hk, hb]

/-- A write whose tag still holds its value lands in the owner's register. -/
theorem landFwr_tagged {k : Nat} {ob : Block} (hb : s.block? (e.ownerWord k).1 = some ob)
    (huid : BitVec.ofNat 64 ob.uid = (spFind e.data (4 * k + 3)).getD 0) (hgen : BitVec.ofNat 64 ob.gen = (spFind e.old k).getD 0) :
    s.landFwr e k = s.modWave (e.ownerWord k).1 fun v =>
      (v.vset (e.ownerWord k).2.1 (e.ownerWord k).2.2 (((spFind e.data (4 * k + 2)).getD 0).extractLsb' 0 32)).setPend
        [(e.ownerWord k).2.1 * 32 + (e.ownerWord k).2.2] false := by
  unfold State.landFwr State.landFwrBut
  simp [hb, huid, hgen]

theorem spFind_append {α : Type} (m n : Sparse α) (j : Nat) : spFind (m ++ n) j = (spFind m j).or (spFind n j) := by
  induction m with
  | nil => rfl
  | cons x t ih => simp only [List.cons_append, spFind, ih]; split <;> rfl

/-- FWR of one lane is accepted (02 R70, R73). -/
theorem fwr_accepted (ha : Access s id i b l w e) {k : Nat} {ob : Block} (hop : e.opcode = 0x113) (hstage : e.stage = 0)
    (htag : s.tagFree b e.phase = true) (hold : w.olderFrond e = false) (hpub : s.publishHeld b w e.seq = false)
    (hk : lanesOf e.lanes = [k]) (hcause : s.frondCause e id l.tenant k = none)
    (hlanded : (s.wave (e.ownerWord k).1).unlanded (e.ownerWord k).2.1 (e.ownerWord k).2.2 = false)
    (hother : ¬ (wkey (e.ownerWord k).1 = wkey id ∧ (e.ownerWord k).1.wave = id.wave)) (hb : s.block? (e.ownerWord k).1 = some ob)
    (hv : (s.wave? (e.ownerWord k).1).isSome = true) (hdata : spFind e.data (4 * k + 3) = none) :
    ∃ t e', exec (.frondOwnerAccess id i) s = .next t ∧ spFind (t.wave id).log i = some e' ∧ e'.stage = 1 ∧ e'.state = 1 ∧
      spFind e'.data (4 * k + 3) = some (BitVec.ofNat 64 ob.uid) ∧ spFind e'.old k = some (BitVec.ofNat 64 ob.gen) ∧
      (∀ d, spGet false (t.wave (e.ownerWord k).1).pend d =
        (decide (d = (e.ownerWord k).2.1 * 32 + (e.ownerWord k).2.2) || spGet false (s.wave (e.ownerWord k).1).pend d)) ∧
      { (t.wave (e.ownerWord k).1) with pend := [] } = { (s.wave (e.ownerWord k).1) with pend := [] } ∧ t.mem = s.mem := by
  have hexec : exec (.frondOwnerAccess id i) s = .next (s.frondOwnerAccess id i) := rfl
  rw [frondOwnerAccess_accepts ha hop hstage htag hold hpub (by rw [hk]; simpa using hcause) (by rw [hk]; simpa using hlanded),
    acceptFwr_lane hk hb] at hexec
  generalize e.ownerWord k = o at *
  obtain ⟨v, hv⟩ := Option.isSome_iff_exists.mp hv
  have hother' : ¬ (wkey id = wkey o.1 ∧ id.wave = o.1.wave) := fun h => hother ⟨h.1.symm, h.2.symm⟩
  have hwave := (wave?_modWave_other s (fun v => v.setPend [o.2.1 * 32 + o.2.2] true) hother).trans ha.wave
  have hreader := wave_eq_of_wave? (wave?_modWave_self hwave fun w => { w with log := spMod w.log i fun _ => e.accepted k ob })
  have howner : ((s.modWave o.1 fun v => v.setPend [o.2.1 * 32 + o.2.2] true).modEntry id i fun _ => e.accepted k ob).wave o.1 =
      v.setPend [o.2.1 * 32 + o.2.2] true := (wave_modWave_other _ _ hother').trans (wave_modWave_self hv _)
  refine ⟨_, e.accepted k ob, hexec, ?_, rfl, ha.live, ?_, ?_, fun d => ?_, ?_, rfl⟩
  · refine (congrArg (fun w : Wave => spFind w.log i) hreader).trans ?_
    simp only [spFind_spMod, if_pos, ha.entry, Option.map_some]
  · refine (spFind_append _ _ _).trans ?_
    rw [hdata]
    simp [spFind]
  · simp [LogEntry.accepted, spFind]
  · rw [howner, wave_eq_of_wave? hv]
    simp only [Wave.setPend, List.foldl_cons, List.foldl_nil, spGet_spSet]
    by_cases hd : o.2.1 * 32 + o.2.2 = d
    · simp [hd]
    · simp [hd, Ne.symm hd]
  · rw [howner, wave_eq_of_wave? hv]; rfl

/-- FWR of one lane lands (02 R69, R73). -/
theorem fwr_lands (ha : Access s id i b l w e) {k : Nat} {ob : Block} (hop : e.opcode = 0x113) (hstage : e.stage = 1)
    (hold : w.olderFrond e = false) (hpub : s.publishHeld b w e.seq = false) (hk : lanesOf e.lanes = [k])
    (hother : ¬ (wkey (e.ownerWord k).1 = wkey id ∧ (e.ownerWord k).1.wave = id.wave)) (hb : s.block? (e.ownerWord k).1 = some ob)
    (hv : (s.wave? (e.ownerWord k).1).isSome = true) (huid : BitVec.ofNat 64 ob.uid = (spFind e.data (4 * k + 3)).getD 0)
    (hgen : BitVec.ofNat 64 ob.gen = (spFind e.old k).getD 0) :
    ∃ t, exec (.frondOwnerAccess id i) s = .next t ∧
      (t.wave (e.ownerWord k).1).vget (e.ownerWord k).2.1 (e.ownerWord k).2.2 = ((spFind e.data (4 * k + 2)).getD 0).extractLsb' 0 32 ∧
      spGet false (t.wave (e.ownerWord k).1).pend ((e.ownerWord k).2.1 * 32 + (e.ownerWord k).2.2) = false ∧
      { (t.wave (e.ownerWord k).1) with v := [], pend := [] } = { (s.wave (e.ownerWord k).1) with v := [], pend := [] } ∧
      spFind (t.wave id).log i = none ∧ t.mem = s.mem := by
  have hexec : exec (.frondOwnerAccess id i) s = .next (s.frondOwnerAccess id i) := rfl
  rw [frondOwnerAccess_lands ha hop hstage hold hpub, hk, List.foldl_cons, List.foldl_nil, landFwr_tagged hb huid hgen] at hexec
  generalize e.ownerWord k = o at *
  obtain ⟨v, hv⟩ := Option.isSome_iff_exists.mp hv
  have hother' : ¬ (wkey id = wkey o.1 ∧ id.wave = o.1.wave) := fun h => hother ⟨h.1.symm, h.2.symm⟩
  have hwave := (wave?_modWave_other s (fun v => (v.vset o.2.1 o.2.2 (((spFind e.data (4 * k + 2)).getD 0).extractLsb' 0 32)).setPend
    [o.2.1 * 32 + o.2.2] false) hother).trans ha.wave
  rw [endEntry_alone hwave ha.entry ha.alone] at hexec
  refine ⟨_, hexec, ?_⟩
  rw [wave_modWave_other _ _ hother', wave_modWave_self hv, wave_modWave_self hwave, wave_eq_of_wave? hv, endLog_fields]
  refine ⟨?_, ?_, rfl, ?_, rfl⟩
  · simp [Wave.setPend, Wave.vset, Wave.vget]
  · simp [Wave.setPend]
  · simp [spFind_spDel]

end

/-- Settles O43: an access that nothing holds back is read, accepted or lands. -/
theorem frondSteps : Obligations.FrondSteps := by
  intro s id i b l w e ha
  refine ⟨fun hop hstage htag hold hpub hcause => ⟨_, congrArg Host.Outcome.next (frondOwnerAccess_reads ha hop hstage htag hold hpub hcause),
      entryOutcome_modEntry ha.wave ha.entry _⟩,
    fun hop hstage hcov => ⟨_, congrArg Host.Outcome.next (frondResponse_lands ha hop hstage), landOutcome_of ha.wave ha.entry ha.alone hcov _⟩, ?_, ?_⟩
  · rintro k o ob hop hstage htag hold hpub hk rfl hcause hlanded hother hb hv hdata
    exact fwr_accepted ha hop hstage htag hold hpub hk hcause hlanded hother hb hv hdata
  · rintro k o ob hop hstage hold hpub hk rfl hother hb hv huid hgen
    exact fwr_lands ha hop hstage hold hpub hk hother hb hv huid hgen

end Sys2Proof.Machine
end

section
/-! A copy that carries a seal (07 R194, 12 R300): the refutation of O45. -/

namespace Sys2Proof.Machine

open Sys2Proof

/-! ### An operation that waits for a seal -/

/-- A KICK with one unit to read and to land in the common area, which has begun and carries the number of a seal. In a run only the
operation of a .rep collective carries one; the statement leaves the field free. -/
def sealedCopy : EngineOp :=
  { id := 0, kind := .kick, w := ⟨0, 0, 0⟩, uid := 0, gen := 0, sig := 15, entry := none, unit := 8, rd := [(0, 0)], rdSpace := .memory
    wr := [(0, 0)], wrSpace := .common, buf := [], barrier := 0, credit := 0, post := false, tag := 0, scan := none, inst := none
    sealNo := some 0, status := 0, virt := [], faulted := false, phase := 0, begun := true }

/-- A block whose journal still holds a line of that seal. -/
def sealedBlock : Block := { fetchBlock 0x107 with journal := ⟨0, 0, 1, [⟨0, 0, 0, []⟩], []⟩ }

def sealedState : State := { State.reset with blocks := [(0, sealedBlock)], launches := [(0, fetchLaunch)], ops := [(0, sealedCopy)] }

/-- The publish point of the seal is not reached, so the operation reads nothing. -/
theorem sealedState_waits : sealedState.engineReturnLand 0 = sealedState := by
  have hwaits : sealedState.collSealed sealedCopy = false := by decide +kernel
  have hop : spFind sealedState.ops 0 = some sealedCopy := rfl
  unfold State.engineReturnLand
  rw [hop]
  simp only [hwaits, or_true, if_true]

/-- Refutes O45: one read of a KICK into the common area does not land where the operation carries a seal that is not yet published:
`engineReturnLand` waits for the seal of every operation, of whatever kind. -/
theorem not_requestEngine : ¬ Obligations.RequestEngine := by
  rintro ⟨-, -, hland, -⟩
  obtain ⟨t, b, o, ht, -, ho, hrd, -⟩ := hland sealedState 0 0 0 sealedCopy sealedBlock rfl rfl rfl rfl rfl rfl rfl rfl
    (by decide +kernel) rfl (by decide +kernel)
  have hsame : t = sealedState := (Host.Outcome.next.inj ht).symm.trans sealedState_waits
  subst hsame
  cases ho
  cases hrd

end Sys2Proof.Machine
end

section
/-! Tile instructions at issue (09 R242-R250): their holds, descriptors and appends. -/

namespace Sys2Proof.Machine

open Sys2Proof

/-! ### Behind no other forcing, with the demand met (09 R250) -/

theorem tileBody_free {s : State} {c : Ctx} (hp : c.part ≠ 0) (hbusy : c.tilesBusy = false) (sp : Spec) (body : State → State) :
    s.tileBody c sp body = body s := by
  unfold State.tileBody; rw [if_neg hp, hbusy]; rfl

theorem tileBody_idle {s : State} {c : Ctx} (hp : c.part = 0) (sp : Spec) (body : State → State) :
    s.tileBody c sp body = s.quick c sp id := if_pos hp

theorem forceFirst_met {s : State} {c : Ctx} {d : List (Nat × W64)} (h : c.b.demandMet d = true) (lock : Option Nat)
    (pages : List (Nat × Nat)) (body : State → State) : s.forceFirst c d lock pages body = body s := if_pos h

theorem forceFirst_unmet {s : State} {c : Ctx} {d : List (Nat × W64)} (h : c.b.demandMet d = false) (lock : Option Nat)
    (pages : List (Nat × Nat)) (body : State → State) :
    s.forceFirst c d lock pages body = s.hang c.id (.force d lock pages c.reading) := if_neg (by rw [h]; decide)

/-- A tile instruction with an immediate effect: without participating lanes it has none. -/
theorem actResult_of_tile {i : Instr} {sp : Spec} {own : State → Ctx → List Fail} {when : State → Ctx → Prop} {eff : State → Ctx → State}
    {body : Ctx → State → State} (hexec : ∀ s, exec i s = .next (run sp (own s) noResume (fun c s => s.tileBody c sp (body c)) s))
    (hfree : ∀ s c, when s c → c.tilesBusy = false)
    (hact : ∀ s c w, Issuing s c w → c.part ≠ 0 → when s c → DoneOutcome s (body c s) c (eff s c) none sp.ctl.sig.toNat 0) :
    ActResult i sp own when eff (fun _ _ => none) := by
  intro s c hc
  obtain ⟨w, hw⟩ := issuing_of_clear hc
  have hrun : exec i s = .next (s.tileBody c sp (body c)) := by rw [hexec, run_clear hc]
  refine ⟨fun hp hwhen => ⟨_, by rw [hrun, tileBody_free hp (hfree s c hwhen)], hact s c w hw hp hwhen⟩,
    fun hp => ⟨_, by rw [hrun, tileBody_idle hp], quick_idle hw sp id _ rfl⟩⟩

/-! ### Blocks and their tiles -/

theorem shellOnly_describe (r : Record) (d : Nat) (w0 w1 : W64) : ShellOnly fun b =>
    (b.modTile d fun t => { t with w0 := w0, w1 := w1, producer := none, valid := BitVec.allOnes 64 }).modTile d fun t =>
      { t with readers := (b.modTile d fun t => { t with w0 := w0, w1 := w1, producer := none, valid := BitVec.allOnes 64 }).readerMask r d } :=
  fun _ _ => rfl

theorem shellOnly_freeNode (q : Nat) : ShellOnly (Block.freeNode · q) := fun _ _ => rfl

/-- A block in which a node is entered, as the producer of its destination. -/
def Block.enterNode (b : Block) (r : Record) (q : Nat) (n : Node) : Block :=
  let b := { b with nodes := spPut b.nodes q { n with seq := b.appends }, appends := b.appends + 1 }
  b.modTile n.dest fun t => { t with producer := some q, valid := ~~~(b.geo r n.dest).extent }

/-- A tile that a node reads lists it among its readers. -/
def Block.markReader (r : Record) (q : Nat) (reads : List (Nat × Nat)) (self : Bool) (own : Nat × Nat) (b : Block) (t : Nat) : Block :=
  if reads.any (rangesMeet (b.geo r t).hull) || (self && rangesMeet own (b.geo r t).hull) then
    b.modTile t fun x => { x with readers := x.readers ||| (1#64 <<< q) }
  else b

theorem append_eq (b : Block) (r : Record) (q : Nat) (n : Node) : b.append r q n =
    r.tileNos.foldl (Block.markReader r q ((b.enterNode r q n).nodeReads r n) n.selfRead ((b.enterNode r q n).geo r n.dest).hull)
      (b.enterNode r q n) := rfl

theorem shellOnly_markReader (r : Record) (q : Nat) (reads : List (Nat × Nat)) (self : Bool) (own : Nat × Nat) (t : Nat) :
    ShellOnly (Block.markReader r q reads self own · t) := by
  intro b ws
  have hgeo : ({ b with waves := ws } : Block).geo r t = b.geo r t := rfl
  simp only [Block.markReader, hgeo]
  split <;> rfl

theorem shellOnly_append (r : Record) (n : Node) : ShellOnly fun b => b.append r (b.freeNodeSlot.getD 0) n := by
  intro b ws
  have henter : ({ b with waves := ws } : Block).enterNode r (b.freeNodeSlot.getD 0) n =
    { b.enterNode r (b.freeNodeSlot.getD 0) n with waves := ws } := rfl
  have hslot : ({ b with waves := ws } : Block).freeNodeSlot = b.freeNodeSlot := rfl
  simp only [hslot, append_eq, henter]
  exact shellOnly_foldl (shellOnly_markReader r _ _ _ _) r.tileNos _ ws

theorem freeNode_modWave (s : State) (id : WaveId) (q : Nat) (f : Wave → Wave) :
    (s.modWave id f).freeNode id q = (s.freeNode id q).modWave id f := by
  unfold State.freeNode
  rw [block?_modWave, if_pos rfl]
  cases hb : s.block? id with
  | none => rfl
  | some b =>
    have hnode : ({ b with waves := spMod b.waves id.wave f } : Block).node? q = b.node? q := rfl
    simp only [Option.map_some, hnode]
    split
    · split
      · exact modWave_modBlock (s.unlock _) id f (shellOnly_freeNode q)
      · exact modWave_modBlock s id f (shellOnly_freeNode q)
    · exact modWave_modBlock s id f (shellOnly_freeNode q)

/-- Freeing a node leaves the waves. -/
theorem wave?_freeNode (s : State) (id u : WaveId) (q : Nat) : (s.freeNode id q).wave? u = s.wave? u := by
  unfold State.freeNode
  split
  · rfl
  · simp only
    rw [wave?_modBlock_shell _ _ _ (shellOnly_freeNode q)]
    split
    · split <;> rfl
    · rfl

theorem cur_freeNode (s : State) (id : WaveId) (q : Nat) : (s.freeNode id q).cur = s.cur := by
  unfold State.freeNode
  split
  · rfl
  · simp only
    split
    · split <;> rfl
    · rfl

/-! ### TDESC and TFORCE (09 R242, R258) -/

theorem tdesc_outcome (f : F) : ActResult (.tdesc f) (tdescSpec f) (fun _ => tileFails [tileD f] (tdescOwn f))
    (fun _ c => c.tilesBusy = false ∧ c.b.demandMet (c.b.redefine (tileD f)) = true)
    (fun s c => s.modBlock s.cur fun b =>
      let b := b.modTile (tileD f) fun t => { t with w0 := c.scalar f.a, w1 := c.scalar f.b, producer := none, valid := BitVec.allOnes 64 }
      b.modTile (tileD f) fun t => { t with readers := b.readerMask c.l.record (tileD f) })
    (fun _ _ => none) := by
  refine actResult_of_tile (fun _ => rfl) (fun _ _ h => h.1) fun s c w hw _ hwhen => ?_
  rw [forceFirst_met hwhen.2]
  exact quick_shell hw _ _ (shellOnly_describe _ _ _ _) _ (by rw [hw.id])

theorem tforce_outcome (f : F) : ActResult (.tforce f) (tforceSpec f) (fun _ => tileFails [tileD f] fun _ => none)
    (fun _ c => c.tilesBusy = false ∧ c.b.demandMet [(tileD f, c.scalar f.a &&& (c.b.geo c.l.record (tileD f)).extent)] = true)
    (fun s _ => s) (fun _ _ => none) := by
  refine actResult_of_tile (fun _ => rfl) (fun _ _ h => h.1) fun s c w hw _ hwhen => ?_
  rw [forceFirst_met hwhen.2]
  exact quick_idle hw _ id _ rfl

/-- A TFORCE whose demand is not met leaves its slot and waits. -/
theorem tforce_waits {f : F} {s : State} {c : Ctx} (hc : s.clear (tforceSpec f) (tileFails [tileD f] fun _ => none) = some c)
    (hp : c.part ≠ 0) (hbusy : c.tilesBusy = false)
    (hdemand : c.b.demandMet [(tileD f, c.scalar f.a &&& (c.b.geo c.l.record (tileD f)).extent)] = false) :
    ∃ t, exec (.tforce f) s = .next t ∧ OnlyWave s t ∧ s.cur ∉ t.running ∧
      (t.wave s.cur).wait = some (.force [(tileD f, c.scalar f.a &&& (c.b.geo c.l.record (tileD f)).extent)] none [] c.reading) := by
  obtain ⟨w, hw⟩ := issuing_of_clear hc
  have hrun : exec (.tforce f) s = .next (s.tileBody c (tforceSpec f) _) := congrArg Host.Outcome.next (run_clear hc noResume _)
  rw [tileBody_free hp hbusy, forceFirst_unmet hdemand, hw.id] at hrun
  exact ⟨_, hrun, onlyWave_hang s _, not_mem_running_leave _ _, congrArg Wave.wait (wave_modWave_self hw.wave _)⟩

/-! ### Appends (09 R246-R249) -/

/-- The node that an append enters. -/
def Ctx.newNode (c : Ctx) (op : Nat) (f : F) (prm : W64) : Node :=
  { origin := c.addr, index := c.idx, wave := c.id.wave, op := op, modifier := f.m, dest := tileD f
    selfRead := selfReads op (tileD f) f.m (opSources op f.a f.b prm), state := 1, cause := 0xFF, a := f.a, b := f.b, prm := prm
    memAddr := 0, memPitch := 0, seq := 0, faultAddr := 0, pages := [], lock := none, since := c.w.accesses }

/-- The machine in which the producer of a tile, which an append supersedes, is freed (09 R248). -/
def State.supersede (s : State) (id : WaveId) (p : Option Nat) : State :=
  match p with
  | some q => s.freeNode id q
  | none => s

theorem cur_supersede (s : State) (id : WaveId) (p : Option Nat) : (s.supersede id p).cur = s.cur := by
  cases p with
  | none => rfl
  | some q => exact cur_freeNode s id q

theorem wave?_supersede (s : State) (id u : WaveId) (p : Option Nat) : (s.supersede id p).wave? u = s.wave? u := by
  cases p with
  | none => rfl
  | some q => exact wave?_freeNode s id u q

theorem supersede_modWave (s : State) (id : WaveId) (p : Option Nat) (f : Wave → Wave) :
    (s.modWave id f).supersede id p = (s.supersede id p).modWave id f := by
  cases p with
  | none => rfl
  | some q => exact freeNode_modWave s id q f

/-- What an append leaves: the superseded node freed, the new one in the lowest free slot. -/
def State.appended (s : State) (c : Ctx) (n : Node) : State :=
  (s.supersede s.cur (c.b.tileAt n.dest).producer).modBlock s.cur fun b => b.append c.l.record (b.freeNodeSlot.getD 0) n

/-- An append whose forces are met and which finds a slot completes. -/
theorem appendStep_runs {s : State} {c : Ctx} {n : Node} {forces : List Nat}
    (hdemand : c.b.demandMet (c.b.fullDemand forces) = true) (hslot : (c.b.tileAt n.dest).producer ≠ none ∨ c.b.freeNodeSlot ≠ none)
    (sp : Spec) : s.appendStep c sp n forces = s.quick c sp fun s => (s.supersede c.id (c.b.tileAt n.dest).producer).modBlock c.id fun b =>
      b.append c.l.record (b.freeNodeSlot.getD 0) n := by
  unfold State.appendStep State.supersede
  rw [forceFirst_met hdemand]
  cases hp : (c.b.tileAt n.dest).producer with
  | some q => rfl
  | none =>
    cases hq : c.b.freeNodeSlot with
    | some q => rfl
    | none => exact absurd (hslot.resolve_left (absurd hp)) (absurd hq)

theorem appended_issue {s : State} {c : Ctx} {w : Wave} (hw : Issuing s c w) (sp : Spec) (n : Node) :
    ((s.issue c sp).supersede c.id (c.b.tileAt n.dest).producer).modBlock c.id (fun b => b.append c.l.record (b.freeNodeSlot.getD 0) n) =
      (s.appended c n).modWave s.cur (c.issued sp) := by
  unfold State.appended
  rw [issue_eq, hw.id, supersede_modWave, modWave_modBlock _ _ _ (shellOnly_append c.l.record n)]

/-- The computing appends: TMMA, TEW, TMAP, TRED and TCVT. -/
theorem append_outcome {i : Instr} {op : Nat} {sp : Spec} {f : F} (hop : op ≠ 0x201) (hexec : ∀ s, exec i s = .next (appendOp op sp f s)) :
    ActResult i sp (fun s => tileFails (appendTiles op f) fun c => appendOwn op f s c)
      (fun _ c => c.tilesBusy = false ∧ c.b.demandMet (c.b.fullDemand (c.b.appendForces c.l.record op f (c.prm f))) = true ∧
        ((c.b.tileAt (tileD f)).producer ≠ none ∨ c.b.freeNodeSlot ≠ none))
      (fun s c => s.appended c (c.newNode op f (c.prm f))) (fun _ _ => none) := by
  refine actResult_of_tile (body := fun c s => s.appendStep c sp (c.newNode op f (c.prm f)) (c.b.appendForces c.l.record op f (c.prm f)))
    (fun s => ?_) (fun _ _ h => h.1) fun s c w hw _ hwhen => ?_
  · rw [hexec]
    unfold appendOp appendBody Ctx.newNode
    simp only [if_neg hop, if_pos hop, ne_eq]
  · obtain ⟨-, hdemand, hslot⟩ := hwhen
    rw [appendStep_runs hdemand hslot]
    refine quick_outcome hw sp _ none _ (cur_supersede s _ _)
      ((wave?_modBlock_shell _ _ _ (shellOnly_append c.l.record _)).trans ((wave?_supersede s _ _ _).trans hw.wave)) ?_
    exact appended_issue hw sp (c.newNode op f (c.prm f))

end Sys2Proof.Machine
end

section
/-! Tile instructions that take a range lock (09 R251, R261, 04 R110): TLD and TST. -/

namespace Sys2Proof.Machine

open Sys2Proof

/-! ### Translations and locks -/

/-- An instruction whose own access translates gives up no held translation. -/
theorem unholdFail_none {s t : State} {ctl : Ctl} {c : Ctx} {failed : Ctx → Option Nat} (hc : s.ctx ctl = some c) (h : failed c = none) :
    s.unholdFail t ctl failed = t := by
  unfold State.unholdFail; rw [hc]; simp only [h]

theorem rowsLost_none {s : State} {c : Ctx} {rows : Ctx → List (W64 × Nat)} {rights : List Nat} {pages : List (Nat × Nat)}
    (hwait : c.w.wait = none) (h : s.translateRows c.l.asid c.l.tenant (rows c) rights = .ok pages) : rowsLost rows rights s c = none := by
  unfold rowsLost Wave.forcing
  simp only [hwait, h, Bool.false_eq_true, if_false]

theorem heldLock_none {c : Ctx} (h : c.w.wait = none) : c.heldLock = none := by unfold Ctx.heldLock; rw [h]

theorem holdRows_frame (s : State) (l : Launch) (rows : List (W64 × Nat)) (rights : List Nat) :
    ∃ hp, s.holdRows l rows rights = { s with held := hp } := by
  unfold State.holdRows
  generalize rows.flatMap _ = vs
  induction vs using List.reverseRecOn with
  | nil => exact ⟨s.held, rfl⟩
  | append_singleton vs va ih =>
    obtain ⟨hp, ih⟩ := ih
    rw [List.foldl_append, ih]
    exact (hold_frame _ l.asid l.tenant va rights).imp fun hp h => h

/-- The machine in which an instruction has translated its rows and taken its range lock. -/
def State.locked (s : State) (c : Ctx) (rows : List (W64 × Nat)) (rights : List Nat) (writes : Bool) (pages : List (Nat × Nat)) : State :=
  (s.holdRows c.l rows rights).takeLock c.id.core writes (s.rowLines c.l pages rows)

theorem locked_frame (s : State) (c : Ctx) (rows : List (W64 × Nat)) (rights : List Nat) (writes : Bool) (pages : List (Nat × Nat)) :
    ∃ hp, s.locked c rows rights writes pages = { s with
      held := hp, nextOp := s.nextOp + 1, locks := s.locks ++ [⟨c.id.core, s.nextOp, writes, s.rowLines c.l pages rows⟩] } := by
  unfold State.locked
  obtain ⟨hp, h⟩ := holdRows_frame s c.l rows rights
  exact ⟨hp, by rw [h]; rfl⟩

/-- What the taking of a range lock changes: translations held beside the lock and its number, and no block. -/
structure LockTaken (s t : State) (k : Lock) : Prop where
  cur    : t.cur = s.cur
  block? : ∀ u, t.block? u = s.block? u
  wave?  : ∀ u, t.wave? u = s.wave? u
  locks  : t.locks = s.locks ++ [k]
  nextOp : t.nextOp = s.nextOp + 1
  ops    : t.ops = s.ops
  mem    : t.mem = s.mem

theorem lockTaken_locked (s : State) (c : Ctx) (rows : List (W64 × Nat)) (rights : List Nat) (writes : Bool) (pages : List (Nat × Nat)) :
    LockTaken s (s.locked c rows rights writes pages) ⟨c.id.core, s.nextOp, writes, s.rowLines c.l pages rows⟩ := by
  obtain ⟨hp, he⟩ := locked_frame s c rows rights writes pages
  rw [he]
  exact ⟨rfl, fun _ => rfl, fun _ => rfl, rfl, rfl, rfl, rfl⟩

/-- The wave in the slot is as it was where only translations, locks and the numbers of operations differ. -/
theorem Issuing.locked {s : State} {c : Ctx} {w : Wave} (h : Issuing s c w) (rows : List (W64 × Nat)) (rights : List Nat) (writes : Bool)
    (pages : List (Nat × Nat)) : Issuing (s.locked c rows rights writes pages) c w := by
  obtain ⟨hp, he⟩ := locked_frame s c rows rights writes pages
  rw [he]
  exact ⟨h.id, h.wave, h.own, h.active, h.block, h.launch, h.tick, h.wait⟩

/-! ### The wave after an instruction without a result -/

/-- The wave issues beside an effect, its flag may count up, and its lanes go on. -/
theorem advanced_issued {s e : State} {c : Ctx} {w : Wave} (h : Issuing s c w) (sp : Spec) (hcur : e.cur = s.cur)
    (hwave : e.wave? s.cur = some w) : Advanced s e ((e.modWave s.cur (c.issued sp)).advance s.cur) c w := by
  obtain ⟨hframe, hstill, hflags, hnext⟩ :=
    advanced_of h (u := e.modWave s.cur _) hcur (wave?_modWave_self hwave _) (sameControl_issued c sp w)
  exact ⟨(hcur ▸ onlyWave_modWave e _ : OnlyWave e _).trans hframe, hstill.trans (still_issued c sp h.wait),
    hflags.trans (flags_issued c sp w), hnext⟩

theorem advanced_flagUp {s e : State} {c : Ctx} {w : Wave} (h : Issuing s c w) (sp : Spec) (sig : Nat) (hcur : e.cur = s.cur)
    (hwave : e.wave? s.cur = some w) :
    Advanced s e ((e.modWave s.cur fun w => (c.issued sp w).flagUp sig).advance s.cur) c (w.flagUp sig) := by
  have hcontrol : SameControl w ((c.issued sp w).flagUp sig) := by
    refine (sameControl_issued c sp w).trans ?_
    rw [flagUp_moved]
    exact ⟨rfl, rfl, rfl, rfl⟩
  obtain ⟨hframe, hstill, hflags, hnext⟩ := advanced_of h (u := e.modWave s.cur _) hcur
    (wave?_modWave_self hwave fun w => (c.issued sp w).flagUp sig) hcontrol
  refine ⟨(hcur ▸ onlyWave_modWave e _ : OnlyWave e _).trans hframe, hstill.trans ?_, hflags.trans ?_, hnext⟩
  · rw [flagUp_moved, flagUp_moved w]
    exact still_issued c sp h.wait
  · unfold Wave.flagUp Wave.kget
    rw [flags_issued]
    split
    · rfl
    · exact flags_issued c sp w

theorem OnlyWave.block {s t : State} {u : WaveId} {b : Block} (h : OnlyWave s t) (hb : s.block? u = some b) :
    ∃ b', t.block? u = some b' ∧ b'.shell = b.shell := by
  have hshell := h.shells u
  rw [hb] at hshell
  exact Option.map_eq_some_iff.mp hshell

/-! ### The node of an append in its block -/

theorem tileAt_modTile (b : Block) (n k : Nat) (f : Tile → Tile) :
    (b.modTile n f).tileAt k = if n = k then f (b.tileAt n) else b.tileAt k := spGet_spSet _ _ _ _ _

theorem markReader_keeps (r : Record) (q : Nat) (reads : List (Nat × Nat)) (self : Bool) (own : Nat × Nat) (b : Block) (t : Nat) :
    (b.markReader r q reads self own t).nodes = b.nodes ∧
      ∀ k, ((b.markReader r q reads self own t).tileAt k).producer = (b.tileAt k).producer ∧
        ((b.markReader r q reads self own t).tileAt k).valid = (b.tileAt k).valid := by
  unfold Block.markReader
  split
  · refine ⟨rfl, fun k => ?_⟩
    rw [tileAt_modTile]
    split
    · rename_i h; subst h; exact ⟨rfl, rfl⟩
    · exact ⟨rfl, rfl⟩
  · exact ⟨rfl, fun _ => ⟨rfl, rfl⟩⟩

theorem foldl_markReader_keeps (r : Record) (q : Nat) (reads : List (Nat × Nat)) (self : Bool) (own : Nat × Nat) (ts : List Nat) (b : Block) :
    (ts.foldl (Block.markReader r q reads self own) b).nodes = b.nodes ∧
      ∀ k, ((ts.foldl (Block.markReader r q reads self own) b).tileAt k).producer = (b.tileAt k).producer ∧
        ((ts.foldl (Block.markReader r q reads self own) b).tileAt k).valid = (b.tileAt k).valid := by
  induction ts generalizing b with
  | nil => exact ⟨rfl, fun _ => ⟨rfl, rfl⟩⟩
  | cons t ts ih =>
    obtain ⟨hnodes, htiles⟩ := ih (b.markReader r q reads self own t)
    obtain ⟨hn, ht⟩ := markReader_keeps r q reads self own b t
    exact ⟨hnodes.trans hn, fun k => ⟨(htiles k).1.trans (ht k).1, (htiles k).2.trans (ht k).2⟩⟩

/-- The new node stands in its slot, and its destination is wholly invalid behind it. -/
theorem append_entered (b : Block) (r : Record) (q : Nat) (n : Node) :
    (b.append r q n).node? q = some { n with seq := b.appends } ∧ ((b.append r q n).tileAt n.dest).producer = some q ∧
      ((b.append r q n).tileAt n.dest).valid = ~~~(b.geo r n.dest).extent := by
  obtain ⟨hnodes, htiles⟩ := foldl_markReader_keeps r q ((b.enterNode r q n).nodeReads r n) n.selfRead
    ((b.enterNode r q n).geo r n.dest).hull r.tileNos (b.enterNode r q n)
  have henter : (b.enterNode r q n).tileAt n.dest = { b.tileAt n.dest with producer := some q, valid := ~~~(b.geo r n.dest).extent } :=
    (tileAt_modTile _ _ _ _).trans (if_pos rfl)
  rw [append_eq]
  refine ⟨?_, (htiles n.dest).1.trans (congrArg Tile.producer henter), (htiles n.dest).2.trans (congrArg Tile.valid henter)⟩
  unfold Block.node?
  rw [hnodes]
  exact (spFind_spPut _ _ _ _).trans (if_pos rfl)

/-! ### TLD (09 R251) -/

/-- The node of a TLD: address, pitch, its lock and the pages it has translated. -/
def Ctx.loadNode (c : Ctx) (f : F) (k : Nat) (pages : List (Nat × Nat)) : Node :=
  { c.newNode 0x201 f 0 with memAddr := (c.memPair f).1, memPitch := (c.memPair f).2, lock := some k, pages := pages }

section
variable {f : F} {s : State} {c : Ctx} {pages : List (Nat × Nat)} {q : Nat}

theorem tld_runs (hc : s.clear (tldSpec f) (tileFails (appendTiles 0x201 f) fun c => appendOwn 0x201 f s c) = some c) (hp : c.part ≠ 0)
    (hbusy : c.tilesBusy = false) (hpages : s.translateRows c.l.asid c.l.tenant (tldReads f c) [rREAD] = .ok pages)
    (hfree : s.lockFree s.cur.core ≠ 0) (hdemand : c.b.demandMet (c.b.fullDemand (c.b.appendForces c.l.record 0x201 f 0)) = true)
    (hslot : c.b.freeNodeSlot ≠ none) {w : Wave} (hw : Issuing s c w) :
    exec (.tld f) s = .next ((((s.locked c (tldReads f c) [rREAD] false pages).appended c (c.loadNode f s.nextOp pages)).modWave s.cur
      (c.issued (tldSpec f))).advance s.cur) := by
  obtain ⟨hctx, hwait, -⟩ := clear_spec hc
  have hbody : appendBody 0x201 (tldSpec f) f c s =
      (s.locked c (tldReads f c) [rREAD] false pages).appendStep c (tldSpec f) (c.loadNode f s.nextOp pages)
        (c.b.appendForces c.l.record 0x201 f 0) := by
    unfold appendBody
    rw [tileBody_free hp hbusy]
    simp only [ne_eq, not_true_eq_false, if_false, if_true, heldLock_none hwait]
    unfold tldReads at hpages
    rw [hpages]
    simp only [if_neg (hw.id ▸ hfree : ¬ s.lockFree c.id.core = 0)]
    rfl
  have hexec : exec (.tld f) s = .next (s.unholdFail (appendOp 0x201 (tldSpec f) f s) (tldSpec f).ctl (rowsLost (tldReads f) [rREAD] s)) := rfl
  rw [hexec, unholdFail_none hctx (rowsLost_none hwait hpages)]
  unfold appendOp
  rw [run_clear hc, hbody, appendStep_runs hdemand (.inr hslot)]
  unfold State.quick
  beta_reduce
  rw [appended_issue (hw.locked (tldReads f c) [rREAD] false pages), (lockTaken_locked s c _ _ _ _).cur, hw.id]

/-- A TLD enters its node with its lock and its pages. -/
theorem tld_outcome (hc : s.clear (tldSpec f) (tileFails (appendTiles 0x201 f) fun c => appendOwn 0x201 f s c) = some c) (hp : c.part ≠ 0)
    (hbusy : c.tilesBusy = false) (hpages : s.translateRows c.l.asid c.l.tenant (tldReads f c) [rREAD] = .ok pages)
    (hfree : s.lockFree s.cur.core ≠ 0) (hdemand : c.b.demandMet (c.b.fullDemand (c.b.appendForces c.l.record 0x201 f 0)) = true)
    (hproducer : (c.b.tileAt (tileD f)).producer = none) (hslot : c.b.freeNodeSlot = some q) :
    ∃ t b' n, exec (.tld f) s = .next t ∧ t.block? s.cur = some b' ∧ b'.node? q = some n ∧ n.op = 0x201 ∧ n.state = 1 ∧
      n.dest = tileD f ∧ n.memAddr = c.sreg (scalNo f.a) ∧ n.memPitch = c.sreg (scalNo f.a + 1) ∧ n.pages = pages ∧
      n.lock = some s.nextOp ∧ (b'.tileAt (tileD f)).producer = some q ∧
      (b'.tileAt (tileD f)).valid = ~~~(c.b.geo c.l.record (tileD f)).extent ∧
      t.locks = s.locks ++ [⟨s.cur.core, s.nextOp, false, s.rowLines c.l pages (tldReads f c)⟩] ∧
      t.nextOp = s.nextOp + 1 ∧ t.mem = s.mem ∧ NextWord s t c ∧ (t.wave s.cur).still = (s.wave s.cur).still ∧
      ∀ u, otherWave s u → t.wave? u = s.wave? u := by
  obtain ⟨w, hw⟩ := issuing_of_clear hc
  have hexec := tld_runs hc hp hbusy hpages hfree hdemand (by rw [hslot]; exact nofun) hw
  have hlock := lockTaken_locked s c (tldReads f c) [rREAD] false pages
  have hshell := shellOnly_append c.l.record (c.loadNode f s.nextOp pages)
  generalize s.locked c (tldReads f c) [rREAD] false pages = u at hexec hlock
  have happended : u.appended c (c.loadNode f s.nextOp pages) = u.modBlock s.cur fun b =>
      b.append c.l.record (b.freeNodeSlot.getD 0) (c.loadNode f s.nextOp pages) := by
    unfold State.appended State.supersede
    rw [hlock.cur, show (c.b.tileAt (c.loadNode f s.nextOp pages).dest).producer = none from hproducer]
  rw [happended] at hexec
  have hwave := (wave?_modBlock_shell u s.cur s.cur hshell).trans ((hlock.wave? _).trans hw.wave)
  have hblock : (u.modBlock s.cur fun b => b.append c.l.record (b.freeNodeSlot.getD 0) (c.loadNode f s.nextOp pages)).block? s.cur =
      some (c.b.append c.l.record q (c.loadNode f s.nextOp pages)) := by
    rw [block?_modBlock_self ((hlock.block? _).trans hw.block) rfl, hslot]
    rfl
  obtain ⟨hframe, hstill, -, hnext⟩ := advanced_issued hw (tldSpec f) (e := u.modBlock s.cur _) hlock.cur hwave
  obtain ⟨b', hb', hb⟩ := hframe.block hblock
  obtain ⟨hnode, hprod, hvalid⟩ := append_entered c.b c.l.record q (c.loadNode f s.nextOp pages)
  refine ⟨_, b', _, hexec, hb', (congrArg (spFind · q) (congrArg Block.nodes hb :)).trans hnode, rfl, rfl, rfl, rfl, rfl, rfl, rfl,
    (congrArg (fun m => (spGet noTile m (tileD f)).producer) (congrArg Block.tiles hb :)).trans hprod,
    (congrArg (fun m => (spGet noTile m (tileD f)).valid) (congrArg Block.tiles hb :)).trans hvalid, ?_, ?_, ?_, hnext,
    by rw [hstill, hw.state], fun v hv => ?_⟩
  · rw [hframe.machine]; exact hw.id ▸ hlock.locks
  · rw [hframe.machine]; exact hlock.nextOp
  · rw [hframe.machine]; exact hlock.mem
  · rw [hframe.others v (by unfold otherWave at hv ⊢; rwa [State.modBlock_cur, hlock.cur]), wave?_modBlock_shell u _ _ hshell, hlock.wave?]

end

/-! ### TST (09 R261) -/

/-- The bytes of a store: the place of each in the tile area and in memory, and the mask of its columns. -/
def Ctx.storeBytes (c : Ctx) (f : F) (pages : List (Nat × Nat)) : List (Nat × Nat × Nat) :=
  (c.tstRuns f).flatMap fun x => (List.range x.2.2.1).map fun j =>
    ((c.b.geo c.l.record (tileD f)).base + x.1 * (c.b.geo c.l.record (tileD f)).pitch + x.2.1 + j,
     physOf pages (((c.memPair f).1 + BitVec.ofNat 64 x.1 * (c.memPair f).2).toNat + x.2.1 + j),
     if j + 1 = x.2.2.1 then x.2.2.2 else 255)

/-- The operation of a TST. -/
def Ctx.storeOp (c : Ctx) (f : F) (k : Nat) (pages : List (Nat × Nat)) : EngineOp :=
  { emptyOp k .tst c.id c.b f.ctl.sig.toNat with
    unit := 1, rd := (List.range (c.storeBytes f pages).length).zip ((c.storeBytes f pages).map fun x => x.1), rdSpace := .tile
    wr := (List.range (c.storeBytes f pages).length).zip ((c.storeBytes f pages).map fun x => x.2.1), wrSpace := .memory
    virt := (List.range (c.storeBytes f pages).length).zip ((c.storeBytes f pages).map fun x => BitVec.ofNat 64 x.2.2) }

/-- Words of the tile area become pending. -/
def Block.pendTile (bytes : List (Nat × Nat × Nat)) (b : Block) : Block :=
  { b with tpend := bytes.foldl (fun t x => setPending t x.1 1 true) b.tpend }

/-- A machine in which the store of a TST has begun. -/
def State.storing (s : State) (c : Ctx) (f : F) (k : Nat) (pages : List (Nat × Nat)) : State :=
  { s with ops := spPut s.ops k (c.storeOp f k pages) }.modBlock c.id (Block.pendTile (c.storeBytes f pages))

theorem shellOnly_pendTile (bytes : List (Nat × Nat × Nat)) : ShellOnly (Block.pendTile bytes) := fun _ _ => rfl

theorem startTst_eq (s : State) (c : Ctx) (f : F) (k : Nat) (pages : List (Nat × Nat)) :
    s.startTst c (tstSpec f) f k pages =
      ((s.storing c f k pages).modWave c.id fun w => (c.issued (tstSpec f) w).flagUp f.ctl.sig.toNat).advance c.id := by
  have hcomm := modWave_modBlock { s with ops := spPut s.ops k (c.storeOp f k pages) } c.id (c.issued (tstSpec f))
    (shellOnly_pendTile (c.storeBytes f pages))
  have hflag := congrArg (fun u => (State.modWave u c.id fun w => w.flagUp f.ctl.sig.toNat).advance c.id) hcomm
  exact hflag.trans (congrArg (State.advance · c.id) (modWave_modWave _ _ _ _))

/-- Of no subtile nothing is stored. -/
theorem storeRuns_zero (g : Geo) : g.storeRuns 0 = [] := by
  unfold Geo.storeRuns; split <;> simp

section
variable {f : F} {s : State} {c : Ctx} {pages : List (Nat × Nat)}

/-- A TST of no subtile has no effect. -/
theorem tst_idle (hc : s.clear (tstSpec f) (tileFails [tileD f] fun c => tstOwn f s c) = some c) (hp : c.part ≠ 0)
    (hbusy : c.tilesBusy = false) (hmask : c.tstMask f = 0) :
    ∃ t, exec (.tst f) s = .next t ∧ DoneOutcome s t c s none f.ctl.sig.toNat 0 := by
  obtain ⟨w, hw⟩ := issuing_of_clear hc
  obtain ⟨hctx, hwait, -⟩ := clear_spec hc
  have hrows : s.translateRows c.l.asid c.l.tenant (tstWrites f c) [rWRITE] = .ok [] := by
    unfold tstWrites Ctx.tstRuns
    rw [hmask, storeRuns_zero]
    rfl
  have hexec : exec (.tst f) s = .next (s.unholdFail (run (tstSpec f) (tileFails [tileD f] fun c => tstOwn f s c) noResume (tstBody f) s)
    (tstSpec f).ctl (rowsLost (tstWrites f) [rWRITE] s)) := rfl
  rw [unholdFail_none hctx (rowsLost_none hwait hrows), run_clear hc] at hexec
  unfold tstBody at hexec
  rw [tileBody_free hp hbusy, if_pos hmask] at hexec
  exact ⟨_, hexec, quick_idle hw (tstSpec f) id _ rfl⟩

theorem tst_runs (hc : s.clear (tstSpec f) (tileFails [tileD f] fun c => tstOwn f s c) = some c) (hp : c.part ≠ 0)
    (hbusy : c.tilesBusy = false) (hmask : c.tstMask f ≠ 0)
    (hpages : s.translateRows c.l.asid c.l.tenant (tstWrites f c) [rWRITE] = .ok pages) (hfree : s.lockFree c.id.core ≠ 0)
    (hdemand : c.b.demandMet [(tileD f, c.tstMask f)] = true) :
    exec (.tst f) s = .next ((s.locked c (tstWrites f c) [rWRITE] true pages).startTst c (tstSpec f) f s.nextOp pages) := by
  obtain ⟨hctx, hwait, -⟩ := clear_spec hc
  have hexec : exec (.tst f) s = .next (s.unholdFail (run (tstSpec f) (tileFails [tileD f] fun c => tstOwn f s c) noResume (tstBody f) s)
    (tstSpec f).ctl (rowsLost (tstWrites f) [rWRITE] s)) := rfl
  rw [hexec, unholdFail_none hctx (rowsLost_none hwait hpages), run_clear hc]
  unfold tstWrites at hpages
  unfold tstBody
  rw [tileBody_free hp hbusy, if_neg hmask]
  simp only [heldLock_none hwait, hpages, if_neg hfree, forceFirst_met hdemand]
  rfl

/-- A TST starts its store under its lock. -/
theorem tst_outcome (hc : s.clear (tstSpec f) (tileFails [tileD f] fun c => tstOwn f s c) = some c) (hp : c.part ≠ 0)
    (hbusy : c.tilesBusy = false) (hmask : c.tstMask f ≠ 0)
    (hpages : s.translateRows c.l.asid c.l.tenant (tstWrites f c) [rWRITE] = .ok pages) (hfree : s.lockFree s.cur.core ≠ 0)
    (hdemand : c.b.demandMet [(tileD f, c.tstMask f)] = true) :
    ∃ t o, exec (.tst f) s = .next t ∧ spFind t.ops s.nextOp = some o ∧ o.kind = .tst ∧ o.w = s.cur ∧ o.unit = 1 ∧
      o.rd.length = o.wr.length ∧ o.rd.map Prod.snd = ((c.tstRuns f).flatMap fun x => (List.range x.2.2.1).map fun j =>
        (c.b.geo c.l.record (tileD f)).base + x.1 * (c.b.geo c.l.record (tileD f)).pitch + x.2.1 + j) ∧
      t.locks = s.locks ++ [⟨s.cur.core, s.nextOp, true, s.rowLines c.l pages (tstWrites f c)⟩] ∧
      t.nextOp = s.nextOp + 1 ∧ t.mem = s.mem ∧ NextWord s t c ∧ (t.wave s.cur).still = (s.wave s.cur).still ∧
      (∀ n, n < 12 → (t.wave s.cur).kget n = (s.wave s.cur).kget n + if f.ctl.sig.toNat = n then 1 else 0) ∧
      ∀ u, otherWave s u → t.wave? u = s.wave? u := by
  obtain ⟨w, hw⟩ := issuing_of_clear hc
  have hexec := tst_runs hc hp hbusy hmask hpages (hw.id ▸ hfree) hdemand
  have hlock := lockTaken_locked s c (tstWrites f c) [rWRITE] true pages
  generalize s.locked c (tstWrites f c) [rWRITE] true pages = u at hexec hlock
  rw [startTst_eq, hw.id] at hexec
  have hshell := shellOnly_pendTile (c.storeBytes f pages)
  have hstart : u.storing c f s.nextOp pages = ({ u with ops := spPut u.ops s.nextOp (c.storeOp f s.nextOp pages) } : State).modBlock s.cur
      (Block.pendTile (c.storeBytes f pages)) := by unfold State.storing; rw [hw.id]
  have hwaves : ∀ v, (u.storing c f s.nextOp pages).wave? v = s.wave? v := fun v => by
    rw [hstart, wave?_modBlock_shell _ _ _ hshell]; exact hlock.wave? v
  obtain ⟨hframe, hstill, hflags, hnext⟩ := advanced_flagUp hw (tstSpec f) f.ctl.sig.toNat (e := u.storing c f s.nextOp pages) hlock.cur
    ((hwaves _).trans hw.wave)
  refine ⟨_, c.storeOp f s.nextOp pages, hexec, ?_, rfl, hw.id, rfl, ?_, ?_, ?_, ?_, ?_, hnext, ?_, fun n hn => ?_, fun v hv => ?_⟩
  · rw [hframe.machine]; exact (spFind_spPut _ _ _ _).trans (if_pos rfl)
  · simp [Ctx.storeOp]
  · refine (List.map_snd_zip (by simp)).trans ?_
    unfold Ctx.storeBytes
    simp only [List.map_flatMap, List.map_map]
    rfl
  · rw [hframe.machine]; exact hw.id ▸ hlock.locks
  · rw [hframe.machine]; exact hlock.nextOp
  · rw [hframe.machine]; exact hlock.mem
  · rw [hstill, flagUp_moved, hw.state]; rfl
  · rw [hw.state, ← kget_flagUp w hn]
    exact congrArg (spGet 0 · n) hflags
  · rw [hframe.others v (by unfold otherWave at hv ⊢; exact hlock.cur ▸ hv), hwaves]

end

end Sys2Proof.Machine
end

section
/-! TGROW (02 R64), a clause of the obligation O46. -/

namespace Sys2Proof.Machine

open Sys2Proof

/-! ### Rows of a core (02 R51, R64) -/

/-- The rows of a core's blocks, under a change of the blocks that moves none of them and none of their rows. -/
theorem places_map {g : Nat × Block → Nat × Block} (hkey : ∀ e, (g e).1 = e.1) (hplace : ∀ e, (g e).2.place = e.2.place)
    (bs : List (Nat × Block)) (core : Nat) :
    ((bs.map g).filter fun e => e.1 / 16 == core).map (fun e => e.2.place) =
      (bs.filter fun e => e.1 / 16 == core).map (fun e => e.2.place) := by
  rw [List.filter_map, List.map_map]
  simp only [Function.comp_def, hkey, hplace]

/-- Which rows the blocks of a core hold does not depend on their waves. -/
theorem places_modWave (s : State) (id : WaveId) (f : Wave → Wave) (core : Nat) :
    ((s.modWave id f).coreBlocks core).map Block.place = (s.coreBlocks core).map Block.place := by
  unfold State.coreBlocks
  rw [List.map_map, List.map_map]
  exact places_map (fun e => by split <;> rfl) (fun e => by split <;> rfl) s.blocks core

theorem placeList_modWave (s : State) (id : WaveId) (f : Wave → Wave) (core : Nat) :
    ((s.modWave id f).coreBlocks core).flatMap Block.place = (s.coreBlocks core).flatMap Block.place := by
  rw [List.flatMap_def, List.flatMap_def, places_modWave]

theorem freeRows_modWave (s : State) (id : WaveId) (f : Wave → Wave) (core : Nat) : (s.modWave id f).freeRows core = s.freeRows core := by
  unfold State.freeRows; rw [placeList_modWave]

theorem placeRows_modWave (s : State) (id : WaveId) (f : Wave → Wave) (core n : Nat) :
    (s.modWave id f).placeRows core n = s.placeRows core n := by
  have hranges : (s.modWave id f).freeRanges core = s.freeRanges core := by unfold State.freeRanges; rw [placeList_modWave]
  unfold State.placeRows
  rw [hranges]

/-- A block with a further extent of rows in its tile area. -/
def Block.grown (place : List (Nat × Nat)) (n : Nat) (b : Block) : Block :=
  { b with place := b.place ++ place, extents := b.extents ++ [(b.rowsHeld, n)], tileLen := b.tileLen + 512 * n }

theorem shellOnly_grown (place : List (Nat × Nat)) (n : Nat) : ShellOnly (Block.grown place n) := fun _ _ => rfl

/-- The value that TGROW returns: the length of the tile area, or a code (02 R64). -/
def Ctx.grownLength (c : Ctx) (f : F16) (free : Nat) : W64 :=
  if tgrowRows f = 0 then BitVec.ofNat 64 c.b.tileLen
  else if c.b.extents.length = 4 then 1#64 <<< 63 ||| 2
  else if free < tgrowRows f then 1#64 <<< 63 ||| 1
  else BitVec.ofNat 64 (c.b.tileLen + 512 * tgrowRows f)

theorem tgrow_keeps {s : State} {c : Ctx} {f : F16}
    (h : tgrowRows f = 0 ∨ c.b.extents.length = 4 ∨ s.freeRows c.id.core < tgrowRows f) :
    s.tgrow c f = s.setS c.id (scalNo f.d) (c.grownLength f (s.freeRows c.id.core)) := by
  unfold State.tgrow Ctx.grownLength
  by_cases hzero : tgrowRows f = 0
  · simp only [hzero, if_true]
  by_cases hfour : c.b.extents.length = 4
  · simp only [hzero, hfour, if_true, if_false]; rfl
  simp only [hzero, hfour, false_or] at h
  simp only [hzero, hfour, h, if_true, if_false]; rfl

theorem tgrow_grows {s : State} {c : Ctx} {f : F16}
    (h : ¬ (tgrowRows f = 0 ∨ c.b.extents.length = 4 ∨ s.freeRows c.id.core < tgrowRows f)) :
    s.tgrow c f = (s.modBlock c.id (Block.grown (s.placeRows c.id.core (tgrowRows f)) (tgrowRows f))).setS c.id (scalNo f.d)
      (c.grownLength f (s.freeRows c.id.core)) := by
  obtain ⟨hzero, hfour, hroom⟩ := not_or.mp h |>.imp_right not_or.mp
  unfold State.tgrow Ctx.grownLength
  simp only [hzero, hfour, hroom, if_false]; rfl

theorem tgrow_outcome (f : F16) : ActResult (.tgrow f) (tgrowSpec f) (fun _ => Ctx.convergence) (fun _ _ => True)
    (fun s c => if tgrowRows f = 0 ∨ c.b.extents.length = 4 ∨ s.freeRows s.cur.core < tgrowRows f then s
      else s.modBlock s.cur (Block.grown (s.placeRows s.cur.core (tgrowRows f)) (tgrowRows f)))
    (fun s c => some (scalNo f.d, c.grownLength f (s.freeRows s.cur.core))) := by
  refine actResult_of_quick (fun _ => rfl) (fun c t hp => if_pos hp) fun s c w hw hc hp => ?_
  have hrows : (s.issue c (tgrowSpec f)).freeRows c.id.core = s.freeRows s.cur.core := by rw [issue_eq, freeRows_modWave, hw.id]
  have hplace : (s.issue c (tgrowSpec f)).placeRows c.id.core (tgrowRows f) = s.placeRows s.cur.core (tgrowRows f) := by
    rw [issue_eq, placeRows_modWave, hw.id]
  by_cases hkeep : tgrowRows f = 0 ∨ c.b.extents.length = 4 ∨ s.freeRows s.cur.core < tgrowRows f
  · rw [if_pos hkeep]
    refine quick_outcome hw _ _ _ _ rfl hw.wave ?_
    rw [if_neg hp, tgrow_keeps (by rwa [hrows]), hrows, issue_eq, hw.id]
    exact modWave_modWave s s.cur _ _
  · rw [if_neg hkeep]
    refine quick_block hw _ _ (shellOnly_grown _ _) _ _ ?_
    rw [if_neg hp, tgrow_grows (by rwa [hrows]), hrows, hplace, hw.id]
    rfl

end Sys2Proof.Machine
end

section
/-! The evaluation of a subtile (09 R250, R251, R259): the last clause of the obligation O46. -/

namespace Sys2Proof.Machine

open Sys2Proof

/-! ### What an evaluation leaves of its block -/

/-- An element of a tile is written into the bytes of the tile area, and nowhere else. -/
theorem putCode_frame (b : Block) (g : Geo) (i j code : Nat) : b.putCode g i j code = { b with tile := (b.putCode g i j code).tile } := by
  unfold Block.putCode
  dsimp only
  split <;> rfl

theorem foldl_putCode_waves (g : Geo) (l : List ((Nat × Nat) × Fl Nat)) (b : Block) :
    (l.foldl (fun b e => b.putCode g e.1.1 e.1.2 e.2.val) b).waves = b.waves := by
  induction l generalizing b with
  | nil => rfl
  | cons e l ih => rw [List.foldl_cons, ih, putCode_frame]

theorem computeSubtile_waves {b b' : Block} {r : Record} {n : Node} {k : Nat} {fl : W32} (h : b.computeSubtile r n k = .ok (b', fl)) :
    b'.waves = b.waves := by
  unfold Block.computeSubtile at h
  dsimp only at h
  split at h
  · cases h
  · obtain ⟨rfl, -⟩ := Prod.mk.inj (Except.ok.inj h)
    exact foldl_putCode_waves _ _ _

/-- Bytes written one by one into a tile area leave the waves of the block. -/
theorem foldl_tile_waves {α : Type} (f : Block → α → Sparse Byte) (l : List α) (b : Block) :
    (l.foldl (fun b e => { b with tile := f b e }) b).waves = b.waves := by
  induction l generalizing b with
  | nil => rfl
  | cons e l ih => rw [List.foldl_cons, ih]

theorem loadSubtile_waves {s : State} {b b' : Block} {r : Record} {n : Node} {k : Nat} {fl : W32}
    (h : s.loadSubtile b r n k = .ok (b', fl)) : b'.waves = b.waves := by
  unfold State.loadSubtile at h
  dsimp only at h
  split at h
  · cases h
  · obtain ⟨rfl, -⟩ := Prod.mk.inj (Except.ok.inj h)
    exact foldl_tile_waves _ _ _

/-- The bytes, flags or fault of one evaluation of a node. -/
def State.evalNode (s : State) (b : Block) (r : Record) (n : Node) (k : Nat) : Except (Nat × Nat) (Block × W32) :=
  if n.op = 0x201 then s.loadSubtile b r n k else b.computeSubtile r n k

theorem evalNode_waves {s : State} {b b' : Block} {r : Record} {n : Node} {k : Nat} {fl : W32}
    (h : s.evalNode b r n k = .ok (b', fl)) : b'.waves = b.waves := by
  unfold State.evalNode at h
  split at h
  · exact loadSubtile_waves h
  · exact computeSubtile_waves h

/-- A block in which subtiles of a tile become valid and their node is pending. -/
def Block.evaluated (b : Block) (tile q : Nat) (valid : W64) : Block :=
  let b := b.modTile tile fun t => { t with valid := t.valid ||| valid }
  { b with nodes := spMod b.nodes q fun n => { n with state := 1 } }

theorem tileAt_evaluated (b : Block) (tile q : Nat) (valid : W64) :
    ((b.evaluated tile q valid).tileAt tile).valid = (b.tileAt tile).valid ||| valid ∧
      ((b.evaluated tile q valid).tileAt tile).producer = (b.tileAt tile).producer := by
  have htile := tileAt_modTile b tile tile fun t => { t with valid := t.valid ||| valid }
  rw [if_pos rfl] at htile
  exact ⟨(congrArg Tile.valid htile :), (congrArg Tile.producer htile :)⟩

theorem waves_evaluated (b : Block) (tile q : Nat) (valid : W64) : (b.evaluated tile q valid).waves = b.waves := rfl

theorem node?_freeNode (b : Block) (q : Nat) : (b.freeNode q).node? q = none := (spFind_spDel _ _ _).trans (if_pos rfl)

/-! ### The machine after an evaluation -/

/-- The freeing of a node changes range locks and its block. -/
theorem freeNode_frame {s : State} {id : WaveId} {b : Block} (hb : s.block? id = some b) (q : Nat) :
    ∃ ls, s.freeNode id q = { s with locks := ls }.modBlock id (Block.freeNode · q) := by
  unfold State.freeNode
  simp only [hb]
  split
  · split
    · exact ⟨_, rfl⟩
    · exact ⟨s.locks, rfl⟩
  · exact ⟨s.locks, rfl⟩

/-- The machine after a subtile of a tile has been evaluated into the block. -/
def State.evaluated (s : State) (id : WaveId) (b : Block) (tile q : Nat) : State :=
  let s := s.modBlock id fun _ => b
  if (b.tileAt tile).valid = BitVec.allOnes 64 then s.freeNode id q else s

/-- A block whose node is freed once its tile is wholly valid. -/
def Block.released (b : Block) (tile q : Nat) : Block := if (b.tileAt tile).valid = BitVec.allOnes 64 then b.freeNode q else b

theorem released_frame (b : Block) (tile q : Nat) : (b.released tile q).tile = b.tile ∧ (b.released tile q).waves = b.waves := by
  unfold Block.released
  split <;> exact ⟨rfl, rfl⟩

theorem evaluated_block {s : State} {id : WaveId} {b0 : Block} (hb : s.block? id = some b0) (b : Block) (tile q : Nat) :
    (s.evaluated id b tile q).block? id = some (b.released tile q) ∧ (s.evaluated id b tile q).mem = s.mem := by
  have hput : (s.modBlock id fun _ => b).block? id = some b := block?_modBlock_self hb rfl _
  unfold State.evaluated Block.released
  dsimp only
  split
  · obtain ⟨ls, hfree⟩ := freeNode_frame hput q
    rw [hfree]
    exact ⟨block?_modBlock_self (s := { s.modBlock id (fun _ => b) with locks := ls }) hput rfl _, rfl⟩
  · exact ⟨hput, rfl⟩

/-! ### The tile engine's turn

What holds an evaluation up does not depend on which block the tile engine of a core has served last: down to the page tables,
every function that it goes through reads other fields of the machine. -/

/-- The machine with other turns of the tile engines. -/
def State.turned (s : State) (turns : Sparse Nat) : State := { s with tileTurn := turns }

section
variable (s : State) (turns : Sparse Nat)

theorem walk_turned (va : Nat) (levels : List (Nat × Bool × Bool)) (table : Nat) :
    (s.turned turns).walk va levels table = s.walk va levels table := by
  induction levels generalizing table with
  | nil => rfl
  | cons l rest ih =>
    obtain ⟨sh, ok, last⟩ := l
    unfold State.walk
    simp only [ih]
    rfl

theorem translate_turned (asid tenant va : Nat) (rights : List Nat) :
    (s.turned turns).translate asid tenant va rights = s.translate asid tenant va rights := by
  unfold State.translate State.leafOf
  simp only [walk_turned]
  rfl

theorem lanePhys_turned (l : Launch) (e : LogEntry) (ln : Nat) : (s.turned turns).lanePhys l e ln = s.lanePhys l e ln := by
  unfold State.lanePhys
  simp only [translate_turned]

theorem setAside_turned (b : Block) (w : Wave) (e : LogEntry) : (s.turned turns).setAside b w e = s.setAside b w e := by
  unfold State.setAside State.waitsFault State.meets
  simp only [lanePhys_turned]
  rfl

theorem laneScope_turned (tenant : Nat) (e : LogEntry) (l : Nat) : (s.turned turns).laneScope tenant e l = s.laneScope tenant e l := by
  have hwindow : ∀ va, (s.turned turns).windowOf tenant va = s.windowOf tenant va := fun _ => rfl
  have hhome : ∀ w, (s.turned turns).homeHere w = s.homeHere w := fun _ => rfl
  unfold State.laneScope
  simp only [hwindow, hhome]

theorem performedAt_turned (b : Block) (w : Wave) (seq scope : Nat) :
    (s.turned turns).performedAt b w seq scope = s.performedAt b w seq scope := by
  unfold State.performedAt
  simp only [setAside_turned, laneScope_turned]
  rfl

theorem publishHeld_turned (b : Block) (w : Wave) (seq : Nat) : (s.turned turns).publishHeld b w seq = s.publishHeld b w seq := by
  unfold State.publishHeld State.unpublished State.sealReachedAt
  simp only [performedAt_turned]
  rfl

theorem engineHeld_turned (b : Block) (w : Wave) (owner seq : Nat) :
    (s.turned turns).engineHeld b w owner seq = s.engineHeld b w owner seq := by
  unfold State.engineHeld
  simp only [publishHeld_turned, lanePhys_turned]
  rfl

theorem nodeBlocked_turned (b : Block) (n : Node) : (s.turned turns).nodeBlocked b n = s.nodeBlocked b n := by
  have hwave : ∀ u, (s.turned turns).wave u = s.wave u := fun _ => rfl
  unfold State.nodeBlocked
  simp only [engineHeld_turned, hwave]
  rfl

theorem evalNode_turned (b : Block) (r : Record) (n : Node) (k : Nat) : (s.turned turns).evalNode b r n k = s.evalNode b r n k := by
  have hload : (s.turned turns).loadSubtile b r n k = s.loadSubtile b r n k := rfl
  unfold State.evalNode
  rw [hload]

end

/-! ### The wave whose forcing is served -/

theorem mem_of_firstSome {α : Type} {x : α} : ∀ {l : List (Option α)}, firstSome l = some x → some x ∈ l
  | some _ :: _, h => List.mem_cons.mpr (.inl (Eq.symm h))
  | none :: _, h => List.mem_cons_of_mem _ (mem_of_firstSome (show firstSome _ = some x from h))

theorem spFind_of_mem {α : Type} {m : Sparse α} {k : Nat} {v : α} (h : (k, v) ∈ m) : ∃ x, spFind m k = some x := by
  induction m with
  | nil => cases h
  | cons e m ih =>
    unfold spFind
    split
    · exact ⟨_, rfl⟩
    · rename_i hne
      exact ih ((List.mem_cons.mp h).resolve_left fun heq => hne (heq ▸ rfl))

theorem forcer_wave {b : Block} {w : Nat} {wv : Wave} {d : List (Nat × W64)} (h : b.forcer = some (w, wv, d)) :
    ∃ x, spFind b.waves w = some x := by
  unfold Block.forcer at h
  split at h
  · cases h
  · obtain ⟨e, hmem, he⟩ := List.mem_map.mp (mem_of_firstSome h)
    split at he
    · split at he
      · cases he
      · obtain ⟨rfl, rfl, -⟩ := Prod.mk.inj (Option.some.inj he) |>.imp_right Prod.mk.inj
        exact spFind_of_mem hmem
    · cases he

section
variable {s : State} {id : WaveId} {b b' : Block} {l : Launch} {tile k q : Nat} {n : Node} {fl : W32}

theorem evalSubtile_ok (hb : s.block? id = some b) (hl : s.launchOf b = some l) (hq : (b.tileAt tile).producer = some q)
    (hn : b.node? q = some n) (hlock : n.op = 0x201 → n.lock.isSome = true) (hfree : s.nodeBlocked b n = false)
    (heval : s.evalNode b l.record n k = .ok (b', fl)) :
    s.evalSubtile id tile k = .ok (s.evaluated id (b'.evaluated tile q ((b.geo l.record tile).validBy k)) tile q, fl) := by
  have hrelock : s.relock id b l q n = .ok s := by
    unfold State.relock
    refine if_pos ?_
    by_cases hop : n.op = 0x201
    · exact .inr (hlock hop)
    · exact .inl hop
  unfold State.evalNode at heval
  unfold State.evalSubtile
  simp only [hb, hl, hq, hn, hfree, hrelock, heval, Option.getD_some, Bool.false_eq_true, if_false]
  rfl

/-- The tile engine's step for a forcing instruction whose evaluation has a result. -/
theorem tileStep_ok {core slot w : Nat} {wv : Wave} {d : List (Nat × W64)} {t : State} (hnext : s.tileNext core = some slot)
    (hb : s.block? ⟨core, slot, 0⟩ = some b) (hl : s.launchOf b = some l) (hforcer : b.forcer = some (w, wv, d))
    (hfirst : b.firstEval l.record 65 d = some (tile, k))
    (heval : (s.turned (spSet 15 s.tileTurn core slot)).evalSubtile ⟨core, slot, 0⟩ tile k = .ok (t, fl)) :
    s.tileStep core slot = t.modWave ⟨core, slot, w⟩ fun w => { w with nstat := w.nstat ||| fl } := by
  unfold State.turned at heval
  have hb' : { s with tileTurn := spSet 15 s.tileTurn core slot }.block? ⟨core, slot, 0⟩ = some b := hb
  have hl' : { s with tileTurn := spSet 15 s.tileTurn core slot }.launchOf b = some l := hl
  unfold State.tileStep
  simp only [hnext, bne_self_eq_false, Bool.false_eq_true, if_false, hb', hl', hforcer, hfirst, heval]

/-- The machine after a subtile's evaluation, before the flags reach the forcing wave. -/
def State.afterEval (s : State) (core slot : Nat) (b : Block) (tile q : Nat) : State :=
  (s.turned (spSet 15 s.tileTurn core slot)).evaluated ⟨core, slot, 0⟩ b tile q

theorem afterEval_block {core slot : Nat} (hb : s.block? ⟨core, slot, 0⟩ = some b) (b'' : Block) (tile q : Nat) :
    (s.afterEval core slot b'' tile q).block? ⟨core, slot, 0⟩ = some (b''.released tile q) ∧ (s.afterEval core slot b'' tile q).mem = s.mem :=
  evaluated_block (s := s.turned (spSet 15 s.tileTurn core slot)) hb b'' tile q

theorem wave?_afterEval {core slot w : Nat} {x : Wave} (hb : s.block? ⟨core, slot, 0⟩ = some b) {b'' : Block}
    (hx : spFind b''.waves w = some x) (tile q : Nat) : (s.afterEval core slot b'' tile q).wave? ⟨core, slot, w⟩ = some x := by
  have hblock : (s.afterEval core slot b'' tile q).block? ⟨core, slot, w⟩ = some (b''.released tile q) := (afterEval_block hb b'' tile q).1
  unfold State.wave?
  rw [hblock]
  exact (congrArg (spFind · w) (released_frame b'' tile q).2).trans hx

theorem subtileEval_runs {core slot w : Nat} {wv : Wave} {d : List (Nat × W64)} (hb : s.block? ⟨core, slot, 0⟩ = some b)
    (hl : s.launchOf b = some l) (hforcer : b.forcer = some (w, wv, d)) (hfirst : b.firstEval l.record 65 d = some (tile, k))
    (hq : (b.tileAt tile).producer = some q) (hn : b.node? q = some n) (hlock : n.op = 0x201 → n.lock.isSome = true)
    (hfree : s.nodeBlocked b n = false) (hnext : s.tileNext core = some slot) (heval : s.evalNode b l.record n k = .ok (b', fl)) :
    exec (.tileSubtileEval core slot) s = .next ((s.afterEval core slot (b'.evaluated tile q ((b.geo l.record tile).validBy k)) tile q).modWave
      ⟨core, slot, w⟩ fun w => { w with nstat := w.nstat ||| fl }) := by
  refine congrArg Host.Outcome.next (tileStep_ok hnext hb hl hforcer hfirst ?_)
  exact evalSubtile_ok (s := s.turned _) hb hl hq hn hlock ((nodeBlocked_turned s _ b n).trans hfree)
    ((evalNode_turned s _ b l.record n k).trans heval)

theorem subtileEval_outcome {core slot w : Nat} {wv : Wave} {d : List (Nat × W64)} (hb : s.block? ⟨core, slot, 0⟩ = some b)
    (hl : s.launchOf b = some l) (hforcer : b.forcer = some (w, wv, d)) (hfirst : b.firstEval l.record 65 d = some (tile, k))
    (hq : (b.tileAt tile).producer = some q) (hn : b.node? q = some n) (hlock : n.op = 0x201 → n.lock.isSome = true)
    (hfree : s.nodeBlocked b n = false) (hnext : s.tileNext core = some slot) (heval : s.evalNode b l.record n k = .ok (b', fl)) :
    ∃ t bt, exec (.tileSubtileEval core slot) s = .next t ∧ t.block? ⟨core, slot, 0⟩ = some bt ∧ bt.tile = b'.tile ∧
      ((b'.tileAt tile).valid ||| (b.geo l.record tile).validBy k ≠ BitVec.allOnes 64 →
        (bt.tileAt tile).valid = (b'.tileAt tile).valid ||| (b.geo l.record tile).validBy k ∧
        (bt.tileAt tile).producer = (b'.tileAt tile).producer) ∧
      ((b'.tileAt tile).valid ||| (b.geo l.record tile).validBy k = BitVec.allOnes 64 → bt.node? q = none) ∧
      (t.wave ⟨core, slot, w⟩).nstat = (s.wave ⟨core, slot, w⟩).nstat ||| fl ∧ t.mem = s.mem := by
  have hrun := subtileEval_runs hb hl hforcer hfirst hq hn hlock hfree hnext heval
  obtain ⟨hvalid, hproducer⟩ := tileAt_evaluated b' tile q ((b.geo l.record tile).validBy k)
  obtain ⟨hblock, hmem⟩ := afterEval_block hb (b'.evaluated tile q ((b.geo l.record tile).validBy k)) tile q
  obtain ⟨x, hx⟩ := forcer_wave hforcer
  have hold : s.wave? ⟨core, slot, w⟩ = some x := by
    unfold State.wave?; rw [show s.block? ⟨core, slot, w⟩ = some b from hb]; exact hx
  rw [← evalNode_waves heval, ← waves_evaluated b' tile q ((b.geo l.record tile).validBy k)] at hx
  refine ⟨_, _, hrun, block?_modBlock_self hblock rfl _, (released_frame _ tile q).1, fun hpart => ?_, fun hwhole => ?_, ?_, hmem⟩
  · rw [show Block.released _ tile q = _ from if_neg (by rwa [hvalid])]
    exact ⟨hvalid, hproducer⟩
  · rw [show Block.released _ tile q = _ from if_pos (hvalid.trans hwhole)]
    exact node?_freeNode _ q
  · rw [wave_eq_of_wave? hold]
    exact congrArg Wave.nstat (wave_modWave_self (wave?_afterEval hb hx tile q) _)

end

end Sys2Proof.Machine
end

section
/-! The obligation O46. -/

namespace Sys2Proof.Machine

open Sys2Proof

/-- An effect may be stated in another form, equal where the instruction issues. -/
theorem actResult_congr {i : Instr} {sp : Spec} {own : State → Ctx → List Fail} {when : State → Ctx → Prop} {eff eff' : State → Ctx → State}
    {dst : State → Ctx → Option (Nat × W64)} (heff : ∀ s c w, Issuing s c w → eff' s c = eff s c) (h : ActResult i sp own when eff dst) :
    ActResult i sp own when eff' dst := by
  intro s c hc
  obtain ⟨w, hw⟩ := issuing_of_clear hc
  rw [heff s c w hw]
  exact h s c hc

theorem appended_newNode {s : State} {c : Ctx} {w : Wave} (hw : Issuing s c w) (op : Nat) (f : F) :
    ((match (c.b.tileAt (tileD f)).producer with
        | some q => s.freeNode s.cur q
        | none => s).modBlock s.cur fun b => b.append c.l.record (b.freeNodeSlot.getD 0)
      { origin := c.addr, index := c.idx, wave := s.cur.wave, op := op, modifier := f.m, dest := tileD f
        selfRead := selfReads op (tileD f) f.m (opSources op f.a f.b (c.prm f)), state := 1, cause := 0xFF, a := f.a, b := f.b
        prm := c.prm f, memAddr := 0, memPitch := 0, seq := 0, faultAddr := 0, pages := [], lock := none, since := c.w.accesses }) =
      s.appended c (c.newNode op f (c.prm f)) := by
  unfold State.appended Ctx.newNode
  rewrite [hw.id]
  rfl

/-- Settles O46: a tile instruction that finds its tiles free and its demand met has its effect at once; the tile engine's step
evaluates one subtile, whatever turn of the engine it is. -/
theorem tileInstructions : Obligations.TileInstructions := by
  refine ⟨fun f => ⟨tdesc_outcome f, ?_, fun s c pages q => tld_outcome, tforce_outcome f, fun s c => tforce_waits, ?_⟩, tgrow_outcome, ?_⟩
  · simp only [List.forall_mem_cons]
    refine ⟨?_, ?_, ?_, ?_, ?_, fun _ h => absurd h List.not_mem_nil⟩ <;>
      exact actResult_congr (fun s c w hw => appended_newNode hw _ f) (append_outcome (by decide) fun _ => rfl)
  · exact fun s c pages hc hp hbusy => ⟨tst_idle hc hp hbusy, tst_outcome hc hp hbusy⟩
  · intro s core slot w tile k q b b' l wv d n fl hb hl hforcer hfirst hq hn _ hlock hfree hnext heval
    exact subtileEval_outcome hb hl hforcer hfirst hq hn hlock hfree hnext heval

end Sys2Proof.Machine
end

section
/-! Operations of the lanes (06 R151): their results and NSTAT bits, and the obligation O4. -/

namespace Sys2Proof.Machine

open Sys2Proof

/-! ### One result per participating lane (06 R151) -/

theorem laneWrites_word (c : Ctx) (d : BitVec 10) (v : Nat → W32) : ∀ x ∈ c.laneWrites d v, x.reg.word x.lane := by
  intro x hx
  unfold Ctx.laneWrites at hx
  obtain ⟨l, hl, hx⟩ := List.mem_filterMap.mp hx
  split at hx
  · cases hx
  · cases hx
    exact mem_lanes32.mp (List.mem_of_mem_filter hl)

theorem gatherFlags_zero (lanes : BitVec 32) : gatherFlags lanes (fun _ => 0) = 0 :=
  List.foldl_fixed' (fun _ => BitVec.or_zero) (lanesOf lanes)

/-- An operation of the lanes writes its values and gathers their NSTAT bits. -/
theorem laneResult_of {i : Instr} {sp : Spec} {d : BitVec 10} {own : Ctx → List Fail} {val val' : Ctx → Nat → Fl W32}
    (hexec : ∀ s, exec i s = .next (laneOp sp d own val s)) (hval : ∀ c l, val c l = val' c l) : LaneResult i sp d own val' := by
  obtain rfl : val = val' := funext fun c => funext (hval c)
  refine fixedResult_of (resume := noResume) hexec (fun s c _ => ?_) fun c => laneWrites_word c d _
  dsimp only
  rw [List.filterMap_map, List.foldl_map]
  rfl

/-- An operation of the lanes without NSTAT bits. -/
theorem pureResult_of {i : Instr} {sp : Spec} {d : BitVec 10} {val val' : Ctx → Nat → W32}
    (hexec : ∀ s, exec i s = .next (laneOp sp d noFails (pureLane val) s)) (hval : ∀ c l, val c l = val' c l) : PureResult i sp d val' := by
  have h : LaneResult i sp d noFails (pureLane val') := laneResult_of hexec fun c l => congrArg (Fl.mk · 0) (hval c l)
  have hflags : (fun c : Ctx => gatherFlags c.part fun l => (pureLane val' c l).flags) = fun _ => 0 :=
    funext fun c => gatherFlags_zero c.part
  unfold LaneResult at h
  rw [hflags] at h
  exact h

/-! ### Float types (06 R163) -/

theorem constType_float {t : Nat} (h : isFloatType t = true) : constType t = t := if_pos h

@[simp] theorem xadd_nan_left (x : XReal) : xadd .nan x = ⟨.nan, 0⟩ := by cases x <;> rfl
@[simp] theorem xadd_nan_right (x : XReal) : xadd x .nan = ⟨.nan, 0⟩ := by cases x <;> rfl
@[simp] theorem xmul_nan_left (x : XReal) : xmul .nan x = ⟨.nan, 0⟩ := by cases x <;> rfl
@[simp] theorem xmul_nan_right (x : XReal) : xmul x .nan = ⟨.nan, 0⟩ := by cases x <;> rfl

/-- The exact product and sum of one operation: a product's INVALID is dropped beside a NaN addend (log 73). -/
theorem xfma_eq (x y z : XReal) :
    xfma x y z = ⟨(xadd (xmul x y).val z).val, if z = .nan then 0 else (xmul x y).flags ||| (xadd (xmul x y).val z).flags⟩ := by
  unfold xfma
  by_cases hz : z = .nan
  · simp [hz]
  · by_cases hx : x = .nan
    · simp [hx]
    · by_cases hy : y = .nan
      · simp [hy]
      · simp only [hx, hy, hz, or_self, if_false]

section
variable {f : F} (hf : isFloatType (modType f.m) = true)
include hf

theorem addSubVal_float (sub : Bool) (c : Ctx) (l : Nat) : addSubVal f sub c l =
    roundType (modType f.m) (roundMode f.m) (xadd (floatVal (modType f.m) (c.lane f.a l (modType f.m)))
      (if sub then xneg (floatVal (modType f.m) (c.lane f.b l (modType f.m))) else floatVal (modType f.m) (c.lane f.b l (modType f.m)))) := by
  unfold addSubVal
  simp only [constType_float hf, if_pos hf]

theorem vmulVal_float (c : Ctx) (l : Nat) : vmulVal f c l = roundType (modType f.m) (roundMode f.m)
    (xmul (floatVal (modType f.m) (c.lane f.a l (modType f.m))) (floatVal (modType f.m) (c.lane f.b l (modType f.m)))) := by
  unfold vmulVal
  simp only [constType_float hf, if_pos hf]

theorem minMaxVal_float (wantMax : Bool) (c : Ctx) (l : Nat) : minMaxVal f wantMax c l =
    floatMinMax (modType f.m) wantMax (c.lane f.a l (modType f.m)) (c.lane f.b l (modType f.m)) := by
  unfold minMaxVal minMaxOf
  simp only [constType_float hf, if_pos hf]

theorem vabsVal_float (c : Ctx) (l : Nat) : vabsVal f c l =
    if isNan (modType f.m) (c.lane f.a l (modType f.m)) then BitVec.ofNat 32 (canonicalNan (typeFmt (modType f.m)))
    else cutType (modType f.m) (c.lane f.a l (modType f.m)) &&& ~~~signBit (modType f.m) := by
  unfold vabsVal
  simp only [constType_float hf, if_pos hf]

theorem vnegVal_float (c : Ctx) (l : Nat) : vnegVal f c l =
    if isNan (modType f.m) (c.lane f.a l (modType f.m)) then BitVec.ofNat 32 (canonicalNan (typeFmt (modType f.m)))
    else cutType (modType f.m) (c.lane f.a l (modType f.m)) ^^^ signBit (modType f.m) := by
  unfold vnegVal
  simp only [constType_float hf, if_pos hf]

/-- A latency that a float type selects. -/
theorem latency_float (n m : Nat) : (if isFloatType (modType f.m) = true then n else m) = n := if_pos hf

end

/-- A latency that the type f32 selects. -/
theorem latency_f32 {t : Nat} (h : t = 2) (n m : Nat) : (if t = 2 then n else m) = n := if_pos h

theorem vdivVal_f32 {f : F} (h : modType f.m = 2) (c : Ctx) (l : Nat) : vdivVal f c l =
    roundType 2 (roundMode f.m) (xdiv (floatVal 2 (c.lane f.a l 2)) (floatVal 2 (c.lane f.b l 2))) := by
  unfold vdivVal
  simp only [h, if_true]
  rfl

/-- Settles O4: each float operation of the lanes is its exact value, rounded once, at the latency of its type. -/
theorem laneFloatArithmetic : Obligations.LaneFloatArithmetic := by
  intro f hf
  have hlat := latency_float hf
  refine ⟨?vadd, ?vsub, ?vmul, ?vfma, ?vdiv, ?vmin, ?vmax, ?vabs, ?vneg, ?vrnd, ?vclass⟩
  case vadd => exact laneResult_of (fun s => by rw [← hlat 6 4]; rfl) fun c l => addSubVal_float hf false c l
  case vsub => exact laneResult_of (fun s => by rw [← hlat 6 4]; rfl) fun c l => addSubVal_float hf true c l
  case vmul => exact laneResult_of (fun _ => rfl) fun c l => vmulVal_float hf c l
  case vfma => exact laneResult_of (fun _ => rfl) fun c l => congrArg (roundType _ _) (xfma_eq _ _ _)
  case vdiv =>
    intro h2
    exact laneResult_of (fun s => by rw [← latency_f32 h2 24 40]; rfl) fun c l => vdivVal_f32 h2 c l
  case vmin => exact pureResult_of (fun s => by rw [← hlat 6 4]; rfl) fun c l => minMaxVal_float hf false c l
  case vmax => exact pureResult_of (fun s => by rw [← hlat 6 4]; rfl) fun c l => minMaxVal_float hf true c l
  case vabs => exact pureResult_of (fun s => by rw [← hlat 6 4]; rfl) fun c l => vabsVal_float hf c l
  case vneg => exact pureResult_of (fun s => by rw [← hlat 6 4]; rfl) fun c l => vnegVal_float hf c l
  case vrnd => exact pureResult_of (fun _ => rfl) fun _ _ => rfl
  case vclass => exact pureResult_of (fun _ => rfl) fun _ _ => rfl

end Sys2Proof.Machine
end

section
/-! Reductions over the lanes of a wave (06 R174-R176): the obligation O10. -/

namespace Sys2Proof.Machine

open Sys2Proof

/-! ### Destinations -/

theorem scalarWrite_word (c : Ctx) (n : Nat) (x : W64) :
    ∀ y ∈ (if c.part = 0 then [] else [⟨.scal n, 0, x⟩] : List RegWrite), y.reg.word y.lane := by
  intro y hy
  split at hy
  · cases hy
  · obtain rfl := List.mem_singleton.mp hy
    rfl

theorem eitherWrites_word (c : Ctx) (d : BitVec 10) (x : W32) : ∀ y ∈ c.eitherWrites d x, y.reg.word y.lane := by
  unfold Ctx.eitherWrites
  split
  · exact scalarWrite_word c _ _
  · exact laneWrites_word c d _

/-! ### A change of the own wave -/

/-- An instruction whose effect is a change of its wave beside the control state. -/
theorem advanced_modIssued {s : State} {c : Ctx} {w : Wave} (h : Issuing s c w) (sp : Spec) (g : Wave → Wave)
    (hg : SameControl (c.issued sp w) (g (c.issued sp w))) :
    Advanced s s (((s.issue c sp).modWave c.id g).advance c.id) c (g (c.issued sp w)) := by
  have hframe : OnlyWave s ((s.issue c sp).modWave s.cur g) := by
    rw [issue_eq, h.id]
    exact (onlyWave_modWave s _).trans (onlyWave_modWave _ g)
  have hwave : ((s.issue c sp).modWave s.cur g).wave? s.cur = some (g (c.issued sp w)) := by
    rw [issue_eq, h.id]
    exact wave_modWave_modWave h.wave _ g
  obtain ⟨hmore, hstill, hflags, hnext⟩ := advanced_of h hframe.cur hwave ((sameControl_issued c sp w).trans hg)
  rw [h.id]
  exact ⟨hframe.trans hmore, hstill, hflags, hnext⟩

/-- A register word is read from the register files alone. -/
theorem regGet_of_still {w v : Wave} (h : w.still = v.still) (r : RegRef) (l : Nat) : w.regGet r l = v.regGet r l := by
  have hfiles : ∀ u : Wave, u.regGet r l = u.still.regGet r l := fun u => by cases r <;> rfl
  rw [hfiles w, h, ← hfiles v]

/-! ### VFOLD (06 R176) -/

/-- What a VFOLD puts into the fold tree: the reduction, its NSTAT bits, its flag. -/
def Ctx.folded (c : Ctx) (f : F) : W64 × Nat × Nat :=
  ((vredVal f c).val.zeroExtend 64, if c.part = 0 then 0 else (vredVal f c).flags.toNat, f.ctl.sig.toNat)

/-- A wave with a further reduction in its fold tree, and the flag up. -/
def Wave.foldIn (x : W64 × Nat × Nat) (w : Wave) : Wave := { (w.flagUp x.2.2) with foldq := w.foldq ++ [x] }

theorem foldIn_fields (x : W64 × Nat × Nat) (w : Wave) :
    w.foldIn x = { w with k := (w.flagUp x.2.2).k, foldq := w.foldq ++ [x] } := by
  unfold Wave.foldIn; rw [flagUp_moved]

theorem vfold_outcome {f : F} {s : State} {c : Ctx} (hc : s.clear (vfoldSpec f) noFails = some c) :
    ∃ t, exec (.vfold f) s = .next t ∧ OnlyWave s t ∧ NextWord s t c ∧
      (t.wave s.cur).foldq = (s.wave s.cur).foldq ++ [c.folded f] ∧
      (t.wave s.cur).fold = (s.wave s.cur).fold ∧ (t.wave s.cur).foldSeq = (s.wave s.cur).foldSeq ∧
      ∀ r l, r.word l → (t.wave s.cur).regGet r l = (s.wave s.cur).regGet r l := by
  obtain ⟨w, hw⟩ := issuing_of_clear hc
  have hexec : exec (.vfold f) s =
      .next (((s.issue c (vfoldSpec f)).modWave c.id (Wave.foldIn (c.folded f))).advance c.id) :=
    congrArg Host.Outcome.next (run_clear hc noResume _)
  have hcontrol : SameControl (c.issued (vfoldSpec f) w) ((c.issued (vfoldSpec f) w).foldIn (c.folded f)) := by
    rw [foldIn_fields]; exact ⟨rfl, rfl, rfl, rfl⟩
  obtain ⟨hframe, hstill, -, hnext⟩ := advanced_modIssued hw (vfoldSpec f) _ hcontrol
  have hwave := hstill.trans (c := ({ w with foldq := w.foldq ++ [c.folded f] } : Wave).still) (by
    rw [foldIn_fields, issued_fields, ← hw.wait]; rfl)
  rw [hw.state]
  refine ⟨_, hexec, hframe, hnext, (congrArg Wave.foldq hwave :), (congrArg Wave.fold hwave :), (congrArg Wave.foldSeq hwave :),
    fun r l _ => (regGet_of_still hwave r l).trans ?_⟩
  cases r <;> rfl

/-- Settles O10: a reduction is a fixed-latency result, and VFOLD's joins the fold tree of its wave. -/
theorem laneReductions : Obligations.LaneReductions := by
  intro f
  refine ⟨?vred, ?vminidx, ?vmaxidx, fun s c hc => vfold_outcome hc⟩
  case vred =>
    exact fixedResult_of (resume := noResume) (fun _ => rfl) (fun _ _ _ => rfl) fun c => eitherWrites_word c f.d (vredVal f c).val
  case vminidx =>
    exact fixedResult_of (resume := noResume) (fun _ => rfl) (fun _ _ _ => rfl) fun c => laneWritesN_word c f.d 2 _
  case vmaxidx =>
    exact fixedResult_of (resume := noResume) (fun _ => rfl) (fun _ _ _ => rfl) fun c => laneWritesN_word c f.d 2 _

end Sys2Proof.Machine
end

section
/-! Candidate lists, softmax partials, draws and random numbers (10 R267-R275): the obligation O11. -/

namespace Sys2Proof.Machine

open Sys2Proof

/-! ### VSMXM by lane (10 R272) -/

/-- The words of the merges of each participating lane's two partials. -/
def Ctx.mergeWrites (c : Ctx) (f : F) : List RegWrite :=
  (lanesOf c.part).flatMap fun l =>
    let r := mergeP (c.partialAt (vecNo f.d) l) (c.partialAt (vecNo f.a) l)
    [⟨.vec (vecNo f.d), l, r.val.mu.zeroExtend 64⟩, ⟨.vec (vecNo f.d + 1), l, r.val.lam.zeroExtend 64⟩]

theorem mergeWrites_word (c : Ctx) (f : F) : ∀ x ∈ c.mergeWrites f, x.reg.word x.lane := by
  intro x hx
  obtain ⟨l, hl, hx⟩ := List.mem_flatMap.mp hx
  have hlane : l < 32 := mem_lanes32.mp (List.mem_of_mem_filter hl)
  rcases List.mem_cons.mp hx with rfl | hx
  · exact hlane
  · obtain rfl := List.mem_singleton.mp hx
    exact hlane

theorem vsmxmLane_result (f : F) : FixedResult (.vsmxmLane f) (vsmxmSpec f) noFails (Ctx.mergeWrites · f)
    (fun c => gatherFlags c.part fun l => (mergeP (c.partialAt (vecNo f.d) l) (c.partialAt (vecNo f.a) l)).flags) := by
  refine fixedResult_of (resume := noResume) (fun _ => rfl) (fun s c _ => ?_) (mergeWrites_word · f)
  dsimp only
  rw [List.flatMap_map, List.foldl_map]
  rfl

/-- Settles O11: each is a fixed-latency result of its lanes, of its wave, or of its scalar. -/
theorem tokenGeneration : Obligations.TokenGeneration := by
  intro f
  refine ⟨?vtopk, ?vtopkm, ?vsmx, vsmxmLane_result f, ?vsmxmWave, ?sample, ?vrand⟩
  case vtopk =>
    exact fixedResult_of (resume := noResume) (fun _ => rfl) (fun _ _ _ => rfl) fun c => laneWritesN_word c f.d 2 _
  case vtopkm =>
    exact fixedResult_of (resume := noResume) (fun _ => rfl) (fun _ _ _ => rfl) fun c => laneWritesN_word c f.d 2 _
  case vsmx =>
    exact fixedResult_of (resume := noResume) (fun _ => rfl) (fun _ _ _ => rfl) fun c => laneWritesN_word c f.d 3 _
  case vsmxmWave =>
    exact fixedResult_of (resume := noResume) (fun _ => rfl) (fun _ _ _ => rfl) fun c => laneWritesN_word c f.d 2 _
  case sample =>
    exact fixedResult_of (resume := noResume) (fun _ => rfl) (fun _ _ _ => rfl) fun c => scalarWrite_word c _ _
  case vrand => exact pureResult_of (fun _ => rfl) fun _ _ => rfl

end Sys2Proof.Machine
end

section
/-! Instructions that take an entry of the operand log and start an engine operation (07 R184, R185): the layer of SQRY and SAPP. -/

namespace Sys2Proof.Machine

open Sys2Proof

/-! ### The entry (07 R184) -/

theorem pend_setPend (w : Wave) (dests : List Nat) (v : Bool) (d : Nat) :
    spGet false (w.setPend dests v).pend d = if d ∈ dests then v else spGet false w.pend d := by
  unfold Wave.setPend
  induction dests using List.reverseRecOn with
  | nil => rfl
  | append_singleton ds k ih =>
    simp only [List.foldl_append, List.foldl_cons, List.foldl_nil, spGet_spSet, ih, List.mem_append, List.mem_singleton]
    by_cases hk : k = d
    · simp [hk]
    · simp [hk, Ne.symm hk]

/-- A wave whose access has entered its operand log. -/
def Ctx.logged (c : Ctx) (sp : Spec) (e : LogEntry) (i : Nat) (w : Wave) : Wave :=
  let v := (w.flagUp sp.ctl.sig.toNat).setPend e.dests true
  { v with
    log := spPut v.log i e
    accesses := v.accesses + 1
    inflight := if c.ordered || sp.dsts.any fun u => !isVec u.1 then v.inflight.map fun p =>
        if p.regs.any fun o => match o.reg with
          | .vec n => decide (n * 32 + o.lane ∈ e.dests)
          | _ => false
        then { p with short := 0 } else p
      else v.inflight }

theorem logged_fields (c : Ctx) (sp : Spec) (e : LogEntry) (i : Nat) (w : Wave) : c.logged sp e i w =
    { w with
      k := (w.flagUp sp.ctl.sig.toNat).k, pend := (w.setPend e.dests true).pend, log := spPut w.log i e, accesses := w.accesses + 1
      inflight := (c.logged sp e i w).inflight } := by
  unfold Ctx.logged
  rw [flagUp_moved]
  rfl

theorem logIssue_eq {c : Ctx} {i : Nat} (hfree : c.w.logFree = some i) (s : State) (sp : Spec) (e : LogEntry) :
    s.logIssue c sp e = ((s.issue c sp).modWave c.id (c.logged sp e i)).advance c.id := by
  unfold State.logIssue
  rw [hfree]
  rfl

/-- An access that issues takes its entry. -/
theorem logOutcome_logIssue {s : State} {c : Ctx} {w : Wave} (h : Issuing s c w) (sp : Spec) (e : LogEntry) {i : Nat}
    (hfree : c.w.logFree = some i) : LogOutcome s (s.logIssue c sp e) s c sp i e := by
  have hcontrol : SameControl (c.issued sp w) (c.logged sp e i (c.issued sp w)) := by
    rw [logged_fields]; exact ⟨rfl, rfl, rfl, rfl⟩
  obtain ⟨hframe, hstill, hflags, hnext⟩ := advanced_modIssued h sp (c.logged sp e i) hcontrol
  rw [← logIssue_eq hfree] at hframe hstill hflags hnext
  have hfields := hstill.trans (c := ({ w with
      k := [], pend := (w.setPend e.dests true).pend, log := spPut w.log i e, accesses := w.accesses + 1 } : Wave).still) (by
    rw [logged_fields, issued_fields, ← h.wait]; rfl)
  have hentries : ((s.logIssue c sp e).wave s.cur).log = spPut w.log i e := congrArg Wave.log hfields
  have hpending : ((s.logIssue c sp e).wave s.cur).pend = (w.setPend e.dests true).pend := (congrArg Wave.pend hfields :)
  refine ⟨hframe, ?_, fun j => ?_, ?_, fun d => ?_, hnext, fun n hn => ?_⟩ <;> rw [h.state]
  · exact (congrArg Wave.noLog hfields).trans rfl
  · rw [hentries, spFind_spPut]
    simp only [eq_comm]
  · exact (congrArg Wave.accesses hfields :)
  · rw [hpending, pend_setPend]
    by_cases hd : d ∈ e.dests <;> simp [hd]
  · unfold Wave.kget
    rw [hflags, logged_fields]
    refine (kget_flagUp _ hn).trans ?_
    rw [issued_fields]; rfl

/-- What is beside the wave in the slot does not matter to the outcome of its access. -/
theorem LogOutcome.of_wave {s t u t' : State} {c : Ctx} {sp : Spec} {k : Nat} {e : LogEntry} (h : LogOutcome s t u c sp k e)
    (hwave : t'.wave s.cur = t.wave s.cur) : LogOutcome s t' t' c sp k e := by
  obtain ⟨-, hrest, hentry, hcount, hpend, hnext, hflag⟩ := h
  rw [← hwave] at hrest hentry hcount hpend hflag
  exact ⟨.refl t', hrest, hentry, hcount, hpend, fun l hl => by rw [hwave]; exact hnext l hl, hflag⟩

/-! ### The operation -/

/-- Only the translations held differ. -/
def HeldOnly (s t : State) : Prop := t = { s with held := t.held }

theorem heldOnly_holds (s : State) (asid tenant : Nat) (vas : List W64) (rights : List Nat) :
    HeldOnly s (vas.foldl (fun s (a : W64) => s.hold asid tenant a.toNat rights) s) := by
  refine rel_foldl (R := HeldOnly) (fun _ => rfl) (fun {s t u} h k => ?_) (fun s a => ?_) vas s
  · unfold HeldOnly at h k ⊢; rw [k, h]
  · obtain ⟨hp, he⟩ := hold_frame s asid tenant a.toNat rights
    rw [he]; rfl

/-- The machine in which an access of the operand log has started its operation: it holds the pages of its bases, its locks and the
pending words of the common area. -/
def State.started (s : State) (c : Ctx) (sp : Spec) (e : LogEntry) (bases : List W64) (rights : List Nat) (o : EngineOp)
    (locks : List (Bool × List (Nat × Nat))) (words : List (Nat × Nat)) : State :=
  ((bases.foldl (fun s (a : W64) => s.hold c.l.asid c.l.tenant a.toNat rights) (s.logIssue c sp e)).addOp o locks).modBlock c.id
    fun b => b.markUnits .common words true

theorem shellOnly_markUnits (space : Space) (us : List (Nat × Nat)) (v : Bool) : ShellOnly (Block.markUnits · space us v) := by
  intro b ws; unfold Block.markUnits; cases space <;> rfl

/-- What the start of an operation with two locks does. -/
structure Starts (s t : State) (c : Ctx) (sp : Spec) (i : Nat) (e : LogEntry) (o : EngineOp) (words : List (Nat × Nat)) : Prop where
  op      : spFind t.ops s.nextOp = some o
  nextOp  : t.nextOp = s.nextOp + 1
  locks   : t.locks.length = s.locks.length + 2
  frame   : t = { s with blocks := t.blocks, running := t.running, ops := t.ops, nextOp := t.nextOp, locks := t.locks, held := t.held }
  others  : ∀ u, otherWave s u → t.wave? u = s.wave? u
  pending : (t.block? s.cur).map Block.cpend = some (c.b.markUnits .common words true).cpend
  log     : LogOutcome s t t c sp i e

theorem starts_started {s : State} {c : Ctx} {w : Wave} (h : Issuing s c w) (sp : Spec) (e : LogEntry) {i : Nat}
    (hfree : c.w.logFree = some i) (bases : List W64) (rights : List Nat) {o : EngineOp} (hid : o.id = s.nextOp)
    {locks : List (Bool × List (Nat × Nat))} (hlocks : (locks.filter fun k => k.2 != []).length = 2) (words : List (Nat × Nat)) :
    Starts s (s.started c sp e bases rights o locks words) c sp i e o words := by
  have hlog := logOutcome_logIssue h sp e hfree
  have hheld := heldOnly_holds (s.logIssue c sp e) c.l.asid c.l.tenant bases rights
  have hmachine := hlog.machine.machine
  obtain ⟨b', hb', hshell⟩ := hlog.machine.block h.block
  unfold State.started
  generalize bases.foldl _ (s.logIssue c sp e) = u at hheld ⊢
  have hwave : ∀ v, ((u.addOp o locks).modBlock c.id fun b => b.markUnits .common words true).wave? v = (s.logIssue c sp e).wave? v := fun v =>
    (wave?_modBlock_shell _ _ _ (shellOnly_markUnits .common words true)).trans (by rw [hheld]; rfl)
  have hops : u.ops = s.ops := by rw [hheld, hmachine]
  have hnext : u.nextOp = s.nextOp := by rw [hheld, hmachine]
  have hlock : u.locks = s.locks := by rw [hheld, hmachine]
  refine ⟨?_, ?_, ?_, ?_, fun v hv => (hwave v).trans (hlog.machine.others v hv), ?_, hlog.of_wave ?_⟩
  · rw [← hid]
    exact (spFind_spPut u.ops o.id o.id o).trans (if_pos rfl)
  · exact (show max u.nextOp (o.id + 1) = _ by rw [hnext, hid]; omega)
  · exact (show (u.locks ++ _).length = _ by rw [List.length_append, List.length_map, hlocks, hlock])
  · rw [hheld, hmachine]; rfl
  · have hblock : (u.addOp o locks).block? s.cur = some b' := by rw [hheld]; exact hb'
    rw [h.id, block?_modBlock_self hblock rfl]
    refine congrArg some ?_
    unfold Block.markUnits
    rw [show b'.cpend = c.b.cpend from (congrArg Block.cpend hshell :)]
  · unfold State.wave; rw [hwave]

end Sys2Proof.Machine
end

section
/-! SQRY, SAPP and SMRG at issue (11 R281-R291). -/

namespace Sys2Proof.Machine

open Sys2Proof

/-! ### Checks (11 R283) -/

theorem stop_nil {c : Ctx} {cause : Option (Nat × W64)} (hp : c.part ≠ 0) (hfail : ∀ k a, failAll c.active k a ≠ [])
    (h : c.stop cause = []) : cause = none := by
  unfold Ctx.stop at h
  rw [if_neg hp] at h
  split at h
  · rfl
  · exact absurd h (hfail _ _)

/-- A SQRY that passes its checks translates both of its bases. -/
theorem sqryFails_base {f : F} {s : State} {c : Ctx} {x : SieveDesc} (hp : c.part ≠ 0) (hfail : ∀ k a, failAll c.active k a ≠ [])
    (hx : c.descAt (descOff f c) false = .ok x) (h : sqryFails f s c = []) : s.baseCause c.l x rREAD = none := by
  unfold sqryFails at h
  simp only [hx, if_neg hp] at h
  split at h
  · rename_i hne; simp [h] at hne
  · split at h
    · exact absurd h (hfail _ _)
    · split at h
      · exact absurd h (hfail _ _)
      · split at h
        · exact absurd h (hfail _ _)
        · generalize c.pendingRegs (vecNo f.b) (x.d / 32) ++ _ = pend at h
          split at h
          · rename_i hne; simp [h] at hne
          · exact stop_nil hp hfail h

/-- A SAPP that passes its checks translates both of its bases and is not rejected. -/
theorem sappOwn_base {f : F} {s : State} {c : Ctx} {x : SieveDesc} (hx : c.descAt (descOff f c) true = .ok x)
    (h : sappOwn f s c = none) : s.baseCause c.l x rWRITE = none := by
  unfold sappOwn at h
  simp only [hx] at h
  split at h
  · cases h
  · split at h
    · cases h
    · split at h
      · cases h
      · assumption

theorem baseLost_none {f : F} {append : Bool} {right : Nat} {s : State} {c : Ctx} {x : SieveDesc}
    (hx : c.descAt (descOff f c) append = .ok x) (h : s.baseCause c.l x right = none) : baseLost f append right s c = none := by
  unfold baseLost
  simp only [hx, h, Option.map_none]

/-! ### A command that scans nothing (11 R284, R285) -/

/-- A block in which the records of a rejected or empty command stand, credited to its barrier. -/
def Block.answered (x : SieveDesc) (code : Nat) (b : Block) : Block := (b.emptyRecords x code).credit x.barrier (16 * recordBytes x.d)

theorem shellOnly_answered (x : SieveDesc) (code : Nat) : ShellOnly (Block.answered x code) := by
  have hcredit : ShellOnly (Block.credit · x.barrier (16 * recordBytes x.d)) := fun b ws => by
    unfold Block.credit; split <;> rfl
  have hrecords : ShellOnly (Block.emptyRecords · x code) := by
    unfold Block.emptyRecords
    exact shellOnly_foldl (fun _ => shellOnly_setArea _ _ _) _
  exact fun b ws => hrecords.comp hcredit b ws

theorem postNow_modWave (s : State) (id : WaveId) (f : Wave → Wave) (b : Block) (o : EngineOp) :
    (s.modWave id f).postNow id b o = (s.postNow id b o).modWave id f := by
  unfold State.postNow
  split
  · rfl
  · split
    · exact modWave_modBlock s id f fun _ _ => rfl
    · rfl

theorem wave?_postNow (s : State) (id u : WaveId) (b : Block) (o : EngineOp) : (s.postNow id b o).wave? u = s.wave? u := by
  unfold State.postNow
  split
  · rfl
  · split
    · exact wave?_modBlock_shell s id u fun _ _ => rfl
    · rfl

/-- A block of the same launch, stopped and saved no more than before. -/
def SameLife (b b' : Block) : Prop := b'.launch = b.launch ∧ b'.stopping = b.stopping ∧ b'.saving = b.saving

theorem SameLife.refl (b : Block) : SameLife b b := ⟨rfl, rfl, rfl⟩

theorem SameLife.trans {b c d : Block} (h : SameLife b c) (k : SameLife c d) : SameLife b d :=
  ⟨k.1.trans h.1, k.2.1.trans h.2.1, k.2.2.trans h.2.2⟩

theorem sameLife_setArea (off : Nat) (bs : List Byte) (b : Block) : SameLife b (b.setArea false off bs) := ⟨rfl, rfl, rfl⟩

theorem sameLife_credit (code n : Nat) (b : Block) : SameLife b (b.credit code n) := by
  unfold Block.credit
  split <;> exact ⟨rfl, rfl, rfl⟩

theorem sameLife_answered (x : SieveDesc) (code : Nat) (b : Block) : SameLife b (b.answered x code) := by
  have hrecords : SameLife b (b.emptyRecords x code) := by
    unfold Block.emptyRecords
    exact rel_foldl (R := SameLife) .refl .trans (fun b _ => sameLife_setArea _ _ b) _ b
  unfold Block.answered
  exact hrecords.trans (sameLife_credit _ _ _)

theorem block?_postNow {s : State} {id : WaveId} {b0 : Block} (hb : s.block? id = some b0) (b : Block) (o : EngineOp) :
    ∃ b', (s.postNow id b o).block? id = some b' ∧ SameLife b0 b' := by
  unfold State.postNow
  split
  · exact ⟨b0, hb, .refl b0⟩
  · split
    · exact ⟨_, block?_modBlock_self hb rfl _, rfl, rfl, rfl⟩
    · exact ⟨b0, hb, .refl b0⟩

theorem postNow_frame (s : State) (id : WaveId) (b : Block) (o : EngineOp) :
    (s.postNow id b o).cur = s.cur ∧ (s.postNow id b o).launches = s.launches := by
  unfold State.postNow
  split
  · exact ⟨rfl, rfl⟩
  · split <;> exact ⟨rfl, rfl⟩

/-- The machine in which a command that scans nothing is answered. -/
def State.sqryAnswered (s : State) (c : Ctx) (x : SieveDesc) (code : Nat) : State :=
  (s.modBlock s.cur (Block.answered x code)).postNow s.cur c.b
    { x.op s.nextOp .sqry s.cur c.b 15 with status := if code = 0 then 1 else 2 }

/-- A command that scans nothing is answered, issues and completes. -/
theorem answered_issue {s : State} {c : Ctx} (hid : c.id = s.cur) (f : F) (x : SieveDesc) (code : Nat) :
    (((s.issue c (sqrySpec f)).modBlock c.id (Block.answered x code)).postNow c.id c.b
      { x.op s.nextOp .sqry c.id c.b 15 with status := if code = 0 then 1 else 2 }) =
      (s.sqryAnswered c x code).modWave s.cur (c.issued (sqrySpec f)) := by
  rw [issue_eq, hid, modWave_modBlock s s.cur _ (shellOnly_answered x code), postNow_modWave]
  rfl

theorem wave?_sqryAnswered {s : State} {c : Ctx} {w : Wave} (h : Issuing s c w) (x : SieveDesc) (code : Nat) :
    (s.sqryAnswered c x code).wave? s.cur = some w :=
  (wave?_postNow _ _ _ _ _).trans ((wave?_modBlock_shell s s.cur s.cur (shellOnly_answered x code)).trans h.wave)

theorem sqryAtOnce_outcome {s : State} {c : Ctx} {w : Wave} (h : Issuing s c w) (f : F) (x : SieveDesc) (code : Nat) :
    DoneOutcome s (s.sqryAtOnce c f x code) c (s.sqryAnswered c x code) none f.ctl.sig.toNat 0 :=
  quick_outcome h (sqrySpec f) _ none _ (postNow_frame _ _ _ _).1 (wave?_sqryAnswered h x code) (answered_issue h.id f x code)

theorem wave?_sqryAtOnce {s : State} {c : Ctx} {w : Wave} (h : Issuing s c w) (f : F) (x : SieveDesc) (code : Nat) :
    ∃ v, (s.sqryAtOnce c f x code).wave? s.cur = some v := by
  have hrun : s.sqryAtOnce c f x code = ((s.sqryAnswered c x code).modWave s.cur (c.issued (sqrySpec f))).advance s.cur :=
    (congrArg (State.advance · c.id) (answered_issue h.id f x code)).trans (by rw [h.id])
  obtain ⟨_, _, _, _, _, he⟩ := wave?_finish (wave?_modWave_self (wave?_sqryAnswered h x code) (c.issued (sqrySpec f))) fun _ => none
  rw [hrun]
  exact ⟨_, he⟩

/-- The block of a command that scans nothing, after it. -/
theorem block?_sqryAtOnce {s : State} {c : Ctx} {w : Wave} (h : Issuing s c w) (f : F) (x : SieveDesc) (code : Nat) :
    ∃ b, (s.sqryAtOnce c f x code).block? s.cur = some b ∧ SameLife c.b b := by
  obtain ⟨b, hb, hanswered⟩ := block?_postNow (block?_modBlock_self h.block rfl (Block.answered x code)) c.b
    { x.op s.nextOp .sqry s.cur c.b 15 with status := if code = 0 then 1 else 2 }
  obtain ⟨b', hb', hshell⟩ := (sqryAtOnce_outcome h f x code).machine.block hb
  have hlife : SameLife b b' :=
    ⟨(congrArg Block.launch hshell :), (congrArg Block.stopping hshell :), (congrArg Block.saving hshell :)⟩
  exact ⟨b', hb', ((sameLife_answered x code c.b).trans hanswered).trans hlife⟩

theorem launches_sqryAtOnce {s : State} {c : Ctx} {w : Wave} (h : Issuing s c w) (f : F) (x : SieveDesc) (code : Nat) :
    (s.sqryAtOnce c f x code).launches = s.launches := by
  rw [(sqryAtOnce_outcome h f x code).machine.machine]
  exact (postNow_frame _ _ _ _).2

/-! ### A cause found after the issue that enters the handler (08 R233, R237) -/

/-- A wave in which causes are set. -/
def Wave.caused (bits : W64) (w : Wave) : Wave := { w with tcause := w.tcause ||| bits }

/-- A wave that has taken an exception: its threads stand at the handler, and what TRET restores is saved. -/
def Wave.entered (entry : W64) (r : CauseRec) (clock : Nat) (w : Wave) : Wave :=
  { (w.handlerStart entry r) with saved := some (w.save r), handler := true, hstart := clock, hcyc := 0, hpast := false, record := none }

theorem shellOnly_pauseSlice (clock : Nat) : ShellOnly (Block.pauseSlice · clock) := by
  intro b ws
  unfold Block.pauseSlice
  dsimp only
  split <;> rfl

theorem setCauses_eq (s : State) (id : WaveId) (bits : W64) : s.setCauses id bits = s.modWave id (Wave.caused bits) := rfl

theorem enterHandler_caused {s : State} {id : WaveId} {w : Wave} (hw : s.wave? id = some w) (hwait : w.wait = none) (bits entry : W64)
    (r : CauseRec) : (s.setCauses id bits).enterHandler id entry r =
      (((s.modBlock id (Block.pauseSlice · s.clock)).countCore id.core 0x103 1).modWave id fun w =>
        (w.caused bits).entered entry r s.clock).leave id := by
  have hdrop : (s.setCauses id bits).dropForce ((s.setCauses id bits).wave id) = s.setCauses id bits := by
    rw [show (s.setCauses id bits).wave id = w.caused bits from wave_modWave_self hw _]
    unfold State.dropForce
    rw [show (w.caused bits).wait = none from hwait]
  unfold State.enterHandler
  rw [hdrop, setCauses_eq]
  dsimp only [State.modWave_clock]
  rw [modWave_modBlock s id _ (shellOnly_pauseSlice _), modWave_modWave]
  rfl

/-- With a handler at its launch, a wave that waits for nothing takes an exception there. -/
theorem deliver_handler {s : State} {id : WaveId} {b : Block} {l : Launch} (hb : s.block? id = some b) (hl : s.launchOf b = some l)
    (hentry : l.record.handler ≠ 0) (r : CauseRec) : s.deliver id r = s.enterHandler id l.record.handler r := by
  unfold State.deliver
  rw [hb]
  dsimp only
  rw [hl]
  exact if_neg hentry

theorem sget_sset (w : Wave) (n k : Nat) (x : W64) : (w.sset n x).sget k = if n = k then x else w.sget k := spGet_spSet _ _ _ _ _

/-- The scalars of a wave at its handler (08 R233). -/
theorem sget_entered (w : Wave) (entry : W64) (r : CauseRec) (clock n : Nat) : (w.entered entry r clock).sget n =
    if 125 = n then BitVec.ofNat 64 r.resume else if 124 = n then r.origin else if 123 = n then r.addr
    else if 122 = n then r.lanes.zeroExtend 64 ||| (BitVec.ofNat 64 (r.index % 16) <<< 32) ||| (r.code.zeroExtend 64 <<< 48)
    else if 121 = n then r.pc else if 120 = n then w.tcause else w.sget n := by
  have hfile : (w.entered entry r clock).sget n = (w.handlerStart entry r).sget n := by unfold Wave.entered; rfl
  rw [hfile]
  unfold Wave.handlerStart
  simp only [sget_sset]
  rfl

theorem pcAt_entered (w : Wave) (entry : W64) (r : CauseRec) (clock : Nat) {l : Nat} (hl : l < 32) :
    (w.entered entry r clock).pcAt l = if w.exited.getLsbD l then w.pcAt l else entry :=
  spGet_spOf32 0 (fun l => if w.exited.getLsbD l then w.pcAt l else entry) hl

theorem hcycles_entered (w : Wave) (entry : W64) (r : CauseRec) (clock : Nat) : (w.entered entry r clock).hcycles clock = 0 := by
  change 0 + (if (true && !w.overrun) = true then clock - clock else 0) = 0
  split <;> omega

/-- The machine in which a wave has taken an exception in its handler. -/
def State.atHandler (s : State) (id : WaveId) (bits entry : W64) (r : CauseRec) : State :=
  (((s.modBlock id (Block.pauseSlice · s.clock)).countCore id.core 0x103 1).modWave id fun w =>
    (w.caused bits).entered entry r s.clock).leave id

theorem handlerEntry_atHandler {s : State} {id : WaveId} {w : Wave} (hw : s.wave? id = some w) (r : CauseRec) (entry : W64) :
    HandlerEntry id s (s.atHandler id (causeBit r.cause ||| r.also) entry r) r entry := by
  let u := (s.modBlock id (Block.pauseSlice · s.clock)).countCore id.core 0x103 1
  have hu : u.wave? id = some w := (wave?_modBlock_shell s id id (shellOnly_pauseSlice s.clock)).trans hw
  have ht : (s.atHandler id (causeBit r.cause ||| r.also) entry r).wave id = (w.caused (causeBit r.cause ||| r.also)).entered entry r s.clock :=
    wave_modWave_self hu _
  have hmachine : OneWave id u (s.atHandler id (causeBit r.cause ||| r.also) entry r) :=
    (onlyWave_modWave { u with cur := id } _).trans (onlyWave_leave _)
  refine ⟨hmachine, not_mem_running_leave _ id, ?rest, ?tcause, ?s120, ?s121, ?s122, ?s123, ?s124, ?s125, fun n hn => ?others,
    fun l hl => ?pcs, fun l => ?meets, ?free, ?runs, ?saved⟩ <;> rw [ht]
  case rest => rw [wave_eq_of_wave? hw]; rfl
  case tcause => rw [wave_eq_of_wave? hw]; rfl
  case s120 => rw [sget_entered]; rfl
  case s121 => rw [sget_entered]; rfl
  case s122 => rw [sget_entered]; rfl
  case s123 => rw [sget_entered]; rfl
  case s124 => rw [sget_entered]; rfl
  case s125 => rw [sget_entered]; rfl
  case others =>
    rw [wave_eq_of_wave? hw, sget_entered]
    iterate 6 rw [if_neg (by omega)]
    rfl
  case pcs => rw [wave_eq_of_wave? hw, pcAt_entered _ _ _ _ hl]; rfl
  case meets => rfl
  case free => exact ⟨rfl, rfl, rfl⟩
  case runs => exact ⟨rfl, hcycles_entered _ _ _ _⟩
  case saved => rw [wave_eq_of_wave? hw]; exact ⟨_, rfl, rfl, rfl, rfl, rfl, rfl, rfl⟩

/-- A wave whose own causes go to its handler: it waits for nothing, and neither a handler nor re-issues run or have run. -/
structure Wave.Open (w : Wave) : Prop where
  wait    : w.wait = none
  saved   : w.saved = none
  past    : w.past = []
  handler : w.handler = false
  live    : w.live ≠ 0
  reissue : w.reissue = []

theorem Wave.Open.of_still {w v : Wave} (h : v.still.noScalars = w.still.noScalars) (hw : w.Open) : v.Open := by
  have hexited : v.exited = w.exited := (congrArg Wave.exited h :)
  refine ⟨(congrArg Wave.wait h :).trans hw.wait, (congrArg Wave.saved h :).trans hw.saved, (congrArg Wave.past h :).trans hw.past,
    (congrArg Wave.handler h :).trans hw.handler, ?_, (congrArg Wave.reissue h :).trans hw.reissue⟩
  unfold Wave.live
  rw [hexited]
  exact hw.live

theorem raiseFrom_open {s : State} {id : WaveId} {b : Block} {l : Launch} {w : Wave} (hb : s.block? id = some b)
    (hl : s.launchOf b = some l) (hw : s.wave? id = some w) (hopen : w.Open) (hstop : b.stopping = none) (hsaving : b.saving = false)
    (hentry : l.record.handler ≠ 0) (seq : Nat) (r : CauseRec) :
    s.raiseFrom id seq r = s.atHandler id (causeBit r.cause ||| r.also) l.record.handler r := by
  obtain ⟨hwait, hsaved, hpast, hhandler, hlive, hreissue⟩ := hopen
  have hwave : (s.setCauses id (causeBit r.cause ||| r.also)).wave id = w.caused (causeBit r.cause ||| r.also) := wave_modWave_self hw _
  have hblock := block?_modWave_self hb (Wave.caused (causeBit r.cause ||| r.also))
  have hcause : (s.wave id).handlerCause seq = none := by
    rw [wave_eq_of_wave? hw]
    unfold Wave.handlerCause Wave.pastCause
    rw [hsaved, hpast]
    rfl
  have hstands : (s.setCauses id (causeBit r.cause ||| r.also)).stands id = false := by
    unfold State.stands
    rw [setCauses_eq, hblock]
    simp [hstop, hsaving]
  have hdeliver : (s.setCauses id (causeBit r.cause ||| r.also)).deliverIn id r =
      (s.setCauses id (causeBit r.cause ||| r.also)).enterHandler id l.record.handler r := by
    unfold State.deliverIn
    dsimp only
    rw [hwave, show (w.caused (causeBit r.cause ||| r.also)).wait = none from hwait]
    exact deliver_handler hblock hl hentry r
  unfold State.raiseFrom State.raiseLater
  rw [hcause, hb]
  dsimp only
  rw [hwave, if_neg (show ¬ (w.caused (causeBit r.cause ||| r.also)).live = 0 from hlive), hstands,
    show (w.caused (causeBit r.cause ||| r.also)).handler = false from hhandler,
    show (w.caused (causeBit r.cause ||| r.also)).reissue = [] from hreissue, if_neg (by decide), hdeliver]
  exact enterHandler_caused hw hwait _ _ r

/-! ### SQRY (11 R282-R285) -/

section
variable {f : F} {s : State} {c : Ctx} {x : SieveDesc}

/-- What a SQRY does that passes its checks. -/
theorem exec_sqry (hc : s.clear (sqrySpec f) (sqryFails f s) = some c) (hp : c.part ≠ 0)
    (hx : c.descAt (descOff f c) false = .ok x) : exec (.sqry f) s = .next (match s.sieveReject c.l x false with
      | some e => (s.sqryAtOnce c f x e.1).raiseFrom c.id c.w.accesses (((s.sqryAtOnce c f x e.1).wave c.id).nextRec cSIEVE_REJECT e.2)
      | none => if x.n = 0 then s.sqryAtOnce c f x 0 else s.sqryStart c f x) := by
  obtain ⟨w, hw⟩ := issuing_of_clear hc
  obtain ⟨hctx, -, -, -, -, hfails⟩ := clear_spec hc
  have hbase := sqryFails_base hp (failAll_ne_nil hctx hw hp) hx (List.append_eq_nil_iff.mp hfails).2
  change Host.Outcome.next (s.unholdFail (run (sqrySpec f) (sqryFails f s) noResume _ s) f.ctl (baseLost f false rREAD s)) = _
  rw [unholdFail_none (show s.ctx f.ctl = some c from hctx) (baseLost_none hx hbase), run_clear hc, if_neg hp, hx] <;> rfl

/-- The operation of an accepted SQRY. -/
def State.sqryOp (s : State) (c : Ctx) (f : F) (x : SieveDesc) : EngineOp :=
  { x.op s.nextOp .sqry c.id c.b f.ctl.sig.toNat with
    entry := c.w.logFree, wr := (List.range (2 * recordBytes x.d)).map fun i => (i, x.record + 8 * i), wrSpace := .common
    credit := 16 * recordBytes x.d, scan := some (s.scanOf c.l x (c.query f x.d)) }

theorem sqryStart_starts (hc : s.clear (sqrySpec f) (sqryFails f s) = some c) (hn : x.n ≠ 0) {i : Nat} (hfree : c.w.logFree = some i)
    (hlocks : 2 ≤ s.lockFree s.cur.core) : Starts s (s.sqryStart c f x) c (sqrySpec f) i
      { c.logEntry 0x280 f [] with stage := 1, op := some s.nextOp, no := s.nextOp, bRegs := [] } (s.sqryOp c f x)
      ((List.range (2 * recordBytes x.d)).map fun i => (i, x.record + 8 * i)) := by
  obtain ⟨w, hw⟩ := issuing_of_clear hc
  have hhulls : ∃ a b, (s.scanOf c.l x (c.query f x.d)).hulls = [a, b] := by
    unfold Scan.hulls
    rw [if_neg (show ¬ (s.scanOf c.l x (c.query f x.d)).n = 0 from hn)]
    exact ⟨_, _, rfl⟩
  have hstart : s.sqryStart c f x = s.started c (sqrySpec f)
      { c.logEntry 0x280 f [] with stage := 1, op := some s.nextOp, no := s.nextOp, bRegs := [] } [x.kBase, x.vBase] [rREAD]
      (s.sqryOp c f x) ((s.scanOf c.l x (c.query f x.d)).hulls.map fun h => (false, [h]))
      ((List.range (2 * recordBytes x.d)).map fun i => (i, x.record + 8 * i)) := by
    unfold State.sqryStart
    rw [if_neg (by simp [hfree]), if_neg (by rw [hw.id]; omega)]
    rfl
  rw [hstart]
  obtain ⟨a, b, hab⟩ := hhulls
  exact starts_started hw _ _ hfree _ _ rfl (by rw [hab]; rfl) _

theorem sqry_starts (hc : s.clear (sqrySpec f) (sqryFails f s) = some c) (hp : c.part ≠ 0)
    (hx : c.descAt (descOff f c) false = .ok x) (hreject : s.sieveReject c.l x false = none) (hn : x.n ≠ 0) {i : Nat}
    (hfree : c.w.logFree = some i) (hlocks : 2 ≤ s.lockFree s.cur.core) :
    ∃ t o k, exec (.sqry f) s = .next t ∧ spFind t.ops s.nextOp = some o ∧ o.scan = some k ∧ k.accepted = false ∧
      k.n = x.n ∧ k.d = x.d ∧ k.record = x.record ∧ k.sent = [] ∧ k.scale = x.scale ∧
      k.query = ((List.range x.d).map fun i => c.vreg (vecNo f.b + i / 32) (i % 32)) ∧ o.entry = some i ∧
      o.service = (x.cls, x.budget) ∧ o.credit = 16 * recordBytes x.d ∧ t.nextOp = s.nextOp + 1 ∧ t.locks.length = s.locks.length + 2 ∧
      t = { s with blocks := t.blocks, running := t.running, ops := t.ops, nextOp := t.nextOp, locks := t.locks, held := t.held } ∧
      (∀ u, otherWave s u → t.wave? u = s.wave? u) ∧
      (t.block? s.cur).map Block.cpend = some (c.b.markUnits .common
        ((List.range (2 * recordBytes x.d)).map fun i => (i, x.record + 8 * i)) true).cpend ∧
      LogOutcome s t t c (sqrySpec f) i { c.logEntry 0x280 f [] with
        stage := 1, op := some s.nextOp, no := s.nextOp, bRegs := [] } := by
  have hexec := exec_sqry hc hp hx
  rw [hreject] at hexec
  dsimp only at hexec
  rw [if_neg hn] at hexec
  obtain ⟨hop, hnext, hlock, hframe, hothers, hpend, hlog⟩ := sqryStart_starts hc hn hfree hlocks
  exact ⟨_, _, _, hexec, hop, rfl, rfl, rfl, rfl, rfl, rfl, rfl, rfl, hfree, rfl, rfl, hnext, hlock, hframe, hothers, hpend, hlog⟩

theorem sqry_of_no_key (hc : s.clear (sqrySpec f) (sqryFails f s) = some c) (hp : c.part ≠ 0)
    (hx : c.descAt (descOff f c) false = .ok x) (hreject : s.sieveReject c.l x false = none) (hn : x.n = 0) :
    ∃ t, exec (.sqry f) s = .next t ∧ DoneOutcome s t c (s.sqryAnswered c x 0) none f.ctl.sig.toNat 0 := by
  obtain ⟨w, hw⟩ := issuing_of_clear hc
  have hexec := exec_sqry hc hp hx
  rw [hreject] at hexec
  dsimp only at hexec
  rw [if_pos hn] at hexec
  exact ⟨_, hexec, sqryAtOnce_outcome hw f x 0⟩

/-- A rejected SQRY raises SIEVE_REJECT in the wave that has completed it. -/
theorem sqry_rejected (hc : s.clear (sqrySpec f) (sqryFails f s) = some c) (hp : c.part ≠ 0)
    (hx : c.descAt (descOff f c) false = .ok x) {code : Nat} {a : W64} (hreject : s.sieveReject c.l x false = some (code, a))
    (hopen : c.w.Open) (hstop : c.b.stopping = none) (hsaving : c.b.saving = false) (hentry : c.l.record.handler ≠ 0) :
    ∃ t, exec (.sqry f) s = .next t ∧ HandlerEntry s.cur (s.sqryAtOnce c f x code) t
      (((s.sqryAtOnce c f x code).wave s.cur).nextRec cSIEVE_REJECT a) c.l.record.handler := by
  obtain ⟨w, hw⟩ := issuing_of_clear hc
  have hexec := exec_sqry hc hp hx
  rw [hreject] at hexec
  dsimp only at hexec
  obtain ⟨v, hv⟩ := wave?_sqryAtOnce hw f x code
  obtain ⟨b, hb, hlaunch, hstopping, hsave⟩ := block?_sqryAtOnce hw f x code
  have hl : (s.sqryAtOnce c f x code).launchOf b = some c.l := by
    unfold State.launchOf State.launch?
    rw [hlaunch, launches_sqryAtOnce hw]
    exact hw.launch
  have hstill : v.still.noScalars = c.w.still.noScalars := by
    have hrest := (sqryAtOnce_outcome hw f x code).rest
    rw [wave_eq_of_wave? hv, wave_eq_of_wave? (wave?_sqryAnswered hw x code)] at hrest
    rw [hrest, hw.own]
    rfl
  refine ⟨_, hexec, ?_⟩
  rw [hw.id, raiseFrom_open hb hl hv (hopen.of_still hstill) (hstopping.trans hstop) (hsave.trans hsaving) hentry]
  exact handlerEntry_atHandler hv _ _

end

/-! ### SAPP (11 R291) -/

/-- The 8-byte units of a row. -/
def rowUnits (a n : Nat) : List Nat := (List.range (n / 8)).map fun i => a + 8 * i

theorem length_rowUnits (a n : Nat) : (rowUnits a n).length = n / 8 := by simp [rowUnits]

/-- The operation of a SAPP: it reads its rows in the common area and writes them at their key. -/
def State.sappOp (s : State) (c : Ctx) (f : F) (x : SieveDesc) : EngineOp :=
  let rd := rowUnits x.record x.kBytes ++ rowUnits x.vSource x.vBytes
  let wr := rowUnits (s.appendRow c.l x.kBase x.kStride x.n) x.kBytes ++ rowUnits (s.appendRow c.l x.vBase x.vStride x.n) x.vBytes
  { x.op s.nextOp .sapp c.id c.b f.ctl.sig.toNat with
    entry := c.w.logFree, rd := (List.range rd.length).zip rd, rdSpace := .common, wr := (List.range rd.length).zip wr, wrSpace := .memory
    credit := x.kBytes + x.vBytes }

theorem sappOp_units (s : State) (c : Ctx) (f : F) (x : SieveDesc) : (s.sappOp c f x).wr.length = (s.sappOp c f x).rd.length := by
  unfold State.sappOp
  simp only [List.length_zip, List.length_append, length_rowUnits]

section
variable {f : F} {s : State} {c : Ctx} {x : SieveDesc}

theorem exec_sapp (hc : s.clear (sappSpec f) (fun c => c.stop (sappOwn f s c)) = some c) (hp : c.part ≠ 0)
    (hx : c.descAt (descOff f c) true = .ok x) : exec (.sapp f) s = .next (s.sappStart c f x) := by
  obtain ⟨w, hw⟩ := issuing_of_clear hc
  obtain ⟨hctx, -, -, -, -, hfails⟩ := clear_spec hc
  have hown : sappOwn f s c = none := stop_nil hp (failAll_ne_nil hctx hw hp) (List.append_eq_nil_iff.mp hfails).2
  have hbase := sappOwn_base hx hown
  change Host.Outcome.next (s.unholdFail (run (sappSpec f) (fun c => c.stop (sappOwn f s c)) noResume _ s) f.ctl (baseLost f true rWRITE s)) = _
  rw [unholdFail_none (show s.ctx f.ctl = some c from hctx) (baseLost_none hx hbase), run_clear hc, if_neg hp, hx]

theorem sapp_starts (hc : s.clear (sappSpec f) (fun c => c.stop (sappOwn f s c)) = some c) (hp : c.part ≠ 0)
    (hx : c.descAt (descOff f c) true = .ok x) {i : Nat} (hfree : c.w.logFree = some i) (hlocks : 2 ≤ s.lockFree s.cur.core) :
    ∃ t o, exec (.sapp f) s = .next t ∧ spFind t.ops s.nextOp = some o ∧ o.kind = .sapp ∧ o.entry = some i ∧ o.service = (x.cls, x.budget) ∧
      o.credit = x.kBytes + x.vBytes ∧ o.wr.length = o.rd.length ∧ o.rdSpace = .common ∧ o.wrSpace = .memory ∧
      t.nextOp = s.nextOp + 1 ∧ t.locks.length = s.locks.length + 2 ∧
      t = { s with blocks := t.blocks, running := t.running, ops := t.ops, nextOp := t.nextOp, locks := t.locks, held := t.held } ∧
      (∀ u, otherWave s u → t.wave? u = s.wave? u) ∧
      (t.block? s.cur).map Block.cpend = some (c.b.markUnits .common o.rd true).cpend ∧
      LogOutcome s t t c (sappSpec f) i { c.logEntry 0x281 f [] with stage := 1, op := some s.nextOp, no := s.nextOp } := by
  obtain ⟨w, hw⟩ := issuing_of_clear hc
  have hstart : ∃ k v, s.sappStart c f x = s.started c (sappSpec f)
      { c.logEntry 0x281 f [] with stage := 1, op := some s.nextOp, no := s.nextOp }
      [x.kBase, x.vBase] [rWRITE] (s.sappOp c f x) [(true, [k]), (true, [v])] (s.sappOp c f x).rd := by
    unfold State.sappStart
    rw [if_neg (by simp [hfree]), if_neg (by rw [hw.id]; omega)]
    exact ⟨_, _, rfl⟩
  obtain ⟨k, v, hstart⟩ := hstart
  obtain ⟨hop, hnext, hlock, hframe, hothers, hpend, hlog⟩ :=
    starts_started hw (sappSpec f) { c.logEntry 0x281 f [] with stage := 1, op := some s.nextOp, no := s.nextOp } hfree [x.kBase, x.vBase]
      [rWRITE] (o := s.sappOp c f x) rfl (locks := [(true, [k]), (true, [v])]) rfl (s.sappOp c f x).rd
  rw [← hstart] at hop hnext hlock hframe hothers hpend hlog
  exact ⟨_, _, exec_sapp hc hp hx, hop, rfl, hfree, rfl, rfl, sappOp_units s c f x, rfl, rfl, hnext, hlock, hframe, hothers, hpend, hlog⟩

/-! ### SMRG (11 R290) -/

/-- A wave in which the words of a merge have landed, with its NSTAT bits. -/
def Wave.mergeIn (tick : Nat) (r : List (Nat × W32) × W32) (w : Wave) : Wave :=
  let v := w.landAll tick r.1
  { v with nstat := v.nstat ||| r.2 }

theorem mergeIn_fields (w : Wave) (tick : Nat) (r : List (Nat × W32) × W32) : w.mergeIn tick r = { w with
    v := (w.landAll tick r.1).v, pend := (w.landAll tick r.1).pend, inflight := (w.landAll tick r.1).inflight, nstat := w.nstat ||| r.2 } := by
  unfold Wave.mergeIn
  rw [landAll_fields]

theorem covered_issued {c : Ctx} (h : c.w.covered) (sp : Spec) (w : Wave) : (c.issued sp w).covered := by
  have hflight : (c.issued sp w).inflight = c.w.inflight.filter fun p => !(p.landed && p.short == 0) := by
    unfold Ctx.issued; cases sp.held <;> rfl
  intro p hp
  rw [hflight] at hp
  exact h p (List.mem_of_mem_filter hp)

theorem registers_of_still {w v : Wave} (h : w.still = v.still) : w.v = v.v := (congrArg Wave.v h :)

theorem smrg_outcome (hc : s.clear (smrgSpec f) (smrgFails f) = some c) (hp : c.part ≠ 0) (hcov : c.w.covered)
    (hlog : ((rangeFrom (vecNo f.d) (c.smrgDim f / 32 + 3)).all fun r => !c.w.logHolds r) = true) :
    ∃ t, exec (.smrg f) s = .next t ∧ OnlyWave s t ∧ NextWord s t c ∧
      { (t.wave s.cur).still with v := [], pend := [], nstat := 0 } = { (s.wave s.cur).still with v := [], pend := [], nstat := 0 } ∧
      (t.wave s.cur).nstat = ((s.wave s.cur).nstat ||| (c.smrgResult f).2) ∧
      ∀ d, (t.wave s.cur).vget (d / 32) (d % 32) = (((c.smrgResult f).1.reverse.find? fun x => x.1 == d).map Prod.snd).getD
        ((s.wave s.cur).vget (d / 32) (d % 32)) := by
  obtain ⟨w, hw⟩ := issuing_of_clear hc
  have hfree : (rangeFrom (vecNo f.d) (c.smrgDim f / 32 + 3)).filter c.w.logHolds = [] := by
    rw [List.filter_eq_nil_iff]
    intro r hr
    simpa using List.all_eq_true.mp hlog r hr
  have hexec : exec (.smrg f) s = .next (((s.issue c (smrgSpec f)).modWave c.id (Wave.mergeIn s.tick (c.smrgResult f))).advance c.id) := by
    change Host.Outcome.next (run (smrgSpec f) (smrgFails f) noResume _ s) = _
    rw [run_clear hc, if_neg hp, hfree]
    rfl
  have hcontrol : SameControl (c.issued (smrgSpec f) w) ((c.issued (smrgSpec f) w).mergeIn s.tick (c.smrgResult f)) := by
    rw [mergeIn_fields]; exact ⟨rfl, rfl, rfl, rfl⟩
  obtain ⟨hframe, hstill, -, hnext⟩ := advanced_modIssued hw (smrgSpec f) _ hcontrol
  refine ⟨_, hexec, hframe, hnext, ?_, ?_, fun d => ?_⟩
  · rw [hstill, hw.state, mergeIn_fields, issued_fields, ← hw.wait]; rfl
  · refine (congrArg Wave.nstat hstill :).trans ?_
    rw [hw.state, mergeIn_fields, issued_fields]; rfl
  · have hword := word_landAll (covered_issued hcov (smrgSpec f) w) s.tick (c.smrgResult f).1 d
    rw [show (c.issued (smrgSpec f) w).v = w.v by rw [issued_fields]] at hword
    have hmerged : ((c.issued (smrgSpec f) w).mergeIn s.tick (c.smrgResult f)).v =
        ((c.issued (smrgSpec f) w).landAll s.tick (c.smrgResult f).1).v := by rw [mergeIn_fields]
    unfold Wave.vget
    rw [Nat.div_add_mod', hw.state, registers_of_still hstill, hmerged]
    exact hword

end

end Sys2Proof.Machine
end

section
/-! The end of an engine operation (07 R193, 11 R288): what it drops, and that it writes no memory. -/

namespace Sys2Proof.Machine

open Sys2Proof

/-! ### Steps that take operations and locks away and write no memory -/

/-- Memory is as before, and no operation and no lock is new. -/
structure Sheds (s t : State) : Prop where
  mem   : t.mem = s.mem
  ops   : ∀ e ∈ t.ops, e ∈ s.ops
  locks : ∀ k ∈ t.locks, k ∈ s.locks

theorem Sheds.of_eq {s t : State} (hmem : t.mem = s.mem) (hops : t.ops = s.ops) (hlocks : t.locks = s.locks) : Sheds s t :=
  ⟨hmem, fun _ h => hops ▸ h, fun _ h => hlocks ▸ h⟩

theorem Sheds.refl (s : State) : Sheds s s := .of_eq rfl rfl rfl

theorem Sheds.trans {s t u : State} (h : Sheds s t) (k : Sheds t u) : Sheds s u :=
  ⟨k.mem.trans h.mem, fun e he => h.ops e (k.ops e he), fun x hx => h.locks x (k.locks x hx)⟩

theorem sheds_modBlock (s : State) (id : WaveId) (f : Block → Block) : Sheds s (s.modBlock id f) := .of_eq rfl rfl rfl

theorem sheds_modWave (s : State) (id : WaveId) (f : Wave → Wave) : Sheds s (s.modWave id f) := .of_eq rfl rfl rfl

theorem sheds_unlock (s : State) (n : Nat) : Sheds s (s.unlock n) := ⟨rfl, fun _ h => h, fun _ h => List.mem_of_mem_filter h⟩

theorem sheds_dropForce (s : State) (w : Wave) : Sheds s (s.dropForce w) := by
  unfold State.dropForce
  split
  · exact sheds_unlock s _
  · exact .refl s

theorem sheds_faultBlock (s : State) (id : WaveId) (cause : Nat) : Sheds s (s.faultBlock id cause) := by
  unfold State.faultBlock
  split
  · exact .refl s
  · rename_i b _
    have hforce : Sheds s (b.waves.foldl (fun s e => s.dropForce e.2) s) :=
      rel_foldl .refl .trans (fun s e => sheds_dropForce s e.2) b.waves s
    refine hforce.trans ⟨rfl, fun e he => ?_, fun k hk => hk⟩
    exact List.mem_of_mem_filter he

theorem sheds_enterHandler (s : State) (id : WaveId) (entry : W64) (r : CauseRec) : Sheds s (s.enterHandler id entry r) := by
  have hleave : ∀ t : State, Sheds t ((t.countCore id.core 0x103 1).leave id) := fun _ => .of_eq rfl rfl rfl
  unfold State.enterHandler
  exact (sheds_dropForce s (s.wave id)).trans ((sheds_modBlock _ id _).trans ((sheds_modWave _ id _).trans (hleave _)))

theorem sheds_deliver (s : State) (id : WaveId) (r : CauseRec) : Sheds s (s.deliver id r) := by
  have hentry : ∀ entry, Sheds s (if entry = 0 then s.faultBlock id (lowBit (s.wave id).tcause) else s.enterHandler id entry r) :=
    fun entry => by
      split
      · exact sheds_faultBlock s id _
      · exact sheds_enterHandler s id entry r
  unfold State.deliver
  split
  · exact .refl s
  · exact hentry _

theorem sheds_deliverIn (s : State) (id : WaveId) (r : CauseRec) : Sheds s (s.deliverIn id r) := by
  unfold State.deliverIn
  dsimp only
  split
  · split <;> exact sheds_deliver s id _
  · exact sheds_deliver s id r

theorem sheds_setCauses (s : State) (id : WaveId) (bits : W64) : Sheds s (s.setCauses id bits) := sheds_modWave s id _

theorem sheds_raiseLater (s : State) (id : WaveId) (r : CauseRec) : Sheds s (s.raiseLater id r) := by
  unfold State.raiseLater
  split
  · exact .refl s
  · refine (sheds_setCauses s id (causeBit r.cause ||| r.also)).trans ?_
    dsimp only
    split
    · exact sheds_modBlock _ id _
    · split
      · exact sheds_modWave _ id _
      · exact sheds_deliverIn _ id r

theorem sheds_raiseFrom (s : State) (id : WaveId) (seq : Nat) (r : CauseRec) : Sheds s (s.raiseFrom id seq r) := by
  unfold State.raiseFrom
  split
  · exact (sheds_setCauses s id _).trans (sheds_faultBlock _ id _)
  · exact sheds_raiseLater s id r

theorem sheds_finish (s : State) (id : WaveId) (go : Nat → Option W64) : Sheds s (s.finish id go) := by
  rcases finish_cases s id go with he | he <;> rw [he] <;> exact .of_eq rfl rfl rfl

theorem sheds_endYield (s : State) (id : WaveId) : Sheds s (s.endYield id) := (sheds_modWave s id _).trans (sheds_finish _ id _)

theorem sheds_settleSlice (s : State) (id : WaveId) : Sheds s (s.settleSlice id) := by
  unfold State.settleSlice
  split
  · exact .refl s
  · dsimp only
    split
    · exact .refl s
    · exact (rel_foldl .refl .trans (fun s e => sheds_endYield s _) _ s).trans (sheds_modBlock _ id _)

theorem sheds_nextReissue (s : State) (id : WaveId) : Sheds s (s.nextReissue id) := by
  unfold State.nextReissue
  split
  · exact .refl s
  · rename_i rest _
    refine (sheds_modWave s id fun w => { w with reissue := rest }).trans ?_
    dsimp only
    split
    · exact sheds_modWave _ id _
    · split
      · exact sheds_settleSlice _ id
      · split
        · exact .refl _
        · exact (sheds_modWave _ id _).trans (sheds_deliverIn _ id _)

theorem sheds_endEntry (s : State) (id : WaveId) (i : Nat) : Sheds s (s.endEntry id i) := by
  unfold State.endEntry
  split
  · exact .refl s
  · dsimp only
    split
    · exact (sheds_modWave s id _).trans (sheds_nextReissue _ id)
    · exact sheds_modWave s id _

theorem sheds_sieveEcc (s : State) (o : EngineOp) (seq : Nat) : Sheds s (s.sieveEcc o seq) := by
  unfold State.sieveEcc
  split
  · exact .refl s
  · exact sheds_raiseFrom s _ _ _

theorem sheds_collMismatch (s : State) (o : EngineOp) (seq : Nat) : Sheds s (s.collMismatch o seq) := by
  unfold State.collMismatch
  split
  · split
    · exact sheds_raiseFrom s _ _ _
    · exact .refl s
  · exact .refl s

/-! ### Completion (07 R193, 11 R288) -/

theorem spFind_none_of_subset {α : Type} {m p : Sparse α} {n : Nat} (h : ∀ e ∈ p, e ∈ m) (hm : ∀ e ∈ m, e.1 ≠ n) : spFind p n = none := by
  cases hp : spFind p n with
  | none => rfl
  | some v => exact absurd rfl (hm _ (h _ (mem_of_spFind hp)))

/-- An operation that is over: neither it nor a lock of it is left, and memory is as before. -/
structure OpOver (n : Nat) (s t : State) : Prop where
  mem   : t.mem = s.mem
  gone  : spFind t.ops n = none
  locks : ∀ k ∈ t.locks, k.owner ≠ n

theorem opOver_closeOp (s : State) (o : EngineOp) : OpOver o.id s (s.closeOp o) := by
  obtain ⟨u, hu, hops, hlocks, hsheds⟩ : ∃ u : State, u.mem = s.mem ∧ (∀ e ∈ u.ops, e.1 ≠ o.id) ∧ (∀ k ∈ u.locks, k.owner ≠ o.id) ∧
      Sheds u (s.closeOp o) := by
    unfold State.closeOp
    dsimp only
    refine ⟨{ (s.modBlock o.w fun b => if o.post && b.uid == o.uid then { b with events := b.events ++ [o.event] } else b).unlock o.id with
      ops := spDel s.ops o.id }, rfl, fun e he => ?_, fun k hk => ?_, ?_⟩
    · simpa using List.of_mem_filter he
    · simpa using List.of_mem_filter hk
    · split
      · exact (sheds_endEntry _ _ _).trans ((sheds_sieveEcc _ _ _).trans (sheds_collMismatch _ _ _))
      · exact sheds_modWave _ _ _
  exact ⟨hsheds.mem.trans hu, spFind_none_of_subset hsheds.ops hops, fun k hk => hlocks k (hsheds.locks k hk)⟩

/-- An operation whose event record, if it posts one, has room is over when it finishes. -/
theorem opOver_finishOp {s : State} {n : Nat} {o : EngineOp} {b : Block} (ho : spFind s.ops n = some o) (hid : o.id = n)
    (hb : s.block? o.w = some b) (hroom : o.post = true → b.events.length < 16) : OpOver n s (s.finishOp n) := by
  have hpost : ¬ (o.post && !b.eventRoom) = true := by
    unfold Block.eventRoom
    cases hp : o.post with
    | false => simp
    | true => simp [hroom hp]
  unfold State.finishOp
  rw [ho]
  dsimp only
  rw [hb]
  dsimp only
  rw [if_neg hpost]
  obtain ⟨hmem, hgone, hlocks⟩ := opOver_closeOp (((s.unlock n).modBlock o.w fun b => b.credit o.barrier o.credit).modOp n
    fun o => { o with status := 1 }) { o with status := 1 }
  subst hid
  exact ⟨hmem, hgone, hlocks⟩

end Sys2Proof.Machine
end

section
/-! The steps of a Sieve scan (11 R286-R294), and the obligation O47. -/

namespace Sys2Proof.Machine

open Sys2Proof

theorem memoryOnly_writeCells (s : State) (cells : List (Nat × Byte)) : MemoryOnly s (s.writeCells cells) :=
  rel_foldl .refl .trans (fun s _ => memoryOnly_writeUnit s _ _) _ s

/-! ### SIEVE_COMMAND_ACCEPT (11 R286) -/

theorem spFind_modOp {s : State} {n : Nat} {o : EngineOp} (ho : spFind s.ops n = some o) (f : EngineOp → EngineOp) :
    spFind (s.modOp n f).ops n = some (f o) :=
  (spFind_spMod s.ops n n f).trans (by rw [if_pos rfl, ho]; rfl)

theorem channel_modChannel (s : State) (pc : Nat) (f : Channel → Channel) : (s.modChannel pc f).channel pc = f (s.channel pc) :=
  spGet_spSet_same _ _ _ _

/-- An operation whose scan has come further. -/
def EngineOp.scanned (k : Scan) (o : EngineOp) : EngineOp := { o with scan := some k }

/-- An operation whose command has been accepted. -/
def EngineOp.taken (k : Scan) (o : EngineOp) : EngineOp := { o with scan := some { k with accepted := true }, begun := true }

section
variable {s : State} {n : Nat} {o : EngineOp} {k : Scan}

theorem sieveCommandAccept_outcome (ho : spFind s.ops n = some o) (hk : o.scan = some k) (hnew : k.accepted = false)
    (hheld : s.opHeld o = false) (hroom : (s.sieveQueue k.pc).length < 16) :
    ∃ t o', exec (.sieveCommandAccept n) s = .next t ∧ spFind t.ops n = some o' ∧ o'.scan = some { k with accepted := true } ∧
      (t.channel k.pc).sieveq = s.sieveQueue k.pc ++ [n] ∧ t = { s with ops := t.ops, channels := t.channels } := by
  have hexec : exec (.sieveCommandAccept n) s = .next ((s.modOp n (EngineOp.taken k)).modChannel k.pc fun c =>
      { c with sieveq := s.sieveQueue k.pc ++ [n] }) := by
    change Host.Outcome.next (s.sieveAccept n) = _
    unfold State.sieveAccept
    rw [ho]
    dsimp only
    rw [hk]
    dsimp only
    rw [hnew, hheld, if_neg (by simpa using hroom)]
    rfl
  exact ⟨_, o.taken k, hexec, spFind_modOp ho (EngineOp.taken k), rfl, congrArg Channel.sieveq (channel_modChannel _ _ _), rfl⟩

/-! ### SIEVE_PARTIAL_SEND (11 R289) -/

theorem meetErrors_of_none {s : State} (herr : ∀ e ∈ s.hwErrors, e.array = false) (p : HwError → Bool) : s.meetErrors p = s := by
  have hnone : (s.hwErrors.filter fun e => e.array && p e) = [] := List.filter_eq_nil_iff.mpr fun e he => by simp [herr e he]
  have hall : (s.hwErrors.filter fun e => !(e.array && p e)) = s.hwErrors := List.filter_eq_self.mpr fun e he => by simp [herr e he]
  unfold State.meetErrors
  rw [hnone, hall]
  rfl

/-- A scan with the record of one more Sieve. -/
def State.sieveSent (s : State) (k : Scan) (sieve : Nat) : Scan :=
  { k with
    sent := k.sent ++ [(sieve, (s.sieveFold k sieve).record k.d sieve (s.correctedIn k sieve (s.sieveFold k sieve)))]
    poison := lowPoison k.poison sieve (s.sieveFold k sieve) }

theorem length_sieveSent (s : State) (k : Scan) (sieve : Nat) : (s.sieveSent k sieve).sent.length = k.sent.length + 1 :=
  List.length_append ..

/-- A command whose 16 records are sent leaves its queue. -/
def State.commandLeft (s : State) (pc n : Nat) : State :=
  ({ s with orphans := spDel s.orphans n } : State).modChannel pc fun c => { c with sieveq := c.sieveq.filter (· != n) }

theorem sieveSend_eq (ho : spFind s.ops n = some o) (hk : o.scan = some k) {sieve : Nat} (hacc : k.accepted = true) (hsieve : sieve < 16)
    (hnew : ∀ e ∈ k.sent, e.1 ≠ sieve) (hhead : (s.sieveQueue k.pc).head? = some n) (hpause : s.sievePaused k sieve = false) :
    s.sieveSend n sieve = if (s.sieveSent k sieve).sent.length < 16 then s.modOp n (EngineOp.scanned (s.sieveSent k sieve))
      else (s.modOp n (EngineOp.scanned (s.sieveSent k sieve))).commandLeft k.pc n := by
  have hscan : s.scanAt n = some k := by unfold State.scanAt; rw [ho]; exact hk
  have hset : ∀ k', s.setScan n k' = s.modOp n (EngineOp.scanned k') := fun k' => by unfold State.setScan; rw [ho]; rfl
  have hany : (k.sent.any fun e => e.1 == sieve) = false := List.any_eq_false.mpr fun e he => by simpa using hnew e he
  unfold State.sieveSend
  rw [hscan]
  dsimp only
  rw [if_neg (by simp [hacc, hany, hhead, hpause, hsieve]), hset]
  rfl

theorem sievePartialSend_outcome (ho : spFind s.ops n = some o) (hk : o.scan = some k) {sieve : Nat} (hacc : k.accepted = true)
    (hsieve : sieve < 16) (hnew : ∀ e ∈ k.sent, e.1 ≠ sieve) (hhead : (s.sieveQueue k.pc).head? = some n)
    (hpause : s.sievePaused k sieve = false) (herr : ∀ e ∈ s.hwErrors, e.array = false) :
    ∃ t o' k', exec (.sievePartialSend n sieve) s = .next t ∧ spFind t.ops n = some o' ∧ o'.scan = some k' ∧
      k'.sent = k.sent ++ [(sieve, (s.sieveFold k sieve).record k.d sieve (s.correctedIn k sieve (s.sieveFold k sieve)))] ∧
      k'.landed = k.landed ∧ t = { s with ops := t.ops, channels := t.channels, orphans := t.orphans } ∧
      (k.sent.length = 15 → n ∉ (t.channel k.pc).sieveq) := by
  have hsend := sieveSend_eq ho hk hacc hsieve hnew hhead hpause
  have herrors : (s.sieveSend n sieve).hwErrors = s.hwErrors := by rw [hsend]; split <;> rfl
  have hexec : exec (.sievePartialSend n sieve) s = .next (s.sieveSend n sieve) := by
    change Host.Outcome.next (s.sievePartial n sieve) = _
    unfold State.sievePartial
    dsimp only
    split
    · rfl
    · split
      · rename_i h; rw [h]
      · rw [meetErrors_of_none (by rw [herrors]; exact herr)]
  rw [hsend, length_sieveSent] at hexec
  have hop := spFind_modOp ho (EngineOp.scanned (s.sieveSent k sieve))
  split at hexec
  · exact ⟨_, _, s.sieveSent k sieve, hexec, hop, rfl, rfl, rfl, rfl, fun h15 => by omega⟩
  · refine ⟨_, _, s.sieveSent k sieve, hexec, hop, rfl, rfl, rfl, rfl, fun _ => ?_⟩
    unfold State.commandLeft
    rw [channel_modChannel]
    simp

/-! ### SIEVE_RECORD_LAND (11 R287, R288) -/

/-- What an area holds after bytes are stored in it. -/
theorem spGet_setArea (b : Block) (off : Nat) (bs : List Byte) (a : Nat) : spGet 0 (b.setArea false off bs).common a =
    if off ≤ a ∧ a < off + bs.length then bs.getD (a - off) 0 else spGet 0 b.common a := by
  unfold Block.setArea
  simp only [Bool.false_eq_true, if_false]
  induction bs using List.reverseRecOn with
  | nil => rw [if_neg (by simp)]; rfl
  | append_singleton bs x ih =>
    rw [List.length_append, List.length_singleton, List.range_succ, List.zip_append (by simp), List.foldl_append]
    simp only [List.zip_cons_cons, List.zip_nil_right, List.foldl_cons, List.foldl_nil, spGet_spSet, ih]
    by_cases hlast : off + bs.length = a
    · subst hlast
      simp
    · rw [if_neg hlast]
      by_cases hin : off ≤ a ∧ a < off + bs.length
      · rw [if_pos hin, if_pos (by omega), List.getD_append _ _ _ _ (by omega)]
      · rw [if_neg hin, if_neg (by omega)]

/-- A block in which a record has landed, its words no longer pending. -/
def Block.landRecord (at_ : Nat) (bs : List Byte) (words : List (Nat × Nat)) (b : Block) : Block :=
  (b.setArea false at_ bs).markUnits .common words false

theorem landRecord_fields (at_ : Nat) (bs : List Byte) (words : List (Nat × Nat)) (b : Block) : b.landRecord at_ bs words =
    { b with common := (b.setArea false at_ bs).common, cpend := (b.landRecord at_ bs words).cpend } := rfl

/-- The words of a Sieve's record that an operation has still to write. -/
def EngineOp.recordWords (o : EngineOp) (k : Scan) (sieve : Nat) : List (Nat × Nat) :=
  o.wr.filter fun u => decide (k.record + sieve * recordBytes k.d ≤ u.2) &&
    decide (u.2 < k.record + sieve * recordBytes k.d + recordBytes k.d)

/-- An operation one more of whose records has landed. -/
def EngineOp.recordLanded (o : EngineOp) (k : Scan) (sieve : Nat) (p : EngineOp) : EngineOp :=
  { p with scan := some { k with landed := k.landed ++ [sieve] }, wr := p.wr.filter fun u => u ∉ o.recordWords k sieve }

/-- The machine in which a record has landed. -/
def State.recordLanded (s : State) (n : Nat) (o : EngineOp) (k : Scan) (sieve : Nat) (bs : List Byte) : State :=
  (s.modBlock o.w (Block.landRecord (k.record + sieve * recordBytes k.d) bs (o.recordWords k sieve))).modOp n (o.recordLanded k sieve)

theorem sieveLand_eq (ho : spFind s.ops n = some o) (hk : o.scan = some k) {sieve : Nat} {bs : List Byte}
    (hsent : k.sent.find? (fun e => e.1 == sieve) = some (sieve, bs)) (hnew : sieve ∉ k.landed) : s.sieveLand n sieve =
      if k.landed.length = 15 then (s.recordLanded n o k sieve bs).finishOp n else s.recordLanded n o k sieve bs := by
  have hlength : (k.landed ++ [sieve]).length = 16 ↔ k.landed.length = 15 := by simp
  unfold State.sieveLand
  rw [ho]
  dsimp only
  rw [hk]
  dsimp only
  rw [hsent]
  dsimp only
  rw [if_neg hnew]
  simp only [hlength]
  rfl

theorem sieveRecordLand_lands (ho : spFind s.ops n = some o) (hk : o.scan = some k) {sieve : Nat} {bs : List Byte} {b : Block}
    (hsent : k.sent.find? (fun e => e.1 == sieve) = some (sieve, bs)) (hnew : sieve ∉ k.landed) (hb : s.block? o.w = some b)
    (hmore : k.landed.length ≠ 15) :
    ∃ t b' o' k', exec (.sieveRecordLand n sieve) s = .next t ∧ t.block? o.w = some b' ∧ spFind t.ops n = some o' ∧
      o'.scan = some k' ∧ k'.landed = k.landed ++ [sieve] ∧ b'.waves = b.waves ∧ t.mem = s.mem ∧
      ∀ a, spGet 0 b'.common a =
        if k.record + sieve * recordBytes k.d ≤ a ∧ a < k.record + sieve * recordBytes k.d + bs.length then
          bs.getD (a - (k.record + sieve * recordBytes k.d)) 0 else spGet 0 b.common a := by
  have hexec : exec (.sieveRecordLand n sieve) s = .next (s.recordLanded n o k sieve bs) :=
    congrArg Host.Outcome.next ((sieveLand_eq ho hk hsent hnew).trans (if_neg hmore))
  exact ⟨_, _, _, _, hexec, block?_modBlock_self hb rfl _, spFind_modOp (s := s.modBlock o.w _) ho _, rfl, rfl, rfl, rfl,
    fun a => spGet_setArea b _ bs a⟩

/-- The last record that lands ends its operation. -/
theorem sieveRecordLand_ends (ho : spFind s.ops n = some o) (hid : o.id = n) (hk : o.scan = some k) {sieve : Nat} {bs : List Byte} {b : Block}
    (hsent : k.sent.find? (fun e => e.1 == sieve) = some (sieve, bs)) (hnew : sieve ∉ k.landed) (hb : s.block? o.w = some b)
    (hlast : k.landed.length = 15) (hroom : o.post = true → b.events.length < 16) :
    ∃ t, exec (.sieveRecordLand n sieve) s = .next t ∧ spFind t.ops n = none ∧ t.mem = s.mem := by
  have hexec : exec (.sieveRecordLand n sieve) s = .next ((s.recordLanded n o k sieve bs).finishOp n) :=
    congrArg Host.Outcome.next ((sieveLand_eq ho hk hsent hnew).trans (if_pos hlast))
  have hover : OpOver n (s.recordLanded n o k sieve bs) _ := opOver_finishOp (o := o.recordLanded k sieve o)
    (spFind_modOp (s := s.modBlock o.w _) ho _) hid (block?_modBlock_self hb rfl _) hroom
  exact ⟨_, hexec, hover.gone, hover.mem⟩

/-! ### SAPP_APPLY (11 R292) -/

theorem sappApply_outcome (ho : spFind s.ops n = some o) (hid : o.id = n) {b : Block} (hkind : o.kind = .sapp) (hrd : o.rd = [])
    (hstatus : o.status = 0) (hheld : s.opHeld o = false)
    (hbetween : s.betweenScans (s.pcOf ((o.wr.head?.map Prod.snd).getD 0)) = true)
    (hfree : (o.cells.all fun x => !s.sieveHeld (x.1 / 64)) = true) (hb : s.block? o.w = some b)
    (hroom : o.post = true → b.events.length < 16) :
    ∃ t, exec (.sappApply n) s = .next t ∧ t.mem = (s.writeCells o.cells).mem ∧ spFind t.ops n = none ∧ ∀ k ∈ t.locks, k.owner ≠ n := by
  have hany : (o.cells.any fun x => s.sieveHeld (x.1 / 64)) = false := by
    rw [List.any_eq_false]
    intro x hx
    simpa using List.all_eq_true.mp hfree x hx
  have hexec : exec (.sappApply n) s = .next ((s.writeCells o.cells).finishOp n) := by
    change Host.Outcome.next (s.sappApply n) = _
    unfold State.sappApply
    rw [ho]
    dsimp only
    rw [if_neg (by simp [hkind, hrd, hstatus, hheld, hbetween, hany])]
  have hwrite := memoryOnly_writeCells s o.cells
  have hops : (s.writeCells o.cells).ops = s.ops := by rw [hwrite]
  have hblock : (s.writeCells o.cells).block? o.w = some b := by rw [hwrite]; exact hb
  obtain ⟨hmem, hgone, hlocks⟩ := opOver_finishOp (hops ▸ ho) hid hblock hroom
  exact ⟨_, hexec, hmem, hgone, hlocks⟩

end

/-- Settles O47: each instruction at issue, each step of a scan and SAPP's write by the lemma that says what it does. -/
theorem sieveQueries : Obligations.SieveQueries := by
  refine ⟨?start, ?empty, ?rejected, ?sapp, ?smrg, fun s n o k ho hid hk => ⟨?accept, ?send, ?land, ?last⟩, ?apply⟩
  case start => exact fun f s c x i hc hp hx hreject hn hfree hlocks => sqry_starts hc hp hx hreject hn hfree hlocks
  case empty => exact fun f s c x hc hp hx hreject hn => sqry_of_no_key hc hp hx hreject hn
  case rejected =>
    intro f s c x code a hc hp hx hreject hsaved hpast hhandler hlive hreissue hstop hsaving hentry
    obtain ⟨-, hwait, -⟩ := clear_spec hc
    exact sqry_rejected hc hp hx hreject ⟨hwait, hsaved, hpast, hhandler, hlive, hreissue⟩ hstop hsaving hentry
  case sapp => exact fun f s c x i hc hp hx hfree hlocks => sapp_starts hc hp hx hfree hlocks
  case smrg => exact fun f s c hc hp hcov hlog => smrg_outcome hc hp hcov hlog
  case accept => exact fun hnew hheld hroom => sieveCommandAccept_outcome ho hk hnew hheld hroom
  case send => exact fun sieve hacc hsieve hnew hhead hpause herr => sievePartialSend_outcome ho hk hacc hsieve hnew hhead hpause herr
  case land => exact fun sieve bs b hsent hnew hb hmore => sieveRecordLand_lands ho hk hsent hnew hb hmore
  case last => exact fun hlast sieve bs b hsent hnew hb hroom => sieveRecordLand_ends ho hid hk hsent hnew hb hlast hroom
  case apply =>
    exact fun s n o b ho hid hkind hrd hstatus hheld hbetween hfree hb hroom =>
      sappApply_outcome ho hid hkind hrd hstatus hheld hbetween hfree hb hroom

end Sys2Proof.Machine
end

section
/-! What a seal does to the waves of its block, and what an instruction leaves that seals, marks its wave and completes (04 R99, R107):
the layer of fences and phaser signals. -/

namespace Sys2Proof.Machine

open Sys2Proof

/-! ### Seals (04 R99) -/

/-- The log of wave k after a wave seals the phase n of their block: stores that have not entered belong to the next phase. -/
def sealedLog (n wave k : Nat) (handler : Bool) (m : Sparse LogEntry) : Sparse LogEntry :=
  m.map fun x =>
    if (k ≠ wave ∨ (handler && x.2.state == 2 && x.2.cause == cJOURNAL_FULL) = true) ∧ (opcodeOf x.2.word).toNat = 0x101 ∧ x.2.phase = n then
      (x.1, { x.2 with phase := n + 1 }) else x

/-- Wave k after the seal. -/
def Wave.sealedIn (n wave k : Nat) (w : Wave) : Wave := { w with log := sealedLog n wave k w.handler w.log }

theorem sealBy_eq (b : Block) (wave : Nat) : b.sealBy wave = { b with
    journal := { b.journal with phase := b.journal.phase + 1 }
    waves := b.waves.map fun e => (e.1, e.2.sealedIn b.journal.phase wave e.1) } := rfl

/-- A change of a wave that neither reads nor writes its operand log, nor whether its handler runs. -/
structure LogBlind (f : Wave → Wave) : Prop where
  log     : ∀ w m, f { w with log := m } = { f w with log := m }
  handler : ∀ w, (f w).handler = w.handler

theorem LogBlind.keeps {f : Wave → Wave} (hf : LogBlind f) (w : Wave) : (f w).log = w.log :=
  calc (f w).log = (f { w with log := w.log }).log := rfl
    _ = w.log := by rw [hf.log]

theorem LogBlind.sealedIn {f : Wave → Wave} (hf : LogBlind f) (n wave k : Nat) (w : Wave) :
    f (w.sealedIn n wave k) = (f w).sealedIn n wave k := by
  have hlog : sealedLog n wave k w.handler w.log = sealedLog n wave k (f w).handler (f w).log := by rw [hf.handler, hf.keeps]
  exact (hf.log w _).trans (congrArg (fun m => { f w with log := m }) hlog)

theorem sealBy_modWave {f : Wave → Wave} (hf : LogBlind f) (s : State) (id : WaveId) (wave : Nat) :
    (s.modWave id f).modBlock id (Block.sealBy · wave) = (s.modBlock id (Block.sealBy · wave)).modWave id f := by
  unfold State.modWave
  rw [modBlock_modBlock, modBlock_modBlock]
  congr 1
  funext b
  simp only [sealBy_eq, spMod, List.map_map]
  congr 1
  refine List.map_congr_left fun e _ => ?_
  by_cases h : e.1 = id.wave <;> simp [h, hf.sealedIn]

theorem block?_sealBy {s : State} {id : WaveId} {b : Block} (hb : s.block? id = some b) (wave : Nat) :
    (s.modBlock id (Block.sealBy · wave)).block? id = some (b.sealBy wave) := block?_modBlock_self hb rfl _

theorem wave?_sealBy {s : State} {id : WaveId} {b : Block} {w : Wave} (hb : s.block? id = some b) (hw : s.wave? id = some w)
    (wave : Nat) : (s.modBlock id (Block.sealBy · wave)).wave? id = some (w.sealedIn b.journal.phase wave id.wave) := by
  unfold State.wave? at hw ⊢
  rw [hb] at hw
  rw [block?_sealBy hb, sealBy_eq]
  refine (spFind_map b.waves (fun e => (e.1, e.2.sealedIn b.journal.phase wave e.1)) (fun _ => rfl) id.wave).trans ?_
  rw [show spFind b.waves id.wave = some w from hw]
  rfl

/-! ### Instructions that mark their wave -/

/-- A wave that differs in the marks of a fence and in its log alone. -/
def MarksOnly (w v : Wave) : Prop := v = { w with demoted := v.demoted, fences := v.fences, log := v.log }

theorem MarksOnly.refl (w : Wave) : MarksOnly w w := rfl

theorem MarksOnly.trans {u v w : Wave} (h : MarksOnly u v) (k : MarksOnly v w) : MarksOnly u w := by
  unfold MarksOnly at h k ⊢
  rw [k, h]

theorem marksOnly_sealedIn (n wave k : Nat) (w : Wave) : MarksOnly w (w.sealedIn n wave k) := rfl

theorem MarksOnly.sameControl {w v : Wave} (h : MarksOnly w v) : SameControl w v := by
  rw [h]; exact ⟨rfl, rfl, rfl, rfl⟩

theorem scalars_take_marks {w v : Wave} (h : MarksOnly w v) (c : Ctx) (sp : Spec) (tick : Nat) (d : Option (Nat × W64)) :
    ((c.issued sp v).take tick d).s = ((c.issued sp w).take tick d).s := by
  rw [h]
  unfold Ctx.issued
  cases d with
  | none => cases sp.held <;> rfl
  | some d => cases sp.held <;> (simp only [Wave.take, Wave.giveS]; split <;> rfl)

/-- The wave that an instruction leaves with a scalar result: issued, with the result, and its flag as it was. -/
structure Gives (c : Ctx) (sp : Spec) (tick : Nat) (d : Option (Nat × W64)) (g : Wave → Wave) : Prop where
  wave  : ∀ w, g w = { (c.issued sp w).take tick d with k := (g w).k }
  flags : ∀ w n, n < 12 → (g w).kget n = w.kget n

theorem gives_take (c : Ctx) (sp : Spec) (tick : Nat) (d : Option (Nat × W64)) :
    Gives c sp tick d fun w => (c.issued sp w).take tick d :=
  ⟨fun _ => rfl, fun w n _ => by unfold Wave.kget; rw [flags_take, flags_issued]⟩

/-- Beside its effect `e`, which may mark its wave, an instruction issues, takes its result and completes. -/
theorem done_of_marks {s e : State} {c : Ctx} {w v : Wave} (h : Issuing s c w) {sp : Spec} {d : Option (Nat × W64)} {g : Wave → Wave}
    (hg : Gives c sp s.tick d g) (sig : Nat) (hcur : e.cur = s.cur) (hwave : e.wave? s.cur = some v) (hv : MarksOnly w v) :
    DoneOutcome s ((e.modWave s.cur g).advance s.cur) c e d sig 0 := by
  have hu := wave?_modWave_self hwave g
  have hcontrol : SameControl w (g v) := by
    rw [hg.wave]
    obtain ⟨hpc, hheld, hexited, hclause⟩ :=
      (hv.sameControl.trans (sameControl_issued c sp v)).trans (sameControl_take (c.issued sp v) s.tick d)
    exact ⟨hpc, hheld, hexited, hclause⟩
  obtain ⟨hframe, hstill, hflags, hnext⟩ := advanced_of h (u := e.modWave s.cur g) hcur hu hcontrol
  have hscal : (g v).s = ((c.issued sp w).take s.tick d).s := by
    rw [hg.wave, ← scalars_take_marks hv]
  refine ⟨(hcur ▸ onlyWave_modWave e g : OnlyWave e _).trans hframe, ?rest, fun n => ?scal, hnext, fun n hn => ?flag⟩
  case rest =>
    rw [hstill, wave_eq_of_wave? hwave, hg.wave, ← still_issued c sp (w := v) (by rw [hv]; exact h.wait), ← still_take (c.issued sp v) s.tick d]
    rfl
  case scal =>
    rw [h.state, ← sget_take_issued h sp d n]
    exact congrArg (spGet 0 · n) ((congrArg Wave.s hstill :).trans hscal)
  case flag =>
    rw [h.state]
    unfold Wave.kget
    rw [hflags]
    refine (hg.flags v n hn).trans ?_
    rw [hv]
    simp [Wave.kget]

/-! ### FENCE (07 R200) -/

/-- A wave that a demoted fence has marked (04 R107). -/
def Wave.marked (w : Wave) : Wave := { w with demoted := true }

/-- A wave that keeps the seal of a fence for its token (04 R108). -/
def Wave.fenced (seq n : Nat) (w : Wave) : Wave := { w with fences := w.fences ++ [(seq, n)] }

/-- What a demotion leaves (19 R329): it is counted, and it marks the wave. -/
def State.demoting (s : State) (c : Ctx) (demoted : Prop) [Decidable demoted] : State :=
  if demoted then (s.countDemotion c.l.fn).modWave s.cur Wave.marked else s

/-- What a fence at scope die or wider leaves (04 R99): its seal, kept for its token. -/
def State.fenceSeal (s : State) (c : Ctx) (scope : Nat) : State :=
  if 3 ≤ scope then
    (s.modWave s.cur (Wave.fenced c.w.accesses c.b.journal.phase)).modBlock s.cur (Block.sealBy · s.cur.wave)
  else s

theorem setPkgR_modWave (s : State) (id : WaveId) (f : Wave → Wave) (n : Nat) (v : W64) :
    (s.modWave id f).setPkgR n v = (s.setPkgR n v).modWave id f := rfl

theorem countDemotion_full {s : State} {n : Nat} (h : (s.pkgR (0x400 + n)).extractLsb' 32 32 = BitVec.allOnes 32) :
    s.countDemotion n = s := if_pos h

theorem countDemotion_counts {s : State} {n : Nat} (h : (s.pkgR (0x400 + n)).extractLsb' 32 32 ≠ BitVec.allOnes 32) :
    s.countDemotion n = s.setPkgR (0x400 + n) (s.pkgR (0x400 + n) + (1#64 <<< 32)) := if_neg h

theorem countDemotion_modWave (s : State) (id : WaveId) (f : Wave → Wave) (n : Nat) :
    (s.modWave id f).countDemotion n = (s.countDemotion n).modWave id f := by
  have hreg : ∀ k, (s.modWave id f).pkgR k = s.pkgR k := fun _ => rfl
  by_cases h : (s.pkgR (0x400 + n)).extractLsb' 32 32 = BitVec.allOnes 32
  · rw [countDemotion_full h, countDemotion_full (by rw [hreg]; exact h)]
  · rw [countDemotion_counts h, countDemotion_counts (by rw [hreg]; exact h), setPkgR_modWave, hreg]

theorem logBlind_issued (c : Ctx) (sp : Spec) : LogBlind (c.issued sp) := by
  constructor <;> intros <;> unfold Ctx.issued <;> cases sp.held <;> rfl

theorem demoting_frame (s : State) (c : Ctx) (demoted : Prop) [Decidable demoted] :
    ∃ pk bs, s.demoting c demoted = { s with pkgReg := pk, blocks := bs } := by
  unfold State.demoting
  split
  · obtain ⟨pk, hpk⟩ := countDemotion_frame s c.l.fn
    rw [hpk]
    exact ⟨pk, _, rfl⟩
  · exact ⟨s.pkgReg, s.blocks, rfl⟩

theorem cur_demoting (s : State) (c : Ctx) (demoted : Prop) [Decidable demoted] : (s.demoting c demoted).cur = s.cur := by
  obtain ⟨pk, bs, hframe⟩ := demoting_frame s c demoted
  rw [hframe]

theorem demoting_issued (s : State) (c : Ctx) (sp : Spec) (demoted : Prop) [Decidable demoted] :
    (s.modWave s.cur (c.issued sp)).demoting c demoted = (s.demoting c demoted).modWave s.cur (c.issued sp) := by
  have hmark : ∀ w, (c.issued sp w).marked = c.issued sp w.marked := fun w => by unfold Ctx.issued; cases sp.held <;> rfl
  unfold State.demoting
  rw [State.modWave_cur, countDemotion_modWave, modWave_modWave]
  split
  · rw [modWave_modWave]; simp only [hmark]
  · rfl

theorem fenceSeal_issued (s : State) (c : Ctx) (sp : Spec) (scope : Nat) :
    (s.modWave s.cur (c.issued sp)).fenceSeal c scope = (s.fenceSeal c scope).modWave s.cur (c.issued sp) := by
  have hmark : ∀ a n w, (c.issued sp w).fenced a n = c.issued sp (w.fenced a n) := fun a n w => by
    unfold Ctx.issued; cases sp.held <;> rfl
  unfold State.fenceSeal
  rw [State.modWave_cur, modWave_modWave]
  split
  · rw [← sealBy_modWave (logBlind_issued c sp), modWave_modWave]; simp only [hmark]
  · rfl

/-- What a fence does beside its token. -/
def State.fenceMarks (s : State) (c : Ctx) (requested : Nat) : State :=
  (s.demoting c (min requested (s.policyScope c.l.fn) < requested)).fenceSeal c (min requested (s.policyScope c.l.fn))

/-- The token that a fence writes. -/
def State.tokenOf (s : State) (c : Ctx) (requested : Nat) : W64 :=
  fenceToken c.w.accesses (min requested (s.policyScope c.l.fn)) (decide (min requested (s.policyScope c.l.fn) < requested))

theorem fence_eq {s : State} {c : Ctx} (hid : c.id = s.cur) (d requested : Nat) :
    s.fence c d requested = (s.fenceMarks c requested).setS s.cur d (s.tokenOf c requested) := by
  unfold State.fence State.fenceMarks State.fenceSeal
  rw [hid, cur_demoting]
  unfold State.demoting
  simp only [decide_eq_true_eq]
  rfl

theorem block?_demoting {s : State} {c : Ctx} {w : Wave} (h : Issuing s c w) (demoted : Prop) [Decidable demoted] :
    ∃ b v, (s.demoting c demoted).block? s.cur = some b ∧ (s.demoting c demoted).wave? s.cur = some v ∧
      b.journal = c.b.journal ∧ MarksOnly w v := by
  unfold State.demoting
  split
  · obtain ⟨pk, hpk⟩ := countDemotion_frame s c.l.fn
    rw [hpk]
    exact ⟨_, w.marked, block?_modWave_self (s := { s with pkgReg := pk }) h.block _, wave?_modWave_self (s := { s with pkgReg := pk }) h.wave _,
      rfl, rfl⟩
  · exact ⟨c.b, w, h.block, h.wave, rfl, .refl w⟩

theorem wave?_fenceSeal {s : State} {c : Ctx} {b : Block} {w : Wave} (hb : s.block? s.cur = some b) (hw : s.wave? s.cur = some w)
    (scope : Nat) : ∃ v, (s.fenceSeal c scope).wave? s.cur = some v ∧ MarksOnly w v := by
  unfold State.fenceSeal
  split
  · refine ⟨_, wave?_sealBy (block?_modWave_self hb _) (wave?_modWave_self hw _) _, ?_⟩
    exact (show MarksOnly w (w.fenced c.w.accesses c.b.journal.phase) from rfl).trans (marksOnly_sealedIn _ _ _ _)
  · exact ⟨w, hw, .refl w⟩

/-- The machine with the marks of a fence: nothing but its block and the policy's count differs. -/
theorem fenceMarks_frame (s : State) (c : Ctx) (requested : Nat) :
    ∃ pk bs, s.fenceMarks c requested = { s with pkgReg := pk, blocks := bs } := by
  obtain ⟨pk, bs, hframe⟩ := demoting_frame s c (min requested (s.policyScope c.l.fn) < requested)
  unfold State.fenceMarks State.fenceSeal
  rw [hframe]
  split <;> exact ⟨pk, _, rfl⟩

theorem fenceMarks_issued (s : State) (c : Ctx) (sp : Spec) (requested : Nat) :
    (s.modWave s.cur (c.issued sp)).fenceMarks c requested = (s.fenceMarks c requested).modWave s.cur (c.issued sp) := by
  have hseal := fenceSeal_issued (s.demoting c (min requested (s.policyScope c.l.fn) < requested)) c sp (min requested (s.policyScope c.l.fn))
  rw [cur_demoting] at hseal
  unfold State.fenceMarks
  rw [show (s.modWave s.cur (c.issued sp)).policyScope c.l.fn = s.policyScope c.l.fn from rfl, demoting_issued, hseal]

theorem wave?_fenceMarks {s : State} {c : Ctx} {w : Wave} (h : Issuing s c w) (requested : Nat) :
    ∃ v, (s.fenceMarks c requested).wave? s.cur = some v ∧ MarksOnly w v := by
  obtain ⟨b, u, hb, hu, hmark⟩ := block?_demoting h (min requested (s.policyScope c.l.fn) < requested)
  rw [← cur_demoting s c (min requested (s.policyScope c.l.fn) < requested)] at hb hu
  obtain ⟨v, hv, hseal⟩ := wave?_fenceSeal (c := c) hb hu (min requested (s.policyScope c.l.fn))
  rw [cur_demoting] at hv
  exact ⟨v, hv, hmark.2.trans hseal⟩

/-- The token's fields do not overlap (07 R200). -/
theorem fenceToken_eq {scope : Nat} (hscope : scope < 8) (seq : Nat) (demoted : Bool) :
    fenceToken seq scope demoted = BitVec.ofNat 64 (seq % 2 ^ 48 + scope * 2 ^ 48 + if demoted then 2 ^ 51 else 0) := by
  have hlow : seq % 2 ^ 48 < 2 ^ 48 := Nat.mod_lt _ (by decide)
  have hfields : scope <<< 48 ||| seq % 2 ^ 48 = scope * 2 ^ 48 + seq % 2 ^ 48 := by
    rw [← Nat.shiftLeft_add_eq_or_of_lt hlow, Nat.shiftLeft_eq]
  have hmark : 1 <<< 51 ||| (scope * 2 ^ 48 + seq % 2 ^ 48) = 2 ^ 51 + (scope * 2 ^ 48 + seq % 2 ^ 48) := by
    rw [← Nat.shiftLeft_add_eq_or_of_lt (by omega), Nat.shiftLeft_eq, Nat.one_mul]
  have hfit : seq % 2 ^ 48 % 2 ^ 64 = seq % 2 ^ 48 ∧ scope % 2 ^ 64 = scope ∧ scope <<< 48 % 2 ^ 64 = scope <<< 48 := by
    rw [Nat.shiftLeft_eq]; omega
  obtain ⟨hseq, hscope64, hshift⟩ := hfit
  apply BitVec.eq_of_toNat_eq
  unfold fenceToken
  rw [BitVec.toNat_or, BitVec.toNat_or, BitVec.toNat_shiftLeft, BitVec.toNat_ofNat, BitVec.toNat_ofNat, BitVec.toNat_ofNat, hseq, hscope64,
    hshift, Nat.or_comm (seq % 2 ^ 48), hfields]
  cases demoted
  · simp only [Bool.false_eq_true, if_false, show (0 : W64).toNat = 0 from rfl, Nat.or_zero]
    omega
  · rw [Nat.or_comm, if_pos rfl, if_pos rfl, show (1#64 <<< 51).toNat = 1 <<< 51 from rfl, hmark]
    omega

theorem fence_outcome {s : State} {c : Ctx} {w : Wave} (h : Issuing s c w) (f : F) :
    DoneOutcome s (s.quick c (fenceSpec f) fun s => s.fence c (sdst f.d) f.m.toNat) c (s.fenceMarks c f.m.toNat)
      (some (scalNo f.d, s.tokenOf c f.m.toNat)) f.ctl.sig.toNat 0 := by
  obtain ⟨pk, bs, hframe⟩ := fenceMarks_frame s c f.m.toNat
  have hcur : (s.fenceMarks c f.m.toNat).cur = s.cur := by rw [hframe]
  have htick : (s.fenceMarks c f.m.toNat).tick = s.tick := by rw [hframe]
  obtain ⟨v, hv, hmark⟩ := wave?_fenceMarks h f.m.toNat
  unfold State.quick
  dsimp only
  rw [issue_eq, h.id, fence_eq (s := s.modWave s.cur (c.issued (fenceSpec f))) h.id, State.modWave_cur, fenceMarks_issued]
  unfold State.setS
  rw [State.modWave_tick, htick, modWave_modWave]
  exact done_of_marks h (gives_take c (fenceSpec f) s.tick (some (scalNo f.d, s.tokenOf c f.m.toNat))) f.ctl.sig.toNat hcur hv hmark

/-- An encoding that passes the checks is defined. -/
theorem enc_of_clear {s : State} {sp : Spec} {own : Ctx → List Fail} {c : Ctx} (h : s.clear sp own = some c) : sp.enc = true := by
  obtain ⟨-, -, -, henc, -, -⟩ := clear_spec h
  unfold Ctx.encodingCause at henc
  split at henc
  · cases henc
  · split at henc
    · cases henc
    · rename_i hdefined
      simp only [Bool.or_eq_true, Bool.not_eq_true', not_or, Bool.not_eq_false] at hdefined
      exact hdefined.1.1.2

/-- A scope that FENCE encodes fits its field of the token. -/
theorem fence_scope {f : F} {s : State} {c : Ctx} (hc : s.clear (fenceSpec f) (fenceFails f s) = some c) : f.m.toNat < 7 := by
  have henc := enc_of_clear hc
  simp only [fenceSpec, sy, scalarSpec, Bool.and_eq_true, decide_eq_true_eq] at henc
  exact henc.1.1.1.2

/-- An instruction whose body does what its effect and its result say. -/
theorem actResult_of_body {i : Instr} {sp : Spec} {own : State → Ctx → List Fail} {when : State → Ctx → Prop} {eff : State → Ctx → State}
    {dst : State → Ctx → Option (Nat × W64)} {body : Ctx → State → State}
    (hexec : ∀ s c, s.clear sp (own s) = some c → exec i s = .next (body c s))
    (hact : ∀ s c w, Issuing s c w → s.clear sp (own s) = some c → c.part ≠ 0 → when s c →
      DoneOutcome s (body c s) c (eff s c) (dst s c) sp.ctl.sig.toNat 0)
    (hidle : ∀ s c, c.part = 0 → body c s = s.quick c sp id) : ActResult i sp own when eff dst := by
  intro s c hc
  obtain ⟨w, hw⟩ := issuing_of_clear hc
  refine ⟨fun hp hwhen => ⟨_, hexec s c hc, hact s c w hw hc hp hwhen⟩, fun hp => ⟨_, hexec s c hc, ?_⟩⟩
  rw [hidle s c hp]
  exact quick_idle hw sp id _ rfl

/-- What FENCE does where it passes every check. -/
def fenceBody (f : F) (c : Ctx) (s : State) : State :=
  if c.part = 0 then s.quick c (fenceSpec f) id
  else
    let go := fun (s : State) => s.quick c (fenceSpec f) fun s => s.fence c (sdst f.d) f.m.toNat
    if 3 ≤ f.m.toNat then s.publishFirst c true go else go s

theorem publishFirst_free {c : Ctx} (h : c.publishDemand = []) (s : State) (scalarClass : Bool) (body : State → State) :
    s.publishFirst c scalarClass body = body s := by
  unfold State.publishFirst
  rw [h]
  rfl

theorem fence_acts {f : F} {s : State} {c : Ctx} {w : Wave} (hw : Issuing s c w) (hc : s.clear (fenceSpec f) (fenceFails f s) = some c)
    (hp : c.part ≠ 0) (hforce : 3 ≤ f.m.toNat → c.publishDemand = []) :
    DoneOutcome s (fenceBody f c s) c (s.fenceMarks c f.m.toNat)
      (some (scalNo f.d, BitVec.ofNat 64 (c.w.accesses % 2 ^ 48 + min f.m.toNat (s.policyScope c.l.fn) * 2 ^ 48 +
        if min f.m.toNat (s.policyScope c.l.fn) < f.m.toNat then 2 ^ 51 else 0))) f.ctl.sig.toNat 0 := by
  have hdone := fence_outcome hw f
  have hm := fence_scope hc
  have htoken : s.tokenOf c f.m.toNat = BitVec.ofNat 64 (c.w.accesses % 2 ^ 48 + min f.m.toNat (s.policyScope c.l.fn) * 2 ^ 48 +
      if min f.m.toNat (s.policyScope c.l.fn) < f.m.toNat then 2 ^ 51 else 0) := by
    unfold State.tokenOf
    rw [fenceToken_eq (by omega)]
    simp only [decide_eq_true_eq]
  rw [htoken] at hdone
  unfold fenceBody
  rw [if_neg hp]
  dsimp only
  split
  · rw [publishFirst_free (hforce (by assumption))]; exact hdone
  · exact hdone

/-- Settles O15: a fence leaves its marks and its seal before it issues, and FWAIT completes once its wait is over. -/
theorem fencesAndTokens : Obligations.FencesAndTokens := by
  refine ⟨fun f => ?fence, fun f => ?fwait⟩
  case fence =>
    exact actResult_of_body (body := fenceBody f) (fun s c hc => congrArg Host.Outcome.next (run_clear hc _ _))
      (fun s c w hw hc hp hforce => fence_acts hw hc hp hforce) fun s c hp => if_pos hp
  case fwait =>
    refine actResult_of_body (body := fun c s =>
      if c.part = 0 then s.quick c (fwaitSpec f) id else s.awaitOr c (fwaitSpec f) (.fwait (c.scalar f.a)) id)
      (fun s c hc => congrArg Host.Outcome.next (run_clear hc _ _)) (fun s c w hw hc hp hdone => ?_) fun s c hp => if_pos hp
    have hover : s.waitDone c.id c.b c.w (.fwait (c.scalar f.a)) = true := hdone
    rw [if_neg hp, State.awaitOr, if_pos hover]
    exact quick_idle hw (fwaitSpec f) id _ rfl

end Sys2Proof.Machine
end

section
/-! Phaser signals (07 R206): the publish point of a block that has just sealed, and the obligation O18. -/

namespace Sys2Proof.Machine

open Sys2Proof

/-! ### What a publish point depends on (04 R99, R108)

Whether a seal is reached does not depend on the phases of the wave's own log entries, nor on what of its block issue changes. -/

/-- The machine with other blocks. -/
def State.withBlocks (s : State) (bs : Sparse Block) : State := { s with blocks := bs }

theorem translate_withBlocks (s : State) (bs : Sparse Block) (asid tenant va : Nat) (rights : List Nat) :
    (s.withBlocks bs).translate asid tenant va rights = s.translate asid tenant va rights := by
  rw [← translate_home s, ← translate_home (s.withBlocks bs)]
  rfl

theorem lanePhys_withBlocks (s : State) (bs : Sparse Block) (l : Launch) (e : LogEntry) (ln : Nat) :
    (s.withBlocks bs).lanePhys l e ln = s.lanePhys l e ln := by
  unfold State.lanePhys
  simp only [translate_withBlocks]

theorem setAside_withBlocks (s : State) (bs : Sparse Block) (b : Block) (w : Wave) (e : LogEntry) :
    (s.withBlocks bs).setAside b w e = s.setAside b w e := by
  unfold State.setAside State.waitsFault State.meets
  simp only [lanePhys_withBlocks]
  rfl

theorem performedAt_withBlocks (s : State) (bs : Sparse Block) (b : Block) (w : Wave) (seq scope : Nat) :
    (s.withBlocks bs).performedAt b w seq scope = s.performedAt b w seq scope := by
  have hscope : ∀ t e l, (s.withBlocks bs).laneScope t e l = s.laneScope t e l := fun _ _ _ => rfl
  unfold State.performedAt
  simp only [setAside_withBlocks, hscope]
  rfl

theorem sealReachedAt_withBlocks (s : State) (bs : Sparse Block) (b : Block) (w : Wave) (n seq scope : Nat) :
    (s.withBlocks bs).sealReachedAt b w n seq scope = s.sealReachedAt b w n seq scope := by
  unfold State.sealReachedAt
  rw [performedAt_withBlocks]
  rfl

/-- Two waves whose logs differ in the phases of their entries alone, and whose handlers run alike. -/
structure SameAccesses (w v : Wave) : Prop where
  log     : ∃ p : Nat × LogEntry → Nat, v.log = w.log.map fun x => (x.1, { x.2 with phase := p x })
  handler : v.handler = w.handler
  saved   : v.saved = w.saved

theorem setAside_sameAccesses {w v : Wave} (h : SameAccesses w v) {b b' : Block} (hb : b'.launch = b.launch) (s : State) (e : LogEntry) (n : Nat) :
    s.setAside b' v { e with phase := n } = s.setAside b w e := by
  obtain ⟨⟨p, hlog⟩, hhandler, hsaved⟩ := h
  unfold State.setAside State.waitsFault Wave.setAside Wave.ofHandler State.launchOf
  rw [hlog, hhandler, hsaved, hb]
  simp only [List.any_map]
  rfl

theorem performedAt_sameAccesses {w v : Wave} (h : SameAccesses w v) {b b' : Block} (hb : b'.launch = b.launch) (s : State) (seq scope : Nat) :
    s.performedAt b' v seq scope = s.performedAt b w seq scope := by
  obtain ⟨p, hlog⟩ := h.log
  have hlaunch : s.launchOf b' = s.launchOf b := congrArg s.launch? hb
  unfold State.performedAt
  rw [hlog, hlaunch, List.all_map]
  refine List.all_congr rfl fun x => ?_
  simp only [Function.comp, setAside_sameAccesses h hb]
  rfl

theorem sameAccesses_sealedIn (n wave k : Nat) (w : Wave) : SameAccesses w (w.sealedIn n wave k) := by
  refine ⟨⟨fun x => if (k ≠ wave ∨ (w.handler && x.2.state == 2 && x.2.cause == cJOURNAL_FULL) = true) ∧
    (opcodeOf x.2.word).toNat = 0x101 ∧ x.2.phase = n then n + 1 else x.2.phase, ?_⟩, rfl, rfl⟩
  refine List.map_congr_left fun x _ => ?_
  dsimp only
  split <;> rfl

theorem entered_modWaves {g : Wave → Wave} (hg : LogBlind g) (b : Block) (k n : Nat) :
    ({ b with waves := spMod b.waves k g } : Block).entered n = b.entered n := by
  unfold Block.entered spMod
  rw [List.all_map]
  refine List.all_congr rfl fun e => ?_
  dsimp only [Function.comp]
  unfold Wave.setAside
  split
  · rw [hg.keeps, hg.handler]
  · rfl

theorem unacked_modWaves {g : Wave → Wave} (hg : LogBlind g) (s : State) (b : Block) (k : Nat) :
    s.unacked { b with waves := spMod b.waves k g } = s.unacked b := by
  unfold State.unacked spMod
  congr 3
  rw [List.flatMap_map]
  refine congrArg (b.waves.flatMap ·) (funext fun e => ?_)
  split
  · rw [hg.keeps]
  · rfl

/-- Issue does not change whether a seal is reached. -/
theorem sealReached_issued {g : Wave → Wave} (hg : LogBlind g) (s : State) (bs : Sparse Block) (b : Block) {w v : Wave} (h : SameAccesses w v)
    (k n seq : Nat) :
    (s.withBlocks bs).sealReached { b with waves := spMod b.waves k g } v n seq = s.sealReached b w n seq := by
  unfold State.sealReached
  rw [sealReachedAt_withBlocks]
  unfold State.sealReachedAt
  rw [entered_modWaves hg, unacked_modWaves hg, performedAt_sameAccesses h (b := b) (b' := { b with waves := spMod b.waves k g }) rfl]

/-! ### PHSIG and PHADV (07 R206) -/

theorem logBlind_flagUp (sig : Nat) : LogBlind (Wave.flagUp · sig) := by
  constructor <;> intros <;> unfold Wave.flagUp <;> split <;> rfl

theorem LogBlind.comp {f g : Wave → Wave} (hf : LogBlind f) (hg : LogBlind g) : LogBlind fun w => g (f w) :=
  ⟨fun w m => by rw [hf.log, hg.log], fun w => (hg.handler _).trans (hf.handler w)⟩

/-- A wave whose signalling instruction has issued: its flag is up. -/
def Ctx.signalling (c : Ctx) (f : F) (w : Wave) : Wave := (c.issued (phsigSpec f) w).flagUp f.ctl.sig.toNat

theorem logBlind_signalling (c : Ctx) (f : F) : LogBlind (c.signalling f) :=
  (logBlind_issued c (phsigSpec f)).comp (logBlind_flagUp f.ctl.sig.toNat)

theorem signalling_fields (c : Ctx) (f : F) (w : Wave) : c.signalling f w = { w with
    k := (c.signalling f w).k, inflight := (c.signalling f w).inflight, wait := none, trivet := (c.signalling f w).trivet
    trivSet := (c.signalling f w).trivSet } := by
  unfold Ctx.signalling
  rw [flagUp_moved, issued_fields]

theorem giveS_flags (w : Wave) (tick n : Nat) (x : W64) (k : Sparse Nat) :
    ({ w with k := k } : Wave).giveS tick n x = { w.giveS tick n x with k := k } := by
  unfold Wave.giveS
  dsimp only
  split <;> rfl

/-- A signal whose wait is over at once gives its result and counts its flag down again. -/
theorem gives_signalled (c : Ctx) (f : F) (tick n : Nat) (x : W64) :
    Gives c (phsigSpec f) tick (some (n, x)) fun w => ((c.signalling f w).giveS tick n x).flagDown f.ctl.sig.toNat := by
  refine ⟨fun w => ?_, fun w j hj => ?_⟩
  · unfold Ctx.signalling
    rw [flagDown_fields, flagUp_moved, giveS_flags]
    rfl
  · have hk : ((c.signalling f w).giveS tick n x).k = (c.signalling f w).k := by rw [giveS_fields]
    rw [kget_flagDown _ hj]
    unfold Wave.kget
    rw [hk]
    change (c.signalling f w).kget j - _ = _
    unfold Ctx.signalling
    rw [kget_flagUp _ hj]
    unfold Wave.kget
    rw [flags_issued]
    omega

/-- What a signal does beside its result: the seal of its block, and its count at the phaser. -/
def State.signalMarks (s : State) (c : Ctx) (f : F) : State :=
  (s.modBlock s.cur fun b => b.sealBy s.cur.wave).setPhaser (objectOf (c.scalar f.a))
    ((s.phaser (objectOf (c.scalar f.a))).signal c.b s.cur.wave)

/-- The result of a signal of a member: the phase signalled, or for PHADV the one after it. -/
def Member.result (m : Member) (adv : Bool) : W64 :=
  if adv then (BitVec.ofNat 32 m.count + 1).zeroExtend 64 else (BitVec.ofNat 32 m.count).zeroExtend 64

/-- The machine in which a signalling instruction has sealed and issued. -/
def State.signalIssued (s : State) (c : Ctx) (f : F) : State :=
  (s.modBlock s.cur fun b => b.sealBy s.cur.wave).modWave s.cur (c.signalling f)

theorem sealReached_signalIssued {s : State} {c : Ctx} {w : Wave} (h : Issuing s c w) (f : F) :
    (s.signalIssued c f).sealReached (((s.signalIssued c f).block? s.cur).getD c.b) ((s.signalIssued c f).wave s.cur) c.b.journal.phase c.w.accesses =
      s.sealReached (c.b.sealBy s.cur.wave) c.w c.b.journal.phase c.w.accesses := by
  have hblock := block?_modWave_self (block?_sealBy h.block s.cur.wave) (c.signalling f)
  have hwave := wave_eq_of_wave? (wave?_modWave_self (wave?_sealBy h.block h.wave s.cur.wave) (c.signalling f))
  have hsame : SameAccesses c.w (c.signalling f (w.sealedIn c.b.journal.phase s.cur.wave s.cur.wave)) := by
    obtain ⟨hlog, hhandler, hsaved⟩ := sameAccesses_sealedIn c.b.journal.phase s.cur.wave s.cur.wave w
    rw [h.own, signalling_fields]
    exact ⟨hlog, hhandler, hsaved⟩
  unfold State.signalIssued
  rw [hblock, hwave]
  exact sealReached_issued (logBlind_signalling c f) s _ _ hsame _ _ _

theorem signalNow_outcome {s : State} {c : Ctx} {w : Wave} (h : Issuing s c w) (f : F) (adv : Bool) {m : Member}
    (hm : (s.phaser (objectOf (c.scalar f.a))).member c.b s.cur.wave = some m)
    (hpass : adv = true → phasePassed ((s.phaser (objectOf (c.scalar f.a))).signal c.b s.cur.wave).phase (BitVec.ofNat 32 m.count) = true) :
    DoneOutcome s ((s.signalIssued c f).signalNow c f adv (objectOf (c.scalar f.a))) c (s.signalMarks c f)
      (some (scalNo f.d, m.result adv)) f.ctl.sig.toNat 0 := by
  have hwave : (s.signalMarks c f).wave? s.cur = some (w.sealedIn c.b.journal.phase s.cur.wave s.cur.wave) :=
    wave?_sealBy h.block h.wave s.cur.wave
  have hdone := done_of_marks h (gives_signalled c f s.tick (scalNo f.d) (m.result adv)) f.ctl.sig.toNat (e := s.signalMarks c f) rfl hwave
    (marksOnly_sealedIn _ _ _ w)
  have hawaited : ∀ x, ((s.signalIssued c f).setPhaser (objectOf (c.scalar f.a)) ((s.phaser (objectOf (c.scalar f.a))).signal c.b s.cur.wave)).awaited c
      (phsigSpec f) (fun t => t.setS s.cur (sdst f.d) x) =
      ((s.signalMarks c f).modWave s.cur fun w => ((c.signalling f w).giveS s.tick (scalNo f.d) x).flagDown f.ctl.sig.toNat).advance s.cur := by
    intro x
    unfold State.awaited State.setS
    rw [h.id]
    exact congrArg (State.advance · s.cur) ((modWave_modWave _ s.cur _ _).trans (modWave_modWave (s.signalMarks c f) s.cur (c.signalling f) _))
  have hphaser : (s.signalIssued c f).phaser (objectOf (c.scalar f.a)) = s.phaser (objectOf (c.scalar f.a)) := rfl
  have hset : ∀ (t : State) k p, (t.setPhaser k p).phaser k = p := fun t k p => spGet_spSet_same _ _ _ _
  unfold State.signalNow
  rw [hphaser, h.id]
  dsimp only
  rw [hm]
  dsimp only
  rw [hset]
  cases adv with
  | false =>
    rw [if_pos (by decide), hawaited]
    exact hdone
  | true =>
    rw [if_neg (by decide), if_pos (hpass rfl), hawaited]
    exact hdone

/-- What PHSIG and PHADV do where they pass every check and the publish point is reached at once. -/
theorem sigBody_outcome {s : State} {c : Ctx} {w : Wave} (h : Issuing s c w) (f : F) (adv : Bool) (hp : c.part ≠ 0)
    (hforce : c.publishDemand = []) (hreached : s.sealReached (c.b.sealBy s.cur.wave) c.w c.b.journal.phase c.w.accesses = true) {m : Member}
    (hm : (s.phaser (objectOf (c.scalar f.a))).member c.b s.cur.wave = some m)
    (hmay : (s.phaser (objectOf (c.scalar f.a))).maySignal m = true)
    (hpass : adv = true → phasePassed ((s.phaser (objectOf (c.scalar f.a))).signal c.b s.cur.wave).phase (BitVec.ofNat 32 m.count) = true) :
    DoneOutcome s (sigBody f adv c s) c (s.signalMarks c f) (some (scalNo f.d, m.result adv)) f.ctl.sig.toNat 0 := by
  have hbody : sigBody f adv c s = (s.signalIssued c f).signalNow c f adv (objectOf (c.scalar f.a)) := by
    unfold sigBody
    rw [if_neg hp, publishFirst_free hforce]
    dsimp only
    rw [h.id, issue_eq, h.id, modWave_modWave]
    rw [show ((s.modBlock s.cur fun b => b.sealBy s.cur.wave).modWave s.cur fun w =>
      (c.issued (phsigSpec f) w).flagUp f.ctl.sig.toNat) = s.signalIssued c f from rfl]
    rw [sealReached_signalIssued h f, if_pos hreached]
    unfold State.signalOr
    rw [show (s.signalIssued c f).phaser (objectOf (c.scalar f.a)) = s.phaser (objectOf (c.scalar f.a)) from rfl, h.id]
    dsimp only
    rw [hm]
    exact if_pos hmay
  rw [hbody]
  exact signalNow_outcome h f adv hm hpass

/-- Settles O18: the seal is made at issue, and a signal that need not wait counts and completes. -/
theorem phaserSignals : Obligations.PhaserSignals := by
  intro f adv
  have hexec : ∀ s c, s.clear (phsigSpec f) (fun c => s.phaserStop c (c.scalar f.a) (sigRights adv)) = some c →
      exec (if adv then .phadv f else .phsig f) s = .next (sigBody f adv c s) := by
    intro s c hc
    cases adv with
    | false => exact congrArg Host.Outcome.next (run_clear hc _ _)
    | true => exact congrArg Host.Outcome.next (run_clear (sp := { phsigSpec f with half := true }) hc _ _)
  refine actResult_of_body hexec (fun s c w hw hc hp hwhen => ?_) fun s c hp => if_pos hp
  obtain ⟨hforce, hreached, m, hm, hmay, hpass⟩ := hwhen
  have hdone := sigBody_outcome hw f adv hp hforce hreached hm hmay hpass
  rw [hm]
  exact hdone

end Sys2Proof.Machine
end

section
/-! Sealed lines that go home (04 R99, R101): the obligation O42. -/

namespace Sys2Proof.Machine

open Sys2Proof

/-- The block of a unique number after a change that keeps the number. -/
theorem blockOfUid_modAny {s : State} {uid : Nat} {b : Block} (hb : s.blockOfUid uid = some b) {f : Block → Block}
    (hf : ∀ b, (f b).uid = b.uid) : (s.modAny uid f).blockOfUid uid = some (f b) := by
  have hkeeps : ((fun e : Nat × Block => e.2.uid == uid) ∘ fun e => if e.2.uid = uid then (e.1, f e.2) else e) = fun e => e.2.uid == uid := by
    funext e
    by_cases h : e.2.uid = uid <;> simp [h, hf]
  unfold State.blockOfUid at hb ⊢
  change Option.map Prod.snd (List.find? _ (s.blocks.map fun e => if e.2.uid = uid then (e.1, f e.2) else e)) = _
  rw [List.find?_map, hkeeps, Option.map_map]
  obtain ⟨e, he, rfl⟩ := Option.map_eq_some_iff.mp hb
  have huid : e.2.uid = uid := by simpa using List.find?_some he
  rw [he]
  simp [huid]

/-- A block whose journal has lost a line of a phase (04 R99). -/
def Block.dropLine (line phase : Nat) (b : Block) : Block :=
  { b with journal := { b.journal with lines := b.journal.lines.filter fun x => !(x.line == line && x.phase == phase) } }

theorem mem_dropLine (line phase : Nat) (b : Block) (x : JLine) :
    x ∈ (b.dropLine line phase).journal.lines ↔ x ∈ b.journal.lines ∧ ¬ (x.line = line ∧ x.phase = phase) := by
  simp [Block.dropLine, List.mem_filter, imp_iff_not_or]

theorem sealedLineApply_eq {s : State} {uid line : Nat} {b : Block} {j : JLine} (hb : s.blockOfUid uid = some b)
    (hj : b.journal.oldestSealed line = some j) (hscan : s.sieveHeld line = false) (hheld : s.sealedHeld b j = false)
    (htag : s.tagFree b j.phase = true) :
    s.sealedLineApply uid line = (s.writeRun (line * 64) (s.lineBytes b.journal j)).modAny uid (Block.dropLine line j.phase) := by
  have hany : s.anyBlock uid = some b := by unfold State.anyBlock; rw [hb]
  unfold State.sealedLineApply
  rw [hany]
  dsimp only
  rw [hj]
  dsimp only
  rw [hscan, hheld, htag]
  rfl

/-- Settles O42: the line's masked bytes are written at home, and its block loses that line alone. -/
theorem sealedLines : Obligations.SealedLines := by
  intro s uid line b j hb hj hscan hheld htag
  have hwrite := memoryOnly_writeRun s (line * 64) (s.lineBytes b.journal j)
  have hblock : (s.writeRun (line * 64) (s.lineBytes b.journal j)).blockOfUid uid = some b := by rw [hwrite]; exact hb
  refine ⟨_, b.dropLine line j.phase, congrArg Host.Outcome.next (sealedLineApply_eq hb hj hscan hheld htag), rfl,
    blockOfUid_modAny hblock fun _ => rfl, rfl, rfl, mem_dropLine line j.phase b, ?_, ?_, ?_⟩ <;> rw [hwrite] <;> rfl

end Sys2Proof.Machine
end

section
/-! The steps that end a logged access (07 R184-R190, 19 R335, 22 R374): the obligation O41. -/

namespace Sys2Proof.Machine

open Sys2Proof

/-! ### Failures of lanes (19 R337) -/

theorem minBy_mem {α : Type} {rank : α → Nat} {m : List α} {x : α} (h : minBy rank m = some x) : x ∈ m := by
  have hfold : ∀ (t : List α) (y : α), t.foldl (fun m y => if rank y < rank m then y else m) y ∈ y :: t := by
    intro t
    induction t with
    | nil => simp
    | cons z t ih =>
      intro y
      rw [List.foldl_cons]
      rcases List.mem_cons.mp (ih (if rank z < rank y then z else y)) with h | h
      · rw [h]; split <;> simp
      · exact List.mem_cons_of_mem _ (List.mem_cons_of_mem _ h)
  cases m with
  | nil => cases h
  | cons y t =>
    cases h
    exact hfold t y

theorem minBy_isSome {α : Type} (rank : α → Nat) {m : List α} (h : m ≠ []) : ∃ x, minBy rank m = some x := by
  cases m with
  | nil => exact absurd rfl h
  | cons y t => exact ⟨_, rfl⟩

theorem maskOf_ne_zero {p : Nat → Bool} {l : Nat} (hl : l < 32) (h : p l = true) : maskOf p ≠ 0 := by
  intro h0
  have := getLsbD_maskOf p hl
  rw [h0, h] at this
  simp at this

theorem mem_firstFails {fs : List Fail} {x : Fail} (hx : x ∈ firstFails fs) : x ∈ fs := by
  obtain ⟨l, -, hl⟩ := List.mem_filterMap.mp hx
  cases hf : fs.find? fun f => f.lane == l with
  | none => rw [hf] at hl; cases hl
  | some f =>
    rw [hf] at hl
    by_cases hn : lowestNamed f.cause = true
    · exact List.mem_of_mem_filter (minBy_mem ((if_pos hn).symm.trans hl))
    · cases (if_neg hn).symm.trans hl
      exact List.mem_of_find?_eq_some hf

/-- Each lane that fails has a first failure. -/
theorem firstFails_ne_nil {fs : List Fail} {x : Fail} (hx : x ∈ fs) (hlane : x.lane < 32) : firstFails fs ≠ [] := by
  intro hnil
  have hnone := List.filterMap_eq_nil_iff.mp hnil x.lane (mem_lanes32.mpr hlane)
  cases hf : fs.find? fun f => f.lane == x.lane with
  | none => simpa using List.find?_eq_none.mp hf x hx
  | some f =>
    rw [hf] at hnone
    by_cases hn : lowestNamed f.cause = true
    · have hmem : f ∈ fs.filter fun y => y.lane == x.lane && y.cause == f.cause := by
        simpa [List.mem_of_find?_eq_some hf] using List.find?_some hf
      obtain ⟨y, hy⟩ := minBy_isSome (fun x : Fail => x.addr.toNat) (List.ne_nil_of_mem hmem)
      cases hy.symm.trans ((if_pos hn).symm.trans hnone)
    · cases (if_neg hn).symm.trans hnone

/-- Lanes that fail leave a record with a lane in it. -/
theorem settleFails_some {fs : List Fail} (hne : fs ≠ []) (hlane : ∀ x ∈ fs, x.lane < 32) :
    ∃ bits cause lanes addr, settleFails fs = some (bits, cause, lanes, addr) ∧ lanes ≠ 0 := by
  obtain ⟨x, hx⟩ := List.exists_mem_of_ne_nil fs hne
  obtain ⟨f, hf⟩ := minBy_isSome Fail.cause (firstFails_ne_nil hx (hlane x hx))
  have hmem := minBy_mem hf
  unfold settleFails
  dsimp only
  rw [hf]
  refine ⟨_, _, _, _, rfl, maskOf_ne_zero (hlane f (mem_firstFails hmem)) ?_⟩
  simp only [List.any_eq_true, List.mem_filter, beq_iff_eq]
  exact ⟨f, ⟨hmem, rfl⟩, rfl⟩

/-! ### TRANSLATION_WALK (22 R373, R374) -/

section
variable {s : State} {id : WaveId} {i : Nat} {b : Block} {l : Launch} {w : Wave} {e : LogEntry}

/-- What the walk of each lane that has not performed finds. -/
def State.walked (s : State) (core : Nat) (l : Launch) (e : LogEntry) : List (Nat × Except Fail (List (Nat × Nat))) :=
  (lanesOf (e.lanes &&& ~~~e.done)).map fun ln => (ln, s.walkLane core l e ln)

/-- The failures of a walk. -/
def walkFails (outs : List (Nat × Except Fail (List (Nat × Nat)))) : List Fail :=
  outs.filterMap fun o => match o.2 with
    | .error x => some x
    | .ok _ => none

/-- The pages that a walk finds. -/
def walkPages (outs : List (Nat × Except Fail (List (Nat × Nat)))) : List (Nat × Nat) :=
  (outs.flatMap fun o => match o.2 with
    | .error _ => []
    | .ok p => p).eraseDups

theorem holdLanes_frame (s : State) (l : Launch) (e : LogEntry) (outs : List (Nat × Except Fail (List (Nat × Nat)))) :
    HeldOnly s (s.holdLanes l e outs) := by
  refine rel_foldl (R := HeldOnly) (fun _ => rfl) (fun {s t u} h k => ?_) (fun s o => ?_) outs s
  · unfold HeldOnly at h k ⊢; rw [k, h]
  · split
    · rfl
    · rfl
    · obtain ⟨hp, he⟩ := hold_frame s l.asid l.tenant (e.addrAt o.1).toNat e.rights
      rw [he]; rfl

/-- The machine after the walk of a load: it goes back with its failures, waits, or goes on to its home. -/
def State.loadWalked (s : State) (id : WaveId) (i : Nat) (b : Block) (l : Launch) (w : Wave) (e : LogEntry) : State :=
  let outs := s.walked id.core l e
  let t := s.holdLanes l e outs
  if !(walkFails outs).isEmpty then t.failEntry id i (walkFails outs)
  else if !s.sendable l b w e then t
  else t.modEntry id i fun _ => { e with stage := 1, pages := walkPages outs }

theorem walkAccess_load (ha : Access s id i b l w e) (hop : e.opcode = 0x100) :
    s.walkAccess id i e l = s.loadWalked id i b l w e := by
  have hagain : (w.reissue.head? == some i) = false := by rw [ha.alone]; rfl
  have hload : ¬ e.opcode = 0x101 := by rw [hop]; decide
  unfold State.walkAccess
  rw [ha.block, wave_eq_of_wave? ha.wave]
  simp only [hagain, hload, Bool.false_eq_true, if_false]
  rfl

theorem translationWalk_load (ha : Access s id i b l w e) (hop : e.opcode = 0x100) (hstage : e.stage = 0) :
    s.translationWalk id i = s.walkAccess id i e l := by
  have hfrond : e.isFrond = false := by simp [LogEntry.isFrond, hop]
  unfold State.translationWalk
  simp only [ha.block, wave_eq_of_wave? ha.wave, ha.entry, ha.launch]
  rw [if_neg (by simp [ha.live, hstage, hfrond]), if_neg (by simp [hop]), if_neg (by simp [hop]), if_neg (by simp [hop])]

theorem exec_translationWalk_load (ha : Access s id i b l w e) (hop : e.opcode = 0x100) (hstage : e.stage = 0) :
    exec (.translationWalk id i) s = .next (s.loadWalked id i b l w e) :=
  congrArg Host.Outcome.next ((translationWalk_load ha hop hstage).trans (walkAccess_load ha hop))

theorem walkFails_eq_nil (h : ∀ k ∈ lanesOf (e.lanes &&& ~~~e.done), ∃ p, s.walkLane id.core l e k = .ok p) :
    walkFails (s.walked id.core l e) = [] := by
  refine List.filterMap_eq_nil_iff.mpr fun o ho => ?_
  obtain ⟨k, hk, rfl⟩ := List.mem_map.mp ho
  obtain ⟨p, hp⟩ := h k hk
  simp only [hp]

theorem walkFails_ne_nil {k : Nat} (hk : k ∈ lanesOf (e.lanes &&& ~~~e.done)) {x : Fail} (hx : s.walkLane id.core l e k = .error x) :
    walkFails (s.walked id.core l e) ≠ [] := by
  refine List.ne_nil_of_mem (a := x) (List.mem_filterMap.mpr ⟨(k, .error x), List.mem_map.mpr ⟨k, hk, ?_⟩, rfl⟩)
  rw [hx]

theorem lane_of_walkLane {k : Nat} {x : Fail} (h : s.walkLane id.core l e k = .error x) : x.lane = k := by
  unfold State.walkLane at h
  dsimp only at h
  split at h
  · split at h <;> cases h; rfl
  · split at h
    · cases h; rfl
    · split at h
      · cases h; rfl
      · split at h <;> cases h; rfl

theorem lane_of_walkFails {x : Fail} (hx : x ∈ walkFails (s.walked id.core l e)) : x.lane < 32 := by
  obtain ⟨o, ho, hfail⟩ := List.mem_filterMap.mp hx
  obtain ⟨k, hk, rfl⟩ := List.mem_map.mp ho
  cases hwalk : s.walkLane id.core l e k with
  | ok p => simp [hwalk] at hfail
  | error y =>
    rw [hwalk] at hfail
    cases hfail
    rw [lane_of_walkLane hwalk]
    exact BitVec.lt_of_getLsbD (mem_lanesOf.mp hk)

/-- The entry of an access that goes back with its fault. -/
def LogEntry.failed (e : LogEntry) (bits : W64) (cause : Nat) (lanes : BitVec 32) (addr : W64) : LogEntry :=
  { e with stage := 3, cause := cause, causes := bits, faultLanes := lanes, faultAddr := addr }

/-- What becomes of an entry while translations are held. -/
theorem EntryOutcome.of_held {t u : State} {e' : LogEntry} (hheld : HeldOnly s t) (h : EntryOutcome id t u i e') : EntryOutcome id s u i e' := by
  obtain ⟨hframe, hrest, hentry⟩ := h
  rw [hheld] at hframe hrest hentry
  exact ⟨hframe, hrest, hentry⟩

theorem entryOutcome_refl (hw : s.wave? id = some w) (he : spFind w.log i = some e) : EntryOutcome id s s i e := by
  refine ⟨OnlyWave.refl { s with cur := id }, rfl, fun j => ?_⟩
  split
  · next hj => rw [hj, wave_eq_of_wave? hw, he]
  · rfl

/-- An entry takes the form that a function gives it. -/
theorem entryOutcome_change (hw : s.wave? id = some w) (he : spFind w.log i = some e) (f : LogEntry → LogEntry) :
    EntryOutcome id s (s.modEntry id i f) i (f e) := by
  have ht : (s.modEntry id i f).wave id = { w with log := spMod w.log i f } := wave_modWave_self hw _
  refine ⟨oneWave_modWave s id _, by rw [ht, wave_eq_of_wave? hw], fun j => ?_⟩
  rw [ht, wave_eq_of_wave? hw]
  simp only [spFind_spMod]
  by_cases hj : i = j
  · subst hj; simp [he]
  · simp [hj, Ne.symm hj]

/-- An LD whose lanes all translate (22 R374). -/
theorem load_translated (ha : Access s id i b l w e) (hop : e.opcode = 0x100) (hstage : e.stage = 0)
    (hok : ∀ k ∈ lanesOf (e.lanes &&& ~~~e.done), ∃ p, s.walkLane id.core l e k = .ok p) :
    (s.sendable l b w e = true →
      ∃ t p, exec (.translationWalk id i) s = .next t ∧ EntryOutcome id s t i { e with stage := 1, pages := p }) ∧
    (s.sendable l b w e = false → ∃ t, exec (.translationWalk id i) s = .next t ∧ EntryOutcome id s t i e) := by
  have hheld := holdLanes_frame s l e (s.walked id.core l e)
  have hexec := exec_translationWalk_load ha hop hstage
  unfold State.loadWalked at hexec
  dsimp only at hexec
  rw [walkFails_eq_nil hok] at hexec
  generalize s.holdLanes l e (s.walked id.core l e) = t at hheld hexec
  have hwave : t.wave? id = some w := by rw [hheld]; exact ha.wave
  refine ⟨fun hsend => ⟨_, walkPages (s.walked id.core l e), ?_, .of_held hheld (entryOutcome_modEntry hwave ha.entry _)⟩,
    fun hsend => ⟨_, ?_, .of_held hheld (entryOutcome_refl hwave ha.entry)⟩⟩
  · rw [hsend] at hexec; exact hexec
  · rw [hsend] at hexec; exact hexec

/-- An LD in which a lane fails (22 R374, 19 R337). -/
theorem load_failed (ha : Access s id i b l w e) (hop : e.opcode = 0x100) (hstage : e.stage = 0)
    {k : Nat} (hk : k ∈ lanesOf (e.lanes &&& ~~~e.done)) {x : Fail} (hx : s.walkLane id.core l e k = .error x) :
    ∃ t e', exec (.translationWalk id i) s = .next t ∧ EntryOutcome id s t i e' ∧ e'.stage = 3 ∧ e'.state = 1 ∧ e'.faultLanes ≠ 0 := by
  have hheld := holdLanes_frame s l e (s.walked id.core l e)
  have hne := walkFails_ne_nil hk hx
  obtain ⟨bits, cause, lanes, addr, hsettle, hlanes⟩ := settleFails_some hne fun y hy => lane_of_walkFails hy
  have hexec := exec_translationWalk_load ha hop hstage
  unfold State.loadWalked at hexec
  dsimp only at hexec
  rw [if_pos (by simpa using hne)] at hexec
  generalize s.holdLanes l e (s.walked id.core l e) = t at hheld hexec
  have hwave : t.wave? id = some w := by rw [hheld]; exact ha.wave
  have hfail : t.failEntry id i (walkFails (s.walked id.core l e)) = t.modEntry id i (LogEntry.failed · bits cause lanes addr) := by
    unfold State.failEntry
    rw [hsettle]; rfl
  rw [hfail] at hexec
  exact ⟨_, e.failed bits cause lanes addr, hexec, .of_held hheld (entryOutcome_change hwave ha.entry _), rfl, ha.live, hlanes⟩

/-! ### LOAD_RESPONSE (07 R185, R187) -/

theorem loadResponse_load (ha : Access s id i b l w e) (hop : e.opcode = 0x100) (hstage : e.stage = 1) (hpoison : s.poisonFails e = [])
    (hjournal : s.journalFails b e = []) : s.loadResponse id i =
      if e.bytes = 16 ∧ e.data = [] then s.modEntry id i fun e => s.loadUnit b e i
      else (s.modWave id fun w => w.landAll s.tick (s.loadWords b e)).endEntry id i := by
  have hready : e.loadReady = true := by simp [LogEntry.loadReady, ha.live, hop, hstage]
  unfold State.loadResponse
  rw [ha.block, wave_eq_of_wave? ha.wave, ha.entry]
  dsimp only
  rw [if_pos hready, hpoison, hjournal]
  rfl

theorem loadResponse_atomic (ha : Access s id i b l w e) (hop : e.opcode = 0x104) (hstage : e.stage = 2) :
    s.loadResponse id i = (s.modWave id fun w => w.landAll s.tick e.oldWords).endEntry id i := by
  have hready : ¬ e.loadReady = true := by simp [LogEntry.loadReady, hop]
  unfold State.loadResponse
  rw [ha.block, wave_eq_of_wave? ha.wave, ha.entry]
  dsimp only
  rw [if_neg hready, if_neg (by simp [ha.live]), if_pos ⟨hop, hstage⟩]

theorem freeUnit_lt (tick i : Nat) : (if Config.freeBit tick i then 1 else 0) < 2 := by split <;> omega

/-- The unit that a load of 16 bytes takes first, before it holds one (04 R102). -/
theorem loadUnit_first (hdata : e.data = []) : s.loadUnit b e i = { e with
    data := (lanesOf e.lanes).map fun k => (2 * k + (if Config.freeBit s.tick i then 1 else 0),
      BitVec.ofNat 64 (natOfBytes ((List.range 8).map fun n =>
        (s.journalByte b.journal (physOf e.pages (e.addrAt k).toNat + (8 * (if Config.freeBit s.tick i then 1 else 0) + n))).getD
          (s.readByte (physOf e.pages (e.addrAt k).toNat + (8 * (if Config.freeBit s.tick i then 1 else 0) + n)))))) } := by
  unfold State.loadUnit State.laneByte State.loadByte
  rw [hdata]
  rfl

/-! ### ATOMIC_AT_HOME (04 R104, 07 R189, R190) -/

theorem length_bytesOfNat (n v : Nat) : (bytesOfNat n v).length = n := by
  induction n generalizing v with
  | zero => rfl
  | succ n ih => exact congrArg Nat.succ (ih _)

/-- A wave that has an entry is resident. -/
theorem wave?_of_entry (he : spFind (s.wave id).log i = some e) : s.wave? id = some (s.wave id) := by
  cases hw : s.wave? id with
  | none =>
    unfold State.wave at he
    rw [hw] at he
    cases he
  | some w => rw [wave_eq_of_wave? hw]

theorem homeOutcome_of_same {t : State} (hwave : ∀ u, t.wave? u = s.wave? u) (he : spFind (s.wave id).log i = some e) :
    HomeOutcome id s t i e (some e) := by
  have hid : t.wave id = s.wave id := by unfold State.wave; rw [hwave]
  refine ⟨fun j => ?_, fun n _ => by rw [hid]; simp, by rw [hid], fun u _ => hwave u⟩
  rw [hid]
  split
  · next hj => rw [hj, he]
  · rfl

theorem homeOutcome_change (he : spFind (s.wave id).log i = some e) (f : LogEntry → LogEntry) :
    HomeOutcome id s (s.modEntry id i f) i e (some (f e)) := by
  have hw := wave?_of_entry he
  have ht : (s.modEntry id i f).wave id = { s.wave id with log := spMod (s.wave id).log i f } := wave_modWave_self hw _
  refine ⟨(entryOutcome_change hw he f).entry, fun n _ => by rw [ht]; simp [Wave.kget], by rw [ht], fun u hu => ?_⟩
  exact wave?_modWave_other s _ fun h => hu ⟨h.1.symm, h.2.symm⟩

theorem homeOutcome_endEntry (he : spFind (s.wave id).log i = some e) (halone : (s.wave id).reissue = []) :
    HomeOutcome id s (s.endEntry id i) i e none := by
  have hw := wave?_of_entry he
  rw [endEntry_alone hw he halone]
  have ht : (s.modWave id (Wave.endLog · i e)).wave id = (s.wave id).endLog i e := wave_modWave_self hw _
  refine ⟨fun j => ?_, fun n hn => ?_, ?_, fun u hu => wave?_modWave_other s _ fun h => hu ⟨h.1.symm, h.2.symm⟩⟩ <;> rw [ht, endLog_fields]
  · simp only [spFind_spDel, eq_comm]
  · exact (kget_flagDown (s.wave id) hn).trans (by simp)

/-- An entry that changes and then performs has performed. -/
theorem HomeOutcome.trans {t u : State} {e' : LogEntry} {after : Option LogEntry} (h : HomeOutcome id s t i e (some e'))
    (k : HomeOutcome id t u i e' after) (hword : e'.word = e.word) : HomeOutcome id s u i e after where
  entry j := by rw [k.entry, h.entry]; split <;> rfl
  flag n hn := by rw [k.flag n hn, h.flag n hn, hword]; simp
  rest := k.rest.trans h.rest
  waves v hv := (k.waves v hv).trans (h.waves v hv)

/-- The entry of an atomic after one lane has performed. -/
def LogEntry.performed (e : LogEntry) (k : Nat) (old : W64) : LogEntry :=
  { e with done := e.done ||| (1#32 <<< k), old := spPut e.old k old }

/-- What an atomic of a lane writes at home. -/
def State.atomBytes (s : State) (e : LogEntry) (k : Nat) : List Byte :=
  bytesOfNat e.bytes (atomNew (atomOp e.fields.m) (BitVec.ofNat 64 (s.readNat (physOf e.pages (e.addrAt k).toNat) e.bytes)) fun q =>
    (spFind e.data (k * 4 + q)).getD 0).toNat

theorem atomLane_clean {k : Nat} (hpoison : s.poisonIn (physOf e.pages (e.addrAt k).toNat) e.bytes = none) : s.atomLane id i e k =
    (s.writeBytes (physOf e.pages (e.addrAt k).toNat) (s.atomBytes e k)).modEntry id i
      (LogEntry.performed · k (BitVec.ofNat 64 (s.readNat (physOf e.pages (e.addrAt k).toNat) e.bytes))) := by
  unfold State.atomLane State.atomWrite
  dsimp only
  rw [length_bytesOfNat, hpoison]
  rfl

/-- The one lane that has not performed has not sent a contribution either. -/
theorem left_single {k : Nat} (hk : lanesOf (e.lanes &&& ~~~e.done) = [k]) (hready : e.atomReady = true) : lanesOf e.left = [k] := by
  have hleft : e.left ≠ 0 := by
    unfold LogEntry.atomReady at hready
    simp only [Bool.and_eq_true, bne_iff_ne] at hready
    exact hready.2
  have hsub : (lanesOf e.left).Sublist (lanesOf (e.lanes &&& ~~~e.done)) :=
    List.monotone_filter_right _ fun x hx => by
      unfold LogEntry.left at hx
      rw [BitVec.getLsbD_and, Bool.and_eq_true] at hx
      exact hx.1
  rw [hk] at hsub
  exact (List.sublist_singleton.mp hsub).resolve_left (lanesOf_ne_nil hleft)

/-- Nothing is left of an atomic whose last lane has performed. -/
theorem performed_last {k : Nat} (hk : lanesOf (e.lanes &&& ~~~e.done) = [k]) (old : W64) :
    (e.performed k old).lanes &&& ~~~(e.performed k old).done = 0 := by
  by_contra hne
  obtain ⟨j, hj⟩ := List.exists_mem_of_ne_nil _ (lanesOf_ne_nil hne)
  have hbit := mem_lanesOf.mp hj
  have hlt := BitVec.lt_of_getLsbD hbit
  simp [LogEntry.performed, hlt] at hbit
  have hj' : j ∈ lanesOf (e.lanes &&& ~~~e.done) := by
    rw [mem_lanesOf]
    simp [hbit, hlt]
  rw [hk] at hj'
  simp at hj'
  subst hj'
  simp at hbit

/-- A plain access whose one lane left has not begun, or has. -/
theorem atomFaults_plain {k : Nat} (hk : lanesOf e.left = [k]) (hwin : s.windowOf l.tenant (e.addrAt k) = none)
    (hpoison : s.poisonFails e = []) : s.atomFaults l e = [] := by
  unfold State.atomFaults
  rw [hk, hpoison]
  simp [hwin]

theorem atomNow_plain {k : Nat} (hk : lanesOf e.left = [k]) (hscan : s.sieveHeld (physOf e.pages (e.addrAt k).toNat / 64) = false) :
    s.atomNow l e = [k] := by
  unfold State.atomNow
  rw [hk]
  simp [hscan, List.eraseDups_cons, Nat.mod_one]

/-- The entry of an atomic that has met no fault and begins. -/
def LogEntry.started (e : LogEntry) : LogEntry := { e with begun := true }

theorem beginAtomic_plain {k : Nat} (he : spFind (s.wave id).log i = some e) (hk : lanesOf e.left = [k])
    (hwin : s.windowOf l.tenant (e.addrAt k) = none) :
    (∃ bl, s.beginAtomic l id i e = s.withBlocks bl) ∧ HomeOutcome id s (s.beginAtomic l id i e) i e (some e.started) := by
  unfold State.beginAtomic
  by_cases hbegun : e.begun = true
  · rw [if_pos hbegun, show e.started = e by unfold LogEntry.started; rw [← hbegun]]
    exact ⟨⟨s.blocks, rfl⟩, homeOutcome_of_same (fun _ => rfl) he⟩
  · rw [if_neg hbegun, hk]
    simp only [List.filterMap_cons, List.filterMap_nil, hwin, Option.bind_none, List.foldl_nil, List.map_nil, List.append_nil]
    exact ⟨⟨_, rfl⟩, homeOutcome_change he LogEntry.started⟩

theorem poisonIn_of_poisonFails {k : Nat} (hk : k ∈ lanesOf (e.lanes &&& ~~~e.done)) (hpoison : s.poisonFails e = []) :
    s.poisonIn (physOf e.pages (e.addrAt k).toNat) e.bytes = none :=
  Option.map_eq_none_iff.mp (List.filterMap_eq_nil_iff.mp hpoison k hk)

/-- The machine in which the last lane of an atomic has changed its bytes at home. -/
def State.atomDone (s : State) (l : Launch) (id : WaveId) (i : Nat) (e : LogEntry) (k : Nat) : State :=
  ((s.beginAtomic l id i e).writeBytes (physOf e.pages (e.addrAt k).toNat) (s.atomBytes e k)).modEntry id i
    (LogEntry.performed · k (BitVec.ofNat 64 (s.readNat (physOf e.pages (e.addrAt k).toNat) e.bytes)))

theorem atomicAtHome_plain (ha : Access s id i b l w e) {k : Nat} (hready : e.atomReady = true) (hk : lanesOf (e.lanes &&& ~~~e.done) = [k])
    (hwin : s.windowOf l.tenant (e.addrAt k) = none) (hscan : s.sieveHeld (physOf e.pages (e.addrAt k).toNat / 64) = false)
    (hpoison : s.poisonFails e = []) : s.atomicAtHome id i = (s.atomDone l id i e k).settleAtomic id i := by
  have hleft := left_single hk hready
  have hclean := poisonIn_of_poisonFails (hk ▸ List.mem_singleton_self k) hpoison
  obtain ⟨⟨bl, hbl⟩, hbegin⟩ := beginAtomic_plain (by rw [wave_eq_of_wave? ha.wave]; exact ha.entry) hleft hwin
  have hentry : spFind ((s.withBlocks bl).wave id).log i = some e.started := by
    rw [← hbl, hbegin.entry, if_pos rfl]
  have hlane : (s.withBlocks bl).atomLane id i e.started k = s.atomDone l id i e k := by
    unfold State.atomDone
    rw [hbl]
    exact atomLane_clean (s := s.withBlocks bl) hclean
  unfold State.atomicAtHome
  rw [ha.block, wave_eq_of_wave? ha.wave, ha.entry]
  dsimp only
  rw [ha.launch]
  dsimp only
  rw [if_neg (by simp [hready]), atomFaults_plain hleft hwin hpoison, atomNow_plain hleft hscan, if_neg (by simp), hbl, hentry]
  simp only [List.foldl_cons, List.foldl_nil, Option.getD_some]
  rw [show (s.withBlocks bl).windowOf l.tenant (e.started.addrAt k) = none from hwin]
  dsimp only
  rw [hlane]

/-- The last lane of an atomic changes its bytes at home (04 R104). -/
theorem atomDone_outcome {k : Nat} (he : spFind (s.wave id).log i = some e) (hleft : lanesOf e.left = [k])
    (hwin : s.windowOf l.tenant (e.addrAt k) = none) :
    (s.atomDone l id i e k).mem = (s.writeBytes (physOf e.pages (e.addrAt k).toNat) (s.atomBytes e k)).mem ∧
    HomeOutcome id s (s.atomDone l id i e k) i e (some (e.started.performed k
      (BitVec.ofNat 64 (s.readNat (physOf e.pages (e.addrAt k).toNat) e.bytes)))) := by
  obtain ⟨⟨bl, hbl⟩, hbegin⟩ := beginAtomic_plain he hleft hwin
  have hwrite := memoryOnly_writeBytes (s.beginAtomic l id i e) (physOf e.pages (e.addrAt k).toNat) (s.atomBytes e k)
  have hsame : ∀ u, ((s.beginAtomic l id i e).writeBytes (physOf e.pages (e.addrAt k).toNat) (s.atomBytes e k)).wave? u =
      (s.beginAtomic l id i e).wave? u := fun u => by rw [hwrite]; rfl
  have hbegun : spFind ((s.beginAtomic l id i e).wave id).log i = some e.started := by rw [hbegin.entry, if_pos rfl]
  have hwritten := homeOutcome_of_same hsame hbegun
  have hlast := homeOutcome_change (hwritten.entry i |>.trans (if_pos rfl))
    (LogEntry.performed · k (BitVec.ofNat 64 (s.readNat (physOf e.pages (e.addrAt k).toNat) e.bytes)))
  exact ⟨writeBytes_mem_congr (by rw [hbl]; rfl) _ _, (hbegin.trans hwritten rfl).trans hlast rfl⟩

/-- An atomic that has performed in every lane goes back with its values, or is over. -/
theorem settleAtomic_outcome (he : spFind (s.wave id).log i = some e) (halone : (s.wave id).reissue = []) (hlive : e.state = 1)
    (hdone : e.lanes &&& ~~~e.done = 0) : (s.settleAtomic id i).mem = s.mem ∧
      HomeOutcome id s (s.settleAtomic id i) i e (if e.opcode = 0x104 then some { e with stage := 2 } else none) := by
  unfold State.settleAtomic
  rw [he]
  dsimp only
  rw [if_neg (by simp [hlive, hdone])]
  by_cases hop : e.opcode = 0x104
  · rw [if_pos hop, if_pos hop]
    exact ⟨rfl, homeOutcome_change he fun e => { e with stage := 2 }⟩
  · rw [if_neg hop, if_neg hop]
    refine ⟨?_, homeOutcome_endEntry he halone⟩
    rw [endEntry_alone (wave?_of_entry he) he halone]; rfl

/-- An atomic whose last lane performs at home (07 R190). -/
theorem atomic_performs (ha : Access s id i b l w e) {k : Nat} (hready : e.atomReady = true) (hk : lanesOf (e.lanes &&& ~~~e.done) = [k])
    (hwin : s.windowOf l.tenant (e.addrAt k) = none) (hscan : s.sieveHeld (physOf e.pages (e.addrAt k).toNat / 64) = false)
    (hpoison : s.poisonFails e = []) :
    ∃ t, exec (.atomicAtHome id i) s = .next t ∧
      t.mem = (s.writeBytes (physOf e.pages (e.addrAt k).toNat) (s.atomBytes e k)).mem ∧
      HomeOutcome id s t i e (if e.opcode = 0x104 then some { e with
        stage := 2, done := e.done ||| (1#32 <<< k), begun := true
        old := spPut e.old k (BitVec.ofNat 64 (s.readNat (physOf e.pages (e.addrAt k).toNat) e.bytes)) } else none) := by
  have he : spFind (s.wave id).log i = some e := by rw [wave_eq_of_wave? ha.wave]; exact ha.entry
  obtain ⟨hmem, hlane⟩ := atomDone_outcome he (left_single hk hready) hwin
  have halone : ((s.atomDone l id i e k).wave id).reissue = [] :=
    (congrArg Wave.reissue hlane.rest :).trans ((congrArg Wave.reissue (wave_eq_of_wave? ha.wave)).trans ha.alone)
  obtain ⟨hmem', hsettle⟩ := settleAtomic_outcome (hlane.entry i |>.trans (if_pos rfl)) halone ha.live (performed_last (e := e.started) hk _)
  refine ⟨_, congrArg Host.Outcome.next (atomicAtHome_plain ha hready hk hwin hscan hpoison), hmem'.trans hmem, ?_⟩
  exact hlane.trans hsettle rfl

/-! ### OPERAND_LOG_FAULT (07 R184, 19 R335) -/

/-- The record of a fault that an entry brings (19 R335). -/
def LogEntry.faultRec (e : LogEntry) : CauseRec :=
  ⟨e.cause, e.causes, e.addr, e.faultAddr, e.faultLanes, e.index, 0, 0, logResume e.cause, e.seq, true⟩

/-- An entry whose fault has been raised. -/
def LogEntry.raised (e : LogEntry) : LogEntry := { e with state := 2 }

/-- In a wave that lives and issues nothing again the raised fault is all. -/
theorem operandLogFault_raises (ha : Access s id i b l w e) (hstage : e.stage = 3) {t : State}
    (ht : (s.modEntry id i LogEntry.raised).raiseFrom id e.seq e.faultRec = t) (hlive : (t.wave id).live ≠ 0)
    (halone : (t.wave id).reissue = []) : s.operandLogFault id i = t := by
  have hhead : (t.wave id).reissue.head? ≠ some i := by rw [halone]; simp
  subst ht
  unfold State.operandLogFault
  rw [wave_eq_of_wave? ha.wave, ha.entry]
  dsimp only
  rw [if_neg (by simp [ha.live, hstage])]
  exact (if_neg hlive).trans (if_neg hhead)

theorem operandLogFault_enters (ha : Access s id i b l w e) (hstage : e.stage = 3) (hopen : w.Open) (hstop : b.stopping = none)
    (hsaving : b.saving = false) (hentry : l.record.handler ≠ 0) :
    ∃ t, exec (.operandLogFault id i) s = .next t ∧ HandlerEntry id (s.modEntry id i LogEntry.raised) t e.faultRec l.record.handler := by
  have hblock : (s.modEntry id i LogEntry.raised).block? id = _ := block?_modWave_self ha.block _
  have hwave : (s.modEntry id i LogEntry.raised).wave? id = some { w with log := spMod w.log i LogEntry.raised } :=
    wave?_modWave_self ha.wave _
  have hraise := raiseFrom_open hblock (l := l) ha.launch hwave ⟨hopen.wait, hopen.saved, hopen.past, hopen.handler, hopen.live, hopen.reissue⟩
    hstop hsaving hentry e.seq e.faultRec
  have hhandler := handlerEntry_atHandler hwave e.faultRec l.record.handler
  have hrest := hhandler.rest
  rw [wave_eq_of_wave? hwave] at hrest
  have hexited := (congrArg Wave.exited hrest :)
  have hlive : (((s.modEntry id i LogEntry.raised).atHandler id (causeBit e.cause ||| e.causes) l.record.handler e.faultRec).wave id).live ≠ 0 := by
    unfold Wave.live
    exact hexited ▸ hopen.live
  exact ⟨_, congrArg Host.Outcome.next (operandLogFault_raises ha hstage hraise hlive ((congrArg Wave.reissue hrest :).trans hopen.reissue)), hhandler⟩

end

/-- Settles O41: the walk, the landing, the atomic and the fault of a logged access that runs alone. -/
theorem accessSteps : Obligations.AccessSteps := by
  intro s id i b l w e ha
  refine ⟨fun hop hstage => ⟨load_translated ha hop hstage, fun ⟨k, hk, x, hx⟩ => load_failed ha hop hstage hk hx⟩,
    fun hop hstage hpoison hjournal hcov => ⟨fun hbytes hdata => ?_, fun hnot => ?_⟩,
    fun hop hstage hcov => ⟨_, congrArg Host.Outcome.next (loadResponse_atomic ha hop hstage), landOutcome_of ha.wave ha.entry ha.alone hcov _⟩,
    fun k hready hk hwin hscan hpoison => atomic_performs ha hready hk hwin hscan hpoison,
    fun hstage hhandler hsaved hpast hlive hstop hsaving hwait hentry =>
      operandLogFault_enters ha hstage ⟨hwait, hsaved, hpast, hhandler, hlive, ha.alone⟩ hstop hsaving hentry⟩
  · have hexec := loadResponse_load ha hop hstage hpoison hjournal
    rw [if_pos ⟨hbytes, hdata⟩] at hexec
    refine ⟨_, _, congrArg Host.Outcome.next hexec, freeUnit_lt s.tick i, ?_⟩
    rw [← loadUnit_first hdata]
    exact entryOutcome_change ha.wave ha.entry _
  · have hexec := loadResponse_load ha hop hstage hpoison hjournal
    rw [if_neg fun h => hnot.elim (· h.1) (· h.2)] at hexec
    exact ⟨_, congrArg Host.Outcome.next hexec, landOutcome_of ha.wave ha.entry ha.alone hcov _⟩

end Sys2Proof.Machine
end

section
/-! Two groups under one number (23 R398): the refutation of O44. -/

namespace Sys2Proof.Machine

open Sys2Proof

/-- A swap of another package at 20000H, where tenant 0's package table stands, in window 1, whose home is here. -/
def tableGroup : WinGroup := ⟨1, 0x20000, 12, false, false, [⟨1, ⟨0, 0, 0⟩, 0, 0, 0x70000, 0, 0, false, 0⟩], false, 0, none, 0x20000⟩

/-- A collection of tenant 0 without a contribution, in window 0, whose home is package 1. -/
def farGroup : WinGroup := ⟨0, 0x20000, 0, true, false, [], false, 0, none, 0x20000⟩

/-- Package 7 of the machine, the first of the two of tenant 0, whose table names no package yet; both groups have number 0. No run
gives two groups one number; the statement leaves the list free. -/
def sharedNumberState : State :=
  { State.reset with
    pkgReg := [(0x4B2, 7), (0x4C0, 0x8000000000000000), (0x4C1, 1), (0x4C3, 0x1000000), (0x4E0, 0x20000), (0x4E1, 2)]
    wingroups := [(0, tableGroup), (0, farGroup)] }

theorem sharedNumber_closes :
    0 < sharedNumberState.groupSize 0 ∧ sharedNumberState.ownPackage 0 = 0 ∧ sharedNumberState.mayClose 0 0 = true ∧
      1 ∈ sharedNumberState.homesOf 0 := by decide +kernel

/-- The swap makes this package the second of the tenant, and so the home of window 0: the close goes nowhere. -/
theorem sharedNumber_unsent {t : State} (h : exec (.windowClose 0 0 0) sharedNumberState = .next t) : t.closesSent = [] := by
  have hsent : (match exec (.windowClose 0 0 0) sharedNumberState with
    | .next u => u.closesSent == []
    | _ => false) = true := by decide +kernel
  rw [h] at hsent
  simpa using hsent

/-- Refutes O44: where a collection for package 1 shares its number with a group at home here, WINDOW_CLOSE applies that group in its
place, which here overwrites the tenant's package table, and the close does not go to package 1, a home of the tenant's windows. -/
theorem not_reductionWindows : ¬ Obligations.ReductionWindows := by
  rintro ⟨-, -, hclose⟩
  obtain ⟨hsize, hown, hmay, hhome⟩ := sharedNumber_closes
  obtain ⟨-, -, hfar, -⟩ := hclose sharedNumberState 0 0 0 hsize (by decide) fun _ => hmay
  obtain ⟨t, ht, hsent, -⟩ := hfar hown.symm
  have hmem := hsent 1 hhome
  rw [sharedNumber_unsent ht] at hmem
  cases hmem

end Sys2Proof.Machine
end

section
/-! Words and instructions (05 R130, R140, R143, R144): the fields of a word, its bytes, what each opcode decodes to, and the
obligations O55 and O56. -/

namespace Sys2Proof

/-! ### The fields of a word -/

@[simp] theorem opcodeOf_wordR (op : BitVec 10) (f : F) : opcodeOf (wordR op f) = op := by
  unfold opcodeOf wordR
  simp (disch := decide) only [BitVec.extractLsb'_append_eq_of_le, Nat.reduceSub]
  exact BitVec.extractLsb'_eq_self

@[simp] theorem opcodeOf_wordI16 (op : BitVec 10) (f : F16) : opcodeOf (wordI16 op f) = op := by
  unfold opcodeOf wordI16
  simp (disch := decide) only [BitVec.extractLsb'_append_eq_of_le, Nat.reduceSub]
  exact BitVec.extractLsb'_eq_self

@[simp] theorem opcodeOf_wordI32 (op : BitVec 10) (f : F32) : opcodeOf (wordI32 op f) = op := by
  unfold opcodeOf wordI32
  simp (disch := decide) only [BitVec.extractLsb'_append_eq_of_le, Nat.reduceSub]
  exact BitVec.extractLsb'_eq_self

@[simp] theorem fieldsR_wordR (op : BitVec 10) (f : F) : fieldsR (wordR op f) = f := by
  unfold fieldsR ctlOf wordR
  simp (disch := decide) only [BitVec.extractLsb'_append_eq_of_le, Nat.reduceSub, BitVec.extractLsb'_append_eq_right]

@[simp] theorem fieldsI16_wordI16 (op : BitVec 10) (f : F16) : fieldsI16 (wordI16 op f) = f := by
  unfold fieldsI16 ctlOf wordI16
  simp (disch := decide) only [BitVec.extractLsb'_append_eq_of_le, Nat.reduceSub, BitVec.extractLsb'_append_eq_right]

@[simp] theorem fieldsI32_wordI32 (op : BitVec 10) (f : F32) : fieldsI32 (wordI32 op f) = f := by
  unfold fieldsI32 ctlOf wordI32
  simp (disch := decide) only [BitVec.extractLsb'_append_eq_of_le, Nat.reduceSub, BitVec.extractLsb'_append_eq_right]

/-- The fields of a word are neighbours: joined again, with its opcode, they are the word. -/
theorem wordR_fieldsR {w : W64} {n : Nat} (h : (opcodeOf w).toNat = n) : wordR (BitVec.ofNat 10 n) (fieldsR w) = w := by
  rw [← h, BitVec.ofNat_toNat, BitVec.setWidth_eq]
  unfold wordR opcodeOf fieldsR ctlOf
  simp only [BitVec.extractLsb'_append_extractLsb'_eq_extractLsb']
  exact BitVec.extractLsb'_eq_self

theorem wordI16_fieldsI16 {w : W64} {n : Nat} (h : (opcodeOf w).toNat = n) : wordI16 (BitVec.ofNat 10 n) (fieldsI16 w) = w := by
  rw [← h, BitVec.ofNat_toNat, BitVec.setWidth_eq]
  unfold wordI16 opcodeOf fieldsI16 ctlOf
  simp only [BitVec.extractLsb'_append_extractLsb'_eq_extractLsb']
  exact BitVec.extractLsb'_eq_self

theorem wordI32_fieldsI32 {w : W64} {n : Nat} (h : (opcodeOf w).toNat = n) : wordI32 (BitVec.ofNat 10 n) (fieldsI32 w) = w := by
  rw [← h, BitVec.ofNat_toNat, BitVec.setWidth_eq]
  unfold wordI32 opcodeOf fieldsI32 ctlOf
  simp only [BitVec.extractLsb'_append_extractLsb'_eq_extractLsb']
  exact BitVec.extractLsb'_eq_self

/-! ### From words to instructions and back -/

theorem encode_decodeMeet (f : F32) : encode (decodeMeet f) = some (wordI32 0x1C6#10 f) := by
  unfold decodeMeet
  split
  · split <;> rfl
  · rfl

theorem decodeMeet_ne_illegal (f : F32) (w : W64) : decodeMeet f ≠ .illegal w := by
  unfold decodeMeet
  split
  · split <;> exact Instr.noConfusion
  · exact Instr.noConfusion

/-- An instruction of an assigned opcode whose word is given. -/
structure ReadFrom (w : W64) (i : Instr) : Prop where
  assigned : opcodeAssigned (opcodeOf w).toNat = true
  named    : ∀ v, i ≠ .illegal v
  word     : encode i = some w

/- The depth is that of the 171 branches of `decodeWord`. -/
set_option maxRecDepth 1000 in
/-- Each branch of the decoder: a row of 05 R143 with the fields of its form, or an opcode that is in no row. -/
theorem decodeWord_cases (w : W64) :
    (opcodeAssigned (opcodeOf w).toNat = false ∧ decodeWord w = .illegal w) ∨ ReadFrom w (decodeWord w) := by
  unfold decodeWord
  split
  case h_171 =>
    refine .inl ⟨?_, rfl⟩
    simp only [opcodeAssigned, Bool.or_eq_false_iff, Bool.and_eq_false_iff, decide_eq_false_iff_not, imp_false] at *
    omega
  all_goals
    rename_i hop
    refine .inr ⟨by rw [hop]; rfl, fun v => ?_, ?_⟩
    · simp [ite_eq_iff', decodeMeet_ne_illegal]
    · simp only [↓apply_ite encode, ↓encode_decodeMeet, encode, wordR_fieldsR hop, wordI16_fieldsI16 hop,
        wordI32_fieldsI32 hop, ite_self]

theorem encode_decodeWord (w : W64) : encode (decodeWord w) = some w := by
  rcases decodeWord_cases w with ⟨-, hill⟩ | hread
  · rw [hill]; rfl
  · exact hread.word

theorem opcodeAssigned_eq_false_iff (w : W64) : opcodeAssigned (opcodeOf w).toNat = false ↔ decodeWord w = .illegal w := by
  rcases decodeWord_cases w with ⟨hop, hill⟩ | hread
  · simp [hop, hill]
  · simp [hread.assigned, hread.named w]

/-! ### From instructions to words and back -/

section
variable {op : BitVec 10}

/-- The row of an opcode in the form R gives each word of the form its instruction. -/
theorem decodeWord_wordR {mk : F → Instr} (hrow : ∀ w, (opcodeOf w).toNat = op.toNat → decodeWord w = mk (fieldsR w)) (f : F) :
    decodeWord (wordR op f) = mk f :=
  (hrow _ (by rw [opcodeOf_wordR])).trans (by rw [fieldsR_wordR])

theorem decodeWord_wordI16 {mk : F16 → Instr} (hrow : ∀ w, (opcodeOf w).toNat = op.toNat → decodeWord w = mk (fieldsI16 w))
    (f : F16) : decodeWord (wordI16 op f) = mk f :=
  (hrow _ (by rw [opcodeOf_wordI16])).trans (by rw [fieldsI16_wordI16])

theorem decodeWord_wordI32 {mk : F32 → Instr} (hrow : ∀ w, (opcodeOf w).toNat = op.toNat → decodeWord w = mk (fieldsI32 w))
    (f : F32) : decodeWord (wordI32 op f) = mk f :=
  (hrow _ (by rw [opcodeOf_wordI32])).trans (by rw [fieldsI32_wordI32])

end

/-! The opcodes that instructions share (07 R208, 08 R216, 10 R272). -/

theorem decodeWord_vsmxm (f : F) :
    decodeWord (wordR 0x053#10 f) = if f.m.getLsbD 0 then .vsmxmWave f else .vsmxmLane f :=
  decodeWord_wordR (mk := fun f => if f.m.getLsbD 0 then .vsmxmWave f else .vsmxmLane f)
    (fun w h => by delta decodeWord; exact h ▸ rfl) f

theorem decodeWord_sqpush (f : F) :
    decodeWord (wordR 0x18D#10 f) = if f.m.getLsbD 0 then .sqpushCom f else .sqpushRes f :=
  decodeWord_wordR (mk := fun f => if f.m.getLsbD 0 then .sqpushCom f else .sqpushRes f)
    (fun w h => by delta decodeWord; exact h ▸ rfl) f

theorem decodeWord_sqpop (f : F) :
    decodeWord (wordR 0x18E#10 f) = if f.m.getLsbD 0 then .sqpopCom f else .sqpopRes f :=
  decodeWord_wordR (mk := fun f => if f.m.getLsbD 0 then .sqpopCom f else .sqpopRes f)
    (fun w h => by delta decodeWord; exact h ▸ rfl) f

theorem decodeWord_meet (f : F32) : decodeWord (wordI32 0x1C6#10 f) = decodeMeet f :=
  decodeWord_wordI32 (mk := decodeMeet) (fun w h => by delta decodeWord; exact h ▸ rfl) f

/-- A well-formed instruction has a word that decodes to it. The bits that tell instructions of one opcode apart are as their
well-formedness says; every other row is one branch of the decoder, by its form; a device's step is not well formed. -/
theorem decodeWord_of_wf (i : Instr) (h : i.wf = true) : ∃ w, encode i = some w ∧ decodeWord w = i := by
  cases i
  case illegal w =>
    have hop : opcodeAssigned (opcodeOf w).toNat = false := by simpa [Instr.wf, opcodeOf] using h
    exact ⟨w, rfl, (opcodeAssigned_eq_false_iff w).mp hop⟩
  all_goals simp only [Instr.wf, Bool.false_eq_true, Bool.and_eq_true, Bool.not_eq_true', bne_iff_ne, beq_iff_eq] at h
  case vsmxmLane f | vsmxmWave f =>
    obtain ⟨-, hbit⟩ := h
    exact ⟨_, rfl, by rw [decodeWord_vsmxm, hbit]; rfl⟩
  case sqpushRes f | sqpushCom f =>
    obtain ⟨-, hbit⟩ := h
    exact ⟨_, rfl, by rw [decodeWord_sqpush, hbit]; rfl⟩
  case sqpopRes f | sqpopCom f =>
    obtain ⟨-, hbit⟩ := h
    exact ⟨_, rfl, by rw [decodeWord_sqpop, hbit]; rfl⟩
  case meetLabel f =>
    obtain ⟨-, hbit⟩ := h
    exact ⟨_, rfl, by rw [decodeWord_meet, decodeMeet, hbit]; rfl⟩
  case meetRegister f =>
    obtain ⟨⟨-, hbit⟩, hd⟩ := h
    exact ⟨_, rfl, by rw [decodeWord_meet, decodeMeet, if_pos hbit, if_neg hd]⟩
  case meetNone f =>
    obtain ⟨⟨-, hbit⟩, hd⟩ := h
    exact ⟨_, rfl, by rw [decodeWord_meet, decodeMeet, if_pos hbit, if_pos hd]⟩
  case vaddi f | vmuli f | vandi f | vori f | vcmpi f | vmovl f | vmovh f | smovl f | smovh f | saddi f | cseg f | trap f |
      breakI f | tgrow f =>
    refine ⟨_, rfl, decodeWord_wordI16 (fun w hop => ?_) f⟩
    delta decodeWord
    exact hop ▸ rfl
  case vmovi f | smovi f | bra f | brany f | brall f | brs f | call f =>
    refine ⟨_, rfl, decodeWord_wordI32 (fun w hop => ?_) f⟩
    delta decodeWord
    exact hop ▸ rfl
  all_goals
    refine ⟨_, rfl, decodeWord_wordR (fun w hop => ?_) _⟩
    delta decodeWord
    exact hop ▸ rfl

/-! ### The bytes of a word (00 R4) -/

theorem length_bytesOfNat (n v : Nat) : (bytesOfNat n v).length = n := by
  induction n generalizing v with
  | zero => rfl
  | succ n ih => simp [bytesOfNat, ih]

theorem foldr_bytesOfNat (n v : Nat) : (bytesOfNat n v).foldr (fun b acc => b.toNat + 256 * acc) 0 = v % 256 ^ n := by
  induction n generalizing v with
  | zero => simp [bytesOfNat, Nat.mod_one]
  | succ n ih =>
    rw [bytesOfNat, List.foldr_cons, ih, Nat.pow_succ', Nat.mod_mul, BitVec.toNat_ofNat]

theorem wordOfBytes_bytesOfNat (w : W64) : wordOfBytes (bytesOfNat 8 w.toNat) = w := by
  have hlt : w.toNat < 256 ^ 8 := w.isLt
  rw [wordOfBytes, foldr_bytesOfNat, Nat.mod_eq_of_lt hlt, BitVec.ofNat_toNat, BitVec.setWidth_eq]

/-- The eight bytes of a word decode to its instruction and leave what stands behind. -/
theorem decode_bytesOfNat (w : W64) (rest : List Byte) : decode (bytesOfNat 8 w.toNat ++ rest) = .ok (decodeWord w, rest) := by
  have hlen : (bytesOfNat 8 w.toNat).length = 8 := length_bytesOfNat 8 _
  rw [decode, if_neg (by simp [hlen]), List.take_left' hlen, List.drop_left' hlen, wordOfBytes_bytesOfNat]

theorem decode_truncated {bs : List Byte} (h : bs.length < 8) : decode bs = .error .truncated := if_pos h

/-- Settles O56: by the decoder's branches for words, and by the constructors for instructions. -/
theorem decodeEncodeAgree : Obligations.DecodeEncodeAgree := by
  refine ⟨fun i rest h => ?_, encode_decodeWord, opcodeAssigned_eq_false_iff⟩
  obtain ⟨w, hw, hi⟩ := decodeWord_of_wf i h
  exact ⟨w, hw, by rw [decode_bytesOfNat, hi]⟩

/-- Settles O55: each word by evaluation. -/
theorem decodeWords : Obligations.DecodeWords := by
  refine ⟨?_, ?_, ?_, ?_, ?_, ?_, ?_, ?_, ?_, ?_, ?_, ?_, ?_, ?_, ?_, ?_, ?_, ?_, ?_, ?_, ?_, ?_, fun _ => decode_truncated⟩
  all_goals decide

end Sys2Proof
end

section
/-! The step and the instruction it runs (05 R124, 08 R214, 22 R377): what is decoded, what the moment of a step changes, and the
obligation O57. -/

namespace Sys2Proof.Machine

open Sys2Proof

/-! ### The word that a wave runs -/

theorem waveInstr_word {s : State} {id : WaveId} {w : W64} (h : s.fetchFor id (s.wave id).wordAddr = .word w) :
    s.waveInstr id = decodeWord w := by
  unfold State.waveInstr
  simp only [h]

/-- A held line answers a fetch with its word. -/
theorem fetchFor_heldLine {s : State} {id : WaveId} {b : Block} {l : Launch} {n : ILine} {va : W64} (hb : s.block? id = some b)
    (hl : s.launchOf b = some l) (hn : s.heldLine id.core l.asid l.tenant (va.toNat / 64) = some n) :
    s.fetchFor id va = .word (lineWord n.data (va.toNat % 64)) := by
  unfold State.fetchFor State.fetch
  simp only [hb, hl, hn]

/-- Bytes that decode hold the word of their instruction. -/
theorem decodeWord_lineWord {data : List Byte} {off : Nat} {i : Instr} {rest : List Byte} (h : decode (data.drop off) = .ok (i, rest)) :
    decodeWord (lineWord data off) = i := by
  unfold decode at h
  split at h
  · cases h
  · cases h
    rfl

theorem step_taken {s : State} {a : Agent} (h : s.taken = some a) : step s = exec (s.instrOf a) (s.moment a) := by
  unfold step
  rw [h]

/-! ### Packets enter the fabric (23 R393, R395) -/

theorem send_fields (s : State) (x : Sending) : ∃ po fl, s.send x = { s with ports := po, flowsSent := fl } := by
  unfold State.send State.enter
  dsimp only
  cases (s.lane (laneKey x.src.die x.src.port (if wide x.src.port then Config.choose s.tick % 70 else 0))).accept s.dclk
      { x.header with seq := spGet 0 s.flowsSent (flowOf x.header) } with
  | none => exact ⟨s.ports, s.flowsSent, rfl⟩
  | some q => exact ⟨_, _, rfl⟩

theorem sendAll_fields (s : State) (xs : List Sending) : ∃ po fl, s.sendAll xs = { s with ports := po, flowsSent := fl } := by
  unfold State.sendAll
  induction xs generalizing s with
  | nil => exact ⟨s.ports, s.flowsSent, rfl⟩
  | cons x xs ih =>
    obtain ⟨po, fl, hx⟩ := send_fields s x
    obtain ⟨po', fl', hxs⟩ := ih (s.send x)
    exact ⟨po', fl', by rw [List.foldl_cons, hxs, hx]⟩

/-! ### A wave's fetch (22 R377) -/

/-- Using a line orders the cache anew and changes no line. -/
theorem touchLine_fields (s : State) (core asid tenant line : Nat) :
    ∃ ic, s.touchLine core asid tenant line = { s with icache := ic } ∧ ∀ x, x ∈ ic ↔ x ∈ s.icache := by
  unfold State.touchLine
  split
  · exact ⟨s.icache, rfl, fun _ => Iff.rfl⟩
  · rename_i i hi
    have hmem : i ∈ s.icache := List.mem_of_find?_eq_some hi
    refine ⟨_, rfl, fun x => ?_⟩
    by_cases hx : x = i <;> simp [hx, hmem]

theorem fetched_fields (s : State) (id : WaveId) :
    ∃ ic, s.fetched id = { s.passTime with cur := id, icache := ic } ∧ ∀ x, x ∈ ic ↔ x ∈ s.icache := by
  unfold State.fetched
  dsimp only
  split
  · exact ⟨s.icache, rfl, fun _ => Iff.rfl⟩
  · obtain ⟨ic, ht, hmem⟩ := touchLine_fields { s.passTime with cur := id } id.core _ _ ((s.wave id).wordAddr.toNat / 64)
    exact ⟨ic, ht, hmem⟩

/-- Settles O57: a step runs what its agent has decoded, in a moment that fetches, passes time and sends packets. -/
theorem stepRunsDecoded : Obligations.StepRunsDecoded := by
  refine ⟨fun s id b l n i rest ht hb hl hn hd => ?_, fun s id w ht hw => ?_, fun s id => ?_, fun s i ht => step_taken ht,
    fun s k i ht => step_taken ht, fun s i => sendAll_fields _ _, fun s k i => sendAll_fields _ _, fun s ht => ?_⟩
  · rw [step_taken ht, ← decodeWord_lineWord hd, ← waveInstr_word (fetchFor_heldLine hb hl hn)]
    rfl
  · rw [step_taken ht, ← waveInstr_word hw]
    rfl
  · obtain ⟨ic, hf, hmem⟩ := fetched_fields s id
    obtain ⟨po, fl, hs⟩ := sendAll_fields (s.fetched id) ((s.fetched id).sends (s.waveInstr id))
    refine ⟨s.passTime.blocks, ic, po, fl, ?_, hmem, rfl⟩
    calc s.moment (.wave id) = { s.fetched id with ports := po, flowsSent := fl } := hs
      _ = _ := by rw [hf]; rfl
  · unfold step
    rw [ht]

end Sys2Proof.Machine
end

section
/-! Waits inside a clause and yield points (05 R127, 07 R186, 08 R229): what a wave that is held keeps, and the obligations O24 and
O33. -/

namespace Sys2Proof.Machine

open Sys2Proof

/-! ### An instruction held in a wait of its own -/

/-- A wave whose instruction has issued and waits: its flag is one up. -/
def Ctx.waiting (c : Ctx) (sp : Spec) (wt : Wait) (w : Wave) : Wave :=
  { ((c.issued sp w).flagUp sp.ctl.sig.toNat) with wait := some wt }

theorem await_eq (s : State) (c : Ctx) (sp : Spec) (wt : Wait) : s.await c sp wt = (s.modWave c.id (c.waiting sp wt)).leave c.id := by
  unfold State.await State.hang
  rw [issue_eq, modWave_modWave, modWave_modWave]
  rfl

/-- Waiting changes the flag, the wait, results in flight and the Trivet alone. -/
theorem waiting_fields (c : Ctx) (sp : Spec) (wt : Wait) (w : Wave) : c.waiting sp wt w = { w with
    inflight := (c.issued sp w).inflight, trivet := (c.issued sp w).trivet, trivSet := (c.issued sp w).trivSet
    k := (w.flagUp sp.ctl.sig.toNat).k, wait := some wt } := by
  unfold Ctx.waiting Wave.flagUp Ctx.issued
  cases sp.held <;> split <;> rfl

/-- What a held wave keeps: its program counters and registers; its flag is one up and it stands in no slot. -/
structure Held (s t : State) (wt : Wait) (sig : Nat) : Prop where
  frame : OnlyWave s t
  wait  : (t.wave s.cur).wait = some wt
  slot  : s.cur ∉ t.running
  pcs   : ∀ l, (t.wave s.cur).pcAt l = (s.wave s.cur).pcAt l
  regs  : ∀ r l, (t.wave s.cur).regGet r l = (s.wave s.cur).regGet r l
  flag  : ∀ n, n < 12 → (t.wave s.cur).kget n = (s.wave s.cur).kget n + if sig = n then 1 else 0

theorem held_await {s : State} {c : Ctx} {w : Wave} (h : Issuing s c w) (sp : Spec) (wt : Wait) :
    Held s (s.await c sp wt) wt sp.ctl.sig.toNat := by
  have ht : (s.await c sp wt).wave s.cur = c.waiting sp wt w := by
    rw [await_eq, h.id, wave_leave]
    exact wave_modWave_self h.wave _
  refine ⟨?frame, ?wait, ?slot, fun l => ?pcs, fun r l => ?regs, fun n hn => ?flag⟩
  case frame =>
    rw [await_eq, h.id]
    exact (onlyWave_modWave s _).trans (onlyWave_leave _)
  case slot =>
    rw [await_eq, h.id]
    exact not_mem_running_leave _ _
  all_goals rw [ht, waiting_fields]
  case pcs => rw [h.state]; rfl
  case regs => rw [h.state]; cases r <;> rfl
  case flag => rw [h.state]; exact kget_flagUp w hn

/-- An instruction that waits where its wait is not over. -/
theorem holdResult_of_awaitOr {i : Instr} {sp : Spec} {own : State → Ctx → List Fail} {wt : Ctx → Wait}
    {resume : Ctx → Wait → State → State} {idle : Ctx → State → State} {done : Ctx → State → State}
    (hexec : ∀ s, exec i s = .next (run sp (own s) resume
      (fun c s => if c.part = 0 then idle c s else s.awaitOr c sp (wt c) (done c)) s)) : HoldResult i sp own wt := by
  intro s c hc hp hwait
  obtain ⟨w, hw⟩ := issuing_of_clear hc
  obtain ⟨hframe, hwt, hslot, hpcs, hregs, hflag⟩ := held_await hw sp (wt c)
  refine ⟨s.await c sp (wt c), ?_, hframe, hwt, hslot, hpcs, hregs, hflag⟩
  rw [hexec, run_clear hc, if_neg hp, State.awaitOr, if_neg (by simp [hwait])]

/-- Settles O24: each is an instruction that waits where its wait is not over. -/
theorem waitsHoldTheWave : Obligations.WaitsHoldTheWave := fun _ =>
  ⟨holdResult_of_awaitOr fun _ => rfl, holdResult_of_awaitOr fun _ => rfl, holdResult_of_awaitOr fun _ => rfl,
    holdResult_of_awaitOr fun _ => rfl⟩

/-! ### YIELD (08 R229) -/

/-- Completion keeps a mark of a yield point: it stays due while the clause goes on, and is passed where the clause has ended. -/
theorem yield_finish {s : State} {w : Wave} (hw : s.wave? s.cur = some w) (hin : w.inClause = true) (hdue : w.yieldDue = true)
    (go : Nat → Option W64) :
    if ((s.finish s.cur go).wave s.cur).inClause = true then ((s.finish s.cur go).wave s.cur).yieldDue = true
      else ((s.finish s.cur go).wave s.cur).yielding = true := by
  rcases wave_finish hw go with h | h <;> rw [h]
  · rw [if_pos (show (w.complete go).inClause = true from hin)]
    exact hdue
  · rw [if_neg (show ¬ (w.complete go).ended.inClause = true from Bool.false_ne_true)]
    change (w.yielding || w.yieldDue || headerYield w.clause.header) = true
    simp [hdue]

/-- A wave that yields in an unsliced launch: its clause ends in a yield point. -/
def Ctx.yields (c : Ctx) (sp : Spec) (w : Wave) : Wave := { (c.issued sp w) with yieldDue := true }

theorem quick_yields {s : State} {c : Ctx} {w : Wave} (h : Issuing s c w) (sp : Spec) :
    (s.quick c sp fun s => s.modWave c.id fun w => { w with yieldDue := true }) =
      (s.modWave s.cur (c.yields sp)).finish s.cur fun _ => none := by
  unfold State.quick State.advance
  rw [issue_eq, h.id]
  exact congrArg (State.finish · s.cur fun _ => none) (modWave_modWave s s.cur (c.issued sp) _)

theorem keepsControl_yields (c : Ctx) (sp : Spec) {w : Wave} (hw : w.wait = none) : KeepsControl w (c.yields sp w) :=
  (keepsControl_issued c sp hw).trans ⟨rfl, rfl, rfl, rfl, rfl⟩

/-- The wave of an instruction stands in a clause. -/
theorem inClause_of_ctx {s : State} {ctl : Ctl} {c : Ctx} (h : s.ctx ctl = some c) {w : Wave} (hw : s.wave? s.cur = some w) :
    w.inClause = true := by
  unfold State.ctx at h
  rw [hw] at h
  split at h
  · rename_i b v _ hv
    cases hv
    split at h
    · cases h
    · simp only at h
      split at h
      · cases h
      · rename_i hin
        simp only [Bool.or_eq_true, not_or, Bool.not_eq_true', Bool.not_eq_false] at hin
        obtain ⟨⟨hclause, -⟩, -⟩ := hin
        exact hclause
  · cases h

section
variable {f : F} {s : State} {c : Ctx} (hc : s.clear (bareSpec f false) Ctx.noHandler = some c) (hp : c.part ≠ 0)
include hc hp

theorem yield_unsliced (hslice : c.l.record.slice = 0) :
    ∃ t, exec (.yield f) s = .next t ∧ MoveOutcome s t c (fun _ => none) (fun _ => none) ∧
      (if (t.wave s.cur).inClause = true then (t.wave s.cur).yieldDue = true else (t.wave s.cur).yielding = true) := by
  obtain ⟨hctx, hwait, -⟩ := clear_spec hc
  obtain ⟨w, hw⟩ := issuing_of_clear hc
  have hin : (c.yields (bareSpec f false) w).inClause = true := by
    unfold Wave.inClause
    rw [(keepsControl_yields c _ hw.wait).clause]
    exact inClause_of_ctx hctx hw.wave
  have hexec : exec (.yield f) s = .next ((s.modWave s.cur (c.yields (bareSpec f false))).finish s.cur fun _ => none) := by
    rw [show exec (.yield f) s = .next (run (bareSpec f false) Ctx.noHandler noResume _ s) from rfl, run_clear hc, if_neg hp, if_pos hslice,
      quick_yields hw]
  refine ⟨_, hexec, ?_, yield_finish (s := s.modWave s.cur _) (wave?_modWave_self hw.wave _) hin rfl _⟩
  refine move_outcome hctx hwait _ (fun _ => none) _ (fun _ => keepsControl_yields c _) fun w l _ => ?_
  unfold Ctx.yields
  rw [issued_fields]
  simp [Wave.meetAt]

theorem yield_sliced (hslice : c.l.record.slice ≠ 0)
    (hother : ∃ e ∈ c.b.waves, e.1 ≠ s.cur.wave ∧ e.2.live ≠ 0 ∧ ∀ g, e.2.wait ≠ some (.yield g)) :
    ∃ t, exec (.yield f) s = .next t ∧ Held s t (.yield f.ctl.sig.toNat) f.ctl.sig.toNat := by
  obtain ⟨w, hw⟩ := issuing_of_clear hc
  obtain ⟨e, he, hne, hlive, hno⟩ := hother
  have hblock : (s.await c (bareSpec f false) (.yield f.ctl.sig.toNat)).block? s.cur =
      some { c.b with waves := spMod c.b.waves s.cur.wave (c.waiting (bareSpec f false) (.yield f.ctl.sig.toNat)) } := by
    rw [await_eq, hw.id, block?_leave]
    exact block?_modWave_self hw.block _
  have hwaits : ∃ x ∈ Block.liveWaves { c.b with
      waves := spMod c.b.waves s.cur.wave (c.waiting (bareSpec f false) (.yield f.ctl.sig.toNat)) }, x.2.yieldSig = none ∨ x.2.reissue ≠ [] := by
    refine ⟨e, ?_, .inl ?_⟩
    · exact List.mem_filter.mpr ⟨List.mem_map.mpr ⟨e, he, if_neg hne⟩, by simpa using hlive⟩
    · unfold Wave.yieldSig
      split
      · rename_i g hg
        exact absurd hg (hno g)
      · rfl
  refine ⟨s.await c (bareSpec f false) (.yield f.ctl.sig.toNat), ?_, held_await hw (bareSpec f false) _⟩
  rw [show exec (.yield f) s = .next (run (bareSpec f false) Ctx.noHandler noResume _ s) from rfl, run_clear hc, if_neg hp,
    if_neg hslice, hw.id, settleSlice_waits hblock hwaits]

end

/-- Settles O33: without a slice YIELD completes with its mark; in a slice it waits for the other waves. -/
theorem yieldPoints : Obligations.YieldPoints := by
  intro f s c hc hp
  refine ⟨yield_unsliced hc hp, fun hslice hother => ?_⟩
  obtain ⟨t, hexec, hheld⟩ := yield_sliced hc hp hslice hother
  exact ⟨t, hexec, hheld.frame, hheld.wait, hheld.slot, hheld.pcs, hheld.flag⟩

end Sys2Proof.Machine
end

section
/-! Exceptions of a wave's own instruction (08 R232, R237), the encodings that the machine does not define (05 R129, R138, R144), and
the obligation O37. -/

namespace Sys2Proof.Machine

open Sys2Proof

/-! ### A cause is raised -/

section
variable {s : State} {id : WaveId} {b : Block} {l : Launch} {w : Wave} {r : CauseRec}

theorem raise_saved (hw : s.wave? id = some w) {v : Saved} (hsaved : w.saved = some v) :
    s.raise id r = (s.setCauses id (causeBit r.cause ||| r.also)).faultBlock id (lowBit v.entry) := by
  have hwave : (s.setCauses id (causeBit r.cause ||| r.also)).wave id = w.caused (causeBit r.cause ||| r.also) := wave_modWave_self hw _
  unfold State.raise
  dsimp only
  rw [hwave, show (w.caused (causeBit r.cause ||| r.also)).saved = some v from hsaved]

theorem raise_unsaved (hw : s.wave? id = some w) (hsaved : w.saved = none) :
    s.raise id r = (s.setCauses id (causeBit r.cause ||| r.also)).deliver id r := by
  have hwave : (s.setCauses id (causeBit r.cause ||| r.also)).wave id = w.caused (causeBit r.cause ||| r.also) := wave_modWave_self hw _
  unfold State.raise
  dsimp only
  rw [hwave, show (w.caused (causeBit r.cause ||| r.also)).saved = none from hsaved]

/-- A wave whose launch has a handler takes its exception there. -/
theorem raise_handler (hb : s.block? id = some b) (hl : s.launchOf b = some l) (hw : s.wave? id = some w) (hwait : w.wait = none)
    (hsaved : w.saved = none) (hentry : l.record.handler ≠ 0) :
    s.raise id r = s.atHandler id (causeBit r.cause ||| r.also) l.record.handler r := by
  have hblock := block?_modWave_self hb (Wave.caused (causeBit r.cause ||| r.also))
  calc s.raise id r = (s.setCauses id (causeBit r.cause ||| r.also)).deliver id r := raise_unsaved hw hsaved
    _ = (s.setCauses id (causeBit r.cause ||| r.also)).enterHandler id l.record.handler r := deliver_handler hblock hl hentry r
    _ = s.atHandler id (causeBit r.cause ||| r.also) l.record.handler r := enterHandler_caused hw hwait _ _ r

/-- Without a handler an exception terminates the block with the lowest bit of TCAUSE. -/
theorem raise_no_handler (hb : s.block? id = some b) (hl : s.launchOf b = some l) (hw : s.wave? id = some w) (hsaved : w.saved = none)
    (hentry : l.record.handler = 0) : s.raise id r =
      (s.setCauses id (causeBit r.cause ||| r.also)).faultBlock id (lowBit (w.tcause ||| (causeBit r.cause ||| r.also))) := by
  have hwave : (s.setCauses id (causeBit r.cause ||| r.also)).wave id = w.caused (causeBit r.cause ||| r.also) := wave_modWave_self hw _
  have hblock : (s.setCauses id (causeBit r.cause ||| r.also)).block? id = _ :=
    block?_modWave_self hb (Wave.caused (causeBit r.cause ||| r.also))
  have hlaunch : ∀ ws, (s.setCauses id (causeBit r.cause ||| r.also)).launchOf { b with waves := ws } = some l := fun _ => hl
  rw [raise_unsaved hw hsaved]
  unfold State.deliver
  rw [hblock]
  dsimp only
  rw [hlaunch, hwave]
  exact if_pos hentry

/-- The end of a block in whose wave causes have been set is its end. -/
theorem blockFaulted_setCauses (hb : s.block? id = some b) (bits : W64) (cause : Nat) :
    BlockFaulted id s ((s.setCauses id bits).faultBlock id cause) cause := by
  have hblock : (s.setCauses id bits).block? id = _ := block?_modWave_self hb (Wave.caused bits)
  obtain ⟨⟨x, b', hx, hb', hfaulted, hphase, hwaves⟩, hslots, hmem⟩ := blockFaulted_faultBlock hblock cause
  cases hblock.symm.trans hx
  exact ⟨⟨b, b', hb, hb', hfaulted, hphase, hwaves⟩, hslots, hmem⟩

end

/-- An instruction that a check stops takes its exception: in the handler, or by the end of its block. -/
theorem raises_of_raise {i : Instr} {s : State} {ctl : Ctl} {c : Ctx} {r : CauseRec} (hc : s.ctx ctl = some c) (hwait : c.w.wait = none)
    (hexec : exec i s = .next (s.raise c.id r)) : Raises i s c r := by
  obtain ⟨hid, w, hw, hcw, -, hb, hl, -⟩ := ctx_spec hc
  rw [hid] at hexec
  have hwwait : w.wait = none := by rw [hcw] at hwait; exact hwait
  have hsaved : c.w.saved = w.saved := by rw [hcw]
  have htcause : c.w.tcause = w.tcause := by rw [hcw]
  refine ⟨_, hexec, fun hnone hentry => ?_, fun hnone hentry => ?_, fun v hv => ?_⟩
  · rw [raise_handler hb hl hw hwwait (hsaved.symm.trans hnone) hentry]
    exact handlerEntry_atHandler hw r _
  · rw [raise_no_handler hb hl hw (hsaved.symm.trans hnone) hentry, htcause]
    exact blockFaulted_setCauses hb _ _
  · rw [raise_saved hw (hsaved.symm.trans hv)]
    exact blockFaulted_setCauses hb _ _

/-! ### The check of an encoding (05 R138 step 1) -/

/-- An instruction whose encoding has a cause raises it, held at issue or not. -/
theorem run_encodingCause {s : State} {sp : Spec} {c : Ctx} {cause : Nat} (hc : s.ctx sp.ctl = some c) (hwait : c.w.wait = none)
    (hcause : c.encodingCause sp = some cause) (own : Ctx → List Fail) (resume : Ctx → Wait → State → State) (body : Ctx → State → State) :
    run sp own resume body s =
      s.raise c.id (c.causeRec cause c.active (if cause = cILLEGAL_CLAUSE then c.w.clause.base else 0) 0) := by
  have hcheck : run.check sp own body c s =
      s.raise c.id (c.causeRec cause c.active (if cause = cILLEGAL_CLAUSE then c.w.clause.base else 0) 0) := by
    unfold run.check
    rw [hcause]
  have hgo : run.go sp own body c s = run.check sp own body c s := by
    unfold run.go
    split
    · exact if_neg (by simp [hcause])
    · rfl
  unfold run
  rw [hc]
  dsimp only
  rw [hwait]
  exact hgo.trans hcheck

/-- The class that the check of an unassigned code compares with its clause's (05 R129, R144). -/
theorem encodingCause_illegalSpec {w : W64} {s : State} {c : Ctx} (hc : s.ctx (ctlOf w) = some c) :
    c.encodingCause (illegalSpec w s) =
      some (if opcodeClass (opcodeOf w).toNat = 0 ∨ opcodeClass (opcodeOf w).toNat = headerClass c.w.clause.header then cILLEGAL_OP
        else cILLEGAL_CLAUSE) := by
  obtain ⟨-, v, hv, hcw, -⟩ := ctx_spec hc
  have hclause : (s.wave s.cur).clause = c.w.clause := by rw [wave_eq_of_wave? hv, hcw]
  unfold Ctx.encodingCause illegalSpec
  rw [hclause]
  by_cases hzero : opcodeClass (opcodeOf w).toNat = 0
  · simp [hzero]
  · by_cases hsame : opcodeClass (opcodeOf w).toNat = headerClass c.w.clause.header <;> simp [hzero, hsame]

theorem exec_illegal {w : W64} {s : State} {c : Ctx} (hc : s.ctx (ctlOf w) = some c) (hwait : c.w.wait = none) {cause : Nat}
    (hcause : c.encodingCause (illegalSpec w s) = some cause) : exec (.illegal w) s =
      .next (s.raise c.id (c.causeRec cause c.active (if cause = cILLEGAL_CLAUSE then c.w.clause.base else 0) 0)) :=
  congrArg Host.Outcome.next (run_encodingCause (sp := illegalSpec w s) hc hwait hcause _ _ _)

/-- The headers that R129 does not allow. -/
theorem headerIllegal_iff (h : W64) (priv : Bool) : headerIllegal h priv = true ↔
    h = 0 ∨ headerClass h = 0 ∨ 9 ≤ headerClass h ∨ h.extractLsb' 42 2 ≠ 0 ∨ h.extractLsb' 0 40 ≠ 0 ∨ (headerClass h = 8 ∧ priv = false) := by
  unfold headerIllegal
  simp only [Bool.or_eq_true, Bool.and_eq_true, beq_iff_eq, bne_iff_ne, decide_eq_true_eq, Bool.not_eq_true', or_assoc]

/-- Settles O37: an unassigned code fails the first check of every instruction, by its class. -/
theorem encodingCauses : Obligations.EncodingCauses := by
  refine ⟨fun w s c hc hwait => ⟨fun hclass => ?_, fun hzero hother => ?_⟩, headerIllegal_iff⟩
  · have hcause := (encodingCause_illegalSpec hc).trans (congrArg some (if_pos hclass))
    exact raises_of_raise hc hwait (exec_illegal hc hwait hcause)
  · have hcause := (encodingCause_illegalSpec hc).trans (congrArg some (if_neg (not_or.mpr ⟨hzero, hother⟩)))
    exact raises_of_raise hc hwait (exec_illegal hc hwait hcause)

end Sys2Proof.Machine
end

section
/-! The shapes of an instruction of the VEC class (06 R151-R153): results of the lanes that set no NSTAT bit, predicates, scalars,
and waits that are over at issue. -/

namespace Sys2Proof.Machine

open Sys2Proof

/-- A fixed-latency instruction need have its outcome only where its encoding is defined. -/
theorem fixedResult_of_enc {i : Instr} {sp : Spec} {own : Ctx → List Fail} {ws : Ctx → List RegWrite} {flags : Ctx → W32}
    (h : sp.enc = true → FixedResult i sp own ws flags) : FixedResult i sp own ws flags :=
  fun s c hc => h (enc_of_clear hc) s c hc

theorem laneWrites_congr {c : Ctx} {v v' : Nat → W32} (h : ∀ l, l < 32 → v l = v' l) (d : BitVec 10) :
    c.laneWrites d v = c.laneWrites d v' := by
  refine List.filterMap_congr fun l hl => ?_
  rw [h l (mem_lanes32.mp (List.mem_of_mem_filter hl))]

theorem gatherFlags_eq_zero {m : BitVec 32} {g : Nat → W32} (h : ∀ l, l < 32 → g l = 0) : gatherFlags m g = 0 := by
  rw [← gatherFlags_zero m]
  refine List.foldl_ext _ _ _ fun a l hl => ?_
  rw [h l (mem_lanes32.mp (List.mem_of_mem_filter hl))]

/-- An operation of the lanes whose values set no NSTAT bit, with checks of its own. -/
theorem statusFree_of {i : Instr} {sp : Spec} {d : BitVec 10} {own : Ctx → List Fail} {val : Ctx → Nat → Fl W32} {val' : Ctx → Nat → W32}
    (hexec : ∀ s, exec i s = .next (laneOp sp d own val s)) (hval : ∀ c l, l < 32 → val c l = ⟨val' c l, 0⟩) :
    FixedResult i sp own (fun c => c.laneWrites d (val' c)) fun _ => 0 := by
  have hlane : LaneResult i sp d own val := laneResult_of hexec fun _ _ => rfl
  have hwords : ∀ c : Ctx, c.laneWrites d (fun l => (val c l).val) = c.laneWrites d (val' c) := fun c =>
    laneWrites_congr (fun l hl => congrArg Fl.val (hval c l hl)) d
  have hflags : ∀ c : Ctx, gatherFlags c.part (fun l => (val c l).flags) = 0 := fun c =>
    gatherFlags_eq_zero fun l hl => congrArg Fl.flags (hval c l hl)
  intro s c hc
  dsimp only
  rw [← hwords c, ← hflags c]
  exact hlane s c hc

theorem predWrites_word (c : Ctx) (d : BitVec 10) (v : Nat → Bool) : ∀ x ∈ c.predWrites d v, x.reg.word x.lane := by
  intro x hx
  obtain ⟨l, hl, rfl⟩ := List.mem_map.mp hx
  exact mem_lanes32.mp (List.mem_of_mem_filter hl)

/-- A compare or a predicate instruction. -/
theorem predResult_of {i : Instr} {sp : Spec} {d : BitVec 10} {val val' : Ctx → Nat → Bool}
    (hexec : ∀ s, exec i s = .next (predOp sp d val s)) (hval : ∀ c l, val c l = val' c l) : PredResult i sp d val' := by
  obtain rfl : val = val' := funext fun c => funext (hval c)
  exact fixedResult_of (resume := noResume) hexec (fun _ _ _ => rfl) fun c => predWrites_word c d _

/-- A fixed-latency instruction of the scalar class. -/
theorem scalarResult_of {i : Instr} {sp : Spec} {n : Nat} {own : Ctx → List Fail} {val val' : Ctx → W64}
    (hexec : ∀ s, exec i s = .next (scalarOp sp n own val s)) (hval : ∀ c, val c = val' c) : ScalarResult i sp n own val' := by
  obtain rfl : val = val' := funext hval
  exact fixedResult_of (resume := noResume) hexec (fun _ _ _ => rfl) fun c => scalarWrite_word c n _

/-- An instruction with a wait of its own, where that wait is over at issue. -/
theorem actResult_of_awaitOr {i : Instr} {sp : Spec} {own : State → Ctx → List Fail} {when : State → Ctx → Prop}
    {eff : State → Ctx → State} {dst : State → Ctx → Option (Nat × W64)} {wt : Ctx → Wait} {resume : Ctx → Wait → State → State} {done : Ctx → State → State}
    (hexec : ∀ s, exec i s = .next (run sp (own s) resume
      (fun c s => if c.part = 0 then s.quick c sp id else s.awaitOr c sp (wt c) (done c)) s))
    (hover : ∀ s c w, Issuing s c w → when s c → s.waitDone c.id c.b c.w (wt c) = true)
    (hact : ∀ s c w, Issuing s c w → when s c → DoneOutcome s (s.quick c sp (done c)) c (eff s c) (dst s c) sp.ctl.sig.toNat 0) :
    ActResult i sp own when eff dst := by
  refine actResult_of_body (fun s c hc => (hexec s).trans (congrArg Host.Outcome.next (run_clear hc _ _)))
    (fun s c w hw _ hp hwhen => ?_) fun s c hp => if_pos hp
  rw [if_neg hp, State.awaitOr, if_pos (hover s c w hw hwhen)]
  exact hact s c w hw hwhen

end Sys2Proof.Machine
end

section
/-! Integer arithmetic of the lanes (06 R154, R155): the obligations O1 and O2. -/

namespace Sys2Proof.Machine

open Sys2Proof

/-! ### Integer types (06 R154) -/

theorem not_float_of_int {t : Nat} (h : isIntType t = true) : isFloatType t = false := by
  simp only [isIntType, Bool.or_eq_true, beq_iff_eq] at h
  obtain rfl | rfl := h <;> rfl

theorem constType_int {t : Nat} (h : isIntType t = true) : constType t = 0 := if_neg (by simp [not_float_of_int h])

/-- The saturation bit of a modifier that VADD and VSUB define. -/
theorem modHigh_eq_one_iff {m : BitVec 6} (h : modHigh m < 2) : modHigh m = 1 ↔ m.getLsbD 3 = true := by
  unfold modHigh at h ⊢
  rw [BitVec.getLsbD, Nat.testBit_eq_decide_div_mod_eq, decide_eq_true_eq]
  omega

/-- The magnitude of a word, wrapped: that of the smallest value is itself (06 R154). -/
theorem ofInt_natAbs (a : W32) : wrapInt 32 (a.toInt.natAbs : Int) = if a.msb then 0 - a else a := by
  unfold wrapInt
  have hlt := a.isLt
  cases hmsb : a.msb
  · rw [BitVec.toInt_eq_msb_cond, hmsb, if_neg (by decide), Int.natAbs_natCast, BitVec.ofInt_natCast, if_neg (by decide), BitVec.ofNat_toNat,
      BitVec.setWidth_eq]
  · have habs : a.toInt.natAbs = 2 ^ 32 - a.toNat := by rw [BitVec.toInt_eq_msb_cond, hmsb, if_pos rfl]; omega
    rw [habs, if_pos rfl, BitVec.ofInt_natCast]
    apply BitVec.eq_of_toNat_eq
    rw [BitVec.toNat_ofNat, BitVec.toNat_sub]
    rfl

section
variable {f : F} (hf : isIntType (modType f.m) = true)
include hf

theorem addSubVal_int (henc : addSubEnc f.m = true) (sub : Bool) (c : Ctx) (l : Nat) : addSubVal f sub c l =
    ⟨let x := if sub then intVal (modType f.m) 32 (c.lane f.a l 0) - intVal (modType f.m) 32 (c.lane f.b l 0)
        else intVal (modType f.m) 32 (c.lane f.a l 0) + intVal (modType f.m) 32 (c.lane f.b l 0)
      if f.m.getLsbD 3 then clampInt (modType f.m) x else BitVec.ofInt 32 x, 0⟩ := by
  have hhigh : modHigh f.m < 2 := by simpa [addSubEnc, hf, not_float_of_int hf] using henc
  unfold addSubVal wrapInt
  simp only [constType_int hf, not_float_of_int hf, Bool.false_eq_true, if_false, modHigh_eq_one_iff hhigh]

theorem vmulVal_int (c : Ctx) (l : Nat) : vmulVal f c l = ⟨c.lane f.a l 0 * c.lane f.b l 0, 0⟩ := by
  unfold vmulVal
  simp only [constType_int hf, not_float_of_int hf, Bool.false_eq_true, if_false]

theorem minMaxVal_int (wantMax : Bool) (c : Ctx) (l : Nat) : minMaxVal f wantMax c l =
    let a := c.lane f.a l 0
    let b := c.lane f.b l 0
    if wantMax then (if intVal (modType f.m) 32 a < intVal (modType f.m) 32 b then b else a)
    else (if intVal (modType f.m) 32 b < intVal (modType f.m) 32 a then b else a) := by
  unfold minMaxVal minMaxOf
  simp only [constType_int hf, not_float_of_int hf, Bool.false_eq_true, if_false]

theorem vabsVal_int (c : Ctx) (l : Nat) : vabsVal f c l = if (c.lane f.a l 0).msb then 0 - c.lane f.a l 0 else c.lane f.a l 0 := by
  unfold vabsVal
  simp only [constType_int hf, not_float_of_int hf, Bool.false_eq_true, if_false]
  exact ofInt_natAbs _

theorem vnegVal_int (c : Ctx) (l : Nat) : vnegVal f c l = 0 - c.lane f.a l 0 := by
  unfold vnegVal
  simp only [constType_int hf, not_float_of_int hf, Bool.false_eq_true, if_false]

/-- A latency that an integer type selects. -/
theorem latency_int (n m : Nat) : (if isFloatType (modType f.m) = true then n else m) = m := if_neg (by simp [not_float_of_int hf])

end

/-- VSHLADD scales by a power of two (06 R154). -/
theorem shl_eq_mul (a : W32) (n : Nat) : a <<< n = a * BitVec.ofNat 32 (2 ^ n) := by
  apply BitVec.eq_of_toNat_eq
  simp [Nat.shiftLeft_eq]

/-- The instruction's own part of a defined encoding. -/
theorem enc_vec3 {f : F} {e : Bool} {lat : Nat} (h : (vec3 f e lat).enc = true) : e = true := by
  simp only [vec3, Bool.and_eq_true] at h
  obtain ⟨⟨⟨he, -⟩, -⟩, -⟩ := h
  exact he

/-- Settles O1: in an integer type each operation is its exact value, wrapped or clamped, at the latency of its type. -/
theorem laneIntegerArithmetic : Obligations.LaneIntegerArithmetic := by
  refine ⟨fun f hf => ?types, fun f => ⟨?vaddi, ?vmuli⟩, fun f => ?vshladd⟩
  case types =>
    have hlat := latency_int hf
    refine ⟨?vadd, ?vsub, ?vmul, ?vmulhi, ?vmad, ?vmin, ?vmax, ?vabs, ?vneg⟩
    case vadd =>
      exact fixedResult_of_enc fun henc => statusFree_of (fun s => by rw [← hlat 6 4]; rfl)
        fun c l _ => addSubVal_int hf (enc_vec3 henc) false c l
    case vsub =>
      exact fixedResult_of_enc fun henc => statusFree_of (fun s => by rw [← hlat 6 4]; rfl)
        fun c l _ => addSubVal_int hf (enc_vec3 henc) true c l
    case vmul => exact statusFree_of (fun _ => rfl) fun c l _ => vmulVal_int hf c l
    case vmulhi => exact pureResult_of (fun _ => rfl) fun _ _ => rfl
    case vmad => exact pureResult_of (fun _ => rfl) fun _ _ => rfl
    case vmin => exact pureResult_of (fun s => by rw [← hlat 6 4]; rfl) fun c l => minMaxVal_int hf false c l
    case vmax => exact pureResult_of (fun s => by rw [← hlat 6 4]; rfl) fun c l => minMaxVal_int hf true c l
    case vabs => exact pureResult_of (fun s => by rw [← hlat 6 4]; rfl) fun c l => vabsVal_int hf c l
    case vneg => exact pureResult_of (fun s => by rw [← hlat 6 4]; rfl) fun c l => vnegVal_int hf c l
  case vaddi => exact pureResult_of (fun _ => rfl) fun _ _ => rfl
  case vmuli => exact pureResult_of (fun _ => rfl) fun _ _ => rfl
  case vshladd => exact pureResult_of (fun _ => rfl) fun c l => congrArg (· + _) (shl_eq_mul (c.lane f.a l 0) (modHigh f.m))

/-! ### VDIV and VREM (06 R155) -/

theorem not_f32_of_int {t : Nat} (h : isIntType t = true) : t ≠ 2 := by
  rintro rfl
  exact absurd h (by decide)

/-- A latency that the type f32 does not select. -/
theorem latency_not_f32 {t : Nat} (h : isIntType t = true) (n m : Nat) : (if t = 2 then n else m) = m := if_neg (not_f32_of_int h)

theorem vdivVal_int {f : F} (hf : isIntType (modType f.m) = true) (c : Ctx) (l : Nat) : vdivVal f c l =
    ⟨BitVec.ofInt 32 (Int.tdiv (intVal (modType f.m) 32 (c.lane f.a l 0)) (intVal (modType f.m) 32 (c.lane f.b l 0))), 0⟩ := by
  unfold vdivVal
  simp only [constType_int hf, if_neg (not_f32_of_int hf)]
  rfl

theorem remInt_eq (a b : Int) : remInt a b = a - b * Int.tdiv a b := Int.tmod_def a b

/-- Settles O2: the quotient is truncated, and the remainder is what it leaves of A. -/
theorem laneIntegerDivision : Obligations.LaneIntegerDivision := by
  refine fun f hf => ⟨?vdiv, ?vrem⟩
  case vdiv => exact statusFree_of (fun s => by rw [← latency_not_f32 hf 24 40]; rfl) fun c l _ => vdivVal_int hf c l
  case vrem =>
    exact statusFree_of (val := pureLane (vremVal f)) (fun _ => rfl) fun _ _ _ =>
      congrArg (Fl.mk · 0) (congrArg (BitVec.ofInt 32) (remInt_eq _ _))

end Sys2Proof.Machine
end

section
/-! Shifts and counts of a word of any width (06 R156, R179), and the obligation O3. -/

namespace Sys2Proof.Machine

open Sys2Proof

section
variable {w : Nat} (a : BitVec w) (n : Nat)

/-- A shift to the left by any count is multiplication by a power of two. -/
theorem shlWord_eq : shlWord a n = BitVec.ofNat w (a.toNat * 2 ^ n) := by
  apply BitVec.eq_of_toNat_eq
  unfold shlWord
  split
  · rename_i hn
    have hdvd : 2 ^ w ∣ a.toNat * 2 ^ n := (pow_dvd_pow 2 hn).mul_left _
    simp [Nat.mod_eq_zero_of_dvd hdvd]
  · simp [Nat.shiftLeft_eq]

/-- A logical shift to the right by any count is division by a power of two. -/
theorem shrWord_eq : shrWord a n = BitVec.ofNat w (a.toNat / 2 ^ n) := by
  have hlt : a.toNat / 2 ^ n < 2 ^ w := Nat.lt_of_le_of_lt (Nat.div_le_self _ _) a.isLt
  apply BitVec.eq_of_toNat_eq
  rw [BitVec.toNat_ofNat, Nat.mod_eq_of_lt hlt]
  unfold shrWord
  split
  · rename_i hn
    exact (Nat.div_eq_of_lt (Nat.lt_of_lt_of_le a.isLt (Nat.pow_le_pow_right (by decide) hn))).symm
  · rw [BitVec.toNat_ushiftRight, Nat.shiftRight_eq_div_pow]

/-- An arithmetic shift to the right by any count is division by a power of two, rounded down. -/
theorem sarWord_eq : sarWord a n = BitVec.ofInt w (a.toInt / 2 ^ n) := by
  have hself : a.sshiftRight (min n w) = a.sshiftRight n := by
    apply BitVec.eq_of_getLsbD_eq
    intro i hi
    rcases Nat.le_total n w with h | h
    · rw [Nat.min_eq_left h]
    · rw [Nat.min_eq_right h, BitVec.getLsbD_sshiftRight, BitVec.getLsbD_sshiftRight, if_neg (by omega), if_neg (by omega)]
  unfold sarWord
  rw [hself, BitVec.sshiftRight, Int.shiftRight_eq_div_pow, Nat.cast_pow, Nat.cast_ofNat]

theorem onesOf_eq : onesOf a = (List.range w).countP fun i => a.getLsbD i := by
  have hfold : ∀ (l : List Nat) k, l.foldl (fun n i => if a.getLsbD i then n + 1 else n) k = k + l.countP fun i => a.getLsbD i := by
    intro l
    induction l with
    | nil => intro k; rfl
    | cons i l ih =>
      intro k
      rw [List.foldl_cons, ih, List.countP_cons]
      cases a.getLsbD i
      · rfl
      · exact Nat.add_right_comm k 1 _
  unfold onesOf
  rw [hfold, Nat.zero_add]

/-- The leading zeros of a word end at its highest set bit. -/
theorem leadZeros_eq : leadZeros a = ((List.range w).find? fun i => a.getLsbD (w - 1 - i)).getD w := by
  unfold leadZeros
  split
  · rename_i h0
    have hz : a = 0#w := BitVec.eq_of_toNat_eq (by simpa using h0)
    have hnone : (List.range w).find? (fun i => a.getLsbD (w - 1 - i)) = none := by simp [hz]
    rw [hnone]
    rfl
  · rename_i hne
    have hlog := (Nat.log2_lt hne).mpr a.isLt
    have hfind : (List.range w).find? (fun i => a.getLsbD (w - 1 - i)) = some (w - 1 - a.toNat.log2) := by
      rw [List.find?_range_eq_some]
      refine ⟨?_, by simp; omega, fun j hj => ?_⟩
      · rw [show w - 1 - (w - 1 - a.toNat.log2) = a.toNat.log2 by omega]
        exact Nat.testBit_log2 hne
      · have hbit : a.toNat < 2 ^ (w - 1 - j) := by
          rw [← Nat.log2_lt hne]; omega
        simp [BitVec.getLsbD, Nat.testBit_lt_two_pow hbit]
    rw [hfind]
    rfl

end

/-- Settles O3: a shift by any count is arithmetic by a power of two, and each count is that of the word's bits. -/
theorem laneBitOperations : Obligations.LaneBitOperations := by
  refine ⟨fun f => ⟨?vand, ?vor, ?vxor, ?vnot, ?vshl, ?vshr, ?vsar, ?vrot, ?vpopc, ?vclz, ?vctz, ?vbrev, ?vbfx, ?vbfi⟩,
    fun f => ⟨?vandi, ?vori⟩⟩
  case vshl => exact pureResult_of (fun _ => rfl) fun c l => shlWord_eq (c.lane f.a l 0) _
  case vshr => exact pureResult_of (fun _ => rfl) fun c l => shrWord_eq (c.lane f.a l 0) _
  case vsar => exact pureResult_of (fun _ => rfl) fun c l => sarWord_eq (c.lane f.a l 0) _
  case vpopc => exact pureResult_of (fun _ => rfl) fun c l => congrArg (BitVec.ofNat 32) (onesOf_eq (c.lane f.a l 0))
  case vclz => exact pureResult_of (fun _ => rfl) fun c l => congrArg (BitVec.ofNat 32) (leadZeros_eq (c.lane f.a l 0))
  case vand | vor | vxor | vnot | vrot | vctz | vbrev | vbfx | vbfi | vandi | vori => exact pureResult_of (fun _ => rfl) fun _ _ => rfl

end Sys2Proof.Machine
end

section
/-! Functions, conversions, compares, moves and selection (06 R158-R170): the obligations O5 to O8. -/

namespace Sys2Proof.Machine

open Sys2Proof

/-- Settles O5: each lane's result carries the NSTAT bits of its function or conversion; packing sets none. -/
theorem laneFunctionsAndConversions : Obligations.LaneFunctionsAndConversions := by
  refine fun f => ⟨?vexp2, ?vlog2, ?vrcp, ?vrsq, ?vcvt, ?vcvti, ?vpack, ?vunpk⟩
  case vexp2 | vlog2 | vrcp | vrsq | vcvt | vcvti => exact laneResult_of (fun _ => rfl) fun _ _ => rfl
  case vpack | vunpk => exact pureResult_of (fun _ => rfl) fun _ _ => rfl

/-! ### Compares and predicates (06 R158-R160) -/

theorem vcmpVal_eq (f : F) (c : Ctx) (l : Nat) : vcmpVal f c l =
    if isFloatType (modType f.m) then
      condFloat (modHigh f.m) (floatVal (modType f.m) (c.lane f.a l (modType f.m))) (floatVal (modType f.m) (c.lane f.b l (modType f.m)))
    else condInt (modHigh f.m) (intVal (modType f.m) 32 (c.lane f.a l 0)) (intVal (modType f.m) 32 (c.lane f.b l 0)) := by
  unfold vcmpVal
  by_cases hfloat : isFloatType (modType f.m) = true
  · simp only [if_pos hfloat, constType_float hfloat]
  · simp only [if_neg hfloat, constType]

/-- The special value 1 has one code (05 R135, R136). -/
theorem operandOf_eq_one_iff (a : BitVec 10) : operandOf a = .spec 0x30 ↔ a = 0x3B0#10 := by
  constructor
  · intro h
    unfold operandOf at h
    dsimp only at h
    split_ifs at h
    have hcode : a.toNat - 0x380 = 0x30 := Operand.spec.inj h
    exact BitVec.eq_of_toNat_eq (Nat.eq_add_of_sub_eq (by omega) hcode)
  · rintro rfl
    decide

theorem pmovVal_eq (f : F) (c : Ctx) (l : Nat) : pmovVal f c l = if f.a.toNat < 96 then c.preg f.a.toNat l else f.a == 0x3B0#10 := by
  have hone : (operandOf f.a == .spec 0x30) = (f.a == 0x3B0#10) := by
    rw [Bool.eq_iff_iff, beq_iff_eq, beq_iff_eq]
    exact operandOf_eq_one_iff f.a
  unfold pmovVal predForm
  simp only [decide_eq_true_eq, hone]

/-- The field of a condition in VCMPI's immediate, as a number (06 R159). -/
theorem vcmpiVal_eq (f : F16) (c : Ctx) (l : Nat) : vcmpiVal f c l =
    if f.imm.extractLsb' 13 3 = 6#3 then (c.lane f.a l 0).ult ((f.imm.extractLsb' 0 13).signExtend 32)
    else if f.imm.extractLsb' 13 3 = 7#3 then !(c.lane f.a l 0).ult ((f.imm.extractLsb' 0 13).signExtend 32)
    else condInt (f.imm.extractLsb' 13 3).toNat (c.lane f.a l 0).toInt ((f.imm.extractLsb' 0 13).signExtend 32).toInt := by
  have hnum : ∀ n : BitVec 3, (f.imm.extractLsb' 13 3).toNat = n.toNat ↔ f.imm.extractLsb' 13 3 = n := fun n => BitVec.toNat_inj
  have hle : ∀ a b : W32, decide (b.toNat ≤ a.toNat) = !a.ult b := fun a b => by
    rw [BitVec.ult, ← decide_not, decide_eq_decide]
    exact Nat.not_lt.symm
  unfold vcmpiVal
  simp only [← hnum, ← hle]
  rfl

/-- Settles O6: each writes one bit of its condition or of its logical operation, by the predicates and values it reads. -/
theorem comparesAndPredicates : Obligations.ComparesAndPredicates := by
  refine ⟨fun f => ⟨?vcmp, ?pand, ?por, ?pxor, ?pnot, ?pmov, ?vprd⟩, fun f => ?vcmpi⟩
  case vcmp => exact predResult_of (fun _ => rfl) fun c l => vcmpVal_eq f c l
  case pand | por | pnot => exact predResult_of (fun _ => rfl) fun _ _ => rfl
  case pxor => exact predResult_of (fun _ => rfl) fun _ _ => congrFun (congrFun Bool.bne_eq_xor _) _
  case pmov => exact predResult_of (fun _ => rfl) fun c l => pmovVal_eq f c l
  case vprd => exact pureResult_of (fun _ => rfl) fun _ _ => rfl
  case vcmpi => exact predResult_of (fun _ => rfl) fun c l => vcmpiVal_eq f c l

/-! ### Moves and VSEL (06 R161, R162) -/

/-- Settles O7: each move is the value that its lane copies or keeps. -/
theorem vectorMoves : Obligations.VectorMoves := by
  refine ⟨fun f => ?vmov, fun f => ?vmovi, fun f => ⟨?vmovl, ?vmovh⟩⟩
  case vmov | vmovi | vmovl | vmovh => exact pureResult_of (fun _ => rfl) fun _ _ => rfl

/-- Settles O8: VSEL is an operation of the lanes whose predicate chooses its value and does not guard it. -/
theorem selectByPredicate : Obligations.SelectByPredicate := fun _ => pureResult_of (fun _ => rfl) fun _ _ => rfl

end Sys2Proof.Machine
end

section
/-! Exchange between lanes (06 R171-R173): the obligation O9. -/

namespace Sys2Proof.Machine

open Sys2Proof

/-- The source lane of a shuffle, mode by mode (06 R171). -/
theorem shflSrc_eq (mode : Nat) {l : Nat} (hl : l < 32) (n : W32) : shflSrc mode l n =
    let src : Int := if mode = 0 then n.toNat % 32 else if mode = 1 then (l : Int) - n.toNat
      else if mode = 2 then (l : Int) + n.toNat else (l ^^^ (n.toNat % 32) : Nat)
    if 0 ≤ src ∧ src ≤ 31 then src.toNat else l := by
  have hxor : (BitVec.ofNat 5 l ^^^ BitVec.ofNat 5 n.toNat).toNat = l ^^^ n.toNat % 32 := by
    rw [BitVec.toNat_xor, BitVec.toNat_ofNat, BitVec.toNat_ofNat, Nat.mod_eq_of_lt (show l < 2 ^ 5 from hl)]
  unfold shflSrc
  dsimp only
  rw [hxor]
  match mode with
  | 0 => rfl
  | 1 => rfl
  | 2 => rfl
  | _ + 3 => rfl

/-- Settles O9: each lane takes A of its source lane, and the ballot goes to the lanes or once to a scalar. -/
theorem exchangeOfLanes : Obligations.ExchangeOfLanes := by
  refine fun f => ⟨?vshfl, ?vbcst, ?vballot⟩
  case vshfl =>
    exact statusFree_of (val := pureLane (vshflVal f)) (fun _ => rfl)
      fun c l hl => congrArg (Fl.mk · 0) (congrArg (c.lane f.a · 0) (shflSrc_eq (modHigh f.m) hl (c.lane f.b l 0)))
  case vbcst => exact statusFree_of (val := pureLane fun c _ => c.laneOf f.a f.m.toNat) (fun _ => rfl) fun _ _ _ => rfl
  case vballot =>
    exact fixedResult_of (resume := noResume) (fun _ => rfl) (fun _ _ _ => rfl) fun c => eitherWrites_word c f.d (ballotOf f c)

end Sys2Proof.Machine
end

section
/-! Scalar instructions (06 R179, R180): the obligations O12 and O13. -/

namespace Sys2Proof.Machine

open Sys2Proof

/-- The high half of a product, by the width of its type (06 R179). -/
theorem highHalf_eq (t : Nat) (a b : Int) : highHalf t a b = a * b / (if t < 2 then 2 ^ 32 else 2 ^ 64) := by
  have hword : is32 t = true ↔ t < 2 := by
    simp only [is32, Bool.or_eq_true, beq_iff_eq]
    omega
  unfold highHalf
  simp only [hword]

/-- A word whose 16 bits from k an immediate replaces (06 R179), bit by bit. -/
theorem getLsbD_insert16 {mask : W64} {i k : Nat} (hi : i < 64) (hmask : mask.getLsbD i = !decide (k ≤ i ∧ i < k + 16)) (x : W64)
    (imm : BitVec 16) : ((x &&& mask) ||| (imm.zeroExtend 64 <<< k)).getLsbD i =
      if k ≤ i ∧ i < k + 16 then imm.getLsbD (i - k) else x.getLsbD i := by
  simp only [BitVec.getLsbD_or, BitVec.getLsbD_and, BitVec.getLsbD_shiftLeft, BitVec.truncate_eq_setWidth, BitVec.getLsbD_setWidth, hmask, hi]
  by_cases hin : k ≤ i ∧ i < k + 16
  · have hfit : i - k < 64 := by omega
    simp [hin, hfit, Nat.not_lt.mpr hin.1]
  · have hout : i < k ∨ 16 ≤ i - k := by omega
    rcases hout with h | h
    · simp [hin, h]
    · simp [hin, BitVec.getLsbD_of_ge imm _ h]

theorem smovlVal_eq (f : F16) (c : Ctx) : smovlVal f c =
    (c.sreg (scalNo f.d)).extractLsb' 48 16 ++ f.imm ++ (c.sreg (scalNo f.d)).extractLsb' 0 32 := by
  have hmask : ∀ i, i < 64 → (0xFFFF0000FFFFFFFF : W64).getLsbD i = !decide (32 ≤ i ∧ i < 32 + 16) := by decide
  apply BitVec.eq_of_getLsbD_eq
  intro i hi
  refine (getLsbD_insert16 hi (hmask i hi) _ f.imm).trans ?_
  simp only [BitVec.getLsbD_append, BitVec.getLsbD_extractLsb']
  grind

theorem smovhVal_eq (f : F16) (c : Ctx) : smovhVal f c = f.imm ++ (c.sreg (scalNo f.d)).extractLsb' 0 48 := by
  have hmask : ∀ i, i < 64 → (0x0000FFFFFFFFFFFF : W64).getLsbD i = !decide (48 ≤ i ∧ i < 48 + 16) := by decide
  apply BitVec.eq_of_getLsbD_eq
  intro i hi
  refine (getLsbD_insert16 hi (hmask i hi) _ f.imm).trans ?_
  simp only [BitVec.getLsbD_append, BitVec.getLsbD_extractLsb']
  grind

/-- Settles O12: each is one fixed-latency result of the wave, in its type or in 64 bits. -/
theorem scalarArithmetic : Obligations.ScalarArithmetic := by
  refine ⟨fun f => ⟨?sadd, ?ssub, ?smul, ?smulhi, ?smin, ?smax, ?sand, ?sor, ?sxor, ?snot, ?sshl, ?sshr, ?ssar, ?spopc, ?sclz, ?sctz, ?scmp,
    ?ssel, ?smov⟩, fun f => ?smovi, fun f => ⟨?smovl, ?smovh, ?saddi⟩⟩
  case smulhi => exact scalarResult_of (fun _ => rfl) fun c => congrArg (scWrap _) (highHalf_eq (modType f.m) _ _)
  case sshl => exact scalarResult_of (fun _ => rfl) fun c => shlWord_eq (c.scalar f.a) _
  case sshr => exact scalarResult_of (fun _ => rfl) fun c => shrWord_eq (c.scalar f.a) _
  case ssar => exact scalarResult_of (fun _ => rfl) fun c => sarWord_eq (c.scalar f.a) _
  case spopc => exact scalarResult_of (fun _ => rfl) fun c => congrArg (BitVec.ofNat 64) (onesOf_eq (c.scalar f.a))
  case sclz => exact scalarResult_of (fun _ => rfl) fun c => congrArg (BitVec.ofNat 64) (leadZeros_eq (c.scalar f.a))
  case smovl => exact scalarResult_of (fun _ => rfl) (smovlVal_eq f)
  case smovh => exact scalarResult_of (fun _ => rfl) (smovhVal_eq f)
  case sadd | ssub | smul | smin | smax | sand | sor | sxor | snot | sctz | scmp | ssel | smov | smovi | saddi =>
    exact scalarResult_of (fun _ => rfl) fun _ => rfl

/-- Settles O13: the quotient is truncated, and the remainder is what it leaves of A. -/
theorem scalarDivision : Obligations.ScalarDivision := by
  refine fun f => ⟨?sdiv, ?srem⟩
  case sdiv => exact scalarResult_of (fun _ => rfl) fun _ => rfl
  case srem => exact scalarResult_of (fun _ => rfl) fun _ => congrArg (scWrap (modType f.m)) (remInt_eq _ _)

end Sys2Proof.Machine
end

section
/-! The reader of the fold register, and NSTAT (06 R177, R178): the obligation O14. -/

namespace Sys2Proof.Machine

open Sys2Proof

/-! ### SFOLD (06 R177) -/

theorem fold_issue {s : State} {c : Ctx} {w : Wave} (h : Issuing s c w) (sp : Spec) : ((s.issue c sp).wave c.id).fold = (s.wave s.cur).fold := by
  rw [issue_eq, h.id, wave_modWave_self h.wave, h.state, issued_fields]

/-- SFOLD whose number stands in the fold register takes it (06 R177). -/
theorem sfold_outcome (f : F) : ActResult (.sfold f) (sfoldSpec f) (fun _ => sfoldFails f)
    (fun s c => (s.wave s.cur).foldSeq = (c.scalar f.a).extractLsb' 0 16) (fun s _ => s)
    (fun s _ => some (scalNo f.d, (s.wave s.cur).fold)) := by
  refine actResult_of_awaitOr (fun _ => rfl) (fun s c w hw hseq => ?ends) fun s c w hw _ => ?take
  case ends =>
    have hown : c.w.foldSeq = (c.scalar f.a).extractLsb' 0 16 := by rw [hw.own, ← hw.state]; exact hseq
    simp [State.waitDone, hown]
  case take =>
    refine quick_outcome hw (sfoldSpec f) _ _ _ rfl hw.wave ?_
    unfold sfoldTake State.setS
    rw [fold_issue hw, issue_eq, hw.id, modWave_modWave]
    rfl

/-! ### NSRD and NSCLR (06 R178) -/

theorem nsrd_outcome {f : F} {s : State} {c : Ctx} (hc : s.clear (nsrdSpec f) noFails = some c)
    (hover : s.waitDone c.id c.b c.w .nstat = true) : ∃ t, exec (.nsrd f) s = .next t ∧ FixedOutcome s t c (nsrdSpec f)
      (if c.part = 0 then [] else [⟨.scal (scalNo f.d), 0, (s.wave s.cur).nstat.zeroExtend 64⟩]) 0 := by
  obtain ⟨hctx, hwait, -⟩ := clear_spec hc
  obtain ⟨w, hw⟩ := issuing_of_clear hc
  have hstatus : c.w.nstat = (s.wave s.cur).nstat := by rw [hw.own, hw.state]
  have hrun : exec (.nsrd f) s = .next ((s.fixed c (nsrdSpec f)
      (if c.part = 0 then [] else [⟨.scal (scalNo f.d), 0, c.w.nstat.zeroExtend 64⟩]) 0).advance c.id) :=
    congrArg Host.Outcome.next ((run_clear hc _ _).trans (if_pos hover))
  rw [hstatus] at hrun
  exact ⟨_, hrun, fixed_outcome hctx hwait _ _ _ (scalarWrite_word c _ _)⟩

/-- A wave in whose NSTAT some bits are cleared (06 R178). -/
def Wave.clearStatus (bits : W32) (w : Wave) : Wave := { w with nstat := w.nstat &&& ~~~bits }

theorem clearStatus_issued (c : Ctx) (sp : Spec) (bits : W32) (w : Wave) :
    (c.issued sp w).clearStatus bits = c.issued sp (w.clearStatus bits) := by
  unfold Ctx.issued
  cases sp.held <;> rfl

/-- An instruction that clears bits of NSTAT and completes. -/
theorem clearStatus_outcome {s : State} {c : Ctx} {w : Wave} (h : Issuing s c w) (sp : Spec) (bits : W32) (sig : Nat) :
    DoneOutcome s (s.quick c sp (State.modWave · c.id (Wave.clearStatus bits))) c (s.modWave s.cur (Wave.clearStatus bits)) none sig 0 := by
  have hcleared := wave?_modWave_self h.wave (Wave.clearStatus bits)
  have hissued := wave?_modWave_self hcleared (c.issued sp)
  have hcontrol : SameControl w (c.issued sp (w.clearStatus bits)) :=
    SameControl.trans (v := w.clearStatus bits) ⟨rfl, rfl, rfl, rfl⟩ (sameControl_issued c sp _)
  obtain ⟨hframe, hstill, hflags, hnext⟩ :=
    advanced_of h (u := (s.modWave s.cur (Wave.clearStatus bits)).modWave s.cur (c.issued sp)) rfl hissued hcontrol
  have hquick : s.quick c sp (State.modWave · c.id (Wave.clearStatus bits)) =
      ((s.modWave s.cur (Wave.clearStatus bits)).modWave s.cur (c.issued sp)).advance s.cur := by
    unfold State.quick
    dsimp only
    rw [issue_eq, h.id, modWave_modWave, modWave_modWave]
    simp only [clearStatus_issued]
  rw [still_issued c sp (w := w.clearStatus bits) h.wait] at hstill
  rw [hquick]
  refine ⟨(onlyWave_modWave (s.modWave s.cur (Wave.clearStatus bits)) _).trans hframe, ?rest, fun n => ?scal, hnext, fun n _ => ?flag⟩
  case rest => rw [hstill, wave_eq_of_wave? hcleared]
  case scal =>
    rw [h.state]
    exact congrArg (spGet 0 · n) (congrArg Wave.s hstill :)
  case flag =>
    rw [h.state]
    unfold Wave.kget
    rw [hflags, flags_issued]
    simp [Wave.clearStatus]

theorem nsclr_outcome {f : F} {s : State} {c : Ctx} (hc : s.clear (nsclrSpec f) noFails = some c)
    (hover : s.waitDone c.id c.b c.w .nstat = true) : ∃ t, exec (.nsclr f) s = .next t ∧ DoneOutcome s t c
      (if c.part = 0 then s else s.modWave s.cur (Wave.clearStatus (((c.scalar f.a).extractLsb' 0 6).zeroExtend 32))) none f.ctl.sig.toNat 0 := by
  obtain ⟨w, hw⟩ := issuing_of_clear hc
  refine ⟨_, congrArg Host.Outcome.next ((run_clear hc _ _).trans (if_pos hover)), ?_⟩
  by_cases hp : c.part = 0
  · simp only [if_pos hp]
    exact quick_idle hw (nsclrSpec f) _ _ rfl
  · simp only [if_neg hp]
    exact clearStatus_outcome hw (nsclrSpec f) _ _

/-- Settles O14: SFOLD takes the fold register where its number stands there, and NSTAT is read or cleared once its setters are done. -/
theorem foldAndNumberStatus : Obligations.FoldAndNumberStatus :=
  ⟨sfold_outcome, fun _ _ _ hc hover => nsrd_outcome hc hover, fun _ _ _ hc hover => nsclr_outcome hc hover⟩

end Sys2Proof.Machine
end

section
/-! Barrier objects (07 R202, R203): the obligation O16. -/

namespace Sys2Proof.Machine

open Sys2Proof

theorem shellOnly_setBar (n : Nat) (x : Barrier) : ShellOnly (Block.setBar · n x) := fun _ _ => rfl

/-- An instruction that sets a barrier object and has no result. -/
theorem setBar_outcome {s : State} {c : Ctx} {w : Wave} (h : Issuing s c w) (sp : Spec) {f : State → State} (n : Nat) (x : Barrier) (sig : Nat)
    (hf : ∀ t, f t = t.modBlock c.id (Block.setBar · n x)) :
    DoneOutcome s (s.quick c sp f) c (s.modBlock s.cur (Block.setBar · n x)) none sig 0 :=
  quick_shell h sp f (shellOnly_setBar n x) sig (by rw [hf, h.id])

/-- An arrival counts, sets the wave's bit, may complete the phase, and returns the phase before it (07 R203). -/
theorem arrive_outcome {f : F} {s : State} {c : Ctx} {w : Wave} (h : Issuing s c w) :
    DoneOutcome s (s.quick c (barvSpec f) (State.arrive · c f)) c
      (s.modBlock s.cur (Block.setBar · f.m.toNat (Barrier.settle { c.b.bar f.m.toNat with
        arrived := (c.b.bar f.m.toNat).arrived + 1, mask := (c.b.bar f.m.toNat).mask ||| (1#32 <<< s.cur.wave) })))
      (some (scalNo f.d, if (c.b.bar f.m.toNat).phase then 1 else 0)) f.ctl.sig.toNat 0 := by
  refine quick_block h (barvSpec f) _ (shellOnly_setBar _ _) _ _ ?_
  unfold State.arrive
  rw [h.id]
  rfl

/-- Settles O16: each changes at most its object in the block's shell, and a wait that is over changes nothing. -/
theorem barrierObjects : Obligations.BarrierObjects := by
  refine fun f => ⟨?binit, ?barv, ?bcnt, ?bwait⟩
  case binit =>
    exact actResult_of_quick (fun _ => rfl) (fun c t hp => if_pos hp) fun s c w hw _ hp =>
      setBar_outcome hw (binitSpec f) _ _ _ fun t => if_neg hp
  case bcnt =>
    exact actResult_of_quick (fun _ => rfl) (fun c t hp => if_pos hp) fun s c w hw _ hp =>
      setBar_outcome hw (bcntSpec f) _ _ _ fun t => if_neg hp
  case barv => exact actResult_of_awaitOr (fun _ => rfl) (fun _ _ _ _ hdone => hdone) fun s c w hw _ => arrive_outcome hw
  case bwait =>
    exact actResult_of_awaitOr (fun _ => rfl) (fun _ _ _ _ hphase => bne_iff_ne.mpr hphase) fun s c w hw _ => quick_idle hw (bwaitSpec f) id _ rfl

end Sys2Proof.Machine
end

section
/-! A division by zero (06 R155, 19 R337): the obligation O38. -/

namespace Sys2Proof.Machine

open Sys2Proof

/-! ### Lanes that fail alike (19 R337) -/

theorem failAll_eq (m : BitVec 32) (cause : Nat) (a : W64) :
    failAll m cause a = lanes32.filterMap fun l => if m.getLsbD l then some ⟨l, cause, a⟩ else none := by
  unfold failAll lanesOf
  rw [← List.filterMap_eq_map, List.filterMap_filter]
  rfl

theorem any_failAll (m : BitVec 32) (cause : Nat) (a : W64) (l : Nat) : ((failAll m cause a).any fun x => x.lane == l) = m.getLsbD l := by
  rw [Bool.eq_iff_iff, failAll, List.any_map, List.any_eq_true, ← mem_lanesOf]
  simp

theorem find?_failAll (m : BitVec 32) (cause : Nat) (a : W64) (l : Nat) :
    ((failAll m cause a).find? fun x => x.lane == l) = if m.getLsbD l then some ⟨l, cause, a⟩ else none := by
  cases hfind : (failAll m cause a).find? fun x => x.lane == l with
  | none =>
    have hout : m.getLsbD l = false := by
      rw [← any_failAll m cause a l, List.any_eq_false]
      exact List.find?_eq_none.mp hfind
    simp [hout]
  | some x =>
    obtain ⟨k, hk, rfl⟩ := List.mem_map.mp (List.mem_of_find?_eq_some hfind)
    obtain rfl : k = l := by simpa using List.find?_some hfind
    simp [mem_lanesOf.mp hk]

/-- A lane that fails once has that failure first. -/
theorem firstFails_failAll (m : BitVec 32) {cause : Nat} (hcause : lowestNamed cause = false) (a : W64) :
    firstFails (failAll m cause a) = failAll m cause a := by
  conv_rhs => rw [failAll_eq]
  unfold firstFails
  refine List.filterMap_congr fun l _ => ?_
  rw [find?_failAll]
  cases m.getLsbD l
  · rfl
  · exact if_neg (by simp [hcause])

theorem failAll_ne_nil_of_lanes {m : BitVec 32} (hm : m ≠ 0) (cause : Nat) (a : W64) : failAll m cause a ≠ [] := fun h =>
  lanesOf_ne_nil hm (List.map_eq_nil_iff.mp h)

theorem bits_failAll {m : BitVec 32} (hm : m ≠ 0) (cause : Nat) (a : W64) :
    (failAll m cause a).foldl (fun b x => b ||| causeBit x.cause) 0 = causeBit cause := by
  obtain ⟨l, t, hlanes⟩ := List.exists_cons_of_ne_nil (lanesOf_ne_nil hm)
  unfold failAll
  rw [hlanes, List.foldl_map, List.foldl_cons, show (0 : W64) ||| causeBit cause = causeBit cause from BitVec.zero_or]
  exact List.foldl_fixed' (fun _ => BitVec.or_self) t

/-- A cause that some lanes have alike is raised for all of them (19 R337). -/
theorem settleFails_failAll {m : BitVec 32} (hm : m ≠ 0) {cause : Nat} (hcause : lowestNamed cause = false) (a : W64) :
    settleFails (failAll m cause a) = some (causeBit cause, cause, m, a) := by
  have hne := failAll_ne_nil_of_lanes hm cause a
  have halike : ∀ x ∈ failAll m cause a, x.cause = cause ∧ x.addr = a := by
    intro x hx
    obtain ⟨l, -, rfl⟩ := List.mem_map.mp hx
    exact ⟨rfl, rfl⟩
  obtain ⟨x, hx⟩ := minBy_isSome Fail.cause hne
  have hxcause := (halike x (minBy_mem hx)).1
  have hsame : ((failAll m cause a).filter fun y => y.cause == x.cause) = failAll m cause a :=
    List.filter_eq_self.mpr fun y hy => by simp [(halike y hy).1, hxcause]
  have hmask : (maskOf fun l => (failAll m cause a).any fun y => y.lane == l) = m :=
    BitVec.eq_of_getLsbD_eq fun l hl => (getLsbD_maskOf _ hl).trans (any_failAll m cause a l)
  have haddr : ((failAll m cause a).head?.map Fail.addr).getD 0 = a := by
    obtain ⟨y, t, hy⟩ := List.exists_cons_of_ne_nil hne
    rw [hy]
    exact (halike y (by simp [hy])).2
  unfold settleFails
  dsimp only
  rw [firstFails_failAll m hcause, hx]
  dsimp only
  rw [hsame, hmask, haddr, bits_failAll hm, hxcause, if_neg (by simp [hcause])]

/-! ### ARITH (06 R155) -/

/-- An instruction whose own check alone fails raises what its lanes fail with. -/
theorem run_ownFails {s : State} {sp : Spec} {own : Ctx → List Fail} {c : Ctx} (h : s.clear sp noFails = some c) (hown : own c ≠ [])
    (resume : Ctx → Wait → State → State) (body : Ctx → State → State) : run sp own resume body s = s.raiseFails c (own c) := by
  obtain ⟨hc, hw, hh, he, hs, hf⟩ := clear_spec h
  have hfails : c.boundFails sp ++ c.areaBound sp ++ c.pendFails sp ++ own c = own c := by
    rw [(List.append_eq_nil_iff.mp hf).1, List.nil_append]
  have hsome : ¬ (own c).isEmpty = true := by simpa using hown
  unfold run
  simp only [hc, hw]
  unfold run.go
  simp only [hh]
  unfold run.check
  simp only [he, hs, Bool.false_eq_true, if_false, hfails]
  exact if_neg hsome

/-- The participating lanes with a zero divisor (06 R155). -/
def Ctx.zeroDivisor (c : Ctx) (f : F) : BitVec 32 := maskOf fun l => c.part.getLsbD l && c.lane f.b l 0 == 0

theorem divFails_int {f : F} (hf : isIntType (modType f.m) = true) (c : Ctx) : divFails f c = failAll (c.zeroDivisor f) cARITH 0 := by
  unfold divFails
  rw [not_float_of_int hf, if_neg (by decide), failAll_eq, lanesOf, List.filterMap_filter]
  refine List.filterMap_congr fun l hl => ?_
  unfold Ctx.zeroDivisor
  rw [getLsbD_maskOf _ (mem_lanes32.mp hl)]
  cases c.part.getLsbD l <;> simp

theorem raiseFails_failAll {m : BitVec 32} (hm : m ≠ 0) {cause : Nat} (hcause : lowestNamed cause = false) (s : State) (c : Ctx) (a : W64) :
    s.raiseFails c (failAll m cause a) = s.raise c.id { c.causeRec cause m a 0 with also := causeBit cause } := by
  unfold State.raiseFails
  rw [settleFails_failAll hm hcause]

/-- An instruction whose only failing check is a zero divisor in some lanes raises ARITH with them. -/
theorem raises_arith {i : Instr} {sp : Spec} {f : F} {s : State} {c : Ctx} {d : BitVec 10} {val : Ctx → Nat → Fl W32}
    (hexec : exec i s = .next (laneOp sp d (divFails f) val s)) (hf : isIntType (modType f.m) = true) (hc : s.clear sp noFails = some c)
    (hzero : c.zeroDivisor f ≠ 0) :
    Raises i s c ⟨24, causeBit 24, c.addr, 0, c.zeroDivisor f, c.idx, 0, 0, 0, c.w.accesses, false⟩ := by
  obtain ⟨hctx, hwait, -⟩ := clear_spec hc
  have hfails := divFails_int hf c
  have hne : divFails f c ≠ [] := by rw [hfails]; exact failAll_ne_nil_of_lanes hzero _ _
  refine raises_of_raise hctx hwait ?_
  rw [hexec, laneOp, run_ownFails hc hne, hfails, raiseFails_failAll hzero rfl]
  rfl

/-- Settles O38: the lanes of a zero divisor fail alike, so the record names them all. -/
theorem arithmeticCause : Obligations.ArithmeticCause := by
  refine fun f s c hf hrem hdiv hzero => ⟨?vdiv, ?vrem⟩
  case vdiv => exact raises_arith (d := f.d) (val := vdivVal f) (by rw [← latency_not_f32 hf 24 40]; rfl) hf hdiv hzero
  case vrem => exact raises_arith (d := f.d) (val := pureLane (vremVal f)) rfl hf hrem hzero

end Sys2Proof.Machine
end

section
/-! Scalar-class instructions that take effect beside their wave (06 R152): Frond generations (07 R198), phasers (07 R204-R206)
and stage queues (07 R207-R209), with the obligations O17, O19, O20 and O21. -/

namespace Sys2Proof.Machine

open Sys2Proof

/-! ### Effects that issue does not reach -/

/-- What an instruction of the scalar class does beside its issue: an effect that leaves the wave in the slot, then its result.
`act` is what the model runs behind the issue, `e` the machine with the effect alone. -/
structure Acts (s : State) (c : Ctx) (sp : Spec) (act : State → State) (e : State) (d : Option (Nat × W64)) : Prop where
  cur  : e.cur = s.cur
  wave : e.wave? s.cur = s.wave? s.cur
  act  : act (s.modWave s.cur (c.issued sp)) = (e.modWave s.cur (c.issued sp)).modWave s.cur (Wave.take · s.tick d)

theorem actResult_of_scalarAct {i : Instr} {sp : Spec} {own : State → Ctx → List Fail} {eff : State → Ctx → State}
    {dst : State → Ctx → Option (Nat × W64)} {act : Ctx → State → State}
    (hexec : ∀ s, exec i s = .next (scalarAct sp (own s) act s))
    (hact : ∀ s c w, Issuing s c w → Acts s c sp (act c) (eff s c) (dst s c)) : ActResult i sp own (fun _ _ => True) eff dst := by
  refine actResult_of_quick hexec (fun c t hp => if_pos hp) fun s c w hw _ hp => ?_
  obtain ⟨hcur, hwave, heff⟩ := hact s c w hw
  refine quick_outcome hw sp _ _ _ hcur (hwave.trans hw.wave) ?_
  rw [if_neg hp, issue_eq, hw.id, heff, modWave_modWave]

/-- Settles O21: FREV advances the generation of its wave, which stands beside the blocks. -/
theorem frondGenerations : Obligations.FrondGenerations := fun _ =>
  actResult_of_scalarAct (act := fun c t => t.bumpFrond c.id) (fun _ => rfl) fun s c w hw =>
    ⟨rfl, rfl, by rw [hw.id]; exact (modWave_id _ _ fun _ => rfl).symm⟩

/-! ### Phasers (07 R204-R206) -/

/-- A phaser with the wave as a new member at its current phase (07 R204). -/
def Phaser.join (p : Phaser) (c : Ctx) (f : F) : Phaser :=
  { p with members := p.members ++ [⟨c.b.launch, c.b.linear, c.id.wave, f.m.getLsbD 0, f.m.getLsbD 1, p.phase.toNat, false⟩] }

/-- What PHREG does beside its result: a wave that is no member joins, where its die's table has room (07 R206). -/
def State.phregMarks (s : State) (c : Ctx) (f : F) : State :=
  if ((s.phaser (objectOf (c.scalar f.a))).member c.b c.id.wave).isSome ∨ 262144 ≤ s.memberships (objectOf (c.scalar f.a) / 65536) then s
  else s.setPhaser (objectOf (c.scalar f.a)) ((s.phaser (objectOf (c.scalar f.a))).join c f)

/-- The result of PHREG: the phase, or the code of a member or of a full table. -/
def State.phregResult (s : State) (c : Ctx) (f : F) : W64 :=
  if ((s.phaser (objectOf (c.scalar f.a))).member c.b c.id.wave).isSome then 0x8000000000000002
  else if 262144 ≤ s.memberships (objectOf (c.scalar f.a) / 65536) then 0x8000000000000001
  else (s.phaser (objectOf (c.scalar f.a))).phase.zeroExtend 64

theorem phreg_eq (s : State) (c : Ctx) (f : F) : s.phreg c f = (s.phregMarks c f).setS c.id (scalNo f.d) (s.phregResult c f) := by
  unfold State.phreg State.phregMarks State.phregResult
  dsimp only
  by_cases hmember : ((s.phaser (objectOf (c.scalar f.a))).member c.b c.id.wave).isSome
  · rw [if_pos hmember, if_pos (.inl hmember), if_pos hmember]
    rfl
  · rw [if_neg hmember, if_neg hmember]
    by_cases hfull : 262144 ≤ s.memberships (objectOf (c.scalar f.a) / 65536)
    · rw [if_pos hfull, if_pos (.inr hfull), if_pos hfull]
      rfl
    · rw [if_neg hfull, if_neg (not_or.mpr ⟨hmember, hfull⟩), if_neg hfull]
      rfl

theorem phregMarks_frame (s : State) (c : Ctx) (f : F) : ∃ ps, s.phregMarks c f = { s with phasers := ps } := by
  unfold State.phregMarks
  split
  · exact ⟨s.phasers, rfl⟩
  · exact ⟨_, rfl⟩

theorem phregMarks_modWave (s : State) (id : WaveId) (g : Wave → Wave) (c : Ctx) (f : F) :
    (s.modWave id g).phregMarks c f = (s.phregMarks c f).modWave id g := by
  unfold State.phregMarks
  symm
  apply apply_ite (State.modWave · id g)

theorem acts_phreg {s : State} {c : Ctx} (hid : c.id = s.cur) (f : F) :
    Acts s c (phregSpec f) (State.phreg · c f) (s.phregMarks c f) (some (scalNo f.d, s.phregResult c f)) := by
  obtain ⟨ps, hframe⟩ := phregMarks_frame s c f
  refine ⟨by rw [hframe], by rw [hframe]; rfl, ?_⟩
  rw [phreg_eq, phregMarks_modWave, hid, hframe]
  rfl

/-- An instruction that changes one phaser and has no result. -/
theorem acts_setPhaser (s : State) (c : Ctx) (sp : Spec) (k : Nat) (r : Phaser → Phaser) :
    Acts s c sp (fun t => t.setPhaser k (r (t.phaser k))) (s.setPhaser k (r (s.phaser k))) none :=
  ⟨rfl, rfl, (modWave_id _ _ fun _ => rfl).symm⟩

/-- Settles O17: each changes at most its phaser, and a wait that is over changes nothing. -/
theorem phaserMembership : Obligations.PhaserMembership := by
  refine fun f => ⟨?phreg, ?phdrop, ?phwait⟩
  case phreg =>
    refine actResult_of_scalarAct (fun _ => rfl) fun s c w hw => ?_
    rw [← hw.id]
    exact acts_phreg hw.id f
  case phdrop =>
    refine actResult_of_scalarAct (fun _ => rfl) fun s c w hw => ?_
    rw [hw.id]
    exact acts_setPhaser s c (phdropSpec f) _ (Phaser.drop · c.b s.cur.wave)
  case phwait =>
    exact actResult_of_awaitOr (fun _ => rfl) (fun _ _ _ _ hpassed => hpassed) fun s c w hw _ => quick_idle hw (phwaitSpec f) id _ rfl

/-! ### Stage queues (07 R207-R209, 18 R322) -/

/-- The machine in which an instruction has changed a stage queue and taken the stage of its side for its block. -/
def State.stageEffect (s : State) (k : Nat) (q : StageQueue) (stage : Nat) : State :=
  (s.setStageq k q).modBlock s.cur fun b => { b with stage := some stage }

theorem setStage_issued {s : State} {c : Ctx} (hid : c.id = s.cur) (sp : Spec) (k : Nat) (q : StageQueue) (stage : Nat) :
    ((s.modWave s.cur (c.issued sp)).setStageq k q).setStage c stage = (s.stageEffect k q stage).modWave s.cur (c.issued sp) := by
  unfold State.setStage
  rw [hid]
  exact modWave_modBlock (s.setStageq k q) s.cur (c.issued sp) (g := fun b => { b with stage := some stage }) fun _ _ => rfl

theorem wave?_stageEffect (s : State) (k : Nat) (q : StageQueue) (stage : Nat) : (s.stageEffect k q stage).wave? s.cur = s.wave? s.cur :=
  wave?_modBlock_shell (s.setStageq k q) s.cur s.cur (g := fun b => { b with stage := some stage }) fun _ _ => rfl

/-- A reservation: the object, the stage of its side, and the slot or code. -/
theorem acts_reserve {s : State} {c : Ctx} (hid : c.id = s.cur) (f : F) (k : Nat) (r : StageQueue → StageQueue × W64) (side : StageQueue → Nat) :
    Acts s c (sqresSpec f)
      (fun t => ((t.setStageq k (r (t.stageq k)).1).setStage c (side (t.stageq k))).setS c.id (sdst f.d) (r (t.stageq k)).2)
      (s.stageEffect k (r (s.stageq k)).1 (side (s.stageq k))) (some (scalNo f.d, (r (s.stageq k)).2)) :=
  ⟨rfl, wave?_stageEffect s k _ _, by
    rw [hid]; exact congrArg (State.setS · s.cur (scalNo f.d) (r (s.stageq k)).2) (setStage_issued hid _ k _ _)⟩

/-- A commit: the object and the stage of its side. -/
theorem acts_commit {s : State} {c : Ctx} (hid : c.id = s.cur) (sp : Spec) (k : Nat) (r : StageQueue → StageQueue) (side : StageQueue → Nat) :
    Acts s c sp (fun t => (t.setStageq k (r (t.stageq k))).setStage c (side (t.stageq k)))
      (s.stageEffect k (r (s.stageq k)) (side (s.stageq k))) none :=
  ⟨rfl, wave?_stageEffect s k _ _, (setStage_issued hid sp k _ _).trans (modWave_id _ _ fun _ => rfl).symm⟩

/-- Settles O19: each changes its object, reservations and commits the stage of their block besides, and SQPUSH.com does so once the
wave's FWRs have performed. -/
theorem stageQueues : Obligations.StageQueues := by
  refine fun f => ⟨?sqreg, ?pushRes, ?pushCom, ?popRes, ?popCom⟩
  case sqreg =>
    exact actResult_of_scalarAct (fun _ => rfl) fun s c w hw => ⟨rfl, rfl, by rw [hw.id]; rfl⟩
  case pushRes =>
    exact actResult_of_scalarAct (fun _ => rfl) fun s c w hw =>
      acts_reserve hw.id f _ (StageQueue.reservePush · (c.b.launch, c.b.linear)) StageQueue.producer
  case popRes =>
    exact actResult_of_scalarAct (fun _ => rfl) fun s c w hw =>
      acts_reserve hw.id f _ (StageQueue.reservePop · (c.b.launch, c.b.linear)) StageQueue.consumer
  case popCom =>
    exact actResult_of_scalarAct (fun _ => rfl) fun s c w hw =>
      acts_commit hw.id _ _ (StageQueue.setSlot · (sqcomSlot f c) .free none) StageQueue.consumer
  case pushCom =>
    refine actResult_of_awaitOr (fun _ => rfl) (fun _ _ _ _ hperformed => hperformed) fun s c w hw _ => ?_
    obtain ⟨hcur, hwave, heff⟩ := acts_commit hw.id (sqcomSpec f true) (objectOf (c.scalar f.a))
      (StageQueue.commitPush · (sqcomSlot f c) (f.m.getLsbD 1)) StageQueue.producer
    refine quick_outcome hw (sqcomSpec f true) _ none _ hcur (hwave.trans hw.wave) ?_
    rw [issue_eq, hw.id]
    exact heff.trans (modWave_modWave _ _ _ _)

/-- Settles O20: the word that SQSTAT writes is the object's state, and no object changes. -/
theorem stageQueueStatus : Obligations.StageQueueStatus := by
  intro f
  refine actResult_of_scalarAct (fun _ => rfl) fun s c w hw => ⟨rfl, rfl, ?_⟩
  have hstatus : ∀ q : StageQueue, q.statusWord = BitVec.ofNat 64 ((q.slots.filter fun e => e.1 == .filled).length +
      (q.slots.filter fun e => e.1 == .pushing).length * 2 ^ 4 + (q.slots.filter fun e => e.1 == .popping).length * 2 ^ 8 +
      q.slots.length * 2 ^ 12 + (if q.eos = [] then 0 else 2 ^ 16) + (if q.eosPopped then 2 ^ 17 else 0) +
      (if q.registered then 2 ^ 18 else 0)) := fun q => by
    unfold StageQueue.statusWord StageQueue.count
    rw [ite_not]
  rw [hw.id, hstatus]
  rfl

end Sys2Proof.Machine
end

section
/-! Waits that are over when their wave is back in the slot (07 R186, 08 R421): the obligation O25. -/

namespace Sys2Proof.Machine

open Sys2Proof

/-- A wave whose wait is over: the wait is gone and its flag is one down. -/
def Wave.released (sig : Nat) (w : Wave) : Wave := ({ w with wait := none } : Wave).flagDown sig

theorem released_fields (sig : Nat) (w : Wave) : w.released sig = { w with wait := none, k := (w.released sig).k } :=
  flagDown_fields { w with wait := none } sig

theorem awaited_eq (s : State) (c : Ctx) (sp : Spec) :
    (s.modWave c.id fun w => { w with wait := none }).awaited c sp id = (s.modWave c.id (Wave.released sp.ctl.sig.toNat)).advance c.id :=
  congrArg (State.advance · c.id) (modWave_modWave s c.id _ _)

/-- The wave of an instruction whose wait is over is the one in the slot, and its active lanes are those of the instruction. -/
theorem resumes_spec {s : State} {sp : Spec} {wt : Wait} {c : Ctx} (h : s.resumes sp wt = some c) :
    c.id = s.cur ∧ ∃ w, s.wave? s.cur = some w ∧ c.active = w.active := by
  unfold State.resumes at h
  split at h
  · cases h
  · rename_i c' hctx
    split at h
    · cases h
      obtain ⟨hid, w, hw, -, hact, -⟩ := ctx_spec hctx
      exact ⟨hid, w, hw, hact⟩
    · cases h

/-- What completion leaves of a wave whose wait is over. -/
theorem wave_released (s : State) {w : Wave} (hw : s.wave? s.cur = some w) (sig : Nat) :
    ((s.modWave s.cur (Wave.released sig)).advance s.cur).wave s.cur = (w.released sig).complete (fun _ => none) ∨
      ((s.modWave s.cur (Wave.released sig)).advance s.cur).wave s.cur = ((w.released sig).complete fun _ => none).ended :=
  wave_finish (s := s.modWave s.cur (Wave.released sig)) (wave?_modWave_self hw _) fun _ => none

/-- An instruction that, its wait over, completes without an effect of its own. -/
theorem resumeResult_of_awaited {i : Instr} {sp : Spec} {own : State → Ctx → List Fail} {body : Ctx → State → State} {isWait : Wait → Prop}
    (hexec : ∀ s, exec i s = .next (run sp (own s) (fun c _ s => s.awaited c sp id) body s)) : ResumeResult i sp isWait := by
  intro s wt c _ hc
  obtain ⟨hid, w, hw, hact⟩ := resumes_spec hc
  have hrun := hexec s
  rw [run_resumes hc, awaited_eq, hid] at hrun
  have hpc : (w.released sp.ctl.sig.toNat).pc = w.pc := by rw [released_fields]
  have hactive : (w.released sp.ctl.sig.toNat).active = w.active := by rw [released_fields]; rfl
  have hnext : ∀ l, l < 32 → ((w.released sp.ctl.sig.toNat).complete fun _ => none).pcAt l =
      if c.active.getLsbD l then w.pcAt l + 8 else w.pcAt l := fun l hl => by
    rw [pcAt_complete _ _ hl, hactive, hact]
    unfold Wave.pcAt
    rw [hpc]
    rfl
  have hregs : ∀ (r : RegRef) l, (w.released sp.ctl.sig.toNat).regGet r l = w.regGet r l := fun r l => by
    rw [released_fields]; cases r <;> rfl
  have hwait : (w.released sp.ctl.sig.toNat).wait = none := by rw [released_fields]
  refine ⟨_, hrun, (onlyWave_modWave s _).trans (onlyWave_finish (s.modWave s.cur _) _), ?_⟩
  unfold NextWord
  rw [wave_eq_of_wave? hw]
  rcases wave_released s hw sp.ctl.sig.toNat with ht | ht <;> rw [ht] <;>
    exact ⟨hwait, fun r l => (by cases r <;> rfl : _ = (w.released sp.ctl.sig.toNat).regGet r l).trans (hregs r l), hnext,
      fun n hn => kget_flagDown _ hn⟩

/-- Settles O25: a wait that is over ends alike for the three, whatever it waited for. -/
theorem waitsThatEnd : Obligations.WaitsThatEnd := fun _ =>
  ⟨resumeResult_of_awaited fun _ => rfl, resumeResult_of_awaited fun _ => rfl, resumeResult_of_awaited fun _ => rfl⟩

end Sys2Proof.Machine
end

section
/-! Accesses that take an entry of the operand log (07 R184, R185): the obligation O28, and the refutation of O27. -/

namespace Sys2Proof.Machine

open Sys2Proof

/-- An instruction that logs an access is not held, so an entry is free (07 R184). -/
theorem logFree_of_clear {s : State} {sp : Spec} {own : Ctx → List Fail} {c : Ctx} (h : s.clear sp own = some c) (hlogs : sp.logs = true)
    (hp : c.part ≠ 0) : ∃ k, c.w.logFree = some k := by
  obtain ⟨-, -, hhold, -⟩ := clear_spec h
  cases hfree : c.w.logFree with
  | some k => exact ⟨k, rfl⟩
  | none =>
    have hentry : (c.part != 0) = true := bne_iff_ne.mpr hp
    unfold Ctx.holdUp at hhold
    rw [hlogs, hentry, hfree] at hhold
    dsimp only at hhold
    split at hhold <;> simp at hhold

/-- An instruction whose one effect is its entry. -/
theorem logResult_of_logIssue {i : Instr} {sp : Spec} {own : State → Ctx → List Fail} {e : State → Ctx → LogEntry}
    {resume : Ctx → Wait → State → State}
    (hexec : ∀ s, exec i s = .next (run sp (own s) resume
      (fun c s => if c.part = 0 then s.quick c sp id else s.logIssue c sp (e s c)) s))
    (hlogs : sp.logs = true) : LogResult i sp own (fun _ => True) (fun s _ => s) e := by
  intro s c hc
  obtain ⟨w, hw⟩ := issuing_of_clear hc
  have hrun := hexec s
  rw [run_clear hc] at hrun
  refine ⟨fun hp _ => ?logged, fun hp => ⟨_, hrun.trans (congrArg Host.Outcome.next (if_pos hp)), quick_idle hw sp id _ rfl⟩⟩
  obtain ⟨k, hfree⟩ := logFree_of_clear hc hlogs hp
  exact ⟨_, k, hrun.trans (congrArg Host.Outcome.next (if_neg hp)), hfree, logOutcome_logIssue hw sp _ hfree⟩

/-- Settles O28: FRD and FWR do nothing but take their entry. -/
theorem frondAccessesAreLogged : Obligations.FrondAccessesAreLogged := fun _ =>
  ⟨logResult_of_logIssue (resume := noResume) (fun _ => rfl) rfl, logResult_of_logIssue (resume := noResume) (fun _ => rfl) rfl⟩

/-! ### An atomic that seals in the handler of JOURNAL_FULL (04 R97, R99) -/

/-- ATOM.or.rel of v10 at s4 + v2. -/
def sealingAtom : F := ⟨⟨0, 15, 0, 127, 0⟩, 10, 0x284, 2, 0x2A⟩

/-- A store of lane 0 to 30000H that found no room in the journal: its operands stay in the log, in the phase 0 (04 R97, log 106). -/
def fullStore : LogEntry :=
  { word := wordR 0x101#10 ⟨⟨0, 15, 0, 127, 0⟩, 8, 0x284, 2, 4⟩, addr := 0x20008, index := 0, aVal := 0x30000, bVal := 0, lanes := 1, state := 2
    cause := cJOURNAL_FULL, faultAddr := 0x30000, seq := 0, stage := 0, regs := [2, 8], causes := causeBit cJOURNAL_FULL, faultLanes := 1
    done := 0, dests := [], addrs := [(0, 0x30000)], data := [(0, 0)], dRegs := [(0, 8)], bRegs := [(0, 2)], old := [], pages := []
    sealNo := none, op := none, gen := 0, phase := 0 }

/-- What the entry of that exception has saved of the wave. -/
def fullSaved : Saved :=
  { pc := (List.range 32).map fun l => (l, 0x20010), meet := [], held := 0, clause := ⟨fetchHeader 0x101, 0x20000, 1⟩, trivSet := [], trivet := []
    high := List.replicate 8 0, entry := causeBit cJOURNAL_FULL, raiser := 0x20008, index := 0, cause := cJOURNAL_FULL, resume := 2, wait := none
    seq := 1, log := true }

/-- The wave at that atomic in its handler, with the store set aside in entry 0 of its log. -/
def fullState : State :=
  ((State.reset.placeWord (wordR 0x104#10 sealingAtom)).modLaunch 0 fun l => { l with record := { l.record with handler := 0x10000 } }).modWave
    ⟨0, 0, 0⟩ fun w => { (w.sset 4 0x40000) with handler := true, saved := some fullSaved, log := [(0, fullStore)], accesses := 1 }

theorem full_clear : ∃ c, fullState.clear (atomSpec sealingAtom) (fullState.atomFails sealingAtom) = some c ∧ c.part ≠ 0 ∧
    c.publishDemand = [] ∧ c.w.logFree = some 1 := by
  have h : ((fullState.clear (atomSpec sealingAtom) (fullState.atomFails sealingAtom)).any fun c =>
      c.part != 0 && c.publishDemand == [] && c.w.logFree == some 1) = true := by decide +kernel
  cases hc : fullState.clear (atomSpec sealingAtom) (fullState.atomFails sealingAtom) with
  | none => rw [hc] at h; cases h
  | some c =>
    rw [hc] at h
    simp only [Option.any_some, Bool.and_eq_true, bne_iff_ne, beq_iff_eq] at h
    obtain ⟨⟨hp, hforce⟩, hfree⟩ := h
    exact ⟨c, rfl, hp, hforce, hfree⟩

/-- The seal moves the store to the next phase, so that it may enter the journal once the sealed lines have drained. -/
theorem full_moves {t : State} (h : exec (.atom sealingAtom) fullState = .next t) :
    (spFind (t.wave fullState.cur).log 0).map LogEntry.phase = some 1 := by
  have hphase : (match exec (.atom sealingAtom) fullState with
    | .next u => (spFind (u.wave fullState.cur).log 0).map LogEntry.phase == some 1
    | _ => false) = true := by decide +kernel
  rw [h] at hphase
  simpa using hphase

/-- Refutes O27: ATOM.rel in the handler of JOURNAL_FULL seals the journal, and the seal moves the store set aside in another entry of
the wave's log to the next phase, while the statement leaves every other entry as it was. -/
theorem not_memoryAccessesAreLogged : ¬ Obligations.MemoryAccessesAreLogged := by
  intro h
  obtain ⟨-, -, hatom, -⟩ := h sealingAtom
  obtain ⟨c, hc, hp, hforce, hfree⟩ := full_clear
  obtain ⟨t, k, ht, hk, hlog⟩ := (hatom fullState c hc).1 hp fun _ => hforce
  obtain rfl : 1 = k := Option.some.inj (hfree.symm.trans hk)
  have hentry : spFind (t.wave fullState.cur).log 0 = some fullStore := hlog.entry 0
  have hmoved := full_moves ht
  rw [hentry] at hmoved
  cases hmoved

end Sys2Proof.Machine
end

section
/-! Every step answers a next state: the obligation O58. -/

namespace Sys2Proof.Machine

open Sys2Proof

/-- Every instruction and every step of the device answers a next state (08 R232, 24 R413): each arm of `exec` is one. -/
theorem exec_goesOn (i : Instr) (s : State) : ∃ t, exec i s = .next t := by
  cases i <;> exact ⟨_, rfl⟩

/-- Settles O58: a step is the run of one instruction, or time passes. -/
theorem everyStepGoesOn : Obligations.EveryStepGoesOn := by
  intro s
  unfold State.GoesOn step
  split
  · exact ⟨_, rfl⟩
  · exact exec_goesOn _ _

end Sys2Proof.Machine
end

section
/-! TRAP, BREAK and TCLR (08 R231, R234): the obligation O34. -/

namespace Sys2Proof.Machine

open Sys2Proof

/-- A cause that is raised after a change of the wave which leaves its causes and what handler entry saved: it is taken in the handler, or
ends the block. -/
theorem raisesFrom_of_raise {i : Instr} {s u : State} {c : Ctx} {r : CauseRec} {b : Block} {v : Wave} (hb : u.block? s.cur = some b)
    (hl : u.launchOf b = some c.l) (hv : u.wave? s.cur = some v) (hwait : v.wait = none) (hsaved : v.saved = c.w.saved)
    (htcause : v.tcause = c.w.tcause) (hexec : exec i s = .next (u.raise s.cur r)) : RaisesFrom i s u c r := by
  refine ⟨_, hexec, fun hnone hentry => ?_, fun hnone hentry => ?_, fun x hx => ?_⟩
  · rw [raise_handler hb hl hv hwait (hsaved.trans hnone) hentry]
    exact handlerEntry_atHandler hv r _
  · rw [raise_no_handler hb hl hv (hsaved.trans hnone) hentry, htcause]
    exact blockFaulted_setCauses hb _ _
  · rw [raise_saved hv (hsaved.trans hx)]
    exact blockFaulted_setCauses hb _ _

/-- A cause that an instruction raises once it has issued. -/
theorem raisesFrom_issue {i : Instr} {s : State} {c : Ctx} {w : Wave} (h : Issuing s c w) (sp : Spec) {r : CauseRec}
    (hexec : exec i s = .next ((s.issue c sp).raise c.id r)) : RaisesFrom i s (s.issue c sp) c r := by
  rw [issue_eq, h.id] at hexec ⊢
  refine raisesFrom_of_raise (block?_modWave_self h.block _) h.launch (wave?_modWave_self h.wave _) ?_ ?_ ?_ hexec
  · rw [issued_fields]
  · rw [issued_fields, h.own]
  · rw [issued_fields, h.own]

section
variable {f : F16} {s : State} {c : Ctx} (hc : s.clear (trapSpec f) noFails = some c)
include hc

/-- With a participating lane the cause is raised with the active lanes and the immediate as its code. -/
theorem trapOp_raises (hp : c.part ≠ 0) {i : Instr} {cause : Nat} (hexec : exec i s = .next (trapOp f cause s)) :
    RaisesFrom i s (s.issue c (trapSpec f)) c ⟨cause, 0, c.addr, 0, c.active, c.idx, f.imm, 0, 2, c.w.accesses, false⟩ := by
  obtain ⟨w, hw⟩ := issuing_of_clear hc
  refine raisesFrom_issue hw (trapSpec f) ?_
  rw [hexec, trapOp, run_clear hc, if_neg hp]
  rfl

/-- Without one the instruction only goes on. -/
theorem trapOp_goesOn (hp : c.part = 0) {i : Instr} {cause : Nat} (hexec : exec i s = .next (trapOp f cause s)) :
    ∃ t, exec i s = .next t ∧ MoveOutcome s t c (fun _ => none) (fun _ => none) := by
  obtain ⟨hctx, hwait, -⟩ := clear_spec hc
  refine ⟨_, hexec, ?_⟩
  rw [trapOp, run_clear hc, if_pos hp]
  exact transfer_outcome hctx hwait (trapSpec f) fun _ => none

end

/-- A wave in which causes are cleared. -/
def Wave.uncaused (bits : W64) (w : Wave) : Wave := { w with tcause := w.tcause &&& ~~~bits }

/-- Clearing causes and issuing do not meet. -/
theorem uncaused_issued (c : Ctx) (sp : Spec) (bits : W64) (w : Wave) :
    (c.issued sp w).uncaused bits = c.issued sp (w.uncaused bits) := by
  unfold Ctx.issued
  cases sp.held <;> rfl

/-- An instruction that completes with a change of its wave which leaves its control state, its scalars and its flags, and does not meet
what issue changes. -/
theorem quick_waveEffect {s : State} {c : Ctx} {w : Wave} (h : Issuing s c w) (sp : Spec) (g : Wave → Wave) (sig : Nat)
    (hissued : ∀ w, g (c.issued sp w) = c.issued sp (g w)) (hcontrol : ∀ w, SameControl w (g w))
    (hkeeps : ∀ w, (g w).wait = w.wait ∧ (g w).s = w.s ∧ (g w).k = w.k) :
    DoneOutcome s (s.quick c sp (State.modWave · c.id g)) c (s.modWave s.cur g) none sig 0 := by
  obtain ⟨hwait, hscalars, hcounts⟩ := hkeeps w
  have hg := wave?_modWave_self h.wave g
  obtain ⟨hframe, hstill, hflags, hnext⟩ := advanced_of h (u := (s.modWave s.cur g).modWave s.cur (c.issued sp)) rfl
    (wave?_modWave_self hg (c.issued sp)) ((hcontrol w).trans (sameControl_issued c sp (g w)))
  have hquick : s.quick c sp (State.modWave · c.id g) = ((s.modWave s.cur g).modWave s.cur (c.issued sp)).advance s.cur := by
    unfold State.quick
    dsimp only
    rw [issue_eq, h.id, modWave_modWave, modWave_modWave]
    simp only [hissued]
  rw [still_issued c sp (hwait.trans h.wait)] at hstill
  rw [hquick]
  refine ⟨(onlyWave_modWave (s.modWave s.cur g) _).trans hframe, ?rest, fun n => ?scal, hnext, fun n _ => ?flag⟩
  case rest => rw [hstill, wave_eq_of_wave? hg]
  case scal =>
    rw [h.state]
    exact congrArg (spGet 0 · n) ((congrArg Wave.s hstill :).trans hscalars)
  case flag =>
    rw [h.state]
    unfold Wave.kget
    rw [hflags, flags_issued, hcounts, ite_self, Nat.add_zero]

/-- TCLR clears causes and completes. -/
theorem tclr_outcome (f : F) : ActResult (.tclr f) (tclrSpec f) (fun _ => noFails) (fun _ _ => True)
    (fun s c => s.modWave s.cur (Wave.uncaused (c.scalar f.a))) (fun _ _ => none) := by
  refine actResult_of_quick (fun _ => rfl) (fun _ _ hp => if_pos hp) fun s c w hw _ hp => ?_
  simp only [if_neg hp]
  exact quick_waveEffect hw (tclrSpec f) (Wave.uncaused (c.scalar f.a)) _ (uncaused_issued c _ _) (fun _ => ⟨rfl, rfl, rfl, rfl⟩)
    fun _ => ⟨rfl, rfl, rfl⟩

/-- Settles O34: both raise their cause once they have issued. -/
theorem softwareTraps : Obligations.SoftwareTraps :=
  ⟨fun _ _ _ hc => ⟨fun hp => ⟨trapOp_raises hc hp rfl, trapOp_raises hc hp rfl⟩,
    fun hp => ⟨trapOp_goesOn hc hp rfl, trapOp_goesOn hc hp rfl⟩⟩, tclr_outcome⟩

end Sys2Proof.Machine
end

section
/-! CALL and CALLI (08 R217-R219): the obligation O31. -/

namespace Sys2Proof.Machine

open Sys2Proof

/-! ### Headers read through the instruction cache (01 R26, 22 R377) -/

/-- Nothing but the instruction cache and the translations held differs. -/
def FetchOnly (s t : State) : Prop := ∃ ic hd, t = { s with icache := ic, held := hd }

theorem FetchOnly.refl (s : State) : FetchOnly s s := ⟨_, _, rfl⟩

theorem FetchOnly.trans {s t u : State} (h : FetchOnly s t) (k : FetchOnly t u) : FetchOnly s u := by
  obtain ⟨_, _, rfl⟩ := h
  obtain ⟨ic, hd, rfl⟩ := k
  exact ⟨ic, hd, rfl⟩

theorem fetchOnly_readCode (s : State) (core asid tenant : Nat) (va : W64) : FetchOnly s (s.readCode core asid tenant va) := by
  unfold State.readCode
  split
  · unfold State.touchLine
    split
    · exact .refl s
    · exact ⟨_, _, rfl⟩
  · exact ⟨_, _, rfl⟩
  · split
    · exact .refl s
    · unfold State.insertLine State.hold
      split
      · exact ⟨_, _, rfl⟩
      · dsimp only
        split <;> exact ⟨_, _, rfl⟩

theorem fetchOnly_readHeaders (s : State) (sp : Spec) (own : Ctx → List Fail) (t : Ctx → Nat → W64) :
    FetchOnly s (s.readHeaders sp own t) := by
  unfold State.readHeaders
  split
  · exact .refl s
  · split
    · exact .refl s
    · exact rel_foldl .refl .trans (fun s a => fetchOnly_readCode s _ _ _ a) _ s

/-- The checks of an instruction do not depend on the cache. -/
theorem FetchOnly.clear {s u : State} (h : FetchOnly s u) (sp : Spec) (own : Ctx → List Fail) : u.clear sp own = s.clear sp own := by
  obtain ⟨_, _, rfl⟩ := h; rfl

theorem FetchOnly.wave? {s u : State} (h : FetchOnly s u) (id : WaveId) : u.wave? id = s.wave? id := by
  obtain ⟨_, _, rfl⟩ := h; rfl

theorem FetchOnly.cur {s u : State} (h : FetchOnly s u) : u.cur = s.cur := by
  obtain ⟨_, _, rfl⟩ := h; rfl

/-! ### The wave after a result of fixed latency has issued -/

theorem fixedWave_eq (c : Ctx) (sp : Spec) (ws : List RegWrite) (flags : W32) (w : Wave) : c.fixedWave sp ws flags w =
    { (((c.writer sp).writeRegs ws (c.issued sp w)).flagUp sp.ctl.sig.toNat) with
      inflight := ((c.writer sp).writeRegs ws (c.issued sp w)).inflight ++
        [⟨ws.map fun x => ⟨x.reg, x.lane, (c.issued sp w).regGet x.reg x.lane⟩, sp.lat, sp.ctl.sig.toNat, flags, false⟩] } := rfl

/-- A result of fixed latency moves no lane and leaves the meeting registers. -/
theorem control_kept_fixedWave (c : Ctx) (sp : Spec) (ws : List RegWrite) (flags : W32) (w : Wave) :
    SameControl w (c.fixedWave sp ws flags w) ∧ (c.fixedWave sp ws flags w).meet = w.meet := by
  rw [fixedWave_eq, flagUp_moved, writeRegs_files, issued_fields]
  exact ⟨⟨rfl, rfl, rfl, rfl⟩, rfl⟩

theorem flight_fixedWave (c : Ctx) (sp : Spec) (ws : List RegWrite) (flags : W32) (w : Wave) :
    (c.fixedWave sp ws flags w).inflight.getLast?.map (fun p => (p.short, p.sig, p.flags, p.landed)) =
      some (sp.lat, sp.ctl.sig.toNat, flags, false) := by
  rw [fixedWave_eq]
  simp

theorem sameControl_setMeets (w : Wave) (lanes : BitVec 32) (v : Nat → W64) : SameControl w (w.setMeets lanes v) := by
  rw [setMeets_fields]; exact ⟨rfl, rfl, rfl, rfl⟩

/-! ### Completion at targets (01 R20, R21; 08 R212) -/

/-- What the completion of an instruction whose lanes go to targets leaves. -/
structure Arrived (s u t : State) (c : Ctx) (v : Wave) (go : Nat → Option W64) : Prop where
  frame : OnlyWave u t
  still : (t.wave s.cur).still = v.still
  flags : (t.wave s.cur).k = v.k
  flight : (t.wave s.cur).inflight = v.inflight
  pcs   : Moved s t c go
  held  : Meets c (s.wave s.cur) (t.wave s.cur)

theorem arrived_finish {s u : State} {c : Ctx} {w v : Wave} (h : Issuing s c w) (hcur : u.cur = s.cur) (hu : u.wave? s.cur = some v)
    (hv : SameControl w v) (go : Nat → Option W64) : Arrived s u (u.finish s.cur go) c v go := by
  obtain ⟨cl, tv, ts, yd, yi, he⟩ := wave?_finish hu go
  have ht := wave_eq_of_wave? he
  have hact : c.active = v.active := h.active.trans hv.active.symm
  have harr : ∀ x k, arrives c v x k = arrives c w x k := fun x k => by unfold arrives; rw [hv.held]
  refine ⟨hcur ▸ onlyWave_finish u go, by rw [ht]; rfl, by rw [ht]; rfl, by rw [ht]; rfl, fun l hl => ?pcs, fun l hl => ?held⟩
  case pcs =>
    rw [ht, h.state, hact]
    refine (pcAt_complete v go hl).trans ?_
    unfold Wave.pcAt
    rw [hv.pc]
  case held =>
    rw [ht, h.state]
    have hheld := held_complete c v hact go hl
    simp only [harr, hv.exited] at hheld
    exact hheld

/-! ### The call (08 R218) -/

/-- What a call does to its wave before its lanes go on. -/
def Ctx.called (c : Ctx) (sp : Spec) (d : BitVec 10) (w : Wave) : Wave :=
  (c.fixedWave sp (c.links d) 0 w).setMeets c.part fun _ => c.addr + 8

/-- A call changes what a result of fixed latency changes, and meeting registers. -/
theorem called_fields (c : Ctx) (sp : Spec) (d : BitVec 10) (w : Wave) :
    c.called sp d w = { (c.fixedWave sp (c.links d) 0 w) with meet := (c.called sp d w).meet } := setMeets_fields _ _ _

theorem sameControl_called (c : Ctx) (sp : Spec) (d : BitVec 10) (w : Wave) : SameControl w (c.called sp d w) :=
  (control_kept_fixedWave c sp _ 0 w).1.trans (sameControl_setMeets _ _ _)

theorem meetAt_called (c : Ctx) (sp : Spec) (d : BitVec 10) (w : Wave) (l : Nat) :
    (c.called sp d w).meetAt l = if c.part.getLsbD l then c.addr + 8 else w.meetAt l := by
  unfold Ctx.called
  rw [meetAt_setMeets]
  unfold Wave.meetAt
  rw [(control_kept_fixedWave c sp _ 0 w).2]

theorem regGet_called (c : Ctx) (sp : Spec) (d : BitVec 10) (w : Wave) (r : RegRef) (l : Nat) :
    (c.called sp d w).regGet r l = (c.fixedWave sp (c.links d) 0 w).regGet r l := by
  rw [called_fields]
  cases r <;> rfl

theorem rest_called (c : Ctx) (sp : Spec) (d : BitVec 10) {w : Wave} (hw : w.wait = none) :
    (c.called sp d w).still.noMeet.bare = w.still.noMeet.bare := by
  rw [called_fields]
  exact congrArg Wave.noMeet (rest_fixedWave hw c (c.links d) sp 0)

/-- The machine in which a call has issued and its lanes have not gone on. -/
def State.linked (s : State) (c : Ctx) (sp : Spec) (d : BitVec 10) : State :=
  (s.fixed c sp (c.links d) 0).modWave c.id (Wave.setMeets · c.part fun _ => c.addr + 8)

theorem enterFn_eq (s : State) (c : Ctx) (sp : Spec) (d : BitVec 10) (t : Nat → W64) : s.enterFn c sp d t =
    (s.linked c sp d).finish c.id (c.jump true fun l => t l + 8) := by
  rw [← jump_true]
  rfl

theorem wave?_linked {s : State} {c : Ctx} {w : Wave} (h : s.wave? c.id = some w) (sp : Spec) (d : BitVec 10) :
    (s.linked c sp d).wave? c.id = some (c.called sp d w) := wave?_modWave_self (wave?_fixed h sp _ 0) _

theorem onlyWave_linked {s : State} {c : Ctx} (hid : c.id = s.cur) (sp : Spec) (d : BitVec 10) : OnlyWave s (s.linked c sp d) := by
  unfold State.linked
  rw [fixed_eq, issue_eq, hid]
  exact (onlyWave_modWave s _).trans ((onlyWave_modWave _ _).trans (onlyWave_modWave _ _))

/-- What CALL and CALLI do, `u` being the machine with the headers read. -/
theorem call_outcome {s u : State} {c : Ctx} {w : Wave} (h : Issuing s c w) (hu : FetchOnly s u) {sp : Spec} (hlat : sp.lat = 4)
    (d : BitVec 10) (t : Nat → W64) : CallOutcome s u (u.enterFn c sp d t) c sp (c.links d) t := by
  have hcalled : (u.linked c sp d).wave? s.cur = some (c.called sp d w) :=
    h.id ▸ wave?_linked ((hu.wave? c.id).trans (h.id ▸ h.wave)) sp d
  have honly := onlyWave_linked (h.id.trans hu.cur.symm) sp d
  obtain ⟨hframe, hstill, hflags, hflight, hpcs, hheld⟩ :=
    arrived_finish h (honly.cur.trans hu.cur) hcalled (sameControl_called c sp d w) (c.jump true fun l => t l + 8)
  rw [enterFn_eq, h.id]
  refine ⟨honly.trans hframe, ?rest, fun r l hr => ?regs, ?flight, fun n hn => ?flag, hpcs, fun l _ => ?meets, hheld⟩
  case rest =>
    rw [hstill, h.state]
    exact rest_called c sp d h.wait
  case regs =>
    rw [regGet_of_still hstill, h.state, regGet_called]
    exact regGet_fixedWave (laneWritesN_word c d 4 _) sp 0 w hr
  case flight =>
    have hlast := flight_fixedWave c sp (c.links d) 0 w
    rw [hlat] at hlast
    rw [hflight, called_fields]
    exact hlast
  case flag =>
    rw [h.state, ← kget_fixedWave c (c.links d) sp 0 w hn]
    unfold Wave.kget
    rw [hflags, called_fields]
  case meets =>
    rw [h.state]
    exact (congrArg (spGet meetNone · l) (congrArg Wave.meet hstill :)).trans (meetAt_called c sp d w l)

/-- A call runs in the machine in which the headers have been read. -/
theorem callResult_of {i : Instr} {sp : Spec} {first : Ctx → List Fail} {own : State → Ctx → List Fail} {d : BitVec 10}
    {target : Ctx → Nat → W64} (hlat : sp.lat = 4)
    (hexec : ∀ s, exec i s =
      .next (run sp (own s) noResume (fun c s => s.enterFn c sp d (target c)) (s.readHeaders sp first target))) :
    CallResult i sp first own d target := by
  intro s c hc
  obtain ⟨w, hw⟩ := issuing_of_clear hc
  have hread := fetchOnly_readHeaders s sp first target
  refine ⟨_, ?_, call_outcome hw hread hlat d (target c)⟩
  rw [hexec, run_clear ((hread.clear sp (own s)).trans hc)]

/-- Settles O31: the headers are read, then both are one call. -/
theorem calls : Obligations.Calls :=
  ⟨fun _ => callResult_of rfl fun _ => rfl, fun _ => callResult_of rfl fun _ => rfl⟩

end Sys2Proof.Machine
end

section
/-! TRET (08 R235, R237, R421): the obligations O35 and O36. -/

namespace Sys2Proof.Machine

open Sys2Proof

/-! ### A wave whose instruction has lanes -/

/-- A wave in which a lane participates has not exited. -/
theorem live_of_part {s : State} {ctl : Ctl} {c : Ctx} (hc : s.ctx ctl = some c) {w : Wave} (h : Issuing s c w) (hp : c.part ≠ 0) :
    w.live ≠ 0 := by
  obtain ⟨l, hl⟩ := List.exists_mem_of_ne_nil _ (lanesOf_ne_nil hp)
  have hactive := ctx_part hc h.wave h.wait (mem_lanesOf.mp hl)
  have hl32 : l < 32 := BitVec.lt_of_getLsbD hactive
  rw [h.active] at hactive
  unfold Wave.active Wave.atPc Wave.runnable at hactive
  rw [getLsbD_maskOf _ hl32] at hactive
  intro hdead
  unfold Wave.live at hdead
  simp [hdead] at hactive

/-! ### TRET leaves its slot and its clause -/

/-- The machine in which TRET has issued and its clause has ended. -/
def State.returning (s : State) (c : Ctx) (f : F) : State := (s.issue c (tretSpec f)).endClause s.cur

/-- What TRET does with a participating lane. -/
theorem exec_tret {f : F} {s : State} {c : Ctx} {w : Wave} {v : Saved} (hc : s.clear (tretSpec f) tretFails = some c) (h : Issuing s c w)
    (hp : c.part ≠ 0) (hsaved : w.saved = some v) : exec (.tret f) s =
      .next (if w.tcause ≠ 0 then (s.returning c f).reenter s.cur else (s.returning c f).resume s.cur v (c.sreg 125 == 2)) := by
  have hcs : c.w.saved = some v := by rw [h.own]; exact hsaved
  have hct : c.w.tcause = w.tcause := by rw [h.own]
  rw [show exec (.tret f) s = .next (run (tretSpec f) tretFails noResume _ s) from rfl, run_clear hc, hcs]
  dsimp only
  rw [if_neg hp, hct, h.id]
  rfl

theorem not_mem_running_returning (s : State) (c : Ctx) (f : F) : s.cur ∉ (s.returning c f).running := not_mem_running_leave _ _

section
variable {f : F} {s : State} {c : Ctx} {w : Wave} (h : Issuing s c w)
include h

theorem onlyWave_returning : OnlyWave s (s.returning c f) := by
  unfold State.returning
  rw [issue_eq, h.id]
  exact (onlyWave_modWave s _).trans (onlyWave_endClause (s.modWave s.cur _))

theorem wave?_returning : (s.returning c f).wave? s.cur = some (c.issued (tretSpec f) w).ended := by
  unfold State.returning State.endClause
  rw [issue_eq, h.id, wave?_leave]
  refine wave?_modWave_self (w := c.issued (tretSpec f) w) ?_ _
  rw [wave?_of_block _ _ (fun b => { b with retired := min (b.retired + 1) 0xFFFFFFFF }) (fun _ => rfl)]
  exact wave?_modWave_self h.wave _

/-- The block still runs the same launch. -/
theorem block?_returning : ∃ b, (s.returning c f).block? s.cur = some b ∧ (s.returning c f).launchOf b = some c.l := by
  have honly := onlyWave_returning (f := f) h
  have hshell := honly.shells s.cur
  rw [h.block] at hshell
  obtain ⟨b, hb, hsh⟩ := Option.map_eq_some_iff.mp hshell
  refine ⟨b, hb, ?_⟩
  unfold State.launchOf State.launch?
  rw [honly.machine, show b.launch = c.b.launch from (congrArg Block.launch hsh :)]
  exact h.launch

end

/-- What issue and the end of the clause leave of the wave. -/
theorem returning_fields (c : Ctx) (f : F) (w : Wave) : (c.issued (tretSpec f) w).ended = { w with
    inflight := (c.issued (tretSpec f) w).inflight, wait := none, clause := ⟨0, 0, 0⟩, trivet := [], trivSet := [], yieldDue := false
    yielding := w.yielding || w.yieldDue || headerYield w.clause.header } := by
  rw [issued_fields]; rfl

/-! ### What handler entry saved is restored (08 R235) -/

/-- A wave with what handler entry saved, before its scalars return and meeting points are released. -/
def Wave.restoring (w : Wave) (v : Saved) : Wave :=
  { w with
    pc := v.pc, meet := v.meet, held := v.held &&& ~~~w.exited, clause := v.clause, trivSet := v.trivSet, trivet := v.trivet,
    wait := v.wait, saved := none, handler := false, record := none
    group := v.group &&& ~~~w.exited, groupLen := v.groupLen, rotated := v.rotated && (v.group &&& w.exited) == 0
    skipAt := v.skipAt, yieldDue := v.yieldDue, issues := v.issues, last := v.last }

/-- Scalars from s120 on. -/
def Wave.setHigh (w : Wave) (xs : List W64) : Wave := ((List.range 8).zip xs).foldl (fun w e => w.sset (120 + e.1) e.2) w

theorem restoreSaved_eq (w : Wave) (v : Saved) : w.restoreSaved v = ((w.restoring v).setHigh v.high).release := rfl

theorem setHigh_fields (w : Wave) (xs : List W64) : w.setHigh xs = { w with s := (w.setHigh xs).s } := by
  unfold Wave.setHigh
  induction (List.range 8).zip xs using List.reverseRecOn with
  | nil => rfl
  | append_singleton es e ih => rw [List.foldl_append, List.foldl_cons, List.foldl_nil, ih]; rfl

/-- The scalars that a run of writes from a number on leaves. -/
theorem sget_foldl_sset (xs : List W64) (k : Nat) (w : Wave) (n : Nat) :
    (((List.range' k xs.length).zip xs).foldl (fun w e => w.sset (120 + e.1) e.2) w).sget n =
      if 120 + k ≤ n ∧ n < 120 + k + xs.length then xs.getD (n - (120 + k)) 0 else w.sget n := by
  induction xs generalizing k w with
  | nil => rw [if_neg (by simp)]; rfl
  | cons x xs ih =>
    rw [List.length_cons, List.range'_succ, List.zip_cons_cons, List.foldl_cons, ih, sget_sset]
    by_cases hn : 120 + k = n
    · subst hn
      rw [if_neg (by omega), if_pos rfl, if_pos (by omega), Nat.sub_self]
      rfl
    · rw [if_neg hn]
      by_cases hin : 120 + (k + 1) ≤ n ∧ n < 120 + (k + 1) + xs.length
      · rw [if_pos hin, if_pos (by omega), show n - (120 + k) = n - (120 + (k + 1)) + 1 by omega]
        rfl
      · rw [if_neg hin, if_neg (by omega)]

theorem sget_setHigh (w : Wave) {xs : List W64} (hxs : xs.length = 8) (n : Nat) :
    (w.setHigh xs).sget n = if 120 ≤ n ∧ n < 128 then xs.getD (n - 120) 0 else w.sget n := by
  have hfold := sget_foldl_sset xs 0 w n
  rw [hxs, ← List.range_eq_range'] at hfold
  exact hfold

/-- Beside its scalars and the threads it holds, a restored wave is as it was saved. -/
theorem restoreSaved_rest (w : Wave) (v : Saved) :
    ({ (w.restoreSaved v) with s := [], held := 0, last := [] } : Wave) = { (w.restoring v) with s := [], held := 0, last := [] } := by
  rw [restoreSaved_eq, setHigh_fields]; rfl

/-- The scalars of a restored wave. -/
theorem sget_restoreSaved (w : Wave) {v : Saved} (hv : v.high.length = 8) (n : Nat) :
    (w.restoreSaved v).sget n = if 120 ≤ n ∧ n < 128 then v.high.getD (n - 120) 0 else w.sget n :=
  sget_setHigh (w.restoring v) hv n

/-- The threads that a restored wave holds: those saved, but for the exited and the released ones (01 R21). -/
theorem held_restoreSaved (w : Wave) (v : Saved) {l : Nat} (hl : l < 32) : (w.restoreSaved v).held.getLsbD l = true ↔
    v.held.getLsbD l = true ∧ w.exited.getLsbD l = false ∧ ∃ k, k < 32 ∧ (w.restoreSaved v).meetAt k = (w.restoreSaved v).meetAt l ∧
      w.exited.getLsbD k = false ∧ v.held.getLsbD k = false := by
  have hheld : ∀ k, k < 32 → ((w.restoring v).setHigh v.high).held.getLsbD k = (v.held.getLsbD k && !w.exited.getLsbD k) := fun k hk => by
    rw [setHigh_fields]
    change (v.held &&& ~~~w.exited).getLsbD k = _
    simp [hk]
  have hexited : ((w.restoring v).setHigh v.high).exited = w.exited := by rw [setHigh_fields]; rfl
  rw [restoreSaved_eq, held_release _ hl, hheld l hl, hexited, Bool.and_eq_true, Bool.not_eq_true', and_assoc]
  refine and_congr_right fun _ => and_congr_right fun _ => exists_congr fun k => and_congr_right fun hk => and_congr_right fun _ => ?_
  rw [hheld k hk]
  cases w.exited.getLsbD k <;> simp

/-! ### The wave resumes (08 R235, R421) -/

/-- Remembering the accesses of an ended handler changes what the wave has of ended handlers alone. -/
theorem remember_eq (s : State) (id : WaveId) (v : Saved) :
    ∃ past : Wave → List (Nat × Nat × Nat), s.remember id v = s.modWave id fun w => { w with past := past w } := by
  unfold State.remember
  dsimp only
  split
  · exact ⟨_, rfl⟩
  · split
    · exact ⟨_, rfl⟩
    · exact ⟨Wave.past, (modWave_id s id fun _ => rfl).symm⟩

/-- A wave that resumes what its handler interrupted, with what it remembers of ended handlers. -/
def Wave.resumed (v : Saved) (past : Wave → List (Nat × Nat × Nat)) (w : Wave) : Wave :=
  { (({ w with past := past w } : Wave).restoreSaved v) with hstart := 0, hcyc := 0, hpast := false, reissue := w.faultedEntries }

theorem resumeSlice_waves (b : Block) (clock : Nat) : (b.resumeSlice clock).waves = b.waves := by
  unfold Block.resumeSlice; split <;> rfl

/-- A live wave that interrupted no YIELD and has no access to issue again resumes, and its block's slice goes on. -/
theorem resume_eq {s : State} {id : WaveId} {w : Wave} {v : Saved} (hw : s.wave? id = some w) (hlive : w.live ≠ 0)
    (hyield : ∀ g, v.wait ≠ some (.yield g)) (hfaulted : w.faultedEntries = []) :
    ∃ past, s.resume id v false = (s.modWave id (Wave.resumed v past)).modBlock id (Block.resumeSlice · s.clock) := by
  obtain ⟨past, hpast⟩ := remember_eq s id v
  refine ⟨past, ?_⟩
  obtain ⟨b, hb, hbw⟩ := wave?_some hw
  let u := (s.modWave id (Wave.resumed v past)).modBlock id (Block.resumeSlice · s.clock)
  have hwave : u.wave? id = some (w.resumed v past) :=
    (wave?_of_block _ _ _ (fun b => resumeSlice_waves b s.clock) id).trans (wave?_modWave_self hw _)
  have hrestored : ((s.remember id v).modWave id fun w =>
      { (w.restoreSaved v) with hstart := 0, hcyc := 0, hpast := false, reissue := w.faultedEntries }) =
      s.modWave id (Wave.resumed v past) := by
    rw [hpast, modWave_modWave]; rfl
  have hreissue : (u.wave id).reissue = [] := by rw [wave_eq_of_wave? hwave]; exact hfaulted
  obtain ⟨b', hb', hbw'⟩ := wave?_some hwave
  have hwaits : ∃ e ∈ b'.liveWaves, e.2.yieldSig = none ∨ e.2.reissue ≠ [] := by
    refine ⟨(id.wave, w.resumed v past), List.mem_filter.mpr ⟨mem_of_spFind hbw', ?_⟩, .inl ?_⟩
    · have hexited : (w.resumed v past).exited = w.exited := (congrArg Wave.exited (restoreSaved_rest { w with past := past w } v) :)
      have : (w.resumed v past).live ≠ 0 := by unfold Wave.live; rw [hexited]; exact hlive
      simpa using this
    · have hwait : (w.resumed v past).wait = v.wait := (congrArg Wave.wait (restoreSaved_rest { w with past := past w } v) :)
      unfold Wave.yieldSig
      split
      · rename_i g hg
        exact absurd (hwait.symm.trans hg) (hyield g)
      · rfl
  have hsettle : u.settleSlice id = u := settleSlice_waits hb' hwaits
  unfold State.resume
  rw [hrestored]
  dsimp only [State.modWave_clock]
  rw [show (((s.modWave id (Wave.resumed v past)).modBlock id (Block.resumeSlice · s.clock)).wave id).reissue = [] from hreissue]
  exact hsettle

/-- What a wave resumes with beside its scalars and the threads it holds. -/
theorem resumed_rest (v : Saved) (past : Wave → List (Nat × Nat × Nat)) (w : Wave) :
    (w.resumed v past).pc = v.pc ∧ (w.resumed v past).meet = v.meet ∧ (w.resumed v past).clause = v.clause ∧
      (w.resumed v past).trivet = v.trivet ∧ (w.resumed v past).wait = v.wait ∧ (w.resumed v past).saved = none ∧
      (w.resumed v past).handler = false ∧ (w.resumed v past).v = w.v ∧ (w.resumed v past).x = w.x ∧ (w.resumed v past).p = w.p ∧
      (w.resumed v past).k = w.k := by
  have hrest := restoreSaved_rest { w with past := past w } v
  exact ⟨(congrArg Wave.pc hrest :), (congrArg Wave.meet hrest :), (congrArg Wave.clause hrest :), (congrArg Wave.trivet hrest :),
    (congrArg Wave.wait hrest :), (congrArg Wave.saved hrest :), (congrArg Wave.handler hrest :), (congrArg Wave.v hrest :),
    (congrArg Wave.x hrest :), (congrArg Wave.p hrest :), (congrArg Wave.k hrest :)⟩

/-- The scalars that a wave resumes with. -/
theorem sget_resumed {v : Saved} (hv : v.high.length = 8) (past : Wave → List (Nat × Nat × Nat)) (w : Wave) (n : Nat) :
    (w.resumed v past).sget n = if 120 ≤ n ∧ n < 128 then v.high.getD (n - 120) 0 else w.sget n :=
  sget_restoreSaved { w with past := past w } hv n

/-- The threads that a wave resumes with at their meeting points. -/
theorem held_resumed (v : Saved) (past : Wave → List (Nat × Nat × Nat)) (w : Wave) {l : Nat} (hl : l < 32) :
    (w.resumed v past).held.getLsbD l = true ↔ v.held.getLsbD l = true ∧ w.exited.getLsbD l = false ∧
      ∃ k, k < 32 ∧ (w.resumed v past).meetAt k = (w.resumed v past).meetAt l ∧ w.exited.getLsbD k = false ∧ v.held.getLsbD k = false :=
  held_restoreSaved { w with past := past w } v hl

/-- What a return leaves of the machine: only its block's waves and the count of its slice differ. -/
structure Returned (s t : State) (y : Wave) : Prop where
  mem    : t.mem = s.mem
  slot   : s.cur ∉ t.running
  others : ∀ u, otherWave s u → t.wave? u = s.wave? u
  wave   : t.wave s.cur = y

theorem Returned.of_frame {s t u : State} {y : Wave} (h : Returned s t y) (hmem : u.mem = t.mem) (hrunning : u.running = t.running)
    (hwave : ∀ i, u.wave? i = t.wave? i) : Returned s u y :=
  ⟨hmem.trans h.mem, hrunning ▸ h.slot, fun i hi => (hwave i).trans (h.others i hi),
    (congrArg (fun w : Option Wave => w.getD {}) (hwave s.cur)).trans h.wave⟩

theorem returned_modWave {f : F} {s : State} {c : Ctx} {w : Wave} (h : Issuing s c w) (g : Wave → Wave) :
    Returned s ((s.returning c f).modWave s.cur g) (g (c.issued (tretSpec f) w).ended) := by
  have honly := onlyWave_returning (f := f) h
  have hset : OnlyWave (s.returning c f) ((s.returning c f).modWave s.cur g) := onlyWave_modWave (s.returning c f) g
  exact ⟨honly.mem, not_mem_running_returning s c f, (honly.trans hset).others, wave_modWave_self (wave?_returning h) g⟩

/-- TRET with nothing left to do in its handler. -/
theorem tret_resumes {f : F} {s : State} {c : Ctx} {w : Wave} {v : Saved} (hc : s.clear (tretSpec f) tretFails = some c)
    (h : Issuing s c w) (hp : c.part ≠ 0) (hsaved : w.saved = some v) (htcause : w.tcause = 0) (hs125 : c.sreg 125 = 0)
    (hfaulted : w.faultedEntries = []) (hyield : ∀ g, v.wait ≠ some (.yield g)) :
    ∃ t past, exec (.tret f) s = .next t ∧ Returned s t ((c.issued (tretSpec f) w).ended.resumed v past) := by
  have hfields := returning_fields c f w
  have hwlive := live_of_part (clear_spec hc).1 h hp
  have hlive : (c.issued (tretSpec f) w).ended.live ≠ 0 := by
    rw [hfields]
    exact hwlive
  have hnone : (c.issued (tretSpec f) w).ended.faultedEntries = [] := by
    rw [hfields]
    exact hfaulted
  obtain ⟨past, hresume⟩ := resume_eq (wave?_returning h) hlive hyield hnone
  refine ⟨(s.returning c f).resume s.cur v false, past, ?_, ?_⟩
  · rw [exec_tret hc h hp hsaved, if_neg (not_not_intro htcause), hs125]
    rfl
  · rw [hresume]
    exact (returned_modWave h _).of_frame rfl rfl (wave?_of_block _ _ _ fun b => resumeSlice_waves b _)

/-- Settles O35: TRET ends its clause, and the wave takes back what handler entry saved. -/
theorem returnFromHandler : Obligations.ReturnFromHandler := by
  intro f s c v hc hp hsaved hhigh htcause hs125 hfaulted hyield
  obtain ⟨w, h⟩ := issuing_of_clear hc
  rw [h.state] at hsaved htcause hfaulted ⊢
  obtain ⟨t, past, hexec, hmem, hslot, hothers, hwave⟩ := tret_resumes hc h hp hsaved htcause hs125 hfaulted hyield
  obtain ⟨hpc, hmeet, hclause, htrivet, hwait, hnone, hhandler, hv, hx, hpreds, hk⟩ :=
    resumed_rest v past (c.issued (tretSpec f) w).ended
  have hfields := returning_fields c f w
  refine ⟨t, hexec, hmem, hslot, hothers, ?_⟩
  rw [hwave]
  refine ⟨hpc, hmeet, fun l hl => ?held, hclause, htrivet, hwait, hnone, hhandler, fun i hi => ?high, fun n hn => ?low, ?v, ?x, ?p,
    fun n _ => ?flag⟩
  case held =>
    rw [← show (c.issued (tretSpec f) w).ended.exited = w.exited by rw [hfields]]
    exact held_resumed v past _ hl
  case high => rw [sget_resumed hhigh, if_pos (by omega), Nat.add_sub_cancel_left]
  case low => rw [sget_resumed hhigh, if_neg (by omega), hfields]; rfl
  case v => rw [hv, hfields]
  case x => rw [hx, hfields]
  case p => rw [hpreds, hfields]
  case flag =>
    unfold Wave.kget
    rw [hk, hfields]

/-! ### The handler is entered again (08 R235, R237) -/

/-- The record with which the handler is entered again: that of a faulted entry of the log which waits, else zeros. -/
def Wave.againRec (w : Wave) : CauseRec :=
  match w.record with
  | some r => if r.log then r else ⟨0, 0, 0, 0, 0, 0, 0, 0, 0, 0, false⟩
  | none => ⟨0, 0, 0, 0, 0, 0, 0, 0, 0, 0, false⟩

/-- A wave that enters its handler again. -/
def Wave.reentered (entry : W64) (w : Wave) : Wave :=
  { (w.handlerStart entry w.againRec) with saved := w.saved.map fun v => { v with entry := w.tcause }, record := none }

theorem reenter_eq {s : State} {id : WaveId} {b : Block} {l : Launch} (hb : s.block? id = some b) (hl : s.launchOf b = some l) :
    s.reenter id = (s.modWave id (Wave.reentered l.record.handler)).countCore id.core 0x103 1 := by
  unfold State.reenter
  rw [hb]
  dsimp only
  rw [hl]
  rfl

theorem coreR_countCore (s : State) (core n k : Nat) : (s.countCore core n k).coreR core n = satAdd (s.coreR core n) k :=
  spGet_spSet_same _ _ _ _

/-- TRET with causes left. -/
theorem tret_reenters {f : F} {s : State} {c : Ctx} {w : Wave} {v : Saved} (hc : s.clear (tretSpec f) tretFails = some c)
    (h : Issuing s c w) (hp : c.part ≠ 0) (hsaved : w.saved = some v) (htcause : w.tcause ≠ 0) :
    ∃ t, exec (.tret f) s = .next t ∧ Returned s t ((c.issued (tretSpec f) w).ended.reentered c.l.record.handler) ∧
      t.coreR s.cur.core 0x103 = satAdd (s.coreR s.cur.core 0x103) 1 := by
  obtain ⟨b, hb, hl⟩ := block?_returning (f := f) h
  have hcore : (s.returning c f).coreR s.cur.core 0x103 = s.coreR s.cur.core 0x103 := by rw [(onlyWave_returning h).machine]; rfl
  refine ⟨_, ?_, (returned_modWave h _).of_frame (u := ((s.returning c f).modWave s.cur
    (Wave.reentered c.l.record.handler)).countCore s.cur.core 0x103 1) rfl rfl fun _ => rfl, ?_⟩
  · rw [exec_tret hc h hp hsaved, if_pos htcause, reenter_eq hb hl]
  · rw [coreR_countCore, ← hcore]
    rfl

/-- The scalars and the program counters of a wave at its handler are those of a first entry. -/
theorem reentered_at_handler (entry : W64) (w : Wave) : (w.reentered entry).sget 120 = w.tcause ∧
    ∀ l, l < 32 → (w.reentered entry).pcAt l = if w.exited.getLsbD l then w.pcAt l else entry :=
  ⟨sget_entered w entry w.againRec 0 120, fun _ hl => pcAt_entered w entry w.againRec 0 hl⟩

/-- Settles O36: TRET ends its clause, and the wave stands at its handler again. -/
theorem returnWithCausesLeft : Obligations.ReturnWithCausesLeft := by
  intro f s c v hc hp hsaved htcause
  obtain ⟨w, h⟩ := issuing_of_clear hc
  rw [h.state] at hsaved htcause ⊢
  obtain ⟨t, hexec, ⟨hmem, hslot, hothers, hwave⟩, hcount⟩ := tret_reenters hc h hp hsaved htcause
  obtain ⟨hs120, hpcs⟩ := reentered_at_handler c.l.record.handler (c.issued (tretSpec f) w).ended
  have hfields := returning_fields c f w
  have hexited : (c.issued (tretSpec f) w).ended.exited = w.exited := by rw [hfields]
  refine ⟨t, hexec, hmem, hslot, hothers, ?_⟩
  rw [hwave]
  refine ⟨?s120, ?tcause, fun l hl => ?pcs, rfl, rfl, ?handler, ?saved, hcount⟩
  case s120 => rw [hs120, hfields]
  case tcause => rw [hfields]; rfl
  case pcs =>
    rw [hpcs l hl, hexited]
    split <;> rfl
  case handler => rw [hfields]; rfl
  case saved =>
    rw [hfields]
    change (w.saved.map _).map Saved.pc = _
    rw [hsaved]
    rfl

end Sys2Proof.Machine
end

section
/-! JOIN (08 R224, R226): the obligation O40. -/

namespace Sys2Proof.Machine

open Sys2Proof

/-! ### Scalar results one after another (05 R133) -/

/-- Whether an earlier fixed-latency result in flight keeps a scalar from a result of variable latency. -/
def Wave.keepsScalar (w : Wave) (tick n : Nat) : Bool :=
  !headerOrder w.clause.header && (w.inflight.any fun p => !p.landed && p.short != 0 && p.regs.any fun o => o.reg == .scal n) &&
    Config.freeBit tick (80000 + n)

theorem sget_giveS (w : Wave) (tick n k : Nat) (x : W64) :
    (w.giveS tick n x).sget k = if k = n ∧ w.keepsScalar tick n = false then x else w.sget k := by
  unfold Wave.giveS
  change (if w.keepsScalar tick n = true then w else _).sget k = _
  cases w.keepsScalar tick n with
  | true => simp
  | false =>
    simp only [Bool.false_eq_true, if_false, and_true]
    exact (sget_sset w n k x).trans (if_congr eq_comm rfl rfl)

/-- A scalar result does not decide what keeps another scalar. -/
theorem keepsScalar_giveS (w : Wave) (tick : Nat) {n m : Nat} (h : n ≠ m) (x : W64) :
    (w.giveS tick n x).keepsScalar tick m = w.keepsScalar tick m := by
  have hregs : ∀ regs : List OldReg, ((regs.filter fun o => !(o.reg == .scal n)).any fun o => o.reg == .scal m) =
      regs.any fun o => o.reg == .scal m := fun regs => by
    rw [List.any_filter]
    congr 1
    funext o
    by_cases ho : o.reg = .scal m
    · simp [ho, Ne.symm h]
    · simp [ho]
  unfold Wave.giveS
  dsimp only
  split
  · rfl
  · unfold Wave.keepsScalar
    simp only [List.any_map, Function.comp_def, hregs]
    rfl

/-- What keeps a scalar once an instruction has issued is what its context sees. -/
theorem keepsScalar_issued {s : State} {c : Ctx} {w : Wave} (h : Issuing s c w) (sp : Spec) (n : Nat) :
    (c.issued sp w).keepsScalar s.tick n = c.lateKeeps n := by
  have hs : (c.issued sp w).sget n = w.sget n := by rw [issued_fields]; rfl
  have hgiven := (sget_giveS _ _ _ _ _).symm.trans (sget_giveS_issued h sp n n (~~~w.sget n))
  have hne : ~~~w.sget n ≠ w.sget n := fun heq => by
    have := congrArg (BitVec.getLsbD · 0) heq
    simp at this
  unfold Ctx.given at hgiven
  rw [hs] at hgiven
  cases hk : (c.issued sp w).keepsScalar s.tick n <;> cases hl : c.lateKeeps n <;> simp [hk, hl, hne, hne.symm] at hgiven ⊢

/-! ### JOIN completes (08 R226) -/

/-- A wave in which JOIN has returned both its words. -/
def Wave.joined (f : F) (l : Launch) (tick : Nat) (w : Wave) : Wave :=
  (w.giveS tick (scalNo f.d) (BitVec.ofNat 64 (l.faulted * 2 ^ 32 + l.completed))).giveS tick (scalNo f.d + 1) l.statusWord

theorem joined_fields (f : F) (l : Launch) (tick : Nat) (w : Wave) :
    w.joined f l tick = { w with s := (w.joined f l tick).s, inflight := (w.joined f l tick).inflight } := by
  unfold Wave.joined
  rw [giveS_fields (w.giveS _ _ _), giveS_fields w]

theorem still_joined (f : F) (l : Launch) (tick : Nat) (w : Wave) : (w.joined f l tick).still.noScalars = w.still.noScalars := by
  rw [joined_fields]; rfl

theorem sget_joined_issued {s : State} {c : Ctx} {w : Wave} (h : Issuing s c w) (sp : Spec) (f : F) (l : Launch) (k : Nat) :
    ((c.issued sp w).joined f l s.tick).sget k =
      if k = scalNo f.d + 1 then c.given w (some (k, l.statusWord)) k
      else c.given w (some (scalNo f.d, BitVec.ofNat 64 (l.faulted * 2 ^ 32 + l.completed))) k := by
  unfold Wave.joined
  rw [sget_giveS, keepsScalar_giveS _ _ (Nat.succ_ne_self _).symm, keepsScalar_issued h, sget_giveS_issued h]
  unfold Ctx.given
  by_cases hk : k = scalNo f.d + 1
  · subst hk; simp
  · simp [hk]

/-- Freeing an entry and changing a wave do not meet. -/
theorem dropLaunch_modWave (s : State) (id : WaveId) (g : Wave → Wave) (n : Nat) :
    (s.modWave id g).dropLaunch n = (s.dropLaunch n).modWave id g := by
  cases hl : s.launch? n with
  | none =>
    unfold State.dropLaunch
    rw [hl, show (s.modWave id g).launch? n = none from hl]
  | some l =>
    rw [dropLaunch_eq hl, dropLaunch_eq (s := s.modWave id g) hl]
    unfold State.freeDevEntry
    split
    · rfl
    · split <;> rfl

/-- JOIN of a complete child: beside the freed entry, only its wave changes. -/
structure Joined (s t : State) (c : Ctx) (w : Wave) (f : F) (n : Nat) (l : Launch) : Prop where
  frame : OnlyWave (s.dropLaunch n) t
  still : (t.wave s.cur).still = ((c.issued (joinSpec f) w).joined f l s.tick).still
  flags : (t.wave s.cur).k = w.k
  next  : NextWord s t c

theorem joinDone_eq {s : State} {c : Ctx} {w : Wave} (h : Issuing s c w) (f : F) {n : Nat} {l : Launch} (hl : s.launch? n = some l)
    (hfree : l.faulted = 0 ∨ f.m.getLsbD 0 = true ∨ c.w.tmask.getLsbD 25 = true) : (s.issue c (joinSpec f)).joinDone c f n false =
      ((s.dropLaunch n).modWave s.cur fun w => (c.issued (joinSpec f) w).joined f l s.tick).advance s.cur := by
  have hlaunch : (s.issue c (joinSpec f)).launch? n = some l := hl
  have hmasked : ¬ (l.faulted ≠ 0 ∧ f.m.getLsbD 0 = false ∧ c.w.tmask.getLsbD 25 = false) := by
    rintro ⟨hfaulted, hbit, hmask⟩
    rcases hfree with h0 | h0 | h0
    · exact hfaulted h0
    · rw [hbit] at h0; cases h0
    · rw [hmask] at h0; cases h0
  unfold State.joinDone
  rw [hlaunch]
  dsimp only
  rw [if_neg Bool.false_ne_true, if_neg hmasked, ← dropLaunch_modWave, h.id]
  unfold State.setS
  rw [issue_eq, h.id, modWave_modWave, modWave_modWave]
  rfl

theorem join_done {s : State} {c : Ctx} {w : Wave} (h : Issuing s c w) (f : F) {n : Nat} {l : Launch} (hl : s.launch? n = some l)
    (hfree : l.faulted = 0 ∨ f.m.getLsbD 0 = true ∨ c.w.tmask.getLsbD 25 = true) :
    Joined s ((s.issue c (joinSpec f)).joinDone c f n false) c w f n l := by
  have hcur : (s.dropLaunch n).cur = s.cur := by rw [dropLaunch_eq hl]
  have hwave : (s.dropLaunch n).wave? s.cur = some w := by rw [dropLaunch_eq hl]; exact h.wave
  have hcontrol : SameControl w ((c.issued (joinSpec f) w).joined f l s.tick) :=
    (sameControl_issued c _ w).trans (by rw [joined_fields]; exact ⟨rfl, rfl, rfl, rfl⟩)
  obtain ⟨hframe, hstill, hflags, hnext⟩ := advanced_of h
    (u := (s.dropLaunch n).modWave s.cur fun w => (c.issued (joinSpec f) w).joined f l s.tick) hcur (wave?_modWave_self hwave _) hcontrol
  rw [joinDone_eq h f hl hfree]
  refine ⟨(hcur ▸ onlyWave_modWave (s.dropLaunch n) _ : OnlyWave _ _).trans hframe, hstill, ?_, hnext⟩
  rw [hflags, joined_fields]
  exact flags_issued c _ w

/-- JOIN with a participating lane completes or is held as its child is complete or not. -/
theorem exec_join {f : F} {s : State} {c : Ctx} {n : Nat} {l : Launch} (hc : s.clear (joinSpec f) (joinFails f s) = some c)
    (hp : c.part ≠ 0) (htarget : s.joinTarget c (c.scalar f.a) = some (n, l)) : exec (.join f) s =
      .next (if l.complete then (s.issue c (joinSpec f)).joinDone c f n false else s.await c (joinSpec f) (.join n l.gen)) := by
  rw [show exec (.join f) s = .next (run (joinSpec f) (joinFails f s) (joinResume f) _ s) from rfl, run_clear hc, if_neg hp, htarget]

/-- Settles O40: a complete child's entry is freed beside the two results; an incomplete one holds the wave. -/
theorem joiningChildren : Obligations.JoiningChildren := by
  intro f s c n l hc hp htarget hl
  obtain ⟨w, h⟩ := issuing_of_clear hc
  have hexec := exec_join hc hp htarget
  refine ⟨fun hcomplete hfree => ?_, fun hcomplete => ?_⟩
  · rw [if_pos hcomplete] at hexec
    obtain ⟨hframe, hstill, hflags, hnext⟩ := join_done h f hl hfree
    have hgone := hframe.machine
    refine ⟨_, hexec, hframe, hnext, ?rest, fun k => ?scal, fun k _ => ?flag, ?gone, fun hentry hhost => ?gen⟩
    case rest =>
      rw [hstill, h.state, still_joined, still_issued c (joinSpec f) h.wait]
    case scal =>
      rw [h.state, ← sget_joined_issued h]
      exact congrArg (spGet 0 · k) (congrArg Wave.s hstill :)
    case flag =>
      rw [h.state]
      exact congrArg (spGet 0 · k) hflags
    case gone =>
      rw [hgone]
      exact launch?_dropLaunch hl
    case gen =>
      rw [hgone, dropLaunch_eq hl]
      simp only [hhost, Bool.false_eq_true, if_false]
      exact devGen_freeDevEntry s l.die hentry
  · rw [if_neg (by simp [hcomplete])] at hexec
    obtain ⟨hframe, hwait, hslot, -, hregs, hflag⟩ := held_await h (joinSpec f) (.join n l.gen)
    exact ⟨_, hexec, hframe, hwait, hslot, fun k => hregs (.scal k) 0, hflag⟩

end Sys2Proof.Machine
end

section
/-! LAUNCH and LAUNCHT (08 R223-R225): the obligation O39. -/

namespace Sys2Proof.Machine

open Sys2Proof

/-! ### Operations that neither read nor write blocks -/

/-- An operation of the machine that neither reads nor writes its blocks. -/
def BlockBlind (φ : State → State) : Prop := ∀ s bs, φ (s.withBlocks bs) = (φ s).withBlocks bs

theorem BlockBlind.comp {φ ψ : State → State} (hφ : BlockBlind φ) (hψ : BlockBlind ψ) : BlockBlind fun s => ψ (φ s) :=
  fun s bs => (congrArg ψ (hφ s bs)).trans (hψ _ bs)

theorem BlockBlind.blocks {φ : State → State} (h : BlockBlind φ) (s : State) : (φ s).blocks = s.blocks :=
  (congrArg State.blocks (h s s.blocks) :)

theorem BlockBlind.wave? {φ : State → State} (h : BlockBlind φ) (s : State) (u : WaveId) : (φ s).wave? u = s.wave? u := by
  unfold State.wave? State.block?
  rw [h.blocks]

/-- Such an operation and a change of a wave do not meet. -/
theorem BlockBlind.modWave {φ : State → State} (h : BlockBlind φ) (s : State) (id : WaveId) (g : Wave → Wave) :
    φ (s.modWave id g) = (φ s).modWave id g := by
  refine (h s _).trans ?_
  unfold State.modWave State.modBlock
  rw [h.blocks]
  rfl

theorem blockBlind_foldl {α : Type} {g : State → α → State} (hg : ∀ a, BlockBlind (g · a)) (ls : List α) :
    BlockBlind (ls.foldl g ·) := fun _ bs =>
  List.foldl_hom (State.withBlocks · bs) (g₁ := g) (g₂ := g) fun s a => hg a s bs

theorem blockBlind_writeBytes (pa : Nat) (bs : List Byte) : BlockBlind (State.writeBytes · pa bs) := fun s blocks => by
  have hhome : ((s.withBlocks blocks).writeBytes pa bs).home = (s.writeBytes pa bs).home :=
    (writeBytes_home (s.withBlocks blocks) pa bs).trans (writeBytes_home s pa bs).symm
  have hmem : ((s.withBlocks blocks).writeBytes pa bs).mem = (s.writeBytes pa bs).mem := (congrArg State.mem hhome :)
  have hpoison : ((s.withBlocks blocks).writeBytes pa bs).poison = (s.writeBytes pa bs).poison := (congrArg State.poison hhome :)
  have hdigests : ((s.withBlocks blocks).writeBytes pa bs).digests = (s.writeBytes pa bs).digests := (congrArg State.digests hhome :)
  have hs : MemoryOnly s (s.writeBytes pa bs) := memoryOnly_writeBytes s pa bs
  have ht : MemoryOnly (s.withBlocks blocks) ((s.withBlocks blocks).writeBytes pa bs) := memoryOnly_writeBytes _ pa bs
  dsimp only
  rw [ht, hs, hmem, hpoison, hdigests]
  rfl

theorem blockBlind_writeHome (pa : Nat) (bs : List Byte) : BlockBlind (State.writeHome · pa bs) := fun s blocks => by
  have hheld : (s.withBlocks blocks).heldIn pa bs.length = s.heldIn pa bs.length := rfl
  unfold State.writeHome
  dsimp only
  rw [hheld]
  split
  · rfl
  · exact blockBlind_writeBytes pa bs s blocks

theorem blockBlind_writeWord (pages : List (Nat × Nat)) (a : Nat) (v : W64) : BlockBlind (State.writeWord · pages a v) := fun s blocks => by
  have hhome : ∀ (s : State) pa bs, (s.withBlocks blocks).writeHome pa bs = (s.writeHome pa bs).withBlocks blocks :=
    fun s pa bs => blockBlind_writeHome pa bs s blocks
  unfold State.writeWord
  dsimp only
  rw [hhome]
  split
  · rfl
  · rw [hhome]

theorem translateRange_withBlocks (s : State) (bs : Sparse Block) (asid tenant va n : Nat) (rights : List Nat) :
    (s.withBlocks bs).translateRange asid tenant va n rights = s.translateRange asid tenant va n rights := by
  rw [← translateRange_home s, ← translateRange_home (s.withBlocks bs)]
  rfl

theorem splitTable_withBlocks (s : State) (bs : Sparse Block) (r : Record) (asid t : Nat) :
    (s.withBlocks bs).splitTable r asid t = s.splitTable r asid t := by
  rw [← splitTable_home s, ← splitTable_home (s.withBlocks bs)]
  rfl

theorem rejectReason_withBlocks (s : State) (bs : Sparse Block) (r : Record) (asid t size : Nat) :
    (s.withBlocks bs).rejectReason r asid t size = s.rejectReason r asid t size := by
  rw [← rejectReason_home s, ← rejectReason_home (s.withBlocks bs)]
  rfl

theorem readRecord_withBlocks (s : State) (bs : Sparse Block) (asid t : Nat) (va : W64) :
    (s.withBlocks bs).readRecord asid t va = s.readRecord asid t va := by
  unfold State.readRecord
  rw [translateRange_withBlocks]
  rfl

theorem blockBlind_writeFixups (r : Record) (asid t : Nat) : BlockBlind (State.writeFixups · r asid t) := fun s blocks => by
  unfold State.writeFixups
  dsimp only
  rw [splitTable_withBlocks]
  split
  · rfl
  · split
    · rfl
    · exact blockBlind_foldl (fun _ => blockBlind_writeWord _ _ _) _ s blocks

theorem blockBlind_setPkgR (n : Nat) (v : W64) : BlockBlind (State.setPkgR · n v) := fun _ _ => rfl

theorem blockBlind_modLaunch (n : Nat) (g : Launch → Launch) : BlockBlind (State.modLaunch · n g) := fun _ _ => rfl

theorem blockBlind_countDemotion (fn : Nat) : BlockBlind (State.countDemotion · fn) := fun s blocks => by
  have hreg : ∀ n, (s.withBlocks blocks).pkgR n = s.pkgR n := fun _ => rfl
  dsimp only
  by_cases hfull : (s.pkgR (0x400 + fn)).extractLsb' 32 32 = BitVec.allOnes 32
  · rw [countDemotion_full hfull, countDemotion_full (by rw [hreg]; exact hfull)]
  · rw [countDemotion_counts hfull, countDemotion_counts (by rw [hreg]; exact hfull), hreg]
    exact blockBlind_setPkgR _ _ s blocks

theorem acceptedLaunch_withBlocks (s : State) (bs : Sparse Block) (r : Record) (q : Source) :
    (s.withBlocks bs).acceptedLaunch r q = s.acceptedLaunch r q := by
  unfold State.acceptedLaunch
  rw [rejectReason_withBlocks]
  rfl

theorem blockBlind_acceptLaunch (r : Record) (q : Source) : BlockBlind (State.acceptLaunch · r q) := fun s blocks => by
  have hlisted : ∀ l, (if l.demoted then ((s.withBlocks blocks).withLaunch l).countDemotion q.fn else (s.withBlocks blocks).withLaunch l) =
      (if l.demoted then (s.withLaunch l).countDemotion q.fn else s.withLaunch l).withBlocks blocks := fun l => by
    split
    · exact blockBlind_countDemotion q.fn (s.withLaunch l) blocks
    · rfl
  dsimp only
  rw [acceptLaunch_eq, acceptLaunch_eq, acceptedLaunch_withBlocks]
  dsimp only
  rw [hlisted]
  split
  · exact blockBlind_writeFixups r q.asid q.tenant _ blocks
  · rfl

theorem blockBlind_arriveAtDie (n die : Nat) : BlockBlind (State.arriveAtDie · n die) := fun s blocks => by
  have hlaunch : (s.withBlocks blocks).launch? n = s.launch? n := rfl
  unfold State.arriveAtDie
  dsimp only
  rw [hlaunch]
  split
  · rfl
  · split <;> rfl

theorem fixupsHeld_withBlocks (s : State) (bs : Sparse Block) (l : Launch) : (s.withBlocks bs).fixupsHeld l = s.fixupsHeld l := by
  unfold State.fixupsHeld
  rw [translateRange_withBlocks]
  rfl

theorem blockBlind_sendToDies (n : Nat) : BlockBlind (State.sendToDies · n) := fun s blocks => by
  have hlaunch : (s.withBlocks blocks).launch? n = s.launch? n := rfl
  unfold State.sendToDies
  dsimp only
  rw [hlaunch]
  split
  · rfl
  · refine blockBlind_foldl (fun d s bs => ?_) _ (s.modLaunch n fun l => l.travel s.dclk) blocks
    dsimp only
    rw [fixupsHeld_withBlocks]
    split
    · exact blockBlind_arriveAtDie n d s bs
    · rfl

/-! ### Submission (08 R223-R225) -/

/-- The frame of an acceptance and of a launch's way to its dies: the count of steps and the wave in the slot stay. -/
theorem accepted_frame (s : State) (r : Record) (q : Source) : (s.acceptLaunch r q).cur = s.cur ∧ (s.acceptLaunch r q).tick = s.tick := by
  obtain ⟨pk, h⟩ := acceptLaunch_frame s r q
  unfold SignalsOnly at h
  rw [h]
  exact ⟨rfl, rfl⟩

/-- An acceptance leaves every launch but its own. -/
theorem launch?_acceptLaunch_other (s : State) (r : Record) (q : Source) {n : Nat} (h : n ≠ s.nextLaunch) :
    (s.acceptLaunch r q).launch? n = s.launch? n := by
  obtain ⟨pk, hframe⟩ := acceptLaunch_frame s r q
  unfold State.launch?
  rw [hframe.launches]
  exact (spFind_spPut _ _ _ _).trans (if_neg h.symm)

/-- What LAUNCH or LAUNCHT does with a participating lane, where its record reads. -/
theorem run_launch {f : F} {s : State} {c : Ctx} {r : Record} (hc : s.clear (launchSpec f) (launchFails f s) = some c) (hp : c.part ≠ 0)
    (hread : s.readRecord c.l.asid c.l.tenant (c.scalar f.a) = .ok r) (g : Ctx → State → State) :
    s.unholdFail (run (launchSpec f) (launchFails f s) noResume
      (fun c s => s.quick c (launchSpec f) fun s => if c.part = 0 then s else g c s) s) f.ctl (launchLost f s) =
    s.quick c (launchSpec f) (g c) := by
  have hlost : launchLost f s c = none := by unfold launchLost; rw [hread]
  rw [unholdFail_none (show s.ctx f.ctl = some c from (clear_spec hc).1) hlost, run_clear hc]
  simp only [if_neg hp]

/-- A submission whose effect on the machine does not meet issue: that effect, and its result. -/
theorem submission_outcome {f : F} {s : State} {c : Ctx} {w : Wave} (h : Issuing s c w) {g φ : State → State} {x : W64}
    (hφ : BlockBlind φ) (hcur : (φ s).cur = s.cur) (htick : (φ s).tick = s.tick)
    (hg : g (s.issue c (launchSpec f)) = (φ (s.issue c (launchSpec f))).setS c.id (scalNo f.d) x) :
    DoneOutcome s (s.quick c (launchSpec f) g) c (φ s) (some (scalNo f.d, x)) f.ctl.sig.toNat 0 := by
  refine quick_outcome h (launchSpec f) g (some (scalNo f.d, x)) _ hcur ((hφ.wave? s s.cur).trans h.wave) ?_
  rw [hg, issue_eq, h.id, hφ.modWave]
  unfold State.setS
  rw [modWave_modWave, ← htick]
  rfl

theorem readRecord_issue {f : F} {s : State} {c : Ctx} {r : Record} (hread : s.readRecord c.l.asid c.l.tenant (c.scalar f.a) = .ok r) :
    (s.issue c (launchSpec f)).readRecord c.l.asid c.l.tenant (c.scalar f.a) = .ok r :=
  (readRecord_withBlocks s _ _ _ _).trans hread

theorem source_issue (s : State) (c : Ctx) (sp : Spec) (die entry : Nat) (tail : Bool) :
    c.source (s.issue c sp) die entry tail = c.source s die entry tail := rfl

section
variable {f : F} {s : State} {c : Ctx} {w : Wave} {r : Record} (h : Issuing s c w)
  (hread : s.readRecord c.l.asid c.l.tenant (c.scalar f.a) = .ok r)
include h hread

/-- LAUNCH with a full table. -/
theorem submit_full (hfull : s.freeEntry (dieOf s.cur.core) = none) : (s.issue c (launchSpec f)).submit c f =
    (s.issue c (launchSpec f)).setS c.id (scalNo f.d) (1#64 <<< 63 ||| 1) := by
  have hentry : (s.issue c (launchSpec f)).freeEntry (dieOf c.id.core) = none := by rw [h.id]; exact hfull
  unfold State.submit
  rw [readRecord_issue hread]
  dsimp only
  rw [hentry]
  rfl

/-- LAUNCH of a valid record with a free entry. -/
theorem submit_accepts {e : Nat} (hentry : s.freeEntry (dieOf s.cur.core) = some e)
    (hvalid : s.rejectReason r c.l.asid c.l.tenant 1 = 0) : (s.issue c (launchSpec f)).submit c f =
    (((s.issue c (launchSpec f)).acceptLaunch r (c.source s (dieOf s.cur.core) e false)).sendToDies s.nextLaunch).setS c.id (scalNo f.d)
      (launchHandle s.cur.slot s.cur.core (spGet 0 s.devGen (devKey (dieOf s.cur.core) e)).toNat (dieOf s.cur.core) e) := by
  have hentry' : (s.issue c (launchSpec f)).freeEntry (dieOf s.cur.core) = some e := hentry
  have hlaunch := launch?_acceptLaunch (s.issue c (launchSpec f)) r (c.source s (dieOf s.cur.core) e false)
  have hreject : ((s.issue c (launchSpec f)).acceptedLaunch r (c.source s (dieOf s.cur.core) e false)).reject = 0 :=
    (rejectReason_withBlocks s _ _ _ _ _).trans hvalid
  unfold State.submit
  rw [readRecord_issue hread]
  dsimp only
  rw [h.id, hentry']
  dsimp only
  rw [source_issue, hlaunch]
  dsimp only
  rw [if_pos hreject]
  rfl

end

/-- LAUNCHT of a launch that has a tail. -/
theorem submitTail_second {f : F} {s : State} {c : Ctx} {r : Record}
    (hread : s.readRecord c.l.asid c.l.tenant (c.scalar f.a) = .ok r) (htail : c.l.tail.isSome = true) :
    (s.issue c (launchSpec f)).submitTail c f = (s.issue c (launchSpec f)).setS c.id (scalNo f.d) (1#64 <<< 63 ||| 2) := by
  unfold State.submitTail
  rw [readRecord_issue hread]
  dsimp only
  rw [if_pos htail]
  rfl

/-- A launch whose tail has been listed. -/
def Launch.tailed (n : Nat) (l : Launch) : Launch := { l with tail := some n }

/-- LAUNCHT of a launch without a tail, with a free entry. -/
theorem submitTail_accepts {f : F} {s : State} {c : Ctx} {r : Record}
    (hread : s.readRecord c.l.asid c.l.tenant (c.scalar f.a) = .ok r) (htail : c.l.tail = none) {e : Nat}
    (hentry : s.freeEntry c.l.home = some e) : (s.issue c (launchSpec f)).submitTail c f =
      (((s.issue c (launchSpec f)).acceptLaunch r (c.source s c.l.home e true)).modLaunch c.b.launch
        (Launch.tailed s.nextLaunch)).setS c.id (scalNo f.d) 0 := by
  have hentry' : (s.issue c (launchSpec f)).freeEntry c.l.home = some e := hentry
  unfold State.submitTail
  rw [readRecord_issue hread]
  dsimp only
  rw [if_neg (by rw [htail]; exact Bool.false_ne_true), hentry']
  rfl

/-- Beside its effect an instruction leaves the launches. -/
theorem launches_done {s t e : State} {c : Ctx} {d : Option (Nat × W64)} {sig up : Nat} (h : DoneOutcome s t c e d sig up) :
    t.launches = e.launches ∧ t.nextLaunch = e.nextLaunch := by
  rw [h.machine.machine]
  exact ⟨rfl, rfl⟩

/-- A launch that LAUNCH has accepted, on its way to its dies. -/
theorem accepted_launch (s : State) (c : Ctx) (r : Record) (die e : Nat) :
    ∃ l, ((s.acceptLaunch r (c.source s die e false)).sendToDies s.nextLaunch).launch? s.nextLaunch = some l ∧ l.record = r ∧
      l.parent = some (c.b.launch, c.b.linear) ∧ l.host = false ∧ l.tenant = c.l.tenant ∧ l.asid = c.l.asid ∧ l.priv = c.l.priv ∧
      l.prio = min r.priority c.l.prio ∧ l.entry = e ∧ l.started = true ∧ l.completed = 0 := by
  obtain ⟨l, hl, hfixed⟩ := (onItsWay_sendToDies s.nextLaunch (s.acceptLaunch r (c.source s die e false))).launch?
    (launch?_acceptLaunch s r _)
  exact ⟨l, hl, (congrArg Launch.record hfixed :), (congrArg Launch.parent hfixed :), (congrArg Launch.host hfixed :),
    (congrArg Launch.tenant hfixed :), (congrArg Launch.asid hfixed :), (congrArg Launch.priv hfixed :), (congrArg Launch.prio hfixed :),
    (congrArg Launch.entry hfixed :), (congrArg Launch.started hfixed :), (congrArg Launch.completed hfixed :)⟩

/-- The tail that LAUNCHT has accepted, and the launch whose tail it is. -/
theorem accepted_tail {s : State} {c : Ctx} {w : Wave} (h : Issuing s c w) (r : Record) (e : Nat) (hother : c.b.launch ≠ s.nextLaunch) :
    (∃ l, ((s.acceptLaunch r (c.source s c.l.home e true)).modLaunch c.b.launch (Launch.tailed s.nextLaunch)).launch? s.nextLaunch = some l ∧
      l.record = r ∧ l.isTail = true ∧ l.started = false ∧ l.die = c.l.home ∧ l.entry = e) ∧
    (((s.acceptLaunch r (c.source s c.l.home e true)).modLaunch c.b.launch (Launch.tailed s.nextLaunch)).launch? c.b.launch).bind
      Launch.tail = some s.nextLaunch := by
  have hnew := launch?_acceptLaunch s r (c.source s c.l.home e true)
  have hown : (s.acceptLaunch r (c.source s c.l.home e true)).launch? c.b.launch = some c.l :=
    (launch?_acceptLaunch_other s r _ hother).trans h.launch
  refine ⟨⟨s.acceptedLaunch r (c.source s c.l.home e true), ?_, rfl, rfl, rfl, rfl, rfl⟩, by rw [launch?_modLaunch hown]; rfl⟩
  exact (spFind_spMod _ _ _ _).trans ((if_neg hother).trans hnew)

section
variable {f : F} {s : State} {c : Ctx} {w : Wave} {r : Record} (h : Issuing s c w)
  (hread : s.readRecord c.l.asid c.l.tenant (c.scalar f.a) = .ok r)
include h hread

/-- What LAUNCH of a valid record with a free entry does. -/
theorem submit_outcome {e : Nat} (hentry : s.freeEntry (dieOf s.cur.core) = some e)
    (hvalid : s.rejectReason r c.l.asid c.l.tenant 1 = 0) :
    DoneOutcome s (s.quick c (launchSpec f) (State.submit · c f)) c
      ((s.acceptLaunch r (c.source s (dieOf s.cur.core) e false)).sendToDies s.nextLaunch)
      (some (scalNo f.d, launchHandle s.cur.slot s.cur.core (spGet 0 s.devGen (devKey (dieOf s.cur.core) e)).toNat (dieOf s.cur.core) e))
      f.ctl.sig.toNat 0 := by
  obtain ⟨hcur, htick⟩ := accepted_frame s r (c.source s (dieOf s.cur.core) e false)
  obtain ⟨hway, -⟩ := onItsWay_sendToDies s.nextLaunch (s.acceptLaunch r (c.source s (dieOf s.cur.core) e false))
  refine submission_outcome h ((blockBlind_acceptLaunch r (c.source s (dieOf s.cur.core) e false)).comp (blockBlind_sendToDies s.nextLaunch))
    ?_ ?_ (submit_accepts h hread hentry hvalid)
  · rw [hway]; exact hcur
  · rw [hway]; exact htick

/-- What LAUNCHT of a launch without a tail does, with a free entry. -/
theorem submitTail_outcome (htail : c.l.tail = none) {e : Nat} (hentry : s.freeEntry c.l.home = some e) :
    DoneOutcome s (s.quick c (launchSpec f) (State.submitTail · c f)) c
      ((s.acceptLaunch r (c.source s c.l.home e true)).modLaunch c.b.launch (Launch.tailed s.nextLaunch)) (some (scalNo f.d, 0))
      f.ctl.sig.toNat 0 := by
  obtain ⟨hcur, htick⟩ := accepted_frame s r (c.source s c.l.home e true)
  exact submission_outcome h (φ := fun t =>
      (t.acceptLaunch r (c.source s c.l.home e true)).modLaunch c.b.launch (Launch.tailed s.nextLaunch))
    ((blockBlind_acceptLaunch r (c.source s c.l.home e true)).comp (blockBlind_modLaunch c.b.launch (Launch.tailed s.nextLaunch)))
    hcur htick (submitTail_accepts hread htail hentry)

end

/-- Settles O39: a submission has its effect beside issue, and its result. -/
theorem launchingChildren : Obligations.LaunchingChildren := by
  intro f s c r hc hp hread
  obtain ⟨w, h⟩ := issuing_of_clear hc
  have hlaunch : exec (.launch f) s = .next (s.quick c (launchSpec f) (State.submit · c f)) :=
    congrArg Host.Outcome.next (run_launch hc hp hread fun c s => s.submit c f)
  have hlauncht : exec (.launcht f) s = .next (s.quick c (launchSpec f) (State.submitTail · c f)) :=
    congrArg Host.Outcome.next (run_launch hc hp hread fun c s => s.submitTail c f)
  refine ⟨fun hfull => ?full, fun e hentry hvalid => ?accepts, fun htail => ?second, fun e htail hentry hother => ?tail⟩
  case full =>
    exact ⟨_, hlaunch, submission_outcome h (φ := fun s => s) (fun _ _ => rfl) rfl rfl (submit_full h hread hfull)⟩
  case second =>
    exact ⟨_, hlauncht, submission_outcome h (φ := fun s => s) (fun _ _ => rfl) rfl rfl (submitTail_second hread htail)⟩
  case accepts =>
    have hdone := submit_outcome h hread hentry hvalid
    obtain ⟨hlaunches, hnext⟩ := launches_done hdone
    obtain ⟨l, hl, hfields⟩ := accepted_launch s c r (dieOf s.cur.core) e
    obtain ⟨hrecord, hparent, hhost, htenant, hasid, hpriv, hprio, hentry', hstarted, hcompleted⟩ := hfields
    obtain ⟨hway, -⟩ := onItsWay_sendToDies s.nextLaunch (s.acceptLaunch r (c.source s (dieOf s.cur.core) e false))
    refine ⟨_, l, hlaunch, hdone, ?_, hrecord, hparent, hhost, htenant, hasid, hpriv, hprio, hentry', hstarted, hcompleted, ?_⟩
    · unfold State.launch? at hl ⊢
      rw [hlaunches]
      exact hl
    · rw [hnext, hway]
      exact (acceptLaunch_others s r _).2.2
  case tail =>
    have hdone := submitTail_outcome h hread htail hentry
    obtain ⟨hlaunches, -⟩ := launches_done hdone
    obtain ⟨⟨l, hl, hfields⟩, htailed⟩ := accepted_tail h r e hother
    obtain ⟨hrecord, histail, hstarted, hdie, hentry'⟩ := hfields
    refine ⟨_, l, hlauncht, hdone, ?_, hrecord, histail, hstarted, hdie, hentry', ?_⟩
    · unfold State.launch? at hl ⊢
      rw [hlaunches]
      exact hl
    · unfold State.launch? at htailed ⊢
      rw [hlaunches]
      exact htailed

end Sys2Proof.Machine
end

section
/-! The agreement of replicas (12 R307, R308) and the meeting of a collective's instances (12 R301). -/

namespace Sys2Proof.Machine

open Sys2Proof

/-! ### Sorting -/

theorem insertBy_perm {α : Type} (rank : α → Nat) (x : α) (l : List α) : (insertBy rank x l).Perm (x :: l) := by
  induction l with
  | nil => exact .refl _
  | cons y t ih =>
    unfold insertBy
    split
    · exact .refl _
    · exact (ih.cons y).trans (.swap x y t)

theorem sortBy_perm {α : Type} (rank : α → Nat) (l : List α) : (sortBy rank l).Perm l := by
  induction l using List.reverseRecOn with
  | nil => exact .refl _
  | append_singleton l x ih =>
    have hstep : sortBy rank (l ++ [x]) = insertBy rank x (sortBy rank l) := by
      unfold sortBy
      rw [List.foldl_append]
      rfl
    rw [hstep]
    exact ((insertBy_perm rank x _).trans (ih.cons x)).trans (List.perm_append_singleton x l).symm

/-! ### Strict majorities (12 R307) -/

/-- Participants that hold a value of the digest. -/
def holders (l : List Instance) (d : Nat) : Nat := (l.filter fun x => x.digest == d).length

theorem holders_sortBy (rank : Instance → Nat) (l : List Instance) (d : Nat) : holders (sortBy rank l) d = holders l d :=
  ((sortBy_perm rank l).filter _).length_eq

theorem holders_pair_le (l : List Instance) {d e : Nat} (h : d ≠ e) : holders l d + holders l e ≤ l.length := by
  unfold holders
  induction l with
  | nil => exact Nat.le_refl 0
  | cons x t ih =>
    by_cases hd : x.digest = d
    · simp [hd, h]
      omega
    · by_cases he : x.digest = e <;> simp [hd, he, Ne.symm h] <;> omega

/-- Only one value can have a strict majority. -/
theorem majority_unique {l : List Instance} {d e : Nat} (hd : l.length < 2 * holders l d) (he : l.length < 2 * holders l e) : d = e := by
  by_contra h
  have := holders_pair_le l h
  omega

/-! ### The agreement (12 R307, R308) -/

/-- The participants by package. -/
def participants (own : Instance) (peers : List Instance) : List Instance := sortBy Instance.package (own :: peers)

/-- The first participant whose value a strict majority holds. -/
def majorityHolder (all : List Instance) : Option Instance := all.find? fun x => decide (all.length < 2 * holders all x.digest)

theorem length_participants (own : Instance) (peers : List Instance) : (participants own peers).length = peers.length + 1 :=
  (sortBy_perm _ _).length_eq

theorem holders_participants (own : Instance) (peers : List Instance) (d : Nat) :
    holders (participants own peers) d = holders (own :: peers) d := holders_sortBy _ _ d

theorem agreement_no_majority {own : Instance} {peers : List Instance} (h : majorityHolder (participants own peers) = none) :
    (agreement own peers).2 = some cNO_QUORUM := by
  unfold agreement
  dsimp only
  split
  · rfl
  · rename_i m hm
    cases h.symm.trans hm

theorem agreement_majority {own m : Instance} {peers : List Instance} (h : majorityHolder (participants own peers) = some m) :
    agreement own peers =
      let off := (participants own peers).filter fun x => x.digest != m.digest
      let base := 2 ^ 51 + min off.length 0xFFFF * 2 ^ 32 + holders (participants own peers) m.digest * 2 ^ 16 +
        (off.head?.map fun x => x.package - own.first).getD 0xFFFF
      if own.digest ≠ m.digest then (base + 2 ^ 54, some cDIVERGED) else (base + (if off.isEmpty then 0 else 2 ^ 52), none) := by
  unfold agreement
  dsimp only
  split
  · rename_i hm
    cases h.symm.trans hm
  · rename_i m' hm
    cases h.symm.trans hm
    rfl

/-- A value that a strict majority holds is that of the holder that is found. -/
theorem majorityHolder_of_majority {own : Instance} {peers : List Instance} {d : Nat}
    (h : (own :: peers).length < 2 * holders (own :: peers) d) :
    ∃ m, majorityHolder (participants own peers) = some m ∧ m.digest = d := by
  have hall : (participants own peers).length < 2 * holders (participants own peers) d := by
    rw [holders_participants, length_participants]
    exact h
  cases hm : majorityHolder (participants own peers) with
  | some m =>
    have hmajority : (participants own peers).length < 2 * holders (participants own peers) m.digest := by
      simpa using List.find?_some hm
    exact ⟨m, rfl, majority_unique hmajority hall⟩
  | none =>
    have hpos : 0 < holders (participants own peers) d := by omega
    obtain ⟨x, hx⟩ := List.exists_mem_of_length_pos hpos
    obtain ⟨hmem, hdigest⟩ := List.mem_filter.mp hx
    have hnot := List.find?_eq_none.mp hm x hmem
    rw [eq_of_beq hdigest] at hnot
    simp [hall] at hnot

/-- Where all participants hold the same value, they agree and none differs. -/
theorem agreement_of_equal {own : Instance} {peers : List Instance} (h : ∀ x ∈ peers, x.digest = own.digest) :
    agreement own peers = (2 ^ 51 + (peers.length + 1) * 2 ^ 16 + 0xFFFF, none) := by
  have hsame : ∀ x ∈ participants own peers, x.digest = own.digest := fun x hx => by
    rcases List.mem_cons.mp ((sortBy_perm _ _).mem_iff.mp hx) with rfl | hx
    · rfl
    · exact h x hx
  have hholders : holders (participants own peers) own.digest = peers.length + 1 := by
    unfold holders
    rw [List.filter_eq_self.mpr fun x hx => beq_iff_eq.mpr (hsame x hx), length_participants]
  have hown := holders_participants own peers own.digest
  obtain ⟨m, hm, hdigest⟩ := majorityHolder_of_majority (own := own) (peers := peers) (d := own.digest) (by
    rw [← hown, hholders, List.length_cons]; omega)
  have hoff : ((participants own peers).filter fun x => x.digest != m.digest) = [] :=
    List.filter_eq_nil_iff.mpr fun x hx => by simp [hsame x hx, hdigest]
  rw [agreement_majority hm]
  dsimp only
  rw [hoff, hdigest, hholders, if_neg (by simp)]
  simp only [List.length_nil, Nat.zero_min, Nat.zero_mul, Nat.add_zero, List.head?_nil, Option.map_none, Option.getD_none,
    List.isEmpty_nil, if_true]

/-- The value of a strict majority decides. -/
theorem agreement_of_majority {own : Instance} {peers : List Instance} {d : Nat}
    (h : (own :: peers).length < 2 * holders (own :: peers) d) :
    (agreement own peers).2 = if own.digest = d then none else some cDIVERGED := by
  obtain ⟨m, hm, rfl⟩ := majorityHolder_of_majority h
  rw [agreement_majority hm]
  dsimp only
  by_cases hown : own.digest = m.digest <;> simp [hown]

theorem agreement_of_no_majority {own : Instance} {peers : List Instance}
    (h : ∀ d, 2 * holders (own :: peers) d ≤ (own :: peers).length) : (agreement own peers).2 = some cNO_QUORUM := by
  refine agreement_no_majority (List.find?_eq_none.mpr fun x _ => ?_)
  have := h x.digest
  rw [List.length_cons] at this
  rw [holders_participants, length_participants, decide_eq_true_eq]
  omega

/-- Completion is withheld for one of two causes. -/
theorem agreement_cause {own : Instance} {peers : List Instance} {cause : Nat} (h : (agreement own peers).2 = some cause) :
    cause = cNO_QUORUM ∨ cause = cDIVERGED := by
  cases hm : majorityHolder (participants own peers) with
  | none =>
    rw [agreement_no_majority hm] at h
    exact .inl (Option.some.inj h).symm
  | some m =>
    rw [agreement_majority hm] at h
    dsimp only at h
    split at h
    · exact .inr (Option.some.inj h).symm
    · cases h

/-! ### COLLECTIVE_MEET (12 R301) -/

/-- An operation whose instances have met and disagree. -/
def EngineOp.mismatched (o : EngineOp) : EngineOp := { o with status := 5, begun := true }

/-- An operation whose instances have met, with the combined bytes. -/
def EngineOp.combined (i : Instance) (bs : List Byte) (o : EngineOp) : EngineOp :=
  { o with status := 4, begun := true, inst := some { i with data := bs } }

/-- The participants' data in ascending package, of instances that agree. -/
def State.metData (s : State) (o : EngineOp) (i : Instance) : List (List Byte) :=
  (sortBy Instance.package ({ i with data := o.dataBytes i.ownLen } :: s.collPeers i)).map Instance.data

section
variable {s : State} {tenant cid : Nat} {o : EngineOp} {i : Instance}

theorem collMeet_eq (hnext : s.nextColl tenant cid = some o) (hi : o.inst = some i) : s.collMeet tenant cid =
    s.modOp o.id (if (s.collPeers i).all i.agrees then EngineOp.combined i (collResult i.code i.oper i.root s.tick i.det (s.metData o i))
      else EngineOp.mismatched) := by
  unfold State.collMeet
  rw [hnext]
  dsimp only
  rw [hi]
  dsimp only
  cases (s.collPeers i).all i.agrees <;> rfl

theorem ownLen_eq (i : Instance) : i.ownLen =
    if i.code = 3 ∧ i.package - i.first ≠ i.root ∨ i.code = 4 then 0 else i.elements * collWidth i.oper := by
  unfold Instance.ownLen
  by_cases h3 : i.code = 3 ∧ i.package - i.first ≠ i.root
  · rw [if_pos h3, if_pos (.inl h3)]
  · simp only [h3, if_false, false_or]

theorem collectiveMeet_outcome (hnext : s.nextColl tenant cid = some o) (ho : spFind s.ops o.id = some o) (hi : o.inst = some i) :
    ∃ t o', exec (.collectiveMeet tenant cid) s = .next t ∧ spFind t.ops o.id = some o' ∧ t = { s with ops := t.ops } ∧
      (((s.collPeers i).all i.agrees) = false → o'.status = 5 ∧ o'.inst = o.inst) ∧
      (((s.collPeers i).all i.agrees) = true → o'.status = 4 ∧
        o'.inst.map Instance.data = some (collResult i.code i.oper i.root s.tick i.det (s.metData o i))) := by
  have hexec : exec (.collectiveMeet tenant cid) s = .next _ := congrArg Host.Outcome.next (collMeet_eq hnext hi)
  refine ⟨_, _, hexec, spFind_modOp ho _, rfl, fun h => ?_, fun h => ?_⟩ <;> rw [h]
  · exact ⟨rfl, rfl⟩
  · exact ⟨rfl, rfl⟩

end

end Sys2Proof.Machine
end

section
/-! What causes and the end of an access leave of a block's areas, events and operations (08 R232-R237, 07 R185). -/

namespace Sys2Proof.Machine

open Sys2Proof

/-- A block with the same common area and events, no cause of whose waves is taken back. -/
structure BlockTold (b b' : Block) : Prop where
  common : b'.common = b.common
  events : b'.events = b.events
  causes : ∀ k w, spFind b.waves k = some w →
    ∃ w', spFind b'.waves k = some w' ∧ ∀ i, w.tcause.getLsbD i = true → w'.tcause.getLsbD i = true

theorem BlockTold.of_waves {b b' : Block} (hcommon : b'.common = b.common) (hevents : b'.events = b.events)
    (hwaves : b'.waves = b.waves) : BlockTold b b' :=
  ⟨hcommon, hevents, fun _ w hw => ⟨w, hwaves ▸ hw, fun _ h => h⟩⟩

theorem BlockTold.refl (b : Block) : BlockTold b b := .of_waves rfl rfl rfl

theorem BlockTold.trans {b c d : Block} (h : BlockTold b c) (k : BlockTold c d) : BlockTold b d := by
  refine ⟨k.common.trans h.common, k.events.trans h.events, fun j w hw => ?_⟩
  obtain ⟨v, hv, hcv⟩ := h.causes j w hw
  obtain ⟨u, hu, hcu⟩ := k.causes j v hv
  exact ⟨u, hu, fun i hi => hcu i (hcv i hi)⟩

theorem blockTold_modWave (b : Block) (k n : Nat) {f : Wave → Wave} (hf : ∀ w, (f w).tcause = w.tcause) :
    BlockTold b { b with waves := spMod b.waves k f, retired := n } := by
  refine ⟨rfl, rfl, fun j w hw => ?_⟩
  rw [spFind_spMod]
  split
  · exact ⟨f w, by rw [hw]; rfl, fun i hi => (hf w).symm ▸ hi⟩
  · exact ⟨w, hw, fun _ h => h⟩

theorem blockTold_pauseSlice (b : Block) (clock : Nat) : BlockTold b (b.pauseSlice clock) := by
  unfold Block.pauseSlice
  split
  · exact .refl b
  · exact .of_waves rfl rfl rfl

theorem blockTold_faultEnd (b : Block) (cause : Nat) : BlockTold b (b.faultEnd cause) :=
  ⟨rfl, rfl, (blockRaised_faultEnd b cause).causes⟩

/-- The waves of the block with a key have been told of causes: its areas and events stand, and so does every operation that has not
faulted. -/
structure Told (key : Nat) (s t : State) : Prop where
  block : ∀ b, spFind s.blocks key = some b → ∃ b', spFind t.blocks key = some b' ∧ BlockTold b b'
  ops   : ∀ n o, spFind s.ops n = some o → o.faulted = false → spFind t.ops n = some o

theorem Told.of_eq {key : Nat} {s t : State} (hblocks : t.blocks = s.blocks) (hops : t.ops = s.ops) : Told key s t :=
  ⟨fun b hb => ⟨b, hblocks ▸ hb, .refl b⟩, fun _ _ ho _ => hops ▸ ho⟩

theorem Told.refl (key : Nat) (s : State) : Told key s s := .of_eq rfl rfl

theorem Told.trans {key : Nat} {s t u : State} (h : Told key s t) (k : Told key t u) : Told key s u := by
  refine ⟨fun b hb => ?_, fun n o ho hf => k.ops n o (h.ops n o ho hf) hf⟩
  obtain ⟨c, hc, hbc⟩ := h.block b hb
  obtain ⟨d, hd, hcd⟩ := k.block c hc
  exact ⟨d, hd, hbc.trans hcd⟩

theorem told_modBlock (s : State) (id : WaveId) {f : Block → Block} (hf : ∀ b, BlockTold b (f b)) : Told (wkey id) s (s.modBlock id f) :=
  ⟨fun b hb => ⟨f b, (spFind_spMod _ _ _ _).trans (by rw [if_pos rfl, hb]; rfl), hf b⟩, fun _ _ ho _ => ho⟩

theorem told_modWave (s : State) (id : WaveId) {f : Wave → Wave} (hf : ∀ w, (f w).tcause = w.tcause) :
    Told (wkey id) s (s.modWave id f) :=
  told_modBlock s id fun b => blockTold_modWave b id.wave b.retired hf

theorem told_setCauses (s : State) (id : WaveId) (bits : W64) : Told (wkey id) s (s.setCauses id bits) :=
  told_modBlock s id fun b => ⟨rfl, rfl, (blockRaised_modWave b id.wave fun w i h => by rw [BitVec.getLsbD_or, h, Bool.true_or]).causes⟩

theorem spFind_filter {α : Type} {m : Sparse α} {p : Nat × α → Bool} {k : Nat} {v : α} (h : spFind m k = some v) (hp : p (k, v) = true) :
    spFind (m.filter p) k = some v := by
  induction m with
  | nil => cases h
  | cons e t ih =>
    obtain ⟨j, x⟩ := e
    rw [spFind] at h
    split at h
    · rename_i hj
      subst hj
      cases h
      rw [List.filter_cons_of_pos hp, spFind, if_pos rfl]
    · rename_i hj
      rw [List.filter_cons]
      split
      · rw [spFind, if_neg hj]
        exact ih h
      · exact ih h

/-! ### Causes (08 R232-R237) -/

theorem told_faultBlock (s : State) (id : WaveId) (cause : Nat) : Told (wkey id) s (s.faultBlock id cause) := by
  cases hb : s.block? id with
  | none =>
    unfold State.faultBlock
    rw [hb]
    exact .refl _ s
  | some b =>
    obtain ⟨ls, he⟩ := faultBlock_eq hb cause
    rw [he]
    exact ⟨(told_modBlock s id fun b => blockTold_faultEnd b cause).block, fun n o ho hf => spFind_filter ho (by simp [hf])⟩

theorem told_enterHandler (s : State) (id : WaveId) (entry : W64) (r : CauseRec) : Told (wkey id) s (s.enterHandler id entry r) := by
  obtain ⟨ls, hl⟩ := dropForce_frame s (s.wave id)
  have hlocks : Told (wkey id) s (s.dropForce (s.wave id)) := by rw [hl]; exact .of_eq rfl rfl
  have hleave : ∀ t : State, Told (wkey id) t ((t.countCore id.core 0x103 1).leave id) := fun _ => .of_eq rfl rfl
  unfold State.enterHandler
  exact hlocks.trans ((told_modBlock _ id fun b => blockTold_pauseSlice b _).trans ((told_modWave _ id (by intro w; rfl)).trans (hleave _)))

theorem told_deliver (s : State) (id : WaveId) (r : CauseRec) : Told (wkey id) s (s.deliver id r) := by
  have hentry : ∀ entry, Told (wkey id) s (if entry = 0 then s.faultBlock id (lowBit (s.wave id).tcause) else s.enterHandler id entry r) :=
    fun entry => by
      split
      · exact told_faultBlock s id _
      · exact told_enterHandler s id entry r
  unfold State.deliver
  split
  · exact .refl _ s
  · exact hentry _

theorem told_deliverIn (s : State) (id : WaveId) (r : CauseRec) : Told (wkey id) s (s.deliverIn id r) := by
  unfold State.deliverIn
  dsimp only
  split
  · split <;> exact told_deliver s id _
  · exact told_deliver s id r

/-- A cause stands in wave `k` of the block with a key. -/
def CauseSet (key k cause : Nat) (s : State) : Prop :=
  ∃ b w, spFind s.blocks key = some b ∧ spFind b.waves k = some w ∧ w.tcause.getLsbD cause = true

theorem CauseSet.told {key k cause : Nat} {s t : State} (h : CauseSet key k cause s) (ht : Told key s t) : CauseSet key k cause t := by
  obtain ⟨b, w, hb, hw, hc⟩ := h
  obtain ⟨b', hb', htold⟩ := ht.block b hb
  obtain ⟨w', hw', hc'⟩ := htold.causes k w hw
  exact ⟨b', w', hb', hw', hc' cause hc⟩

theorem CauseSet.wave {id : WaveId} {cause : Nat} {s : State} (h : CauseSet (wkey id) id.wave cause s) :
    (s.wave id).tcause.getLsbD cause = true := by
  obtain ⟨b, w, hb, hw, hc⟩ := h
  have hwave : s.wave? id = some w := by
    unfold State.wave? State.block?
    rw [hb]
    exact hw
  rwa [wave_eq_of_wave? hwave]

/-- Bits that are set in a wave that stands. -/
theorem causeSet_setCauses {s : State} {id : WaveId} {b : Block} {w : Wave} (hb : spFind s.blocks (wkey id) = some b)
    (hw : spFind b.waves id.wave = some w) {bits : W64} {cause : Nat} (hbits : bits.getLsbD cause = true) :
    CauseSet (wkey id) id.wave cause (s.setCauses id bits) := by
  refine ⟨_, w.caused bits, block?_modWave_self hb (Wave.caused bits), (spFind_spMod _ _ _ _).trans (by rw [if_pos rfl, hw]; rfl), ?_⟩
  exact (BitVec.getLsbD_or ..).trans (by rw [hbits, Bool.or_true])

section
variable {s : State} {id : WaveId} {b : Block}

/-- Once its bits are set, a cause is recorded, delivered, or counted at its block. -/
theorem told_raiseLater_set (hb : s.block? id = some b) (r : CauseRec) :
    Told (wkey id) (s.setCauses id (causeBit r.cause ||| r.also)) (s.raiseLater id r) := by
  unfold State.raiseLater
  rw [hb]
  dsimp only
  split
  · exact told_modBlock _ id fun b => .of_waves rfl rfl rfl
  · split
    · exact told_modWave _ id fun _ => rfl
    · exact told_deliverIn _ id r

theorem told_raiseFrom_set (hb : s.block? id = some b) (seq : Nat) (r : CauseRec) :
    Told (wkey id) (s.setCauses id (causeBit r.cause ||| r.also)) (s.raiseFrom id seq r) := by
  unfold State.raiseFrom
  split
  · exact told_faultBlock _ id _
  · exact told_raiseLater_set hb r

theorem told_raiseLater (s : State) (id : WaveId) (r : CauseRec) : Told (wkey id) s (s.raiseLater id r) := by
  cases hb : s.block? id with
  | none =>
    unfold State.raiseLater
    rw [hb]
    exact .refl _ s
  | some b => exact (told_setCauses s id _).trans (told_raiseLater_set hb r)

theorem told_raiseFrom (s : State) (id : WaveId) (seq : Nat) (r : CauseRec) : Told (wkey id) s (s.raiseFrom id seq r) := by
  unfold State.raiseFrom
  split
  · exact (told_setCauses s id _).trans (told_faultBlock _ id _)
  · exact told_raiseLater s id r

end

/-! ### The end of a wait and of an access (08 R229, R236, 07 R185) -/

theorem tcause_complete (w : Wave) (go : Nat → Option W64) : (w.complete go).tcause = w.tcause :=
  (congrArg Wave.tcause (still_complete w go) :)

theorem told_finish (s : State) (id : WaveId) (go : Nat → Option W64) : Told (wkey id) s (s.finish id go) := by
  rcases finish_cases s id go with he | he <;> rw [he]
  · exact told_modWave s id fun w => tcause_complete w go
  · have hleave : ∀ t : State, Told (wkey id) t (t.leave id) := fun _ => .of_eq rfl rfl
    exact (told_modBlock s id fun b => blockTold_modWave b id.wave _ (f := fun w => (w.complete go).ended) fun w => tcause_complete w go).trans
      (hleave _)

theorem tcause_flagDown (w : Wave) (sig : Nat) : (w.flagDown sig).tcause = w.tcause := by unfold Wave.flagDown; split <;> rfl

theorem told_endYield (s : State) (id : WaveId) : Told (wkey id) s (s.endYield id) := by
  unfold State.endYield
  refine (told_modWave s id fun w => ?_).trans (told_finish _ id _)
  exact tcause_flagDown w _

theorem told_settleSlice (s : State) (id : WaveId) : Told (wkey id) s (s.settleSlice id) := by
  have hyield : ∀ (s : State) (e : Nat × Wave), Told (wkey id) s (s.endYield ⟨id.core, id.slot, e.1⟩) := fun s e =>
    told_endYield s ⟨id.core, id.slot, e.1⟩
  unfold State.settleSlice
  split
  · exact .refl _ s
  · rename_i b _
    dsimp only
    split
    · exact .refl _ s
    · refine (rel_foldl (.refl _) .trans hyield b.liveWaves s).trans (told_modBlock _ id fun b => ?_)
      exact (blockTold_pauseSlice b _).trans (.of_waves rfl rfl rfl)

theorem told_nextReissue (s : State) (id : WaveId) : Told (wkey id) s (s.nextReissue id) := by
  unfold State.nextReissue
  split
  · exact .refl _ s
  · rename_i rest _
    refine (told_modWave s id (f := fun w => { w with reissue := rest }) fun _ => rfl).trans ?_
    dsimp only
    split
    · exact told_modWave _ id (by intro w; rfl)
    · split
      · exact told_settleSlice _ id
      · split
        · exact .refl _ _
        · exact (told_modWave _ id (by intro w; rfl)).trans (told_deliverIn _ id _)

theorem told_endEntry (s : State) (id : WaveId) (i : Nat) : Told (wkey id) s (s.endEntry id i) := by
  unfold State.endEntry
  split
  · exact .refl _ s
  · rename_i e _
    refine (told_modWave s id (f := fun w => { (w.flagDown (ctlOf e.word).sig.toNat) with log := spDel w.log i }) fun w =>
      tcause_flagDown w _).trans ?_
    dsimp only
    split
    · exact told_nextReissue _ id
    · exact .refl _ _

theorem told_sieveEcc (s : State) (o : EngineOp) (seq : Nat) : Told (wkey o.w) s (s.sieveEcc o seq) := by
  unfold State.sieveEcc
  split
  · exact .refl _ s
  · exact told_raiseFrom s _ _ _

theorem told_collMismatch (s : State) (o : EngineOp) (seq : Nat) : Told (wkey o.w) s (s.collMismatch o seq) := by
  unfold State.collMismatch
  split
  · split
    · exact told_raiseFrom s _ _ _
    · exact .refl _ s
  · exact .refl _ s

/-! ### The end of an operation (07 R193) -/

/-- A block to which an operation has posted its event record. -/
def EngineOp.posted (o : EngineOp) (b : Block) : Block := if o.post && b.uid == o.uid then { b with events := b.events ++ [o.event] } else b

theorem posted_fields (o : EngineOp) (b : Block) : (o.posted b).common = b.common ∧ (o.posted b).waves = b.waves := by
  unfold EngineOp.posted; split <;> exact ⟨rfl, rfl⟩

theorem events_posted {o : EngineOp} {b : Block} (h : b.uid = o.uid) :
    (o.posted b).events = if o.post then b.events ++ [o.event] else b.events := by
  unfold EngineOp.posted
  rw [h]
  cases o.post <;> simp

/-- The machine in which an operation has posted its event record and left with its locks. -/
def State.opPosted (s : State) (o : EngineOp) : State := { (s.modBlock o.w o.posted).unlock o.id with ops := spDel s.ops o.id }

theorem told_closeOp (s : State) (o : EngineOp) : Told (wkey o.w) (s.opPosted o) (s.closeOp o) := by
  unfold State.closeOp
  dsimp only
  split
  · exact (told_endEntry (s.opPosted o) o.w _).trans ((told_sieveEcc _ o _).trans (told_collMismatch _ o _))
  · exact told_modWave (s.opPosted o) o.w fun w => tcause_flagDown w _

/-- The end of an operation leaves its block's common area, and of its events all but its own record. -/
theorem block_closeOp {s : State} {o : EngineOp} {b : Block} (hb : s.block? o.w = some b) :
    ∃ b', (s.closeOp o).block? o.w = some b' ∧ b'.common = b.common ∧ b'.events = (o.posted b).events := by
  obtain ⟨b', hb', htold⟩ := (told_closeOp s o).block _ (block?_modBlock_self hb rfl o.posted)
  exact ⟨b', hb', htold.common.trans (posted_fields o b).1, htold.events⟩

theorem not_waits_of_room {o : EngineOp} {b : Block} (h : o.post = true → b.events.length < 16) : ¬ (o.post && !b.eventRoom) = true := by
  unfold Block.eventRoom
  cases hp : o.post with
  | false => simp
  | true => simp [h hp]

/-- The machine in which an operation's locks are released and its work is marked as done under a status. -/
def State.workEnded (s : State) (n status : Nat) : State := (s.unlock n).modOp n fun o => { o with status := status }

section
variable {s : State} {n : Nat} {o : EngineOp} {b : Block}

theorem finishOp_eq (ho : spFind s.ops n = some o) (hb : s.block? o.w = some b) (hroom : o.post = true → b.events.length < 16) :
    s.finishOp n = ((s.modBlock o.w fun b => b.credit o.barrier o.credit).workEnded n 1).closeOp { o with status := 1 } := by
  unfold State.finishOp
  rw [ho]
  dsimp only
  rw [hb]
  dsimp only
  rw [if_neg (not_waits_of_room hroom)]
  rfl

theorem closeAs_eq (ho : spFind s.ops n = some o) (hb : s.block? o.w = some b) (hroom : o.post = true → b.events.length < 16)
    (status : Nat) : s.closeAs n status = (s.workEnded n status).closeOp { o with status := status } := by
  unfold State.closeAs
  rw [ho]
  dsimp only
  rw [hb]
  dsimp only
  rw [if_neg (not_waits_of_room hroom)]
  rfl

theorem common_credit (b : Block) (code n : Nat) : (b.credit code n).common = b.common := by unfold Block.credit; split <;> rfl

theorem common_finishOp (ho : spFind s.ops n = some o) (hb : s.block? o.w = some b) (hroom : o.post = true → b.events.length < 16) :
    ∃ b', (s.finishOp n).block? o.w = some b' ∧ b'.common = b.common := by
  rw [finishOp_eq ho hb hroom]
  have hcredited : (s.modBlock o.w fun b => b.credit o.barrier o.credit).block? o.w = some _ := block?_modBlock_self hb rfl _
  obtain ⟨b', hb', hcommon, -⟩ := block_closeOp (o := { o with status := 1 })
    (s := (s.modBlock o.w fun b => b.credit o.barrier o.credit).workEnded n 1) hcredited
  exact ⟨b', hb', hcommon.trans (common_credit b _ _)⟩

theorem opOver_closeAs (ho : spFind s.ops n = some o) (hid : o.id = n) (hb : s.block? o.w = some b)
    (hroom : o.post = true → b.events.length < 16) (status : Nat) : OpOver n s (s.closeAs n status) := by
  rw [closeAs_eq ho hb hroom]
  obtain ⟨hmem, hgone, hlocks⟩ := opOver_closeOp (s.workEnded n status) { o with status := status }
  subst hid
  exact ⟨hmem, hgone, hlocks⟩

end

end Sys2Proof.Machine
end

section
/-! COLLECTIVE_COMPLETE (12 R302, R303, R307, R308). -/

namespace Sys2Proof.Machine

open Sys2Proof

/-! ### The status word (12 R303) -/

/-- Where an operation's status word lies in the common area. -/
def EngineOp.statusAt (o : EngineOp) : Nat := (o.wr.head?.map Prod.snd).getD 0

/-- A block whose common area holds an operation's status word, no longer pending. -/
def EngineOp.statusWritten (o : EngineOp) (v : Nat) (b : Block) : Block :=
  (b.setArea false o.statusAt (bytesOfNat 8 v)).markUnits .common o.wr false

theorem collStatus_eq (s : State) (o : EngineOp) (v : Nat) :
    s.collStatus o v = (s.modBlock o.w (o.statusWritten v)).modOp o.id fun o => { o with wr := [] } := rfl

/-- A common area holds the status word of an operation. -/
def StatusIn (b : Block) (o : EngineOp) (v : Nat) : Prop := ∀ j, j < 8 → spGet 0 b.common (o.statusAt + j) = (bytesOfNat 8 v).getD j 0

theorem statusIn_statusWritten (o : EngineOp) (v : Nat) (b : Block) : StatusIn (o.statusWritten v b) o v := by
  intro j hj
  refine (spGet_setArea b o.statusAt (bytesOfNat 8 v) (o.statusAt + j)).trans ?_
  rw [length_bytesOfNat, if_pos (by omega), Nat.add_sub_cancel_left]

theorem StatusIn.of_common {b b' : Block} {o : EngineOp} {v : Nat} (h : StatusIn b o v) (hb : b'.common = b.common) : StatusIn b' o v := by
  unfold StatusIn
  rw [hb]
  exact h

section
variable {s : State} {n : Nat} {o : EngineOp} {i : Instance} {b : Block}

theorem block_collStatus (hb : s.block? o.w = some b) (v : Nat) : (s.collStatus o v).block? o.w = some (o.statusWritten v b) := by
  rw [collStatus_eq]
  exact block?_modBlock_self hb rfl (o.statusWritten v)

theorem op_collStatus (ho : spFind s.ops n = some o) (hid : o.id = n) (v : Nat) :
    spFind (s.collStatus o v).ops n = some { o with wr := [] } := by
  rw [collStatus_eq]
  subst hid
  exact spFind_modOp (s := s.modBlock o.w (o.statusWritten v)) ho _

/-! ### A collective that ends (12 R302) -/

/-- A collective writes its status word and is over. -/
theorem collFinish (ho : spFind s.ops n = some o) (hid : o.id = n) (hb : s.block? o.w = some b)
    (hroom : o.post = true → b.events.length < 16) (v : Nat) :
    OpOver n s ((s.collStatus o v).finishOp n) ∧
      ∃ b', ((s.collStatus o v).finishOp n).block? o.w = some b' ∧ StatusIn b' o v := by
  have hop := op_collStatus ho hid v
  have hblock := block_collStatus hb v
  obtain ⟨hmem, hgone, hlocks⟩ := opOver_finishOp hop hid hblock hroom
  obtain ⟨b', hb', hcommon⟩ := common_finishOp hop hblock hroom
  exact ⟨⟨hmem, hgone, hlocks⟩, b', hb', (statusIn_statusWritten o v b).of_common hcommon⟩

/-- The destination's bytes wait for no scan. -/
theorem cells_free (hfree : ∀ x ∈ o.destCells i, s.sieveHeld (x.1 / 64) = false) :
    ((o.destCells i).any fun x => s.sieveHeld (x.1 / 64)) = false :=
  List.any_eq_false.mpr fun x hx => by simp [hfree x hx]

theorem collComplete_plain (ho : spFind s.ops n = some o) (hi : o.inst = some i) (hrep : i.rep = false) (hstatus : o.status = 4)
    (hfree : ∀ x ∈ o.destCells i, s.sieveHeld (x.1 / 64) = false) :
    s.collComplete n = ((s.writeCells (o.destCells i)).collStatus o 0xFFFF).finishOp n := by
  unfold State.collComplete
  rw [ho]
  dsimp only
  rw [hi]
  dsimp only
  rw [hstatus, cells_free hfree, hrep]
  rfl

theorem collectiveComplete_plain (ho : spFind s.ops n = some o) (hid : o.id = n) (hi : o.inst = some i) (hrep : i.rep = false)
    (hstatus : o.status = 4) (hfree : ∀ x ∈ o.destCells i, s.sieveHeld (x.1 / 64) = false) (hb : s.block? o.w = some b)
    (hroom : o.post = true → b.events.length < 16) :
    ∃ t b', exec (.collectiveComplete n) s = .next t ∧ t.mem = (s.writeCells (o.destCells i)).mem ∧ spFind t.ops n = none ∧
      (∀ k ∈ t.locks, k.owner ≠ n) ∧ t.block? o.w = some b' ∧ StatusIn b' o 0xFFFF := by
  have hexec : exec (.collectiveComplete n) s = .next _ := congrArg Host.Outcome.next (collComplete_plain ho hi hrep hstatus hfree)
  have hwrite := memoryOnly_writeCells s (o.destCells i)
  obtain ⟨⟨hmem, hgone, hlocks⟩, b', hb', hword⟩ := collFinish (s := s.writeCells (o.destCells i)) (by rw [hwrite]; exact ho) hid
    (by rw [hwrite]; exact hb) hroom 0xFFFF
  exact ⟨_, b', hexec, hmem, hgone, hlocks, hb', hword⟩

/-! ### Instances that disagree (12 R301, R303) -/

/-- The end of an operation raises ILLEGAL_OP in the wave of a collective whose instances disagree. -/
theorem causeSet_closeOp {code : Nat} (hkind : o.kind = .coll code) (hstatus : o.status = 2) (hentry : o.entry.isSome = true)
    (hb : s.block? o.w = some b) {w : Wave} (hw : spFind b.waves o.w.wave = some w) :
    CauseSet (wkey o.w) o.w.wave cILLEGAL_OP (s.closeOp o) := by
  obtain ⟨e, he⟩ := Option.isSome_iff_exists.mp hentry
  have hposted : (s.opPosted o).block? o.w = some (o.posted b) := block?_modBlock_self hb rfl _
  have hraise : ∀ (t : State) (seq : Nat), Told (wkey o.w) (s.opPosted o) t →
      CauseSet (wkey o.w) o.w.wave cILLEGAL_OP (t.collMismatch o seq) := fun t seq ht => by
    obtain ⟨b', hb', htold⟩ := ht.block _ hposted
    obtain ⟨w', hw', -⟩ := htold.causes _ w ((posted_fields o b).2 ▸ hw)
    have hset := causeSet_setCauses (bits := causeBit cILLEGAL_OP) (cause := cILLEGAL_OP) hb' hw' (by decide)
    have htell := told_raiseFrom_set hb' seq ((t.wave o.w).nextRec cILLEGAL_OP 0)
    rw [nextRec_bits] at htell
    unfold State.collMismatch
    rw [hkind]
    dsimp only
    rw [if_pos hstatus]
    exact hset.told htell
  unfold State.closeOp
  rw [he]
  exact hraise _ _ ((told_endEntry (s.opPosted o) o.w e).trans (told_sieveEcc _ o _))

theorem collComplete_mismatch (ho : spFind s.ops n = some o) (hi : o.inst = some i) (hstatus : o.status = 5) :
    s.collComplete n = (s.collStatus o (2 ^ 55 + 0xFFFF)).closeAs n 2 := by
  unfold State.collComplete
  rw [ho]
  dsimp only
  rw [hi]
  exact if_pos hstatus

theorem collectiveComplete_mismatch {code : Nat} (ho : spFind s.ops n = some o) (hid : o.id = n) (hi : o.inst = some i)
    (hkind : o.kind = .coll code) (hstatus : o.status = 5) (hentry : o.entry.isSome = true) (hb : s.block? o.w = some b)
    (huid : b.uid = o.uid) (hwave : (s.wave? o.w).isSome = true) (hroom : o.post = true → b.events.length < 16) :
    ∃ t b', exec (.collectiveComplete n) s = .next t ∧ t.mem = s.mem ∧ spFind t.ops n = none ∧ (∀ k ∈ t.locks, k.owner ≠ n) ∧
      t.block? o.w = some b' ∧ b'.events = (if o.post then b.events ++ [eventRecord 2 o.w.wave 5 o.tag] else b.events) ∧
      StatusIn b' o (2 ^ 55 + 0xFFFF) ∧ (t.wave o.w).tcause.getLsbD cILLEGAL_OP = true := by
  obtain ⟨w, hw⟩ := Option.isSome_iff_exists.mp hwave
  obtain ⟨b₀, hb₀, hw⟩ := wave?_some hw
  cases hb.symm.trans hb₀
  have hop := op_collStatus ho hid (2 ^ 55 + 0xFFFF)
  have hblock := block_collStatus hb (2 ^ 55 + 0xFFFF)
  have hclose := closeAs_eq hop hblock hroom 2
  obtain ⟨hmem, hgone, hlocks⟩ := opOver_closeAs hop hid hblock hroom 2
  obtain ⟨b', hb', hcommon, hevents⟩ := block_closeOp (o := { o with wr := [], status := 2 })
    (s := (s.collStatus o (2 ^ 55 + 0xFFFF)).workEnded n 2) hblock
  have hcause := causeSet_closeOp (o := { o with wr := [], status := 2 }) (s := (s.collStatus o (2 ^ 55 + 0xFFFF)).workEnded n 2)
    hkind rfl hentry hblock hw
  refine ⟨_, b', congrArg Host.Outcome.next (collComplete_mismatch ho hi hstatus), hmem, hgone, hlocks, ?_, ?_, ?_, ?_⟩
  · rw [hclose]; exact hb'
  · have hevent : ({ o with wr := [], status := 2 } : EngineOp).event = eventRecord 2 o.w.wave 5 o.tag := by
      unfold EngineOp.event
      dsimp only
      rw [hkind]
      rfl
    have hposted := events_posted (o := { o with wr := [], status := 2 }) (b := o.statusWritten (2 ^ 55 + 0xFFFF) b) huid
    rw [hevent] at hposted
    exact hevents.trans hposted
  · exact (statusIn_statusWritten o _ b).of_common hcommon
  · rw [hclose]; exact hcause.wave

/-! ### The agreement of replicas (12 R307, R308) -/

theorem collComplete_rep (ho : spFind s.ops n = some o) (hi : o.inst = some i) (hrep : i.rep = true) (hstatus : o.status = 4)
    (hfree : ∀ x ∈ o.destCells i, s.sieveHeld (x.1 / 64) = false) (hbefore : s.opsBefore o = false) {a : Nat × Option Nat}
    (ha : a = agreement { i with digest := spGet 0 (s.writeCells (o.destCells i)).digests i.tenant } (s.collPeers i)) :
    s.collComplete n = match a.2 with
      | some cause => (s.writeCells (o.destCells i)).withhold o cause i.tenant a.1
      | none => ((s.writeCells (o.destCells i)).collStatus o a.1).finishOp n := by
  have hpeers : (s.writeCells (o.destCells i)).collPeers i = s.collPeers i := by
    rw [memoryOnly_writeCells s (o.destCells i)]; rfl
  unfold State.collComplete
  rw [ho]
  dsimp only
  rw [hi]
  dsimp only
  rw [hstatus, cells_free hfree, hbefore, hpeers, ← ha, hrep]
  rfl

end

/-- A wave of a block is told that completion is withheld: that of the operation as of its operation, another if it is live. -/
def State.tellWave (s : State) (o : EngineOp) (b : Block) (cause : Nat) (e : Nat × Wave) : State :=
  let r := (s.wave (b.id e.1)).nextRec cause (BitVec.ofNat 64 o.statusAt)
  if e.1 = o.w.wave then s.raiseFrom (b.id e.1) o.seq r
  else if e.2.live ≠ 0 then s.raiseLater (b.id e.1) r
  else s

theorem told_tellWave (s : State) (o : EngineOp) (b : Block) (cause : Nat) (e : Nat × Wave) :
    Told (wkey (b.id 0)) s (s.tellWave o b cause e) := by
  unfold State.tellWave
  dsimp only
  split
  · exact told_raiseFrom s (b.id e.1) _ _
  · split
    · exact told_raiseLater s (b.id e.1) _
    · exact .refl _ s

/-- A live wave that is told has the cause. -/
theorem causeSet_tellWave {s : State} {o : EngineOp} {b b' : Block} {cause : Nat} {e : Nat × Wave} {w : Wave}
    (hcause : (causeBit cause).getLsbD cause = true) (hlive : e.2.live ≠ 0) (hb : spFind s.blocks (wkey (b.id e.1)) = some b')
    (hw : spFind b'.waves e.1 = some w) : CauseSet (wkey (b.id e.1)) e.1 cause (s.tellWave o b cause e) := by
  have hset : CauseSet (wkey (b.id e.1)) e.1 cause (s.setCauses (b.id e.1) (causeBit cause)) := causeSet_setCauses hb hw hcause
  have hfrom := told_raiseFrom_set hb o.seq ((s.wave (b.id e.1)).nextRec cause (BitVec.ofNat 64 o.statusAt))
  have hlater := told_raiseLater_set hb ((s.wave (b.id e.1)).nextRec cause (BitVec.ofNat 64 o.statusAt))
  rw [nextRec_bits] at hfrom hlater
  unfold State.tellWave
  dsimp only
  by_cases hown : e.1 = o.w.wave
  · rw [if_pos hown]
    exact hset.told hfrom
  · rw [if_neg hown, if_pos hlive]
    exact hset.told hlater

/-- Once all have been told, every live wave of the block has the cause. -/
theorem causeSet_tellWaves {s : State} {o : EngineOp} {b b' : Block} {cause : Nat} {es : Sparse Wave} {e : Nat × Wave} {w : Wave}
    (hcause : (causeBit cause).getLsbD cause = true) (he : e ∈ es) (hlive : e.2.live ≠ 0)
    (hb : spFind s.blocks (wkey (b.id 0)) = some b') (hw : spFind b'.waves e.1 = some w) :
    CauseSet (wkey (b.id 0)) e.1 cause (es.foldl (State.tellWave · o b cause) s) := by
  obtain ⟨l, r, rfl⟩ := List.append_of_mem he
  have htold := fun (ls : Sparse Wave) (s : State) => rel_foldl (R := Told (wkey (b.id 0))) (.refl _) .trans
    (g := (State.tellWave · o b cause)) (fun s e => told_tellWave s o b cause e) ls s
  obtain ⟨b₁, hb₁, hblock⟩ := (htold l s).block b' hb
  obtain ⟨w₁, hw₁, -⟩ := hblock.causes e.1 w hw
  rw [List.foldl_append, List.foldl_cons]
  exact (causeSet_tellWave hcause hlive hb₁ hw₁).told (htold r _)

theorem told_interrupt (key : Nat) (s : State) (die kind tenant loc wave : Nat) (detail : W64) :
    Told key s (s.interrupt die kind tenant loc wave detail) := by
  have hwrite : ∀ pa bs, (s.writeHome pa bs).blocks = s.blocks ∧ (s.writeHome pa bs).ops = s.ops := fun pa bs => by
    unfold State.writeHome
    split
    · exact ⟨rfl, rfl⟩
    · rw [memoryOnly_writeBytes s pa bs]; exact ⟨rfl, rfl⟩
  unfold State.interrupt
  dsimp only
  split
  · exact .of_eq rfl rfl
  · exact .of_eq (hwrite _ _).1 (hwrite _ _).2

/-- The machine in which an operation's status word is written and its completion is withheld. -/
def State.heldBack (s : State) (o : EngineOp) (v : Nat) : State := (s.collStatus o v).modOp o.id fun o => { o with status := 3 }

section
variable {s : State} {n : Nat} {o : EngineOp} {i : Instance} {b : Block}

theorem withhold_eq (hb : s.block? o.w = some b) (cause tenant v : Nat) : ∃ t, Told (wkey o.w) (s.heldBack o v) t ∧
    s.withhold o cause tenant v =
      if (o.entry.isSome && ((b.waves.foldl (State.tellWave · o b cause) t).wave o.w).reissue.head? == o.entry) = true then
        (b.waves.foldl (State.tellWave · o b cause) t).nextReissue o.w
      else b.waves.foldl (State.tellWave · o b cause) t := by
  refine ⟨(s.heldBack o v).interrupt (dieOf o.w.core) (if cause = cDIVERGED then 2 else 3) tenant (locOf o.w.core o.w.slot) 0xFF
    (BitVec.ofNat 64 v), told_interrupt _ _ _ _ _ _ _ _, ?_⟩
  unfold State.withhold
  rw [hb]
  rfl

/-- Completion that is withheld: the status word stands, no event is posted, the operation stays, and every live wave of the block has
the cause. -/
theorem withhold_outcome (ho : spFind s.ops n = some o) (hid : o.id = n) (hfault : o.faulted = false) (hb : s.block? o.w = some b)
    (hcore : b.core = o.w.core) (hslot : b.slot = o.w.slot) {cause : Nat} (hcause : (causeBit cause).getLsbD cause = true)
    (tenant v : Nat) :
    ∃ b', (s.withhold o cause tenant v).block? o.w = some b' ∧ StatusIn b' o v ∧ b'.events = b.events ∧
      (∃ o', spFind (s.withhold o cause tenant v).ops n = some o' ∧ o'.status = 3 ∧ o'.entry = o.entry) ∧
      ∀ k w, spFind b.waves k = some w → w.live ≠ 0 →
        ((s.withhold o cause tenant v).wave ⟨o.w.core, o.w.slot, k⟩).tcause.getLsbD cause = true := by
  have hkey : wkey (b.id 0) = wkey o.w := by unfold Block.id wkey; rw [hcore, hslot]
  have hop : spFind (s.heldBack o v).ops n = some { o with wr := [], status := 3 } := by
    have hstatus := op_collStatus ho hid v
    subst hid
    exact spFind_modOp hstatus _
  obtain ⟨t, ht, heq⟩ := withhold_eq hb cause tenant v
  have htell : Told (wkey o.w) t (b.waves.foldl (State.tellWave · o b cause) t) :=
    rel_foldl (.refl _) .trans (fun s e => hkey ▸ told_tellWave s o b cause e) b.waves t
  have hlast : Told (wkey o.w) (b.waves.foldl (State.tellWave · o b cause) t) (s.withhold o cause tenant v) := by
    rw [heq]
    split
    · exact told_nextReissue _ o.w
    · exact .refl _ _
  obtain ⟨hblocks, hops⟩ := (ht.trans htell).trans hlast
  obtain ⟨b', hb', htold⟩ := hblocks _ (block_collStatus hb v)
  refine ⟨b', hb', (statusIn_statusWritten o v b).of_common htold.common, htold.events, ⟨_, hops n _ hop hfault, rfl, rfl⟩,
    fun k w hw hlive => ?_⟩
  obtain ⟨b₁, hb₁, htold₁⟩ := ht.block _ (block_collStatus hb v)
  obtain ⟨w₁, hw₁, -⟩ := htold₁.causes k w hw
  have hset := causeSet_tellWaves (o := o) (e := (k, w)) hcause (mem_of_spFind hw) hlive (hkey ▸ hb₁) hw₁
  rw [hkey] at hset
  exact (hset.told hlast).wave (id := ⟨o.w.core, o.w.slot, k⟩)

theorem collectiveComplete_rep (ho : spFind s.ops n = some o) (hid : o.id = n) (hi : o.inst = some i) (hrep : i.rep = true)
    (hstatus : o.status = 4) (hfault : o.faulted = false) (hfree : ∀ x ∈ o.destCells i, s.sieveHeld (x.1 / 64) = false)
    (hbefore : s.opsBefore o = false) (hb : s.block? o.w = some b) (hcore : b.core = o.w.core) (hslot : b.slot = o.w.slot)
    (hroom : o.post = true → b.events.length < 16) {a : Nat × Option Nat}
    (ha : a = agreement { i with digest := spGet 0 (s.writeCells (o.destCells i)).digests i.tenant } (s.collPeers i)) :
    ∃ t b', exec (.collectiveComplete n) s = .next t ∧ t.block? o.w = some b' ∧ StatusIn b' o a.1 ∧
      (a.2 = none → t.mem = (s.writeCells (o.destCells i)).mem ∧ spFind t.ops n = none ∧ ∀ k ∈ t.locks, k.owner ≠ n) ∧
      (∀ cause, a.2 = some cause → b'.events = b.events ∧
        (∃ o', spFind t.ops n = some o' ∧ o'.status = 3 ∧ o'.entry = o.entry) ∧
        ∀ k w, spFind b.waves k = some w → w.live ≠ 0 → (t.wave ⟨o.w.core, o.w.slot, k⟩).tcause.getLsbD cause = true) := by
  have hexec : exec (.collectiveComplete n) s = .next _ := congrArg Host.Outcome.next (collComplete_rep ho hi hrep hstatus hfree hbefore ha)
  have hwrite := memoryOnly_writeCells s (o.destCells i)
  have hop : spFind (s.writeCells (o.destCells i)).ops n = some o := by rw [hwrite]; exact ho
  have hblock : (s.writeCells (o.destCells i)).block? o.w = some b := by rw [hwrite]; exact hb
  cases hverdict : a.2 with
  | none =>
    rw [hverdict] at hexec
    obtain ⟨⟨hmem, hgone, hlocks⟩, b', hb', hword⟩ := collFinish hop hid hblock hroom a.1
    exact ⟨_, b', hexec, hb', hword, fun _ => ⟨hmem, hgone, hlocks⟩, fun _ h => nomatch h⟩
  | some cause =>
    rw [hverdict] at hexec
    have hcause : (causeBit cause).getLsbD cause = true := by
      rcases agreement_cause (ha ▸ hverdict) with rfl | rfl <;> decide
    obtain ⟨b', hb', hword, hrest⟩ := withhold_outcome hop hid hfault hblock hcore hslot hcause i.tenant a.1
    refine ⟨_, b', hexec, hb', hword, fun h => (nomatch h), fun c hc => ?_⟩
    cases hc
    exact hrest

end

end Sys2Proof.Machine
end

section
/-! XRED, XALL, XGATH, XBCST and XBAR at issue (12 R295-R300), and the obligation O48. -/

namespace Sys2Proof.Machine

open Sys2Proof

/-! ### The start of a collective (12 R300) -/

theorem length_unitsAt (pages : List (Nat × Nat)) (va n : Nat) : (unitsAt pages va n).length = (n + 7) / 8 := by simp [unitsAt]

/-- The operation of a collective: its log entry, its collective id, the units of its source, its credit. -/
structure CollOp (c : Ctx) (code : Nat) (x : CollDesc) (i : Nat) (o : EngineOp) : Prop where
  kind   : o.kind = .coll code
  entry  : o.entry = some i
  cid    : o.inst.map Instance.cid = some x.cid
  reads  : o.rd.length = (x.srcBytes code (x.part c.l) + 7) / 8
  credit : o.credit = x.credit code

theorem startColl_eq (s : State) (id : WaveId) (c : Ctx) (b : Block) (code : Nat) (rep : Bool) (x : CollDesc) (p : CollPages)
    (sig i issued : Nat) (sealNo : Option Nat) : ∃ hp o ls words, CollOp c code x i o ∧ o.id = s.nextOp ∧
      s.startColl id b c.l code rep x p sig i issued sealNo =
        (({ s with held := hp } : State).addOp o ls).modBlock id fun b => b.markUnits .common words true := by
  obtain ⟨hp, hread⟩ := holdRows_frame s c.l [(BitVec.ofNat 64 x.src, x.srcBytes code (x.part c.l))] [rREAD]
  obtain ⟨hp', hwrite⟩ := holdRows_frame { s with held := hp } c.l [(BitVec.ofNat 64 x.dst, x.dstBytes code (x.part c.l))] [rWRITE]
  unfold State.startColl
  dsimp only
  rw [hread, hwrite]
  exact ⟨hp', _, _, _, ⟨rfl, rfl, rfl, length_unitsAt _ _ _, rfl⟩, rfl, rfl⟩

theorem onlyWave_logIssue {c : Ctx} {i : Nat} (hfree : c.w.logFree = some i) (s : State) (hid : c.id = s.cur) (sp : Spec) (e : LogEntry) :
    OnlyWave s (s.logIssue c sp e) := by
  rw [logIssue_eq hfree, issue_eq, hid]
  exact ((onlyWave_modWave s _).trans (onlyWave_modWave _ _)).trans (onlyWave_finish _ _)

/-- The entry of a collective in its wave's log, by the block as the seal leaves it. -/
def State.collEntry (s : State) (c : Ctx) (b : Block) (f : F) (op : BitVec 10) (sealNo : Option Nat) : LogEntry :=
  { c.logEntry op f [] with
    stage := 1, op := some s.nextOp, no := s.nextOp, sealNo := sealNo
    phase := b.journal.phase, desc := c.b.commonBytes (descOff f c) 64 }

/-- The machine in which a collective has issued, started and been counted. -/
def State.collStarted (s : State) (c : Ctx) (b : Block) (f : F) (code : Nat) (op : BitVec 10) (x : CollDesc) (p : CollPages) (i : Nat)
    (sealNo : Option Nat) : State :=
  let t := (s.logIssue c (collSpec f) (s.collEntry c b f op sealNo)).startColl c.id b c.l code (collRep f) x p f.ctl.sig.toNat i s.nextOp sealNo
  { t with instances := t.instances ++ [x.inst c.l code (collRep f) s.nextOp] }

/-- What the start of a collective does beside its log entry. -/
structure CollStarts (s t u : State) (c : Ctx) (code : Nat) (x : CollDesc) (i : Nat) (o : EngineOp) : Prop where
  op        : spFind t.ops s.nextOp = some o
  fields    : CollOp c code x i o
  instances : t.instances.length = s.instances.length + 1
  nextOp    : t.nextOp = s.nextOp + 1
  frame     : t = { s with
    blocks := t.blocks, running := t.running, ops := t.ops, nextOp := t.nextOp, locks := t.locks, held := t.held, instances := t.instances }
  waves     : ∀ w, t.wave? w = u.wave? w
  phase     : (t.block? s.cur).map (fun b => b.journal.phase) = (s.block? s.cur).map fun b => b.journal.phase

theorem collStarts_collStarted {s : State} {c : Ctx} (hid : c.id = s.cur) {i : Nat} (hfree : c.w.logFree = some i) (b : Block) (f : F)
    (code : Nat) (op : BitVec 10) (x : CollDesc) (p : CollPages) (sealNo : Option Nat) :
    ∃ o, CollStarts s (s.collStarted c b f code op x p i sealNo) (s.logIssue c (collSpec f) (s.collEntry c b f op sealNo)) c code x i o := by
  have hlog := onlyWave_logIssue hfree s hid (collSpec f) (s.collEntry c b f op sealNo)
  have hmachine := hlog.machine
  have hshell := hlog.shells s.cur
  unfold State.collStarted
  generalize s.logIssue c (collSpec f) (s.collEntry c b f op sealNo) = u at hmachine hshell ⊢
  obtain ⟨hp, o, ls, words, hop, hopid, hstart⟩ := startColl_eq u c.id c b code (collRep f) x p f.ctl.sig.toNat i s.nextOp sealNo
  have hnext : u.nextOp = s.nextOp := by rw [hmachine]
  rw [hstart]
  refine ⟨o, ?_, hop, ?_, ?_, ?_, fun w => ?_, ?_⟩
  · rw [← hnext, ← hopid]
    exact (spFind_spPut u.ops o.id o.id o).trans (if_pos rfl)
  · rw [hmachine]
    exact List.length_append ..
  · exact (show max u.nextOp (o.id + 1) = _ by rw [hopid, hnext]; omega)
  · rw [hmachine]; rfl
  · exact wave?_modBlock_shell (({ u with held := hp } : State).addOp o ls) c.id w (shellOnly_markUnits .common words true)
  · have hblock := block?_modBlock (({ u with held := hp } : State).addOp o ls) c.id s.cur fun b => b.markUnits .common words true
    have hphase := congrArg (Option.map fun b => b.journal.phase) hshell
    rw [if_pos (by rw [hid])] at hblock
    rw [Option.map_map, Option.map_map] at hphase
    refine (congrArg (Option.map fun b => b.journal.phase) hblock).trans ?_
    rw [Option.map_map]
    exact hphase

/-! ### Issue (12 R295, R299, R300) -/

section
variable {f : F} {s : State} {c : Ctx} {code : Nat} {x : CollDesc} {p : CollPages} {i : Nat}

theorem collLost_none (hx : c.b.collAt c.l (descOff f c) code = .ok x) (hp : s.collPages c.l code x = .ok p) : collLost f code s c = none := by
  unfold collLost
  rw [hx]
  dsimp only
  rw [hp]

theorem collOp_clear (hc : s.clear (collSpec f) (collFails f code s) = some c) (hpart : c.part ≠ 0)
    (hx : c.b.collAt c.l (descOff f c) code = .ok x) (hp : s.collPages c.l code x = .ok p) (hfree : c.w.logFree = some i)
    (hlocks : x.locks c.l code ≤ s.lockFree s.cur.core) (hforce : collRep f = true → c.publishDemand = []) (op : BitVec 10) :
    collOp code op f s = if collRep f then
        (s.modBlock c.id (Block.sealBy · c.id.wave)).collStarted c (c.b.sealBy c.id.wave) f code op x p i (some c.b.journal.phase)
      else s.collStarted c c.b f code op x p i none := by
  obtain ⟨w, hw⟩ := issuing_of_clear hc
  obtain ⟨hctx, -⟩ := clear_spec hc
  unfold collOp
  rw [unholdFail_none (show s.ctx f.ctl = some c from hctx) (collLost_none hx hp), run_clear hc]
  unfold collBody
  rw [if_neg hpart, hx]
  dsimp only
  rw [hp]
  dsimp only
  have hroom : ¬ s.lockFree c.id.core < x.locks c.l code := by rw [hw.id]; omega
  cases hrep : collRep f with
  | false =>
    rw [if_neg (by decide), hfree, if_neg (by simp), if_neg hroom]
    unfold State.collStarted
    rw [hrep]
    rfl
  | true =>
    rw [if_pos rfl, publishFirst_free (hforce hrep), hfree, if_neg (by simp), if_neg hroom]
    unfold State.collStarted
    rw [hrep]
    rfl

/-- A collective that passes its checks starts; .rep seals the journal first. -/
theorem collOp_starts (hc : s.clear (collSpec f) (collFails f code s) = some c) (hpart : c.part ≠ 0)
    (hx : c.b.collAt c.l (descOff f c) code = .ok x) (hp : s.collPages c.l code x = .ok p) (hfree : c.w.logFree = some i)
    (hlocks : x.locks c.l code ≤ s.lockFree s.cur.core) (hforce : collRep f = true → c.publishDemand = []) (op : BitVec 10) :
    ∃ o, spFind (collOp code op f s).ops s.nextOp = some o ∧ CollOp c code x i o ∧
      (collOp code op f s).instances.length = s.instances.length + 1 ∧ (collOp code op f s).nextOp = s.nextOp + 1 ∧
      collOp code op f s = { s with
        blocks := (collOp code op f s).blocks, running := (collOp code op f s).running, ops := (collOp code op f s).ops
        nextOp := (collOp code op f s).nextOp, locks := (collOp code op f s).locks, held := (collOp code op f s).held
        instances := (collOp code op f s).instances } ∧
      (collRep f = false → (∀ u, otherWave s u → (collOp code op f s).wave? u = s.wave? u) ∧
        LogOutcome s (collOp code op f s) (collOp code op f s) c (collSpec f) i { c.logEntry op f [] with
          stage := 1, op := some s.nextOp, no := s.nextOp, desc := c.b.commonBytes (descOff f c) 64 }) ∧
      (collRep f = true → ((collOp code op f s).block? s.cur).map (fun b => b.journal.phase) = some (c.b.journal.phase + 1)) := by
  obtain ⟨w, hw⟩ := issuing_of_clear hc
  rw [collOp_clear hc hpart hx hp hfree hlocks hforce op]
  cases hrep : collRep f with
  | false =>
    rw [if_neg (by decide)]
    obtain ⟨o, hop, hfields, hinst, hnext, hframe, hwaves, -⟩ := collStarts_collStarted hw.id hfree c.b f code op x p none
    have hlog := logOutcome_logIssue hw (collSpec f) (s.collEntry c c.b f op none) hfree
    refine ⟨o, hop, hfields, hinst, hnext, hframe, fun _ => ⟨fun u hu => (hwaves u).trans (hlog.machine.others u hu), ?_⟩,
      fun h => nomatch h⟩
    have hentry : s.collEntry c c.b f op none = { c.logEntry op f [] with
        stage := 1, op := some s.nextOp, no := s.nextOp, desc := c.b.commonBytes (descOff f c) 64 } := by
      unfold State.collEntry; rfl
    rw [← hentry]
    exact hlog.of_wave (by unfold State.wave; rw [hwaves])
  | true =>
    rw [if_pos rfl]
    obtain ⟨o, hop, hfields, hinst, hnext, hframe, -, hphase⟩ := collStarts_collStarted (s := s.modBlock c.id (Block.sealBy · c.id.wave))
      hw.id hfree (c.b.sealBy c.id.wave) f code op x p (some c.b.journal.phase)
    refine ⟨o, hop, hfields, hinst, hnext, hframe, fun h => (nomatch h), fun _ => hphase.trans ?_⟩
    have hsealed : (s.modBlock c.id (Block.sealBy · c.id.wave)).block? s.cur = some (c.b.sealBy c.id.wave) := by
      rw [hw.id]; exact block?_sealBy hw.block s.cur.wave
    exact congrArg (Option.map fun b => b.journal.phase) hsealed

end

/-- The five instructions share their issue. -/
theorem exec_collective (f : F) (s : State) : ∀ y ∈ ([(0, 0x2A0, .xred f), (1, 0x2A1, .xall f), (2, 0x2A2, .xgath f), (3, 0x2A3, .xbcst f),
    (4, 0x2A4, .xbar f)] : List (Nat × BitVec 10 × Instr)), exec y.2.2 s = .next (collOp y.1 y.2.1 f s) := by
  intro y hy
  simp only [List.mem_cons, List.not_mem_nil, or_false] at hy
  rcases hy with rfl | rfl | rfl | rfl | rfl <;> rfl

/-- Settles O48: each clause by the lemma that says what its step does. -/
theorem collectives : Obligations.Collectives := by
  refine ⟨?start, ?meet, ?plain, ?mismatch, ?replicas, fun own peers => ⟨?equal, ?majority, ?none⟩⟩
  case start =>
    intro f s c x p i y hy hc hpart hx hp hfree hlocks hforce
    obtain ⟨o, hop, ⟨hkind, hentry, hcid, hreads, hcredit⟩, hinst, hnext, hframe, hlog, hphase⟩ :=
      collOp_starts hc hpart hx hp hfree hlocks hforce y.2.1
    exact ⟨_, o, exec_collective f s y hy, hop, hkind, hentry, hcid, hreads, hcredit, hinst, hnext, hframe, hlog, hphase⟩
  case meet =>
    intro s tenant cid o i hnext ho hi _ _
    have hmeet := collectiveMeet_outcome hnext ho hi
    unfold State.metData at hmeet
    rw [ownLen_eq] at hmeet
    exact hmeet
  case plain =>
    exact fun s n o i b ho hid hi hrep hstatus hfree hb hroom => collectiveComplete_plain ho hid hi hrep hstatus hfree hb hroom
  case mismatch =>
    exact fun s n code o i b ho hid hi hkind hstatus hentry hb huid hwave hroom =>
      collectiveComplete_mismatch ho hid hi hkind hstatus hentry hb huid hwave hroom
  case replicas =>
    exact fun s n o i b ho hid hi hrep hstatus hfault hfree hbefore hb hcore hslot hroom a ha =>
      collectiveComplete_rep ho hid hi hrep hstatus hfault hfree hbefore hb hcore hslot hroom ha
  case equal => exact agreement_of_equal
  case majority => exact fun d h => agreement_of_majority h
  case none => exact agreement_of_no_majority

end Sys2Proof.Machine
end

section
/-! What reset leaves (19 R329, 22 R385, 24 R411, R416): the obligation O60. -/

namespace Sys2Proof.Machine

open Sys2Proof

/-! ### Registers at their defaults -/

theorem readByte_reset (pa : Nat) : State.reset.readByte pa = 0 := rfl

theorem coreR_reset (core n : Nat) : State.reset.coreR core n = 0 := rfl

theorem dieR_reset (die n : Nat) : State.reset.dieR die n = dieDefault n := rfl

theorem pkgR_reset (n : Nat) : State.reset.pkgR n = pkgDefault n := rfl

/-- The remap table maps each logical core to the physical core of its number (24 R411). -/
theorem dieDefault_remap {i : Nat} (hi : i < 512) : dieDefault (0x800 + i) = 0x8000 ||| BitVec.ofNat 64 i := by
  unfold dieDefault
  rw [if_pos (by omega), Nat.add_sub_cancel_left]

theorem dieDefault_other {n : Nat} (hn : n < 0x800 ∨ 0xA00 ≤ n) : dieDefault n = 0 := if_neg (by omega)

/-- The package's scope stands for every function but the host's (19 R329). -/
theorem pkgDefault_policy {fn : Nat} (hlow : 0 < fn) (hhigh : fn < 64) : pkgDefault (0x400 + fn) = 4 := by
  unfold pkgDefault
  rw [if_neg (by omega), if_pos (by omega)]

theorem pkgDefault_other {n : Nat} (hn : n < 0x400 ∨ (0x440 ≤ n ∧ n ≠ 0x490)) : pkgDefault n = 0 := by
  unfold pkgDefault
  rw [if_neg (by omega), if_neg (by omega), if_neg (by omega)]

/-- No tenant but tenant 0 has a core (22 R385). -/
theorem partCount_reset {t : Nat} (ht : 0 < t) : State.reset.partCount t = 0 := by
  unfold State.partCount
  rw [pkgR_reset, pkgDefault_other (by omega)]
  rfl

/-- Settles O60: every map of the state after reset is empty, and a register reads as its default. -/
theorem resetState : Obligations.ResetState := by
  refine ⟨reset_memoryCanonical_data, readByte_reset, ?remap, rfl, ?policy, rfl, rfl, ?tenants, coreR_reset, ?die, ?package,
    rfl, rfl, rfl, rfl, rfl, rfl, rfl, rfl, rfl, rfl, rfl, rfl, rfl⟩
  case remap => exact fun d i hi => (dieR_reset d _).trans (dieDefault_remap hi)
  case policy => exact fun fn hlow hhigh => (pkgR_reset _).trans (pkgDefault_policy hlow hhigh)
  case tenants => exact fun t ht _ => partCount_reset ht
  case die => exact fun d n hn => (dieR_reset d n).trans (dieDefault_other hn)
  case package => exact fun n hn => (pkgR_reset n).trans (pkgDefault_other hn)

end Sys2Proof.Machine
end

section
/-! Refreshes, request queues, column slots and failed bursts of a pseudo-channel (11 R294, 23 R403-R406). -/

namespace Sys2Proof.Machine

open Sys2Proof

/-! ### Refreshes (11 R294) -/

/-- A pseudo-channel with a bank whose refresh starts. -/
def Channel.refreshFrom (bank now : Nat) (c : Channel) : Channel :=
  { c with refresh := spPut c.refresh bank now, lastRef := spSet 0 c.lastRef bank now }

/-- A pseudo-channel with a bank whose refresh has ended. -/
def Channel.refreshed (bank : Nat) (c : Channel) : Channel := { c with refresh := spDel c.refresh bank }

section
variable {s : State} {pc bank : Nat}

theorem bankRefresh_outcome (hpc : pc < 1024) (hbank : bank < 32) (hfree : spFind (s.channel pc).refresh bank = none)
    (hdue : spGet 0 (s.channel pc).lastRef bank + 3900 ≤ s.cclk) :
    ∃ t, exec (.bankRefresh pc bank) s = .next t ∧ t = { s with channels := t.channels } ∧
      spFind (t.channel pc).refresh bank = some s.cclk ∧ (t.channel pc).queues = (s.channel pc).queues := by
  have hstep : s.bankRefresh pc bank = s.modChannel pc (Channel.refreshFrom bank s.cclk) := by
    have hnot : ¬ (1024 ≤ pc ∨ 32 ≤ bank ∨ (spFind (s.channel pc).refresh bank).isSome ∨
        s.cclk < spGet 0 (s.channel pc).lastRef bank + 3900) := by
      rw [hfree]
      simp only [Option.isSome_none, Bool.false_eq_true, false_or]
      omega
    exact if_neg hnot
  refine ⟨_, congrArg Host.Outcome.next hstep, rfl, ?_, ?_⟩
  · rw [channel_modChannel]
    exact (spFind_spPut _ _ _ _).trans (if_pos rfl)
  · rw [channel_modChannel]
    rfl

theorem refreshEnd_outcome {t0 : Nat} (hbusy : spFind (s.channel pc).refresh bank = some t0) (hpast : t0 + 240 ≤ s.cclk) :
    ∃ t, exec (.refreshEnd pc bank) s = .next t ∧ t = { s with channels := t.channels } ∧ spFind (t.channel pc).refresh bank = none := by
  have hstep : s.refreshEnd pc bank = s.modChannel pc (Channel.refreshed bank) := by
    unfold State.refreshEnd
    rw [hbusy]
    exact if_neg (Nat.not_lt.mpr hpast)
  refine ⟨_, congrArg Host.Outcome.next hstep, rfl, ?_⟩
  rw [channel_modChannel]
  exact (spFind_spDel _ _ _).trans (if_pos rfl)

end

/-! ### Requests (23 R403) -/

theorem getD_modify_same {α : Type} {l : List (List α)} {i : Nat} (f : List α → List α) (h : i < l.length) :
    (l.modify i f).getD i [] = f (l.getD i []) := by
  simp [List.getD_eq_getElem?_getD, h]

/-- A request takes an entry of a queue that has room. -/
theorem requestArrive_room {s : State} {pc : Nat} {r : ChanReq} (hpc : pc < 1024) (hcls : r.cls < 4)
    (hroom : ((s.channel pc).queues.getD r.cls []).length < 32) :
    s.requestArrive pc r = s.modChannel pc fun c =>
      { c with queues := c.queues.modify r.cls fun q => q ++ [(r, s.cclk, s.cclk + if r.budget = 0 then 65535 else r.budget)] } :=
  (if_neg (by omega)).trans (if_neg (Nat.not_le.mpr hroom))

theorem channelRequestArrive_outcome {s : State} {pc : Nat} {r : ChanReq} (hpc : pc < 1024) (hlen : r.cls < (s.channel pc).queues.length)
    (hcls : r.cls < 4) (hroom : ((s.channel pc).queues.getD r.cls []).length < 32) :
    ∃ t, exec (.channelRequestArrive pc r) s = .next t ∧ t = { s with channels := t.channels } ∧
      (t.channel pc).queues.getD r.cls [] = (s.channel pc).queues.getD r.cls [] ++
        [(r, s.cclk, s.cclk + if r.budget = 0 then 65535 else r.budget)] := by
  refine ⟨_, congrArg Host.Outcome.next (requestArrive_room hpc hcls hroom), rfl, ?_⟩
  rw [channel_modChannel]
  exact getD_modify_same _ hlen

/-! ### Packets that enter the fabric (23 R393) -/

theorem enter_frame {s t : State} {die port : Nat} {p : Packet} (h : s.enter die port p = some t) : t = { s with ports := t.ports } := by
  unfold State.enter at h
  obtain ⟨q, -, rfl⟩ := Option.map_eq_some_iff.mp h
  rfl

theorem send_frame (s : State) (x : Sending) : s.send x = { s with ports := (s.send x).ports, flowsSent := (s.send x).flowsSent } := by
  unfold State.send
  dsimp only
  split
  · rfl
  · next t ht => rw [enter_frame ht]

/-! ### Column slots (23 R404, R405) -/

/-- A pseudo-channel that gives up its chosen request. -/
def Channel.givenUp (c : Channel) : Channel :=
  { c with chosen := none, row := { c.row with pending := none }, col := { c.col with pending := none } }

/-- A pseudo-channel whose row command is granted: its column command is pending. -/
def Channel.rowGranted (now : Nat) (c : Channel) : Channel :=
  { c with row := { pending := none, granted := some now }, col := { c.col with pending := some now } }

/-- A pseudo-channel that has served its chosen request. -/
def Channel.served (e : ChanReq × Nat × Nat) (now : Nat) (c : Channel) : Channel :=
  { c with
    queues := c.queues.map fun q => q.erase e
    slot := c.slot + 1
    chosen := none
    col := { pending := none, granted := some now } }

section
variable {s : State} {pc : Nat} {e : ChanReq × Nat × Nat}

theorem columnSlot_chooses (hquiet : s.arrayErrors pc = s) (hfree : (s.channel pc).chosen = none) (hchoice : s.slotChoice pc = some e) :
    ∃ t, exec (.columnSlot pc) s = .next t ∧ t = { s with channels := t.channels } ∧ (t.channel pc).chosen = some e ∧
      ((t.channel pc).row.pending = some s.cclk ∨ (t.channel pc).col.pending = some s.cclk) ∧
      (t.channel pc).slot = (s.channel pc).slot ∧ (t.channel pc).queues = (s.channel pc).queues := by
  have hstep : s.columnSlot pc = s.chooseSlot pc e := by
    unfold State.columnSlot
    simp only [hquiet, hfree, hchoice]
  refine ⟨_, congrArg Host.Outcome.next hstep, rfl, ?_⟩
  unfold State.chooseSlot
  rw [channel_modChannel]
  by_cases hrow : Config.freeBit s.tick pc = true
  · rw [if_pos hrow]
    exact ⟨rfl, .inl rfl, rfl, rfl⟩
  · rw [if_neg hrow]
    exact ⟨rfl, .inr rfl, rfl, rfl⟩

theorem columnSlot_givesUp (hquiet : s.arrayErrors pc = s) (hchosen : (s.channel pc).chosen = some e) (hready : s.readyReq pc e.1 = false) :
    ∃ t, exec (.columnSlot pc) s = .next t ∧ t = { s with channels := t.channels } ∧ (t.channel pc).chosen = none ∧
      (t.channel pc).row.pending = none ∧ (t.channel pc).col.pending = none ∧ (t.channel pc).queues = (s.channel pc).queues := by
  have hstep : s.columnSlot pc = s.modChannel pc Channel.givenUp := by
    unfold State.columnSlot
    simp only [hquiet, hchosen, hready, Bool.not_false, if_true]
    rfl
  refine ⟨_, congrArg Host.Outcome.next hstep, rfl, ?_⟩
  rw [channel_modChannel]
  exact ⟨rfl, rfl, rfl, rfl⟩

theorem columnSlot_row (hquiet : s.arrayErrors pc = s) (hchosen : (s.channel pc).chosen = some e) (hready : s.readyReq pc e.1 = true)
    (hrow : s.busGrants pc Channel.row = true) :
    ∃ t, exec (.columnSlot pc) s = .next t ∧ t = { s with channels := t.channels } ∧ (t.channel pc).chosen = some e ∧
      (t.channel pc).row = ⟨none, some s.cclk⟩ ∧ (t.channel pc).col.pending = some s.cclk := by
  have hstep : s.columnSlot pc = s.modChannel pc (Channel.rowGranted s.cclk) := by
    unfold State.columnSlot
    simp only [hquiet, hchosen, hready, hrow, Bool.not_true, Bool.false_eq_true, if_false, if_true]
    rfl
  refine ⟨_, congrArg Host.Outcome.next hstep, rfl, ?_⟩
  rw [channel_modChannel]
  exact ⟨hchosen, rfl, rfl⟩

theorem columnSlot_serves (hquiet : s.arrayErrors pc = s) (hchosen : (s.channel pc).chosen = some e) (hready : s.readyReq pc e.1 = true)
    (hrow : s.busGrants pc Channel.row = false) (hcol : s.busGrants pc Channel.col = true) :
    ∃ t, exec (.columnSlot pc) s = .next t ∧ (t.channel pc).slot = (s.channel pc).slot + 1 ∧ (t.channel pc).chosen = none ∧
      (t.channel pc).col = ⟨none, some s.cclk⟩ ∧ (t.channel pc).queues = (s.channel pc).queues.map (fun q => q.erase e) ∧
      t = { s with channels := t.channels, ports := t.ports, flowsSent := t.flowsSent } := by
  have hstep : s.columnSlot pc = s.serve pc e := by
    unfold State.columnSlot
    simp only [hquiet, hchosen, hready, hrow, hcol, Bool.not_true, Bool.false_eq_true, if_false, if_true]
  have hframe : s.serve pc e = { s.modChannel pc (Channel.served e s.cclk) with
      ports := (s.serve pc e).ports, flowsSent := (s.serve pc e).flowsSent } := send_frame _ _
  have hchan : (s.serve pc e).channel pc = (s.channel pc).served e s.cclk := by
    rw [hframe]
    exact channel_modChannel _ _ _
  refine ⟨_, congrArg Host.Outcome.next hstep, ?_, ?_, ?_, ?_, ?_⟩
  · rw [hchan]
    rfl
  · rw [hchan]
    rfl
  · rw [hchan]
    rfl
  · rw [hchan]
    rfl
  · rw [hframe]
    rfl

end

end Sys2Proof.Machine
end

section
/-! Error counts and the retirement of units (24 R409-R411): their frame, and what a burst that fails leaves (23 R406). -/

namespace Sys2Proof.Machine

open Sys2Proof

/-! ### Retirement of what is not a core (24 R410, R411) -/

/-- Only error counts, retired units and what a record of an interrupt takes differ. -/
def RetiresOnly (s t : State) : Prop :=
  t = { s with
    mem := t.mem, poison := t.poison, digests := t.digests, agenda := t.agenda, dieReg := t.dieReg, msi := t.msi
    retiredU := t.retiredU, errors := t.errors, windows := t.windows }

theorem RetiresOnly.refl (s : State) : RetiresOnly s s := rfl

theorem RetiresOnly.trans {s t u : State} (h : RetiresOnly s t) (k : RetiresOnly t u) : RetiresOnly s u := by
  unfold RetiresOnly at h k ⊢
  rw [k, h]

theorem SignalsOnly.retires {s t : State} (h : SignalsOnly s t) : RetiresOnly s t := by
  unfold SignalsOnly at h
  unfold RetiresOnly
  rw [h]

theorem RetiresOnly.channel {s t : State} (h : RetiresOnly s t) (pc : Nat) : t.channel pc = s.channel pc := by
  rw [h]
  rfl

theorem RetiresOnly.blocks {s t : State} (h : RetiresOnly s t) : t.blocks = s.blocks := by rw [h]

theorem RetiresOnly.link {s t : State} (h : RetiresOnly s t) (x : Nat) : t.link x = s.link x := by
  rw [h]
  rfl

theorem retiresOnly_setDieR (s : State) (die n : Nat) (v : W64) : RetiresOnly s (s.setDieR die n v) := rfl

theorem retiresOnly_retireMark (s : State) (kind cls die number : Nat) : RetiresOnly s (s.retireMark kind cls die number) := by
  unfold State.retireMark
  split
  · exact .refl s
  · have hmarked : RetiresOnly s { s with retiredU := s.retiredU ++ [unitCode kind die number] } := rfl
    exact hmarked.trans (signalsOnly_interrupt _ _ _ _ _ _ _).retires

theorem retiresOnly_checkDie (s : State) (d : Nat) : RetiresOnly s (s.checkDie d) := by
  unfold State.checkDie
  split
  · exact (retiresOnly_retireMark s 5 0 d 0).trans (rel_foldl .refl .trans (fun s i => retiresOnly_setDieR s d _ _) _ _)
  · exact .refl s

theorem retiresOnly_retirePort (s : State) (cls die port : Nat) : RetiresOnly s (s.retirePort cls die port) := by
  have hnear := (retiresOnly_retireMark s 3 cls die port).trans (retiresOnly_checkDie _ die)
  unfold State.retirePort
  dsimp only
  split
  · exact hnear
  · exact hnear.trans (retiresOnly_checkDie _ _)

theorem retiresOnly_retireUnit (s : State) {cls : Nat} (hcls : 2 < cls) (die number : Nat) :
    RetiresOnly s (s.retireUnit cls die number) := by
  unfold State.retireUnit
  rw [if_neg (Nat.not_le.mpr hcls)]
  split
  · exact retiresOnly_retireMark _ _ _ _ _
  · split
    · exact retiresOnly_retirePort _ _ _ _
    · exact retiresOnly_retireMark _ _ _ _ _

/-! ### Error windows and counts (24 R409) -/

theorem expireWindow_frame (s : State) (die : Nat) :
    s.expireWindow die = { s with errors := (s.expireWindow die).errors, windows := (s.expireWindow die).windows } := by
  unfold State.expireWindow
  split <;> rfl

theorem retiresOnly_countError (s : State) {cls : Nat} (hcls : 2 < cls) (die number : Nat) :
    RetiresOnly s (s.countError cls die number) := by
  have hwindow : RetiresOnly s (s.expireWindow die) := by
    rw [expireWindow_frame]
    rfl
  have hcounted : ∀ n, RetiresOnly s { s.expireWindow die with errors := spSet 0 (s.expireWindow die).errors (errorKey cls die number) n } :=
    fun n => hwindow.trans rfl
  unfold State.countError
  dsimp only
  split
  · exact (hcounted _).trans (retiresOnly_retireUnit _ hcls _ _)
  · exact hcounted _

theorem retiresOnly_countLinkError (s : State) (x : Nat) {d2d : Nat} (hcls : 2 < d2d) : RetiresOnly s (s.countLinkError x d2d) := by
  unfold State.countLinkError
  split
  · exact retiresOnly_countError s hcls _ _
  · exact retiresOnly_countError s (by omega) _ _

theorem errorWindowExpire_outcome {s : State} {die : Nat} (hnew : spGet 0 s.windows die ≠ s.windowNow die) :
    ∃ t, exec (.errorWindowExpire die) s = .next t ∧ t = { s with errors := t.errors, windows := t.windows } ∧
      spGet 0 t.windows die = s.windowNow die ∧ (∀ e ∈ t.errors, e.1 / 4096 % 16 ≠ die) ∧
      ∀ e ∈ s.errors, e.1 / 4096 % 16 ≠ die → e ∈ t.errors := by
  have hstep : s.expireWindow die = { s with
      errors := s.errors.filter fun e => e.1 / 4096 % 16 != die
      windows := spSet 0 s.windows die (s.windowNow die) } := if_neg hnew
  refine ⟨_, congrArg Host.Outcome.next hstep, rfl, spGet_spSet_same _ _ _ _, fun e he => ?_, fun e he hdie => ?_⟩
  · exact bne_iff_ne.mp (List.mem_filter.mp he).2
  · exact List.mem_filter.mpr ⟨he, bne_iff_ne.mpr hdie⟩

/-! ### Failed bursts (23 R406, R408) -/

theorem memoryOnly_writeLost (s : State) (pa : Nat) : MemoryOnly s (s.writeLost pa) := by
  refine rel_foldl .refl .trans (fun s i => ?_) _ s
  unfold State.addPoison
  dsimp only
  split
  · exact .refl s
  · exact memoryOnly_poison s _

theorem dieR_countPc (s : State) (pc lo : Nat) : (s.countPc pc lo).dieR (pc / 128) (0x380 + pc % 128) =
    satField (s.dieR (pc / 128) (0x380 + pc % 128)) lo := spGet_spSet_same _ _ _ _

section
variable {s : State} {pc : Nat} {b : Burst}

/-- A failed burst that may be tried again counts at its pseudo-channel; a retry that fails comes back. -/
theorem stackCrcError_retries (hpc : pc < 1024) (hfew : b.failures < 9) :
    ∃ t, exec (.stackCrcError pc b) s = .next t ∧ t.mem = s.mem ∧ t.blocks = s.blocks ∧
      t.dieR (pc / 128) (0x380 + pc % 128) = satField (s.dieR (pc / 128) (0x380 + pc % 128)) 0 := by
  have hstep : ∃ a, s.stackCrcError pc b = { s.countPc pc 0 with agenda := a } := by
    unfold State.stackCrcError
    rw [if_neg (Nat.not_le.mpr hpc), if_pos hfew]
    dsimp only
    split
    · exact ⟨_, rfl⟩
    · exact ⟨_, rfl⟩
  obtain ⟨a, ha⟩ := hstep
  exact ⟨_, congrArg Host.Outcome.next ha, rfl, rfl, dieR_countPc s pc 0⟩

/-- A pseudo-channel that has abandoned a transfer. -/
def Channel.abandoned (c : Channel) : Channel := { c with failed := true }

/-- A write that is abandoned marks its pseudo-channel, loses its bytes and counts as an error of class 5. -/
theorem stackCrcError_abandons (hpc : pc < 1024) (hmany : 9 ≤ b.failures) (hwrite : b.read = false) :
    ∃ t, exec (.stackCrcError pc b) s = .next t ∧ (t.channel pc).failed = true ∧ t.blocks = s.blocks := by
  have hstep : s.stackCrcError pc b =
      ((((s.countPc pc 16).modChannel pc Channel.abandoned).writeLost b.addr).countError 5 (pc / 128) pc) := by
    unfold State.stackCrcError
    rw [if_neg (Nat.not_le.mpr hpc), if_neg (Nat.not_lt.mpr hmany), hwrite]
    rfl
  have hframe : RetiresOnly ((s.countPc pc 16).modChannel pc Channel.abandoned) (s.stackCrcError pc b) := by
    rw [hstep]
    exact (memoryOnly_writeLost _ _).signals.retires.trans (retiresOnly_countError _ (by decide) _ _)
  refine ⟨_, rfl, ?_, hframe.blocks⟩
  exact congrArg Channel.failed ((hframe.channel pc).trans (channel_modChannel _ _ _))

end

end Sys2Proof.Machine
end

section
/-! Starts, the thermal trip and attestation (24 R416-R419), and the obligation O53. -/

namespace Sys2Proof.Machine

open Sys2Proof

/-! ### Paths to the first I/O die (23 R390, 24 R417) -/

theorem foldl_min_le {α : Type} (g : α → Nat) (l : List α) (a : Nat) : l.foldl (fun m e => min m (g e)) a ≤ a := by
  induction l generalizing a with
  | nil => exact le_rfl
  | cons e t ih => exact (ih _).trans (min_le_left _ _)

theorem foldl_min_le_of_mem {α : Type} {g : α → Nat} {l : List α} {e : α} (he : e ∈ l) (a : Nat) :
    l.foldl (fun m e => min m (g e)) a ≤ g e := by
  induction l generalizing a with
  | nil => cases he
  | cons x t ih =>
    cases he with
    | head => exact (foldl_min_le g t _).trans (min_le_right _ _)
    | tail _ ht => exact ih ht _

theorem hops_succ (s : State) (n t : Nat) {d : Nat} (hd : d < 10) : (s.hops t (n + 1)).getD d 99 =
    (s.reaches d).foldl (fun m e => min m ((s.hops t n).getD e.2 99 + 1)) ((s.hops t n).getD d 99) := by
  simp [State.hops, List.getD_eq_getElem?_getD, hd]

theorem hops_self (s : State) {t : Nat} (ht : t < 10) (n : Nat) : (s.hops t n).getD t 99 = 0 := by
  induction n with
  | zero => simp [State.hops, List.getD_eq_getElem?_getD, ht]
  | succ n ih =>
    rw [hops_succ s n t ht, ih]
    exact Nat.le_zero.mp (foldl_min_le _ _ 0)

/-- A die next to another one is one hop away. -/
theorem hops_next {s : State} {d dir t : Nat} (hd : d < 10) (ht : t < 10) (hnext : (dir, t) ∈ s.reaches d) (n : Nat) :
    (s.hops t (n + 1)).getD d 99 ≤ 1 := by
  rw [hops_succ s n t hd]
  calc _ ≤ (s.hops t n).getD t 99 + 1 := foldl_min_le_of_mem (g := fun e : Nat × Nat => (s.hops t n).getD e.2 99 + 1) hnext _
    _ = 1 := by rw [hops_self s ht]

/-- Where no unit is retired, die 0 reaches die 8 over its boundary 3. -/
theorem reaches_ioDie {s : State} (hnone : s.retiredU = []) : (3, 8) ∈ s.reaches 0 := by
  have hworks : ∀ kind die number, s.isRetired kind die number = false := fun _ _ _ => by simp [State.isRetired, hnone]
  have hports : (s.workPorts 0 3).isEmpty = false := by simp [State.workPorts, neighbour, hworks, List.range_succ]
  refine List.mem_filterMap.mpr ⟨3, by decide, ?_⟩
  change (if (s.workPorts 0 3).isEmpty then none else some (3, 8)) = some (3, 8)
  rw [hports]
  rfl

/-! ### What the steps of a start leave (24 R417) -/

/-- Only what a start finds out differs: measurements, where it stands, the health that it took, the remap table and the lines held. -/
def StartsOnly (s t : State) : Prop :=
  t = { s with
    measures := t.measures, power := t.power, worst := t.worst, healthAt := t.healthAt, dieReg := t.dieReg, icache := t.icache }

theorem StartsOnly.refl (s : State) : StartsOnly s s := rfl

section
variable {s t u : State}

theorem StartsOnly.trans (h : StartsOnly s t) (k : StartsOnly t u) : StartsOnly s u := by
  unfold StartsOnly at h k ⊢
  rw [k, h]

theorem StartsOnly.mem (h : StartsOnly s t) : t.mem = s.mem := by rw [h]
theorem StartsOnly.poison (h : StartsOnly s t) : t.poison = s.poison := by rw [h]
theorem StartsOnly.blocks (h : StartsOnly s t) : t.blocks = s.blocks := by rw [h]
theorem StartsOnly.launches (h : StartsOnly s t) : t.launches = s.launches := by rw [h]
theorem StartsOnly.ops (h : StartsOnly s t) : t.ops = s.ops := by rw [h]
theorem StartsOnly.locks (h : StartsOnly s t) : t.locks = s.locks := by rw [h]
theorem StartsOnly.running (h : StartsOnly s t) : t.running = s.running := by rw [h]
theorem StartsOnly.retiredU (h : StartsOnly s t) : t.retiredU = s.retiredU := by rw [h]
theorem StartsOnly.queues (h : StartsOnly s t) : t.queues = s.queues := by rw [h]
theorem StartsOnly.quotes (h : StartsOnly s t) : t.quotes = s.quotes := by rw [h]
theorem StartsOnly.starts (h : StartsOnly s t) : t.starts = s.starts := by rw [h]
theorem StartsOnly.replicas (h : StartsOnly s t) : t.replicas = s.replicas := by rw [h]
theorem StartsOnly.digests (h : StartsOnly s t) : t.digests = s.digests := by rw [h]
theorem StartsOnly.held (h : StartsOnly s t) : t.held = s.held := by rw [h]
theorem StartsOnly.pkgReg (h : StartsOnly s t) : t.pkgReg = s.pkgReg := by rw [h]

end

/-- Only what a start finds out of the part differs. -/
def BootsOnly (s t : State) : Prop :=
  t = { s with measures := t.measures, power := t.power, worst := t.worst, healthAt := t.healthAt }

theorem BootsOnly.refl (s : State) : BootsOnly s s := rfl

section
variable {s t u : State}

theorem BootsOnly.trans (h : BootsOnly s t) (k : BootsOnly t u) : BootsOnly s u := by
  unfold BootsOnly at h k ⊢
  rw [k, h]

theorem BootsOnly.startsOnly (h : BootsOnly s t) : StartsOnly s t := by
  unfold BootsOnly at h
  unfold StartsOnly
  rw [h]

theorem BootsOnly.icache (h : BootsOnly s t) : t.icache = s.icache := by rw [h]

theorem BootsOnly.dieR (h : BootsOnly s t) (d n : Nat) : t.dieR d n = s.dieR d n := by
  rw [h]
  rfl

end

theorem startsOnly_setDieR (s : State) (die n : Nat) (v : W64) : StartsOnly s (s.setDieR die n v) := rfl

theorem startsOnly_coreEmptied (s : State) (core : Nat) : StartsOnly s (s.coreEmptied core) := by
  rw [coreEmptied_frame]
  rfl

theorem startsOnly_mapCores (s : State) : StartsOnly s s.mapCores :=
  rel_foldl .refl .trans (fun s _ => rel_foldl .refl .trans (fun s _ => startsOnly_setDieR s _ _ _) _ s) _ s

theorem power_mapCores (s : State) : s.mapCores.power = s.power :=
  rel_foldl (R := fun s t : State => t.power = s.power) (fun _ => rfl) (fun h k => k.trans h)
    (fun s _ => rel_foldl (R := fun s t : State => t.power = s.power) (fun _ => rfl) (fun h k => k.trans h)
      (fun _ _ => State.setDieR_power ..) _ s) _ s

theorem startsOnly_remapRetired (s : State) : StartsOnly s s.remapRetired := by
  unfold State.remapRetired
  split
  · exact .refl s
  · exact rel_foldl .refl .trans startsOnly_coreEmptied _ s

theorem bootsOnly_cutBy (s : State) (x : StartInput) : BootsOnly s (s.cutBy x) := by
  unfold State.cutBy
  split <;> rfl

/-! ### The steps of a start (24 R417) -/

theorem ends_of_uncut {x : StartInput} (huncut : ∀ n, x.cut = some n → 6 < n) {step : Nat} (hstep : step ≤ 6) : StartInput.ends x step = true :=
  (Option.all_eq_true _ _).mpr fun n hn => decide_eq_true (hstep.trans_lt (huncut n hn))

theorem early_of_cut {x : StartInput} {n : Nat} (hcut : x.cut = some n) (hn : n ≤ 6) : StartInput.early x = true := by
  simp [StartInput.early, hcut, hn]

/-- A start that a reset cuts does not end. -/
theorem power_cutBy {x : StartInput} {n : Nat} (hcut : x.cut = some n) (s : State) : (s.cutBy x).power ≠ .running := by
  unfold State.cutBy
  split
  · exact nofun
  · next hnot => exact fun hrun => hnot ⟨by rw [hcut]; rfl, hrun⟩

theorem zeroStacks_failed {s : State} (hfailed : s.power = .failed) (x : StartInput) : s.zeroStacks x = s :=
  if_neg fun h => by rw [hfailed] at h; exact Power.noConfusion h.1

theorem cutBy_failed {s : State} (hfailed : s.power = .failed) (x : StartInput) : s.cutBy x = s :=
  if_neg fun h => by rw [hfailed] at h; exact Power.noConfusion h.2

/-- Training that loses no stack and no link retires no unit. -/
theorem bootsOnly_train (s : State) {x : StartInput} (hstacks : x.badStacks = []) (hlinks : x.badLinks = []) :
    BootsOnly s (s.train x) := by
  unfold State.train
  simp only [hstacks, hlinks, List.filter_nil, List.foldl_nil, ite_self]
  split
  · exact .refl s
  · split <;> rfl

theorem measures_train (s : State) {x : StartInput} (hstacks : x.badStacks = []) (hlinks : x.badLinks = []) :
    (s.train x).measures = s.measures := by
  unfold State.train
  simp only [hstacks, hlinks, List.filter_nil, List.foldl_nil, ite_self]
  split
  · rfl
  · split <;> rfl

/-- Training that loses no stack and no link leaves a part without retired units running. -/
theorem train_intact {s : State} {x : StartInput} (hstacks : x.badStacks = []) (hlinks : x.badLinks = []) (hnone : s.retiredU = []) :
    s.train x = s := by
  have hreached : ((List.range 8).all fun d => decide (99 ≤ (s.hops 8 10).getD d 99)) = false := by
    refine List.all_eq_false.mpr ⟨0, by decide, ?_⟩
    have hone : (s.hops 8 10).getD 0 99 ≤ 1 := hops_next (by decide) (by decide) (reaches_ioDie hnone) 9
    rw [decide_eq_true_iff]
    omega
  unfold State.train
  simp only [hstacks, hlinks, List.filter_nil, List.foldl_nil, ite_self, hreached, Bool.false_eq_true, if_false]

/-- The part whose firmware has been measured. -/
def State.measured (s : State) (ms : List (List Byte)) : State := { s with measures := ms }

/-- The part with a health that is kept for the quotes of a start. -/
def State.withHealth (s : State) (h : W64) : State := { s with healthAt := h }

theorem bootsOnly_withHealth (s : State) (h : W64) : BootsOnly s (s.withHealth h) := rfl
theorem measures_withHealth (s : State) (h : W64) : (s.withHealth h).measures = s.measures := rfl
theorem power_withHealth (s : State) (h : W64) : (s.withHealth h).power = s.power := rfl

/-- The part whose start has failed. -/
def State.startFailed (s : State) : State := { s with power := .failed, worst := 3 }

theorem power_startFailed (s : State) : s.startFailed.power = .failed := rfl

theorem boot_unverified (s : State) {x : StartInput} (hends : StartInput.ends x 2 = true)
    (hbad : measure x.images 0 noMeasures = none) : s.boot x = s.startFailed := by
  unfold State.boot
  rw [hends, hbad]
  rfl

section
variable {x : StartInput} {ms : List (List Byte)} (hends : StartInput.ends x 2 = true) (hgood : measure x.images 0 noMeasures = some ms)
  (hstacks : x.badStacks = []) (hlinks : x.badLinks = [])
include hends hgood

/-- Firmware that verifies is measured, the interfaces train, and the health is kept. -/
theorem boot_verified (s : State) : s.boot x = ((s.measured ms).train x).withHealth ((s.measured ms).train x).health := by
  unfold State.boot
  rw [hends, hgood]
  rfl

include hstacks hlinks

theorem bootsOnly_boot (s : State) : BootsOnly s (s.boot x) := by
  have hmeasured : BootsOnly s (s.measured ms) := rfl
  rw [boot_verified hends hgood]
  exact (hmeasured.trans (bootsOnly_train _ hstacks hlinks)).trans (bootsOnly_withHealth _ _)

theorem measures_boot (s : State) : (s.boot x).measures = ms := by
  rw [boot_verified hends hgood, measures_withHealth]
  exact measures_train _ hstacks hlinks

/-- The steps of a start that loses no unit leave the part running. -/
theorem power_boot {s : State} (hnone : s.retiredU = []) : (s.boot x).power = s.power := by
  rw [boot_verified hends hgood, power_withHealth, train_intact hstacks hlinks (s := s.measured ms) hnone]
  rfl

end

theorem measures_cutBy (s : State) (x : StartInput) : (s.cutBy x).measures = s.measures := by
  unfold State.cutBy
  split <;> rfl

/-! ### COLD_START (24 R416) -/

/-- A map that keeps the entries whose keys satisfy a test. -/
theorem spGet_filter {α : Type} (d : α) (m : Sparse α) (p : Nat → Bool) (k : Nat) :
    spGet d (m.filter fun e => p e.1) k = if p k then spGet d m k else d := by
  induction m with
  | nil => simp [spGet]
  | cons e t ih =>
    obtain ⟨j, v⟩ := e
    by_cases hj : j = k
    · subst hj
      by_cases hp : p j = true
      · simp [spGet, hp]
      · rw [List.filter_cons_of_neg (by simpa using hp), ih]
        simp [hp]
    · by_cases hp : p j = true
      · rw [List.filter_cons_of_pos (by simpa using hp)]
        simp [spGet, hj, ih]
      · rw [List.filter_cons_of_neg (by simpa using hp), ih]
        simp [spGet, hj]

/-- The part as a cold start begins, before its cores are mapped: nothing of the machine before but memory, what has left the part and
what comes from outside. -/
def State.coldBase (s : State) (x : StartInput) : State := { s.afresh with badCores := x.badCores, mem := s.mem, poison := s.poison }

/-- The part whose stacks have been zeroed. -/
def State.stacksZeroed (s : State) : State := { s with mem := s.mem.filter fun e => decide (stackBytes ≤ e.1), poison := [] }

theorem StartsOnly.stacksZeroed {s t : State} (h : StartsOnly s t) : StartsOnly s.stacksZeroed t.stacksZeroed := by
  rw [h]
  rfl

theorem spGet_stacksZeroed (s : State) (a : Nat) : spGet 0 s.stacksZeroed.mem a = if stackBytes ≤ a then spGet 0 s.mem a else 0 :=
  (spGet_filter 0 s.mem (fun k => decide (stackBytes ≤ k)) a).trans (by simp only [decide_eq_true_eq])

/-- The part after the steps 2 to 4 of a cold start. -/
def State.coldBooted (s : State) (x : StartInput) : State := (s.coldBase x).mapCores.boot x

theorem coldStart_eq (s : State) (x : StartInput) : s.coldStart x = { ((s.coldBooted x).zeroStacks x).cutBy x with
    nextCold := ((s.coldBooted x).zeroStacks x).power == .failed || StartInput.early x } := rfl

section
variable {s : State} {x : StartInput}

theorem coldStart_cut {n : Nat} (hcut : x.cut = some n) (hn : n ≤ 6) :
    ∃ t, exec (.coldStart x) s = .next t ∧ t.power ≠ .running ∧ t.nextCold = true := by
  refine ⟨_, congrArg Host.Outcome.next (coldStart_eq s x), power_cutBy hcut _, ?_⟩
  rw [early_of_cut hcut hn]
  exact Bool.or_true _

/-- A cold start that fails in its steps 2 to 4 ends there, and the next start is cold. -/
theorem coldStart_failed {u : State} (hbegun : StartsOnly (s.coldBase x) u) (hbooted : s.coldBooted x = u.startFailed) :
    ∃ t, exec (.coldStart x) s = .next t ∧ t.power = .failed ∧ t.nextCold = true ∧ t.blocks = [] ∧ t.launches = [] := by
  have hstep : s.coldStart x = { u.startFailed with nextCold := true } := by
    rw [coldStart_eq, hbooted, zeroStacks_failed (power_startFailed u), cutBy_failed (power_startFailed u)]
    rfl
  exact ⟨_, congrArg Host.Outcome.next hstep, rfl, rfl, hbegun.blocks, hbegun.launches⟩

theorem coldStart_unverified (hends : StartInput.ends x 2 = true) (hbad : measure x.images 0 noMeasures = none) :
    ∃ t, exec (.coldStart x) s = .next t ∧ t.power = .failed ∧ t.nextCold = true ∧ t.blocks = [] ∧ t.launches = [] :=
  coldStart_failed (startsOnly_mapCores _) (boot_unverified _ hends hbad)

/-- The part at the end of a cold start that goes through all its steps. -/
theorem coldStart_ended (huncut : ∀ n, x.cut = some n → 6 < n) {ms : List (List Byte)} (hgood : measure x.images 0 noMeasures = some ms)
    (hstacks : x.badStacks = []) (hlinks : x.badLinks = []) :
    ∃ t cold, s.coldStart x = { t with nextCold := cold } ∧ StartsOnly (s.coldBase x).stacksZeroed t ∧ t.measures = ms := by
  have hends := ends_of_uncut huncut (step := 2) (by decide)
  have hmap := startsOnly_mapCores (s.coldBase x)
  have hboot : StartsOnly (s.coldBase x) (s.coldBooted x) := hmap.trans (bootsOnly_boot hends hgood hstacks hlinks _).startsOnly
  have hpower : (s.coldBooted x).power = .running :=
    (power_boot hends hgood hstacks hlinks hmap.retiredU).trans (power_mapCores _)
  have hzero : (s.coldBooted x).zeroStacks x = (s.coldBooted x).stacksZeroed := if_pos ⟨hpower, ends_of_uncut huncut (by decide)⟩
  have hstep := coldStart_eq s x
  rw [hzero] at hstep
  exact ⟨_, _, hstep, hboot.stacksZeroed.trans (bootsOnly_cutBy _ x).startsOnly,
    (measures_cutBy _ _).trans (measures_boot hends hgood hstacks hlinks _)⟩

theorem coldStart_outcome (huncut : ∀ n, x.cut = some n → 6 < n) {ms : List (List Byte)} (hgood : measure x.images 0 noMeasures = some ms)
    (hstacks : x.badStacks = []) (hlinks : x.badLinks = []) :
    ∃ t, exec (.coldStart x) s = .next t ∧ t.measures = ms ∧ t.blocks = [] ∧ t.launches = [] ∧ t.ops = [] ∧ t.locks = [] ∧
      t.running = [] ∧ t.poison = [] ∧ t.retiredU = [] ∧ (∀ a, a < stackBytes → spGet 0 t.mem a = 0) ∧
      (∀ a, stackBytes ≤ a → spGet 0 t.mem a = spGet 0 s.mem a) ∧ t.queues = [] ∧ t.quotes = s.quotes ∧ t.starts = s.starts + 1 := by
  obtain ⟨t, cold, hstep, hstart, hmeasures⟩ := coldStart_ended (s := s) huncut hgood hstacks hlinks
  have hmem : ∀ a, spGet 0 t.mem a = if stackBytes ≤ a then spGet 0 s.mem a else 0 := fun a => by
    rw [hstart.mem]
    exact spGet_stacksZeroed (s.coldBase x) a
  exact ⟨_, congrArg Host.Outcome.next hstep, hmeasures, hstart.blocks, hstart.launches, hstart.ops, hstart.locks, hstart.running,
    hstart.poison, hstart.retiredU, fun a ha => (hmem a).trans (if_neg (Nat.not_le.mpr ha)), fun a ha => (hmem a).trans (if_pos ha),
    hstart.queues, hstart.quotes, hstart.starts⟩

end

/-! ### WARM_RESET (24 R416, R417) -/

theorem remapRetired_none {s : State} (hnone : s.retiredU = []) : s.remapRetired = s := if_pos (List.isEmpty_iff.mpr hnone)

/-- A core that becomes empty holds no new instruction lines. -/
theorem icache_coreEmptied {s : State} (hnone : s.icache = []) (core : Nat) : (s.coreEmptied core).icache = [] := by
  unfold State.coreEmptied
  dsimp only
  split
  · exact hnone
  · have hlines : (s.icache.filter fun i => i.core != core) = [] := by
      rw [hnone]
      rfl
    split <;> exact hlines

theorem icache_remapRetired {s : State} (hnone : s.icache = []) : s.remapRetired.icache = [] := by
  unfold State.remapRetired
  split
  · exact hnone
  · exact rel_foldl (R := fun s t : State => s.icache = [] → t.icache = []) (fun _ h => h) (fun h k hs => k (h hs))
      (fun s core h => icache_coreEmptied h core) _ s hnone

/-- The part as a warm reset begins. -/
def State.warmBegun (s : State) : State :=
  { s.afresh with
    mem := s.mem
    poison := s.poison
    dieReg := s.dieReg.filter fun e => warmKeeps e.1
    retiredU := s.retiredU
    badCores := s.badCores
    worst := s.worst }

/-- The remap table stays, register for register (24 R411). -/
theorem dieR_warmBegun (s : State) (d : Nat) {i : Nat} (hi : i < 512) : s.warmBegun.dieR d (0x800 + i) = s.dieR d (0x800 + i) := by
  have hkept : warmKeeps (d * 4096 + (0x800 + i)) = true := by
    simp only [warmKeeps, Bool.or_eq_true, decide_eq_true_eq]
    omega
  exact (spGet_filter _ _ _ _).trans (if_pos hkept)

theorem warmReset_outcome {s : State} {x : StartInput} (hwarm : s.nextCold = false) (huncut : ∀ n, x.cut = some n → 6 < n)
    {ms : List (List Byte)} (hgood : measure x.images 0 noMeasures = some ms) (hstacks : x.badStacks = []) (hlinks : x.badLinks = []) :
    ∃ t, exec (.warmReset x) s = .next t ∧ t.measures = ms ∧ t.mem = s.mem ∧ t.poison = s.poison ∧ t.retiredU = s.retiredU ∧
      t.blocks = [] ∧ t.launches = [] ∧ t.replicas = [] ∧ t.digests = [] ∧ t.held = [] ∧ t.icache = [] ∧
      (s.retiredU = [] → ∀ d i, i < 512 → t.dieR d (0x800 + i) = s.dieR d (0x800 + i)) ∧ ∀ n, t.pkgR n = pkgDefault n := by
  have hstep : s.warmReset x = ((s.warmBegun.remapRetired).boot x).cutBy x := by
    unfold State.warmReset
    rw [hwarm]
    rfl
  have hends := ends_of_uncut huncut (step := 2) (by decide)
  have hboot := (bootsOnly_boot hends hgood hstacks hlinks s.warmBegun.remapRetired).trans (bootsOnly_cutBy _ x)
  have hstart := (startsOnly_remapRetired s.warmBegun).trans hboot.startsOnly
  have hmeasures := (measures_cutBy _ x).trans (measures_boot hends hgood hstacks hlinks s.warmBegun.remapRetired)
  refine ⟨_, congrArg Host.Outcome.next hstep, hmeasures, hstart.mem, hstart.poison, hstart.retiredU, hstart.blocks, hstart.launches,
    hstart.replicas, hstart.digests, hstart.held, hboot.icache.trans (icache_remapRetired rfl), fun hnone d i hi => ?_, fun n => ?_⟩
  · have hsame : s.warmBegun.remapRetired = s.warmBegun := remapRetired_none hnone
    rw [hboot.dieR, hsame]
    exact dieR_warmBegun s d hi
  · exact congrArg (fun m => spGet (pkgDefault n) m n) hstart.pkgReg

/-! ### Attestation (24 R419) -/

theorem attestationQuote_outcome (s : State) {nonce : List Byte} (hlen : nonce.length = 32) :
    ∃ t q, exec (.attestationQuote nonce) s = .next t ∧ t = { s with quotes := s.quotes ++ [q] } ∧
      (∃ rest, q = s.measures.flatten ++ nonce ++ rest) := by
  have hstep : s.quote nonce = { s with quotes := s.quotes ++ [s.quoteBody nonce ++ partSign (s.starts + 1) (s.quoteBody nonce)] } :=
    if_neg (not_not.mpr hlen)
  refine ⟨_, _, congrArg Host.Outcome.next hstep, rfl,
    partNumber ++ bytesOfNat 8 s.healthAt.toNat ++ identityCert ++ partSign (s.starts + 1) (s.quoteBody nonce), ?_⟩
  simp only [State.quoteBody, List.append_assoc]

/-! ### The obligation -/

/-- Settles O53: each clause by the lemma that says what its step does. -/
theorem partSteps : Obligations.PartSteps := by
  unfold Obligations.PartSteps
  refine ⟨?refresh, ?refreshEnd, ?request, ?slot, ?burst, ?window, ?start, ?trip, ?quote⟩
  case refresh => exact fun s pc bank hpc hbank => bankRefresh_outcome hpc hbank
  case refreshEnd => exact fun s pc bank t0 => refreshEnd_outcome
  case request => exact fun s pc r => channelRequestArrive_outcome
  case slot =>
    exact fun s pc e hquiet => ⟨columnSlot_chooses hquiet, columnSlot_givesUp hquiet, columnSlot_row hquiet, columnSlot_serves hquiet⟩
  case burst => exact fun s pc b hpc => ⟨stackCrcError_retries hpc, stackCrcError_abandons hpc⟩
  case window => exact fun s die => errorWindowExpire_outcome
  case start =>
    exact fun s x => ⟨fun n => coldStart_cut, coldStart_unverified, fun ms huncut => coldStart_outcome huncut,
      fun ms hwarm huncut => warmReset_outcome hwarm huncut⟩
  case trip => exact fun s die => ⟨_, rfl, rfl, rfl, rfl, rfl⟩
  case quote => exact fun s nonce => attestationQuote_outcome s

end Sys2Proof.Machine
end

section
/-! Crossbars, switches, escape channels and the acceptance of packets (23 R387, R392, R400, R401). -/

namespace Sys2Proof.Machine

open Sys2Proof

/-! ### Lanes and ports of switches -/

theorem lane_modLane (s : State) (k j : Nat) (f : PortQueues → PortQueues) :
    (s.modLane k f).lane j = if k = j then f (s.lane k) else s.lane j := spGet_spSet _ _ _ _ _

theorem lane_modLane_same (s : State) (k : Nat) (f : PortQueues → PortQueues) : (s.modLane k f).lane k = f (s.lane k) :=
  spGet_spSet_same _ _ _ _

/-- A change that leaves what a lane has put out leaves what every lane has put out. -/
theorem output_modLane (s : State) (k j : Nat) {f : PortQueues → PortQueues} (hf : ∀ q, (f q).output = q.output) :
    ((s.modLane k f).lane j).output = (s.lane j).output := by
  rw [lane_modLane]
  split
  · next h => rw [hf, h]
  · rfl

theorem output_leave (q : PortQueues) (now cls : Nat) (esc : Bool) : (q.leave now cls esc).output = q.output := by
  unfold PortQueues.leave
  split <;> rfl

theorem switch_modSwitch (s : State) (k : Nat) (f : PortQueues → PortQueues) : (s.modSwitch k f).switch k = f (s.switch k) :=
  spGet_spSet_same _ _ _ _

/-! ### CROSSBAR_GRANT (23 R387) -/

/-- A lane whose head has been granted: it sends until a cycle. -/
def PortQueues.sends (now cls : Nat) (esc : Bool) (until' : Nat) (q : PortQueues) : PortQueues := { q.leave now cls esc with sending := until' }

theorem output_sends (now cls : Nat) (esc : Bool) (until' : Nat) (q : PortQueues) : (q.sends now cls esc until').output = q.output :=
  output_leave q now cls esc

/-- A lane that takes a packet's flits until a cycle. -/
def PortQueues.takes (until' : Nat) (q : PortQueues) : PortQueues := { q with busy := until' }

theorem output_takes (until' : Nat) (q : PortQueues) : (q.takes until').output = q.output := rfl

/-- A lane that has put out a packet. -/
def PortQueues.putsOut (p : Packet) (q : PortQueues) : PortQueues := { q with output := q.output ++ [p] }

/-- The head that alone asks for an output is granted. -/
theorem crossbarGrant_alone {s : State} {die port lane : Nat} {h : Head} {hop : Hop} {p : Packet} {det : Bool}
    (hlane : s.outLane die port = some lane) (halone : s.asking die port = [h]) (hwants : s.wants die port h = some (hop, p, det)) :
    s.crossbarGrant die port = s.grant die port lane h hop p det := by
  have hsame : [h].filter (fun x => inputNo port x == inputNo port h) = [h] := by simp
  unfold State.crossbarGrant
  simp only [hlane, halone, minBy, List.foldl_nil, hsame, List.length_singleton, Nat.mod_one, List.getD_cons_zero, hwants]

/-- The crosspoint remembers a grant to an input (23 R387). -/
def State.grantNoted (s : State) (out i : Nat) : State := { s with lrg := spSet [] s.lrg out ((spGet [] s.lrg out).filter (· != i) ++ [i]) }

/-- A grant is remembered, and both lanes are under way. -/
def State.granted (s : State) (die port lane : Nat) (h : Head) (p : Packet) : State :=
  ((s.grantNoted (die * 256 + port) (inputNo port h)).modLane (laneKey die h.port h.lane)
    (PortQueues.sends s.dclk h.cls h.esc (s.dclk + dieFlits p))).modLane (laneKey die port lane) (PortQueues.takes (s.dclk + dieFlits p))

theorem granted_lrg (s : State) (die port lane : Nat) (h : Head) (p : Packet) : spGet [] (s.granted die port lane h p).lrg (die * 256 + port) =
    (spGet [] s.lrg (die * 256 + port)).filter (· != inputNo port h) ++ [inputNo port h] := spGet_spSet_same _ _ _ _

theorem granted_output (s : State) (die port lane : Nat) (h : Head) (p : Packet) (k : Nat) :
    ((s.granted die port lane h p).lane k).output = (s.lane k).output := by
  unfold State.granted
  rw [output_modLane _ _ _ (output_takes _), output_modLane _ _ _ (output_sends _ _ _ _)]
  rfl

/-- A lane of the state puts a packet out, with the registers of dies as given. -/
def State.putOut (s : State) (k : Nat) (p : Packet) (regs : Sparse W64) : State :=
  ({ s with dieReg := regs } : State).modLane k (PortQueues.putsOut p)

/-- Only the lanes of crossbar ports, the grants that they remember and registers of dies differ. -/
def GrantsOnly (s t : State) : Prop := t = { s with ports := t.ports, lrg := t.lrg, dieReg := t.dieReg }

section
variable {s t u : State}

theorem GrantsOnly.trans (h : GrantsOnly s t) (k : GrantsOnly t u) : GrantsOnly s u := by
  unfold GrantsOnly at h k ⊢
  rw [k, h]

theorem GrantsOnly.mem (h : GrantsOnly s t) : t.mem = s.mem := by rw [h]
theorem GrantsOnly.blocks (h : GrantsOnly s t) : t.blocks = s.blocks := by rw [h]
theorem GrantsOnly.links (h : GrantsOnly s t) : t.links = s.links := by rw [h]
theorem GrantsOnly.switches (h : GrantsOnly s t) : t.switches = s.switches := by rw [h]

end

theorem grantsOnly_granted (s : State) (die port lane : Nat) (h : Head) (p : Packet) : GrantsOnly s (s.granted die port lane h p) := rfl

theorem grantsOnly_putOut (s : State) (k : Nat) (p : Packet) (regs : Sparse W64) : GrantsOnly s (s.putOut k p regs) := rfl

theorem lrg_putOut (s : State) (k : Nat) (p : Packet) (regs : Sparse W64) : (s.putOut k p regs).lrg = s.lrg := rfl

theorem output_putOut (s : State) (k : Nat) (p : Packet) (regs : Sparse W64) : ((s.putOut k p regs).lane k).output = (s.lane k).output ++ [p] :=
  congrArg PortQueues.output (lane_modLane_same _ k (PortQueues.putsOut p))

/-- A packet for a port of the die appears at that port; a detour is counted. -/
theorem grant_arrive (s : State) (die port lane : Nat) (h : Head) (p : Packet) (det : Bool) :
    ∃ regs, s.grant die port lane h .arrive p det = (s.granted die port lane h p).putOut (laneKey die port lane) p regs := by
  cases det with
  | false => exact ⟨_, rfl⟩
  | true => exact ⟨_, rfl⟩

theorem crossbarGrant_outcome {s : State} {die port lane : Nat} {h : Head} {p : Packet} {det : Bool}
    (hlane : s.outLane die port = some lane) (halone : s.asking die port = [h]) (hwants : s.wants die port h = some (.arrive, p, det)) :
    ∃ t, exec (.crossbarGrant die port) s = .next t ∧
      spGet [] t.lrg (die * 256 + port) = (spGet [] s.lrg (die * 256 + port)).filter (· != inputNo port h) ++ [inputNo port h] ∧
      (t.lane (laneKey die port lane)).output = (s.lane (laneKey die port lane)).output ++ [p] ∧ t.mem = s.mem ∧ t.blocks = s.blocks ∧
      t.links = s.links ∧ t.switches = s.switches := by
  obtain ⟨regs, hgrant⟩ := grant_arrive s die port lane h p det
  have hframe := (grantsOnly_granted s die port lane h p).trans (grantsOnly_putOut _ (laneKey die port lane) p regs)
  refine ⟨_, congrArg Host.Outcome.next ((crossbarGrant_alone hlane halone hwants).trans hgrant), ?_, ?_, hframe.mem, hframe.blocks,
    hframe.links, hframe.switches⟩
  · rw [lrg_putOut, granted_lrg]
  · rw [output_putOut, granted_output]

/-! ### SWITCH_FORWARD (23 R392) -/

theorem switchForward_leaves {s : State} {plane tier sw : Nat} {h : SwitchHead} (hplane : plane < 18) (hlow : 1 ≤ tier) (htier : tier < 4)
    (hsw : sw < 1024) (halone : s.switchHeads plane tier sw = [h]) (hdown : (switchHop tier sw h.p.dstFab).1 = 0)
    (haway : h.p.dstFab ≠ s.ownFab) :
    ∃ t, exec (.switchForward plane tier sw) s = .next t ∧ t = { s with switches := t.switches } ∧
      t.switch (switchPort (switchKey plane tier sw) h.port) =
        (s.switch (switchPort (switchKey plane tier sw) h.port)).leave s.dclk h.cls h.esc := by
  have hout : ∀ u : State, u.ownFab = s.ownFab → u.switchOut plane tier sw h.p = some u := fun u hu =>
    (if_pos hdown).trans (if_pos (hu.symm ▸ haway))
  have hstep : s.switchForward plane tier sw =
      s.modSwitch (switchPort (switchKey plane tier sw) h.port) fun q => q.leave s.dclk h.cls h.esc := by
    unfold State.switchForward
    rw [if_neg (by omega)]
    simp only [halone, List.length_singleton, Nat.mod_one, List.getElem?_cons_zero]
    exact congrArg (Option.getD · s) (hout (s.modSwitch _ _) rfl)
  exact ⟨_, congrArg Host.Outcome.next hstep, rfl, switch_modSwitch _ _ _⟩

/-! ### ESCAPE_MOVE (23 R400) -/

theorem move_some {q : PortQueues} {now cls : Nat} {p : Packet} (hhead : (q.normal.getD cls []).head? = some p)
    (hlen : cls < q.escape.length) :
    (q.move now cls).normal.getD cls [] = (q.normal.getD cls []).tail ∧
      (q.move now cls).escape.getD cls [] = q.escape.getD cls [] ++ [{ p with esc := true, turns := [] }] := by
  have hnormal : cls < q.normal.length := by
    by_contra hlong
    rw [List.getD_eq_default _ _ (Nat.not_lt.mp hlong)] at hhead
    cases hhead
  unfold PortQueues.move
  rw [hhead]
  exact ⟨getD_modify_same _ hnormal, getD_modify_same _ hlen⟩

theorem escapeMove_switch {s : State} {key port k c : Nat} {p : Packet} (hc : c < 4) (hport : port < 64) (hk : k = switchPort key port)
    (hmoves : (s.switch k).moves s.dclk c = true) (hhead : ((s.switch k).normal.getD c []).head? = some p)
    (hlen : c < (s.switch k).escape.length) :
    ∃ t, exec (.escapeMove (16 + key) port c) s = .next t ∧ t = { s with switches := t.switches } ∧
      (t.switch k).normal.getD c [] = ((s.switch k).normal.getD c []).tail ∧
      (t.switch k).escape.getD c [] = (s.switch k).escape.getD c [] ++ [{ p with esc := true, turns := [] }] := by
  have hplace : switchPort (16 + key - 16) (port % 64) = k := by rw [hk, Nat.add_sub_cancel_left, Nat.mod_eq_of_lt hport]
  have hstep : s.escapeMove (16 + key) port c = s.modSwitch k fun q => q.move s.dclk c := by
    unfold State.escapeMove
    rw [if_neg (by omega), if_pos (by omega)]
    dsimp only
    rw [hplace, if_pos hmoves]
  refine ⟨_, congrArg Host.Outcome.next hstep, rfl, ?_⟩
  rw [switch_modSwitch]
  exact move_some hhead hlen

/-! ### PACKET_DELIVER (23 R401, R403, R404) -/

/-- What the acceptance of a packet makes of the state, beside the lanes and the flows. -/
def State.Brings (s : State) (p : Packet) (u : State) : Prop :=
  (p.load = .other ∨ p.load = .answer false) ∧ u = s ∨ ∃ pc r, p.load = .request (some pc) r ∧ u = s.requestArrive pc r

/-- A request looks at no lane and no flow. -/
theorem requestArrive_fabric (s : State) (pc : Nat) (r : ChanReq) (ports : Sparse PortQueues) (flows : Sparse Nat) :
    ({ s with ports := ports, flows := flows } : State).requestArrive pc r =
      { s.requestArrive pc r with ports := ports, flows := flows } := by
  unfold State.requestArrive
  split
  · rfl
  · by_cases hfull : 32 ≤ ((s.channel pc).queues.getD r.cls []).length
    · exact (if_pos hfull).trans (by rw [if_pos hfull]; rfl)
    · exact (if_neg hfull).trans (by rw [if_neg hfull]; rfl)

theorem requestArrive_frame (s : State) (pc : Nat) (r : ChanReq) :
    s.requestArrive pc r = { s with channels := (s.requestArrive pc r).channels, agenda := (s.requestArrive pc r).agenda } := by
  unfold State.requestArrive
  split
  · rfl
  · split <;> rfl

theorem State.Brings.frame {s u : State} {p : Packet} (h : s.Brings p u) : u = { s with channels := u.channels, agenda := u.agenda } := by
  obtain ⟨-, rfl⟩ | ⟨pc, r, -, rfl⟩ := h
  · rfl
  · exact requestArrive_frame s pc r

theorem acceptPacket_brings {s u : State} {p : Packet} (h : s.Brings p u) (die port : Nat) (ports : Sparse PortQueues)
    (flows : Sparse Nat) :
    ({ s with ports := ports, flows := flows } : State).acceptPacket die port p = { u with ports := ports, flows := flows } := by
  unfold State.acceptPacket
  obtain ⟨hload | hload, rfl⟩ | ⟨pc, r, hload, rfl⟩ := h
  · rw [hload]
  · rw [hload]
    rfl
  · rw [hload]
    exact requestArrive_fabric s pc r ports flows

/-- A lane whose first packet has been taken from its output. -/
def PortQueues.taken (rest : List Packet) (q : PortQueues) : PortQueues := { q with output := rest }

theorem output_taken (s : State) (k : Nat) (rest : List Packet) : ((s.modLane k (PortQueues.taken rest)).lane k).output = rest :=
  congrArg PortQueues.output (lane_modLane_same s k _)

theorem hold_taken (s : State) (k : Nat) (rest : List Packet) :
    ((s.modLane k (PortQueues.taken rest)).lane k).hold = (s.lane k).hold := by
  rw [lane_modLane_same]
  rfl

/-- A lane with one more packet in its reorder buffer. -/
def PortQueues.holds (p : Packet) (q : PortQueues) : PortQueues := { q with hold := q.hold ++ [p] }

section
variable {s : State} {die port : Nat} {p : Packet} {rest : List Packet}

/-- A packet of an unordered class is accepted at once. -/
theorem packetDeliver_unordered (hout : (s.lane (laneKey die port 0)).output = p :: rest) (hfree : ordered p.cls = false) :
    s.packetDeliver die port = (s.modLane (laneKey die port 0) (PortQueues.taken rest)).acceptPacket die port p := by
  unfold State.packetDeliver
  dsimp only
  rw [hout]
  dsimp only
  rw [hfree]
  rfl

/-- The expected packet of an ordered flow is accepted, with no early one behind it. -/
theorem packetDeliver_expected (hout : (s.lane (laneKey die port 0)).output = p :: rest) (hord : ordered p.cls = true)
    (hseq : p.seq = spGet 0 s.flows (flowOf p)) (hhold : (s.lane (laneKey die port 0)).hold = []) :
    s.packetDeliver die port = ({ s.modLane (laneKey die port 0) (PortQueues.taken rest) with
      flows := spSet 0 s.flows (flowOf p) ((p.seq + 1) % 65536) } : State).acceptPacket die port p := by
  unfold State.packetDeliver
  dsimp only
  rw [hout]
  dsimp only
  rw [hord]
  refine (if_neg Bool.false_ne_true).trans ((if_pos hseq).trans ?_)
  change State.releaseEarly ((s.modLane (laneKey die port 0) (PortQueues.taken rest)).lane (laneKey die port 0)).hold.length _ _ _ = _
  rw [hold_taken, hhold]
  rfl

/-- An early packet of an ordered flow waits. -/
theorem packetDeliver_early (hout : (s.lane (laneKey die port 0)).output = p :: rest) (hord : ordered p.cls = true)
    (hseq : p.seq ≠ spGet 0 s.flows (flowOf p)) :
    ∃ t, exec (.packetDeliver die port) s = .next t ∧ t = { s with ports := t.ports } ∧
      (t.lane (laneKey die port 0)).output = rest ∧ (t.lane (laneKey die port 0)).hold = (s.lane (laneKey die port 0)).hold ++ [p] := by
  have hstep : s.packetDeliver die port =
      (s.modLane (laneKey die port 0) (PortQueues.taken rest)).modLane (laneKey die port 0) (PortQueues.holds p) := by
    unfold State.packetDeliver
    dsimp only
    rw [hout]
    dsimp only
    rw [hord]
    exact (if_neg Bool.false_ne_true).trans (if_neg hseq)
  refine ⟨_, congrArg Host.Outcome.next hstep, rfl, ?_⟩
  rw [lane_modLane_same, lane_modLane_same]
  exact ⟨rfl, rfl⟩

theorem packetDeliver_accepts {u : State} (hout : (s.lane (laneKey die port 0)).output = p :: rest) (hfree : ordered p.cls = false)
    (hbrings : s.Brings p u) :
    ∃ t, exec (.packetDeliver die port) s = .next t ∧ t = { u with ports := t.ports } ∧
      (t.lane (laneKey die port 0)).output = rest ∧ (t.lane (laneKey die port 0)).hold = (s.lane (laneKey die port 0)).hold := by
  have hstep := packetDeliver_unordered hout hfree
  have haccept := acceptPacket_brings hbrings die port (s.modLane (laneKey die port 0) (PortQueues.taken rest)).ports s.flows
  have hflows : u.flows = s.flows := by rw [hbrings.frame]
  refine ⟨_, congrArg Host.Outcome.next (hstep.trans haccept), ?_, output_taken s _ rest, hold_taken s _ rest⟩
  rw [← hflows]

theorem packetDeliver_acceptsNext {u : State} (hout : (s.lane (laneKey die port 0)).output = p :: rest) (hord : ordered p.cls = true)
    (hseq : p.seq = spGet 0 s.flows (flowOf p)) (hhold : (s.lane (laneKey die port 0)).hold = []) (hbrings : s.Brings p u) :
    ∃ t, exec (.packetDeliver die port) s = .next t ∧ t = { u with ports := t.ports, flows := t.flows } ∧
      (t.lane (laneKey die port 0)).output = rest ∧ spGet 0 t.flows (flowOf p) = (p.seq + 1) % 65536 := by
  have hstep := packetDeliver_expected hout hord hseq hhold
  have haccept := acceptPacket_brings hbrings die port (s.modLane (laneKey die port 0) (PortQueues.taken rest)).ports
    (spSet 0 s.flows (flowOf p) ((p.seq + 1) % 65536))
  exact ⟨_, congrArg Host.Outcome.next (hstep.trans haccept), rfl, output_taken s _ rest, spGet_spSet_same _ _ _ _⟩

/-- An answer that missed its deadline is counted at the port that asked (23 R404). -/
theorem packetDeliver_missed (hout : (s.lane (laneKey die port 0)).output = p :: rest) (hload : p.load = .answer true)
    (hfree : ordered p.cls = false) :
    ∃ t, exec (.packetDeliver die port) s = .next t ∧ (t.lane (laneKey die port 0)).output = rest ∧
      t.dieR die (0x240 + port) = satAdd (s.dieR die (0x240 + port)) 1 := by
  have hstep : s.packetDeliver die port =
      (s.modLane (laneKey die port 0) (PortQueues.taken rest)).countDie die (0x240 + port) 1 := by
    rw [packetDeliver_unordered hout hfree]
    unfold State.acceptPacket
    rw [hload]
    rfl
  exact ⟨_, congrArg Host.Outcome.next hstep, output_taken s _ rest, dieR_countDie _ _ _ _⟩

end

end Sys2Proof.Machine
end

section
/-! Flits, NAKs and retraining of links (23 R394, R408), and the obligation O54. -/

namespace Sys2Proof.Machine

open Sys2Proof

/-! ### Counts of a link (23 R408) -/

theorem link_modLink (s : State) (x : Nat) (f : Link → Link) : (s.modLink x f).link x = f (s.link x) := spGet_spSet_same _ _ _ _

theorem countLink_die (s : State) {x : Nat} (hx : x < 160) (lo : Nat) : s.countLink x lo =
    s.setDieR (x / 16) (0x320 + x % 16) (satField (s.dieR (x / 16) (0x320 + x % 16)) lo) := if_pos hx

theorem countLink_pkg (s : State) {x : Nat} (hx : 160 ≤ x) (lo : Nat) : s.countLink x lo =
    s.setPkgR (0x4A0 + (x - 160) % 18) (satField (s.pkgR (0x4A0 + (x - 160) % 18)) lo) := if_neg (Nat.not_lt.mpr hx)

theorem dieR_setDieR_same (s : State) (die n : Nat) (v : W64) : (s.setDieR die n v).dieR die n = v := spGet_spSet_same _ _ _ _

theorem pkgR_setPkgR_same (s : State) (n : Nat) (v : W64) : (s.setPkgR n v).pkgR n = v := spGet_spSet_same _ _ _ _

/-- Only registers of dies and of the package differ. -/
def CountsOnly (s t : State) : Prop := t = { s with dieReg := t.dieReg, pkgReg := t.pkgReg }

theorem countsOnly_setDieR (s : State) (die n : Nat) (v : W64) : CountsOnly s (s.setDieR die n v) := rfl

theorem countsOnly_setPkgR (s : State) (n : Nat) (v : W64) : CountsOnly s (s.setPkgR n v) := rfl

theorem countsOnly_countLink (s : State) (x lo : Nat) : CountsOnly s (s.countLink x lo) := by
  by_cases hx : x < 160
  · rw [countLink_die s hx]
    exact countsOnly_setDieR _ _ _ _
  · rw [countLink_pkg s (Nat.not_lt.mp hx)]
    exact countsOnly_setPkgR _ _ _

theorem CountsOnly.link {s t : State} (h : CountsOnly s t) (x : Nat) : t.link x = s.link x := by
  rw [h]
  rfl

theorem link_countLinkError (s : State) (x y : Nat) {d2d : Nat} (hcls : 2 < d2d) : (s.countLinkError x d2d).link y = s.link y :=
  (retiresOnly_countLinkError s x hcls).link y

/-! ### LINK_FLIT_RECEIVE (23 R394) -/

theorem mem_pushOnce (s : State) (i : Instr) : i ∈ (s.pushOnce i).agenda := by
  unfold State.pushOnce
  split
  · assumption
  · exact List.mem_append_right _ (List.mem_singleton.mpr rfl)

theorem pushOnce_frame (s : State) (i : Instr) : s.pushOnce i = { s with agenda := (s.pushOnce i).agenda } := by
  unfold State.pushOnce
  split <;> rfl

theorem dieR_pushOnce (s : State) (i : Instr) (d n : Nat) : (s.pushOnce i).dieR d n = s.dieR d n := by
  rw [pushOnce_frame]
  rfl

theorem pkgR_pushOnce (s : State) (i : Instr) (n : Nat) : (s.pushOnce i).pkgR n = s.pkgR n := by
  rw [pushOnce_frame]
  rfl

theorem CountsOnly.pushOnce {s u : State} (h : CountsOnly s u) (i : Instr) : u.pushOnce i = { s with
    agenda := (u.pushOnce i).agenda, dieReg := (u.pushOnce i).dieReg, pkgReg := (u.pushOnce i).pkgReg } := by
  rw [pushOnce_frame u i, h]

/-- A receiver that has accepted a flit. -/
def Link.advanced (l : Link) : Link := { l with expectSeq := (l.expectSeq + 1) % 1024 }

section
variable {s : State} {x : Nat} {f : Flit}

/-- A flit that brings no packet, no acknowledgement and no NAK only moves the expected sequence on. -/
theorem acceptFlit_empty (hpacket : f.packet = none) (hack : f.ackValid = false) (hnak : f.nak = false) :
    s.acceptFlit x f = s.modLink x Link.advanced := by
  unfold State.acceptFlit
  simp only [hpacket, hack, hnak, Option.isSome_none, Bool.false_and, Bool.false_eq_true, if_false]
  rfl

variable (hx : x < 196) (hretrain : (s.link x).retrain = false) (hretired : (s.link x).retired = false)
include hx hretrain hretired

theorem linkFlitReceive_accepts (hcrc : f.crcOk = true) (hseq : f.seq = (s.link x).expectSeq) (hpacket : f.packet = none)
    (hack : f.ackValid = false) (hnak : f.nak = false) :
    ∃ t, exec (.linkFlitReceive x f) s = .next t ∧ t = { s with links := t.links } ∧
      t.link x = { (s.link x) with expectSeq := ((s.link x).expectSeq + 1) % 1024 } := by
  have hstep : s.flitReceive x f = s.modLink x Link.advanced := by
    unfold State.flitReceive
    simp only [hretrain, hretired, hcrc, hseq, hpacket, Nat.not_le.mpr hx, Bool.false_eq_true, or_self, if_false, beq_self_eq_true,
      Bool.and_self, if_true]
    exact acceptFlit_empty hpacket hack hnak
  exact ⟨_, congrArg Host.Outcome.next hstep, rfl, link_modLink _ _ _⟩

theorem linkFlitReceive_rejects (hcrc : f.crcOk = false) :
    ∃ t, exec (.linkFlitReceive x f) s = .next t ∧ Instr.linkNak x (s.link x).expectSeq ∈ t.agenda ∧
      (x < 160 → t.dieR (x / 16) (0x320 + x % 16) = satField (s.dieR (x / 16) (0x320 + x % 16)) 0) ∧
      (160 ≤ x → t.pkgR (0x4A0 + (x - 160) % 18) = satField (s.pkgR (0x4A0 + (x - 160) % 18)) 0) ∧
      t = { s with agenda := t.agenda, dieReg := t.dieReg, pkgReg := t.pkgReg } := by
  have hstep : s.flitReceive x f = (s.countLink x 0).pushOnce (.linkNak x (s.link x).expectSeq) := by
    unfold State.flitReceive
    simp only [hretrain, hretired, hcrc, Nat.not_le.mpr hx, Bool.false_eq_true, or_self, if_false, Bool.false_and]
  refine ⟨_, congrArg Host.Outcome.next hstep, mem_pushOnce _ _, fun hlow => ?_, fun hhigh => ?_, ?_⟩
  · rw [dieR_pushOnce, countLink_die s hlow, dieR_setDieR_same]
  · rw [pkgR_pushOnce, countLink_pkg s hhigh, pkgR_setPkgR_same]
  · exact (countsOnly_countLink s x 0).pushOnce _

end

/-! ### LINK_NAK (23 R394) -/

/-- The sender's end of a link after a NAK, the n-th in succession for its sequence. -/
def Link.naked (n seq : Nat) (l : Link) : Link := { l.acknowledge ((seq + 1023) % 1024) with naks := n, nakSeq := seq }

/-- A link that begins to retrain. -/
def Link.retraining (l : Link) : Link := { l with retrain := true }

/-- A NAK has been taken and counted at the receiving end, as CRC retry and as an error of class 6 or 8 (24 R409). -/
def State.nakCounted (s : State) (x n seq : Nat) : State :=
  ((s.modLink x (Link.naked n seq)).countLink (reverseLink x) 16).countLinkError (reverseLink x) 6

/-- The eighth NAK in succession for one sequence retrains the link. -/
theorem linkNak_retrains {s : State} {x seq : Nat} (hx : x < 196) (hretrain : (s.link x).retrain = false)
    (hretired : (s.link x).retired = false) (hsent : ∃ f ∈ (s.link x).sent, f.seq = seq) (hseq : (s.link x).nakSeq = seq)
    (hnaks : 7 ≤ (s.link x).naks) :
    ∃ t ok, exec (.linkNak x seq) s = .next t ∧ (t.link x).retrain = true ∧ Instr.linkRetrainEnd x ok ∈ t.agenda := by
  have hknown : ((s.link x).sent.any fun f => f.seq == seq) = true := by simpa using hsent
  have hstep : s.linkNak x seq =
      (((s.nakCounted x ((s.link x).naks + 1) seq).modLink x Link.retraining).countLink (reverseLink x) 32).push
        (.linkRetrainEnd x (Config.freeBit (s.nakCounted x ((s.link x).naks + 1) seq).tick x)) := by
    unfold State.linkNak
    simp only [hretrain, hretired, hknown, hseq, Nat.not_le.mpr hx, Bool.false_eq_true, Bool.true_eq_false, or_self, if_false, if_true]
    exact if_pos (by omega)
  refine ⟨_, _, congrArg Host.Outcome.next hstep, ?_, List.mem_append_right _ (List.mem_singleton.mpr rfl)⟩
  exact congrArg Link.retrain (((countsOnly_countLink _ (reverseLink x) 32).link x).trans (link_modLink _ x Link.retraining))

/-! ### LINK_RETRAIN_END (23 R394) -/

/-- A link that has retrained. -/
def Link.retrained (l : Link) : Link := { l with retrain := false, naks := 0 }

/-- A link that has failed to retrain. -/
def Link.lost (l : Link) : Link := { l with retrain := false, retired := true, sent := [] }

/-- Only the agenda differs. -/
def AgendaOnly (s t : State) : Prop := t = { s with agenda := t.agenda }

theorem AgendaOnly.trans {s t u : State} (h : AgendaOnly s t) (k : AgendaOnly t u) : AgendaOnly s u := by
  unfold AgendaOnly at h k ⊢
  rw [k, h]

theorem AgendaOnly.refl (s : State) : AgendaOnly s s := rfl

theorem agendaOnly_wire (s : State) (x : Nat) (f : Flit) : AgendaOnly s (s.wire x f) := rfl

/-- Flits that are sent again are on the agenda. -/
theorem agendaOnly_replay (s : State) (x seq : Nat) : AgendaOnly s (s.replay x seq) :=
  rel_foldl .refl .trans (fun s f => agendaOnly_wire s x f) _ s

theorem linkRetrainEnd_resumes {s : State} {x : Nat} (hretrain : (s.link x).retrain = true) :
    ∃ t, exec (.linkRetrainEnd x true) s = .next t ∧ (t.link x).retrain = false ∧ (t.link x).naks = 0 ∧ t.mem = s.mem := by
  have hstep : s.retrainEnd x true = (s.modLink x Link.retrained).replay x (s.link x).nakSeq := by
    unfold State.retrainEnd
    simp only [hretrain, Bool.not_true, Bool.false_eq_true, if_false, if_true]
    rfl
  have hframe := agendaOnly_replay (s.modLink x Link.retrained) x (s.link x).nakSeq
  have hlink : ((s.modLink x Link.retrained).replay x (s.link x).nakSeq).link x = (s.link x).retrained := by
    rw [hframe]
    exact link_modLink s x Link.retrained
  refine ⟨_, congrArg Host.Outcome.next hstep, ?_, ?_, ?_⟩
  · rw [hlink]
    rfl
  · rw [hlink]
    rfl
  · rw [hframe]
    rfl

/-- The packet that a flit of a lost link completes is put back. -/
def State.flitBack (x : Nat) (s : State) (f : Flit) : State :=
  match f.packet with
  | none => s
  | some p => s.putBack x p

/-- Flits that complete no packet put nothing back. -/
theorem foldl_flitBack_none {fs : List Flit} (hnone : ∀ f ∈ fs, f.packet = none) (s : State) (x : Nat) :
    fs.foldl (State.flitBack x) s = s := by
  induction fs with
  | nil => rfl
  | cons f t ih =>
    have hsame : State.flitBack x s f = s := by
      unfold State.flitBack
      rw [hnone f List.mem_cons_self]
    rw [List.foldl_cons, hsame]
    exact ih fun g hg => hnone g (List.mem_cons_of_mem _ hg)

theorem linkRetrainEnd_retires {s : State} {x : Nat} (hretrain : (s.link x).retrain = true)
    (hnone : ∀ f ∈ (s.link x).sent, f.packet = none) :
    ∃ t, exec (.linkRetrainEnd x false) s = .next t ∧ (t.link x).retired = true ∧ (t.link x).retrain = false ∧ (t.link x).sent = [] := by
  have hstep : s.retrainEnd x false = ((s.modLink x Link.lost).countLink (reverseLink x) 48).countLinkError (reverseLink x) 7 := by
    unfold State.retrainEnd
    simp only [hretrain, Bool.not_true, Bool.false_eq_true, if_false]
    exact foldl_flitBack_none (fun f hf => hnone f (List.mem_filter.mp hf).1) _ _
  have hlink : (((s.modLink x Link.lost).countLink (reverseLink x) 48).countLinkError (reverseLink x) 7).link x = (s.link x).lost := by
    rw [link_countLinkError _ _ _ (by decide), (countsOnly_countLink _ _ _).link]
    exact link_modLink s x Link.lost
  refine ⟨_, congrArg Host.Outcome.next hstep, ?_⟩
  rw [hlink]
  exact ⟨rfl, rfl, rfl⟩

/-! ### The obligation -/

/-- Settles O54: each clause by the lemma that says what its step does. -/
theorem fabricSteps : Obligations.FabricSteps := by
  unfold Obligations.FabricSteps
  refine ⟨?grant, ?forward, ?escape, ?deliver, ?flit, ?nak, ?retrain⟩
  case grant => exact fun s die port lane h p det hlane halone hwants _ _ => crossbarGrant_outcome hlane halone hwants
  case forward => exact fun s plane tier sw h => switchForward_leaves
  case escape => exact fun s key port k c p => escapeMove_switch
  case deliver =>
    exact fun s die port p rest hout =>
      ⟨fun u hbrings => ⟨fun hfree => packetDeliver_accepts hout hfree hbrings,
        fun hord hseq hhold => packetDeliver_acceptsNext hout hord hseq hhold hbrings⟩,
      packetDeliver_missed hout, packetDeliver_early hout⟩
  case flit =>
    exact fun s x f hx hretrain hretired =>
      ⟨linkFlitReceive_accepts hx hretrain hretired, linkFlitReceive_rejects hx hretrain hretired⟩
  case nak => exact fun s x seq => linkNak_retrains
  case retrain => exact fun s x hretrain => ⟨linkRetrainEnd_resumes hretrain, linkRetrainEnd_retires hretrain⟩

end Sys2Proof.Machine
end
